-- ==== Sys2Proof/Word.lean ====
section
/-!
DEFINITION. The word types of the Snivik and their plainest operations: 64-bit instruction and memory words,
32-bit lane words, 57-bit addresses, and the extraction of a bit field.
-/

namespace Sys2Proof

/-- A 64-bit word: an instruction word, an extension literal, a uniform register, a memory word. -/
abbrev Word64 := BitVec 64

/-- A 32-bit lane word. -/
abbrev Word32 := BitVec 32

/-- One byte. -/
abbrev Byte := BitVec 8

/-- A 57-bit global virtual address, and the width of a program counter (R88, R191). -/
abbrev Addr := BitVec 57

/-- A poison tag (R158). -/
abbrev Tag := BitVec 12

/-- Bits [lo+len−1:lo] of a word, as the spec's field tables name them. -/
def bits (w : BitVec n) (lo len : Nat) : BitVec len := BitVec.extractLsb' lo len w

/-- Bit i of a word. -/
def bit (w : BitVec n) (i : Nat) : Bool := w.getLsbD i

/-- A value placed at bit position lo of a 64-bit word (for packing register layouts). -/
def at64 (lo : Nat) (x : BitVec n) : Word64 := BitVec.ofNat 64 (x.toNat * 2 ^ lo)

/-- A natural number placed at bit position lo of a 64-bit word, cut to len bits. -/
def put64 (lo len x : Nat) : Word64 := BitVec.ofNat 64 ((x % 2 ^ len) * 2 ^ lo)

/-- A Boolean as a number. -/
def b2n (b : Bool) : Nat := if b then 1 else 0

end Sys2Proof
end

