-- ==== Sys2Proof/Syntax.lean ====
section
/-!
DEFINITION. The syntax of the Snivik model: specifiers, the five instruction formats (R57 to R67), the
tile-stream format (R70), the payloads of the events that reach the device from outside, and `Instr`, one
constructor for each row of the opcode table, in the table's order. A row of the table is one whole step of the
part; event rows carry the unit and the payload they act on.
-/

namespace Sys2Proof

/-- The 8-bit specifier of R60. EXT (0xFF) is not here: in a source field it is `Src.ext`, and in DST it is a
reserved specifier. -/
inductive Spec
  | v (n : BitVec 7)
  | s (n : BitVec 6)
  | p (n : BitVec 3)
  | b (n : BitVec 4)
  | zero | lane | slice | grp | cx | cy | cz | stage | iter | wclk
  | reserved (code : BitVec 8)
  deriving DecidableEq, Repr, Inhabited

/-- A source field: a specifier with its wait bit (R59), or EXT with the extension literal that follows (R61). -/
inductive Src
  | reg (spec : Spec) (wait : Bool)
  | ext (lit : Word64) (wait : Bool)
  deriving DecidableEq, Repr, Inhabited

/-- The TYPE field of R63; all sixteen codes are assigned. -/
inductive Ty
  | i8 | i16 | i32 | i64 | n8 | n16 | n32 | n64 | f32 | bf16 | f16 | e4m3 | e5m2 | e2m1 | i4 | n4
  deriving DecidableEq, Repr, Inhabited

/-- The RND field of R63. -/
inductive Rnd
  | rne | rtz | rdn | rup | rsd | res5 | res6 | res7
  deriving DecidableEq, Repr, Inhabited

/-- The SIZE field of R65. -/
inductive Size
  | w8 | w16 | w32 | w64 | w128 | res5 | res6 | res7
  deriving DecidableEq, Repr, Inhabited

/-- The SCOPE field of R65. -/
inductive Scope
  | core | clu | die | dev | sys | surv | res6 | res7
  deriving DecidableEq, Repr, Inhabited

/-- The ORDER field of R65. -/
inductive Order
  | rlx | acq | rel | ar
  deriving DecidableEq, Repr, Inhabited

/-- The guard of R58: PN and PG. -/
structure Guard where
  neg : Bool
  pg : BitVec 3
  deriving DecidableEq, Repr, Inhabited

/-- PG = 7 with PN = 0: the unguarded instruction (R58). -/
def Guard.always : Guard := ⟨false, 7⟩

/-- Format F3 (R57, R63). -/
structure F3 where
  guard : Guard
  dst : Spec
  sa : Src
  sb : Src
  sc : Src
  ty : Ty
  rnd : Rnd
  sat : Bool
  negC : Bool
  negB : Bool
  negA : Bool
  ftz : Bool
  sub : BitVec 3
  deriving DecidableEq, Repr, Inhabited

/-- Format FI (R64): an 18-bit signed immediate in place of SB, WB, SC and WC. -/
structure FI where
  guard : Guard
  dst : Spec
  sa : Src
  imm : BitVec 18
  ty : Ty
  rnd : Rnd
  sat : Bool
  negC : Bool
  negB : Bool
  negA : Bool
  ftz : Bool
  sub : BitVec 3
  deriving DecidableEq, Repr, Inhabited

/-- Format FM (R65); `space` is SPACE, false for global and true for scratchpad. -/
structure FM where
  guard : Guard
  dst : Spec
  sa : Src
  sb : Src
  sc : Src
  size : Size
  scope : Scope
  order : Order
  space : Bool
  ioff : BitVec 6
  deriving DecidableEq, Repr, Inhabited

/-- Format FB (R66): a signed word offset and the instruction's own low 16 bits. -/
structure FB where
  guard : Guard
  dst : Spec
  offset : BitVec 26
  low : BitVec 16
  deriving DecidableEq, Repr, Inhabited

/-- Format FX (R67). -/
structure FX where
  guard : Guard
  dst : Spec
  sa : Src
  sb : Src
  sc : Src
  ord : Bool
  mcast : Bool
  hold : Bool
  notify : BitVec 2
  peer : Bool
  cmd : BitVec 9
  deriving DecidableEq, Repr, Inhabited

/-- Format FT (R70), the tile-stream word without its MOPC. -/
structure FT where
  tile : BitVec 6
  op1 : BitVec 5
  op2 : BitVec 5
  lin : BitVec 4
  fmt : BitVec 4
  blk : Bool
  bgrp : BitVec 2
  ops : BitVec 29
  deriving DecidableEq, Repr, Inhabited

/-- Why a fetched word is no instruction of the opcode map (R68, R74). -/
inductive Malformed
  /-- an OPC that R68 does not assign -/
  | unassignedOpc
  /-- MARKER 0b1111 inside a block -/
  | headerInBlock
  /-- literals that would lie past the block's end (R61) -/
  | literalsPastEnd
  deriving DecidableEq, Repr, Inhabited

/-- The registers of configuration space whose host write has no behaviour of its own (R21, R23, R391). -/
inductive HostReg
  | cqBase | cqSize | prqBase
  | msixAddr (vector : Nat) | msixData (vector : Nat) | msixMask (vector : Nat)
  | reserved (offset : Nat)
  deriving DecidableEq, Repr, Inhabited

/-- The 64-byte management request of R41, as eight words. -/
structure Request where
  w0 : Word64
  w1 : Word64
  w2 : Word64
  w3 : Word64
  w4 : Word64
  w5 : Word64
  w6 : Word64
  w7 : Word64
  deriving DecidableEq, Repr, Inhabited

/-- What LASTRST reports (R424). -/
inductive ResetCause
  | powerOn | hostReset | thermalTrip | watchdog
  deriving DecidableEq, Repr, Inhabited

/-- A firmware image in package flash: its bytes, among them its security version number, and with them the root public key
and the HSS signature over the bytes (R429). -/
structure Image where
  bytes : List Byte
  rootKey : List Byte
  signature : List Byte
  deriving DecidableEq, Repr, Inhabited

/-- Package power in watts and the hottest junction in °C, as they are or would be at a clock step (R425). -/
structure PowerPoint where
  power : BitVec 12
  junction : BitVec 8
  deriving DecidableEq, Repr, Inhabited

/-- A boot step that fails, with the code of its check (R428). -/
structure BootFailure where
  step : BitVec 8
  code : BitVec 8
  deriving DecidableEq, Repr, Inhabited

/-- A view of the abstract machine that holds copies (R326): a core's or a die's. -/
inductive View
  | core (c : Nat)
  | die (d : Nat)
  deriving DecidableEq, Repr, Inhabited

/-- Where an uncorrectable or corrected error strikes (R158, R398): a sector of memory by its physical address, of a cache
by its view and line, of a cohort's scratchpad or staging by offset, or of the weight store by its byte in the device; an
accumulator element; or a register word of a group. -/
inductive ErrSite
  | memory (pa : BitVec 48)
  | cache (v : View) (line : Nat)
  | weights (byte : Nat)
  | scratch (cohort : Nat) (off : Nat)
  | stage (cohort : Nat) (slot : Nat) (byte : Nat)
  | tile (cohort : Nat) (element : Nat)
  | vWord (group : Nat) (reg : Nat) (lane : Nat)
  | sWord (group : Nat) (reg : Nat) (high : Bool)
  deriving DecidableEq, Repr, Inhabited

/-- A token bucket of a partition (R52): at a memory-channel group or at a link port. -/
inductive BucketId
  | memory (channelGroup : Nat)
  | link (port : Nat)
  deriving DecidableEq, Repr, Inhabited

/-- One byte with the poison of its sector (R158). -/
structure PByte where
  val : Byte
  pois : Option Tag
  deriving DecidableEq, Repr, Inhabited

/-- What a peer chunk asks of the target's memory (R256): a plain write, an unordered reduction in a type
(0 F32, 1 BF16, 2 I32), an ordered one with its set and the bytes its member sends in all, or the answer to a read that
REBUILD made of a member (R377). -/
inductive ChunkKind
  | write
  | reduce (rty : Nat)
  | ordered (rty : Nat) (setId : Nat) (members : Nat) (rank : Nat) (total : Nat)
  | readReply (cluster : Nat) (slot : Nat) (member : Nat)
  deriving DecidableEq, Repr, Inhabited

/-- Link flits of one chunk that reach this device as the target (R255): `len` is the whole chunk's length and
`data` the bytes that arrive now, from offset `off` of the chunk, over link port `port`. -/
structure PeerChunk where
  id : Nat
  port : Nat
  part : Nat
  va : Addr
  len : Nat
  kind : ChunkKind
  off : Nat
  data : List PByte
  deriving DecidableEq, Repr, Inhabited

/-- A parity delta that reaches this device as its holder (R374): the virtual address of the 64-byte sector in
the instance, the delta bytes and the poison of the writer's new sector. -/
structure PeerDelta where
  part : Nat
  pgid : BitVec 16
  va : Addr
  delta : List Byte
  pois : Option Tag
  deriving DecidableEq, Repr, Inhabited

/-- A peer read of a stripe unit's bytes that reaches this device as a source member (R377). -/
structure PeerReadReq where
  port : Nat
  part : Nat
  va : Addr
  len : Nat
  deriving DecidableEq, Repr, Inhabited

/-- The steps of the part: one constructor for each row of the opcode table. -/
inductive Instr
  /-- CREATE_KERNEL_TASK (R29). -/
  | createKernelTask (part : Nat)
  /-- CREATE_JOIN_TASK (R29). -/
  | createJoinTask (part : Nat)
  /-- LPSTAT_CLEAR (R21). -/
  | lpstatClear (part : Nat) (v : Word64)
  /-- CQHEAD_WRITE (R35). -/
  | cqheadWrite (part : Nat) (v : Word64)
  /-- PRQHEAD_WRITE (R391). -/
  | prqheadWrite (part : Nat) (v : Word64)
  /-- REGISTER_WRITE (R21). -/
  | registerWrite (part : Nat) (reg : HostReg) (v : Word64)
  /-- PAGE_REQUEST_ANSWER (R205). -/
  | pageRequestAnswer (part : Nat) (w0 w1 : Word64)
  /-- CREATE_PARTITION (R42). -/
  | createPartition (req : Request)
  /-- RESIZE_PARTITION (R43). -/
  | resizePartition (req : Request)
  /-- DESTROY_PARTITION (R46). -/
  | destroyPartition (req : Request)
  /-- SET_BUCKETS (R46). -/
  | setBuckets (req : Request)
  /-- ATTEST (R431). -/
  | attest (req : Request)
  /-- PWRCAP_WRITE (R424). -/
  | pwrcapWrite (v : Word64)
  /-- CLOCK_STEP_CHANGE (R425): the step, what it gives, and what the next higher step would give. -/
  | clockStepChange (step : Nat) (here : PowerPoint) (above : PowerPoint)
  /-- THERM_HOT (R425). -/
  | thermHot (junction : BitVec 8)
  /-- THERM_NORMAL (R425). -/
  | thermNormal (junction : BitVec 8)
  /-- THERMAL_TRIP (R427). -/
  | thermalTrip (junction : BitVec 8)
  /-- SUPPLY_SAG (R402). -/
  | supplySag
  /-- RESET (R428). -/
  | reset (cause : ResetCause) (image : Image) (failure : Option BootFailure)
  /-- MEM_UE (R398). -/
  | memUe (site : ErrSite)
  /-- CORRECTED (R398). -/
  | corrected (site : ErrSite)
  /-- CTRL_UE (R399). -/
  | ctrlUe (cohort : Nat)
  /-- TASK_DECREMENT (R29). -/
  | taskDecrement (part : Nat)
  /-- DISPATCH (R33). -/
  | dispatch (part : Nat) (tid : Nat)
  /-- COHORT_PLACEMENT (R49). -/
  | cohortPlacement (part : Nat)
  /-- GROUP_ADMIT (R51). -/
  | groupAdmit (core : Nat) (quarter : Nat)
  /-- PREEMPTION_DISCARD (R394). -/
  | preemptionDiscard (core : Nat) (quarter : Nat)
  /-- GROUP_END (R410). -/
  | groupEnd (group : Nat)
  /-- COHORT_EXIT (R411). -/
  | cohortExit (cohort : Nat)
  /-- TASK_COMPLETE (R30). -/
  | taskComplete (part : Nat) (tid : Nat)
  /-- EARLY_RELEASE (R32). -/
  | earlyRelease (part : Nat) (tid : Nat)
  /-- COMPLETION_ENTRY (R35). -/
  | completionEntry (part : Nat)
  /-- COHORT_KILL (R399). -/
  | cohortKill (cohort : Nat)
  /-- HEADER_FETCH (R89). -/
  | headerFetch (group : Nat) (slice : Nat)
  /-- TURN (R406). -/
  | turn (group : Nat)
  /-- DRAIN (R329). -/
  | drain (group : Nat)
  /-- LIFT (R329). -/
  | lift (packet : Nat)
  /-- HOME (R329). -/
  | home (packet : Nat)
  /-- REFRESH (R329). -/
  | refresh (view : View) (line : Nat)
  /-- DROP (R329). -/
  | drop (view : View) (line : Nat)
  /-- FILL_COMPLETE (R143). -/
  | fillComplete (group : Nat) (fill : Nat)
  /-- BUCKET_PIECE_LEAVE (R52). -/
  | bucketPieceLeave (part : Nat) (bucket : BucketId)
  /-- ACTIVATE (R241). -/
  | activate (cluster : Nat) (slot : Nat)
  /-- MOVE (R264). -/
  | move (cluster : Nat) (slot : Nat) (bytes : Nat)
  /-- EARRIVE (R247). -/
  | earrive (cluster : Nat) (slot : Nat) (chunk : Nat)
  /-- EEND (R241). -/
  | eend (cluster : Nat) (slot : Nat)
  /-- PEER_CHUNK_RECEIVE (R255). -/
  | peerChunkReceive (chunk : PeerChunk)
  /-- PEER_NACK_RECEIVE (R258). -/
  | peerNackReceive (cluster : Nat) (slot : Nat) (chunk : Nat)
  /-- ACK_TIMEOUT (R258). -/
  | ackTimeout (cluster : Nat) (slot : Nat)
  /-- TARGET_CHUNK_TIMEOUT (R258). -/
  | targetChunkTimeout (chunk : Nat)
  /-- REDUCE_APPLY (R256). -/
  | reduceApply (chunk : Nat)
  /-- PARITY_DELTA_APPLY (R374). -/
  | parityDeltaApply (delta : PeerDelta)
  /-- PARITY_ACK (R339). -/
  | parityAck (delta : Nat)
  /-- PARITY_DROP (R339). -/
  | parityDrop (delta : Nat)
  /-- LANDING_PERMIT_GRANT (R244). -/
  | landingPermitGrant (cohort : Nat)
  /-- TILE_PUSH (R244). -/
  | tilePush (cohort : Nat)
  /-- MULTICAST_DELIVERY (R287). -/
  | multicastDelivery (cohort : Nat)
  /-- OPERAND_FETCH (R280). -/
  | operandFetch (cohort : Nat)
  /-- LMM_SERVE (R293). -/
  | lmmServe (core : Nat)
  /-- ENGINE_HANDOVER (R291). -/
  | engineHandover (core : Nat)
  /-- STREAM_OVERTAKE (R292). -/
  | streamOvertake (core : Nat)
  /-- REPLAY (R297). -/
  | replay (core : Nat) (lineage : Nat)
  /-- RECLAIM (R365). -/
  | reclaim (part : Nat) (tier : Nat)
  /-- NOP (R123). -/
  | nop (w : F3)
  /-- BRA (R118). -/
  | bra (w : FB)
  /-- BRP (R119). -/
  | brp (w : FB)
  /-- BRU (R120). -/
  | bru (w : FB)
  /-- BRX (R121). -/
  | brx (w : F3)
  /-- CALL (R121). -/
  | call (w : FB)
  /-- RET (R121). -/
  | ret (w : F3)
  /-- EXIT (R122). -/
  | exit (w : F3)
  /-- YIELD (R123). -/
  | yield (w : F3)
  /-- REGANG (R125). -/
  | regang (w : F3)
  /-- VOTE (R126). -/
  | vote (w : F3)
  /-- PLOP (R127). -/
  | plop (w : F3)
  /-- MASKRD (R128). -/
  | maskrd (w : F3)
  /-- BAR (R130). -/
  | bar (w : F3)
  /-- LOOPB (R131). -/
  | loopb (w : F3)
  /-- REFILL (R133). -/
  | refill (w : F3)
  /-- BKPT (R124). -/
  | bkpt (w : F3)
  /-- COMMIT (R404). -/
  | commit (w : F3)
  /-- IADD (R169). -/
  | iadd (w : F3)
  /-- IADD_I (R169). -/
  | iaddI (w : FI)
  /-- ISUB (R169). -/
  | isub (w : F3)
  /-- ISUB_I (R169). -/
  | isubI (w : FI)
  /-- IMUL (R169). -/
  | imul (w : F3)
  /-- IMUL_I (R169). -/
  | imulI (w : FI)
  /-- IMAD (R169). -/
  | imad (w : F3)
  /-- IMULH (R169). -/
  | imulh (w : F3)
  /-- IMULH_I (R169). -/
  | imulhI (w : FI)
  /-- IMNX (R169). -/
  | imnx (w : F3)
  /-- IMNX_I (R169). -/
  | imnxI (w : FI)
  /-- IABS (R169). -/
  | iabs (w : F3)
  /-- ICMP (R170). -/
  | icmp (w : F3)
  /-- ICMP_I (R170). -/
  | icmpI (w : FI)
  /-- SEL (R171). -/
  | sel (w : F3)
  /-- MOV (R176). -/
  | mov (w : F3)
  /-- MOVI (R176). -/
  | movi (w : FI)
  /-- LEA (R177). -/
  | lea (w : F3)
  /-- LEA_I (R177). -/
  | leaI (w : FI)
  /-- IDOT4 (R179). -/
  | idot4 (w : F3)
  /-- IDOT8 (R179). -/
  | idot8 (w : F3)
  /-- LOP (R172). -/
  | lop (w : F3)
  /-- LOP_I (R172). -/
  | lopI (w : FI)
  /-- SHF (R173). -/
  | shf (w : F3)
  /-- SHF_I (R173). -/
  | shfI (w : FI)
  /-- BFX (R174). -/
  | bfx (w : F3)
  /-- BFI (R174). -/
  | bfi (w : F3)
  /-- POPC (R175). -/
  | popc (w : F3)
  /-- CLZ (R175). -/
  | clz (w : F3)
  /-- BREV (R175). -/
  | brev (w : F3)
  /-- LXCH (R178). -/
  | lxch (w : F3)
  /-- FADD (R180). -/
  | fadd (w : F3)
  /-- FADD_I (R180). -/
  | faddI (w : FI)
  /-- FMUL (R180). -/
  | fmul (w : F3)
  /-- FMUL_I (R180). -/
  | fmulI (w : FI)
  /-- FFMA (R180). -/
  | ffma (w : F3)
  /-- FMNX (R181). -/
  | fmnx (w : F3)
  /-- FMNX_I (R181). -/
  | fmnxI (w : FI)
  /-- FCMP (R182). -/
  | fcmp (w : F3)
  /-- FCMP_I (R182). -/
  | fcmpI (w : FI)
  /-- FSFU (R183). -/
  | fsfu (w : F3)
  /-- FCLASS (R185). -/
  | fclass (w : F3)
  /-- HFMA2 (R186). -/
  | hfma2 (w : F3)
  /-- HADD2 (R186). -/
  | hadd2 (w : F3)
  /-- HMUL2 (R186). -/
  | hmul2 (w : F3)
  /-- CVT (R187). -/
  | cvt (w : F3)
  /-- QCVT (R188). -/
  | qcvt (w : F3)
  /-- LD (R223). -/
  | ld (w : FM)
  /-- ST (R223). -/
  | st (w : FM)
  /-- LDS (R224). -/
  | lds (w : FM)
  /-- STS (R224). -/
  | sts (w : FM)
  /-- LDK (R225). -/
  | ldk (w : FM)
  /-- WLD (R227). -/
  | wld (w : FM)
  /-- WSTAT (R228). -/
  | wstat (w : F3)
  /-- TRB (R229). -/
  | trb (w : F3)
  /-- PREF (R230). -/
  | pref (w : FM)
  /-- ATOM (R232). -/
  | atom (w : FM)
  /-- CAS (R233). -/
  | cas (w : FM)
  /-- LR (R234). -/
  | lr (w : FM)
  /-- SC (R235). -/
  | sc (w : FM)
  /-- FENCE (R236). -/
  | fence (w : FM)
  /-- XFENCE (R237). -/
  | xfence (w : F3)
  /-- CPY (R264). -/
  | cpy (w : FX)
  /-- CPYG (R264). -/
  | cpyg (w : FX)
  /-- CPYS (R264). -/
  | cpys (w : FX)
  /-- CPYR (R265). -/
  | cpyr (w : FX)
  /-- CPYH (R266). -/
  | cpyh (w : FX)
  /-- CREL (R268). -/
  | crel (w : FX)
  /-- BIN (R271). -/
  | bin (w : F3)
  /-- BPATCH (R269). -/
  | bpatch (w : FX)
  /-- AWSET (R272). -/
  | awset (w : F3)
  /-- AWADD (R272). -/
  | awadd (w : F3)
  /-- AWWAIT (R273). -/
  | awwait (w : F3)
  /-- AWGEN (R273). -/
  | awgen (w : F3)
  /-- LMM (R321). -/
  | lmm (w : F3)
  /-- MRD (R322). -/
  | mrd (w : F3)
  /-- MWR (R322). -/
  | mwr (w : F3)
  /-- CAPO (R323). -/
  | capo (w : F3)
  /-- SPAWN (R349). -/
  | spawn (w : F3)
  /-- ARM (R351). -/
  | arm (w : F3)
  /-- TDEC (R350). -/
  | tdec (w : F3)
  /-- TRIG (R352). -/
  | trig (w : F3)
  /-- PARK (R355). -/
  | park (w : F3)
  /-- ACQUIRE (R135). -/
  | acquire (w : F3)
  /-- SHED (R136). -/
  | shed (w : F3)
  /-- HALLOC (R368). -/
  | halloc (w : F3)
  /-- HFREE (R371). -/
  | hfree (w : F3)
  /-- HWEAK (R370). -/
  | hweak (w : F3)
  /-- HUPG (R369). -/
  | hupg (w : F3)
  /-- HREL (R371). -/
  | hrel (w : F3)
  /-- HPRI (R371). -/
  | hpri (w : F3)
  /-- LDW (R372). -/
  | ldw (w : FM)
  /-- REBUILD (R377). -/
  | rebuild (w : FX)
  /-- TRAP (R387). -/
  | trap (w : F3)
  /-- RFT (R388). -/
  | rft (w : F3)
  /-- CHKERR (R397). -/
  | chkerr (w : F3)
  /-- CRD (R386). -/
  | crd (w : FI)
  /-- CWR (R386). -/
  | cwr (w : FI)
  /-- PMAP (R389). -/
  | pmap (w : F3)
  /-- PREQ (R390). -/
  | preq (w : F3)
  /-- MDESC (R304). -/
  | mdesc (w : FT)
  /-- MLD (R305). -/
  | mld (w : FT)
  /-- MMUL (R310). -/
  | mmul (w : FT)
  /-- MSCA (R310). -/
  | msca (w : FT)
  /-- MZERO (R311). -/
  | mzero (w : FT)
  /-- MADD (R311). -/
  | madd (w : FT)
  /-- MSCL (R311). -/
  | mscl (w : FT)
  /-- MCVT (R312). -/
  | mcvt (w : FT)
  /-- MPUB (R313). -/
  | mpub (w : FT)
  /-- MSETTLE (R313). -/
  | msettle (w : FT)
  /-- MST (R316). -/
  | mst (w : FT)
  /-- MBAR (R317). -/
  | mbar (w : FT)
  /-- MLOOP (R318). -/
  | mloop (w : FT)
  /-- MPRI (R319). -/
  | mpri (w : FT)
  /-- MEND (R319). -/
  | mend (w : FT)
  /-- LFLIT_WRITE (R22). -/
  | lflitWrite (part : Nat) (w0 w1 w2 w3 : Word64)
  /-- MALFORMED_WORD (R74). -/
  | malformedWord (why : Malformed)
  /-- MALFORMED_FT_WORD (R73). -/
  | malformedFtWord (w : Word64)
  /-- PEER_READ (R377). -/
  | peerRead (req : PeerReadReq)  deriving DecidableEq, Repr

end Sys2Proof
end

