-- ==== Sys2Proof/WellFormed.lean ====
section
/-!
DEFINITION. Static legality of the instruction words (R63, R74, R166, R215, R261, R302, R320, R347, R367, R386):
everything that a word's own fields decide. A group word that is not well formed traps as ILLEGAL_OP when it
issues; a tile-stream word that is not well formed stops the sequencer. What depends on the machine's state (the
allotment, the loop, the mode) is checked by the meanings.
-/

namespace Sys2Proof

/-! ### Classes of specifiers (R60) -/

namespace Spec

def isV : Spec → Bool | .v _ => true | _ => false
def isS : Spec → Bool | .s _ => true | _ => false
def isP : Spec → Bool | .p _ => true | _ => false
def isB : Spec → Bool | .b _ => true | _ => false
def isZero : Spec → Bool | .zero => true | _ => false

/-- The readable specials of R142 other than ZERO. -/
def isSpecial : Spec → Bool
  | .lane | .slice | .grp | .cx | .cy | .cz | .stage | .iter | .wclk => true
  | _ => false

/-- The special specifiers that differ from lane to lane (R142). -/
def isLaneSpecial : Spec → Bool
  | .lane | .slice | .iter => true
  | _ => false

/-- A v register whose number is a multiple of k, or no v register at all (R62, R216). -/
def vAligned (k : Nat) : Spec → Bool
  | .v n => n.toNat % k == 0
  | _ => true

/-- An s register whose number is a multiple of k. -/
def sAligned (k : Nat) : Spec → Bool
  | .s n => n.toNat % k == 0
  | _ => false

/-- The code of R60 is one a `reserved` specifier may hold: 0xD8–0xDF, 0xEA–0xFE or 0xFF. -/
def canonical : Spec → Bool
  | .reserved c => (0xD8 ≤ c.toNat && c.toNat ≤ 0xDF) || 0xEA ≤ c.toNat
  | _ => true

end Spec

namespace Src

/-- An unused source field: ZERO with its wait bit 0 (R59). -/
def unused : Src → Bool
  | .reg .zero false => true
  | _ => false

/-- The wait bit is legal: 0 unless the field holds a v or s specifier (R59). -/
def waitOk : Src → Bool
  | .reg (.v _) _ | .reg (.s _) _ => true
  | .reg _ w => !w
  | .ext _ w => !w

def isExt : Src → Bool | .ext _ _ => true | _ => false
def isV : Src → Bool | .reg (.v _) _ => true | _ => false
def isS : Src → Bool | .reg (.s _) _ => true | _ => false
def isP : Src → Bool | .reg (.p _) false => true | _ => false
def isB : Src → Bool | .reg (.b _) false => true | _ => false
def isZero : Src → Bool | .reg .zero false => true | _ => false

/-- s or EXT. -/
def sOrExt (x : Src) : Bool := x.waitOk && (x.isS || x.isExt)
/-- s, EXT or ZERO. -/
def sExtZero (x : Src) : Bool := x.waitOk && (x.isS || x.isExt || x.isZero)
/-- s or ZERO. -/
def sOrZero (x : Src) : Bool := x.waitOk && (x.isS || x.isZero)
/-- v, s or EXT: the data of a store (R215). -/
def vsExt (x : Src) : Bool := x.waitOk && (x.isV || x.isS || x.isExt)
/-- v, s, ZERO or EXT: an offset (R215). -/
def vsExtZero (x : Src) : Bool := x.waitOk && (x.isV || x.isS || x.isExt || x.isZero)

/-- The source classes every lane instruction accepts (R162). -/
def general (x : Src) : Bool :=
  x.waitOk && (match x with
    | .reg sp _ => sp.isV || sp.isS || sp.isSpecial || sp.isZero || sp.isB
    | .ext _ _ => true)

/-- The classes of LEA's a (R177): an s register, a b register, a pair or a literal. -/
def leaBase (x : Src) : Bool := x.waitOk && (x.isS || x.isB || x.isV || x.isExt)

/-- The source gives one value to all lanes: what an s destination asks of it. R141 names b neither among the sources that
an s destination may have nor among those that trap: DESIGN CHOICE, a b source may (log 107). -/
def uniform : Src → Bool
  | .reg sp _ => !(sp.isV || sp.isP || sp.isLaneSpecial)
  | .ext _ _ => true

/-- A v specifier of this field is a multiple of k (R62, R216). -/
def vAligned (k : Nat) : Src → Bool
  | .reg sp _ => sp.vAligned k
  | .ext _ _ => true

/-- The field's R60 code is canonical. -/
def canonical : Src → Bool
  | .reg (.reserved c) _ => Spec.canonical (.reserved c) && c.toNat != 0xFF
  | _ => true

/-- One literal word follows for each EXT (R61). -/
def words : Src → Nat | .ext _ _ => 1 | _ => 0

/-- The R60 code of the field, which CVT reads as a TYPE code (R187). -/
def typeCode : Src → Option Nat
  | .reg (.v n) false => if n.toNat < 16 then some n.toNat else none
  | _ => none

end Src

/-! ### Modifiers -/

namespace Ty

/-- Operand width in bits (R63, R165). -/
def width : Ty → Nat
  | .i8 | .n8 | .e4m3 | .e5m2 => 8
  | .i16 | .n16 | .bf16 | .f16 => 16
  | .i32 | .n32 | .f32 => 32
  | .i64 | .n64 => 64
  | .e2m1 | .i4 | .n4 => 4

/-- The I types (R165). -/
def signed : Ty → Bool
  | .i4 | .i8 | .i16 | .i32 | .i64 => true
  | _ => false

/-- I8 to I64 and N8 to N64 (R166). -/
def isInt : Ty → Bool
  | .i8 | .i16 | .i32 | .i64 | .n8 | .n16 | .n32 | .n64 => true
  | _ => false

def isFloat : Ty → Bool
  | .f32 | .bf16 | .f16 | .e4m3 | .e5m2 | .e2m1 => true
  | _ => false

/-- An operand of this TYPE is a pair or a 64-bit register (R162). -/
def wide (t : Ty) : Bool := t.width == 64

/-- The codes of R63. -/
def ofCode : Nat → Ty
  | 0 => .i8 | 1 => .i16 | 2 => .i32 | 3 => .i64 | 4 => .n8 | 5 => .n16 | 6 => .n32 | 7 => .n64
  | 8 => .f32 | 9 => .bf16 | 10 => .f16 | 11 => .e4m3 | 12 => .e5m2 | 13 => .e2m1 | 14 => .i4 | _ => .n4

def code : Ty → Nat
  | .i8 => 0 | .i16 => 1 | .i32 => 2 | .i64 => 3 | .n8 => 4 | .n16 => 5 | .n32 => 6 | .n64 => 7
  | .f32 => 8 | .bf16 => 9 | .f16 => 10 | .e4m3 => 11 | .e5m2 => 12 | .e2m1 => 13 | .i4 => 14 | .n4 => 15

end Ty

/-- RND 0 to 4 (R63). -/
def Rnd.assigned : Rnd → Bool
  | .rne | .rtz | .rdn | .rup | .rsd => true
  | _ => false

/-- The access size in bytes; 0 for the reserved codes. -/
def Size.bytes : Size → Nat
  | .w8 => 1 | .w16 => 2 | .w32 => 4 | .w64 => 8 | .w128 => 16
  | _ => 0

/-- CORE to SYS (R65). -/
def Scope.plain : Scope → Bool
  | .core | .clu | .die | .dev | .sys => true
  | _ => false

/-- The modifier bits an F3 or FI instruction accepts (R166). -/
structure Mods where
  rnd : Bool := false
  sat : Bool := false
  negA : Bool := false
  negB : Bool := false
  negC : Bool := false
  ftz : Bool := false
  maxSub : Nat := 0

namespace F3

/-- No modifier beyond those accepted (R63). -/
def modsOk (w : F3) (m : Mods) : Bool :=
  (if m.rnd then w.rnd.assigned else w.rnd == .rne) && (m.sat || !w.sat) && (m.negA || !w.negA) &&
  (m.negB || !w.negB) && (m.negC || !w.negC) && (m.ftz || !w.ftz) && w.sub.toNat ≤ m.maxSub

/-- TYPE 0 and no modifier but SUB up to k: the MOD field of an instruction outside the lane families. -/
def plainMod (w : F3) (k : Nat) : Bool := w.ty == .i8 && w.modsOk { maxSub := k }

/-- The number of words, with the extension literals (R61). -/
def words (w : F3) : Nat := 1 + w.sa.words + w.sb.words + w.sc.words

/-- SA, SB and SC unused. -/
def noSources (w : F3) : Bool := w.sa.unused && w.sb.unused && w.sc.unused

/-- The v or s destination of a lane instruction; an s destination asks uniform sources (R141, R162). -/
def laneDst (w : F3) : Bool :=
  w.dst.isV || (w.dst.isS && w.sa.uniform && w.sb.uniform && w.sc.uniform)

/-- Every v specifier of a 64-bit operand is even (R62). -/
def pairs (w : F3) : Bool :=
  w.dst.vAligned 2 && w.sa.vAligned 2 && w.sb.vAligned 2 && w.sc.vAligned 2

end F3

namespace FI

def modsOk (w : FI) (m : Mods) : Bool :=
  (if m.rnd then w.rnd.assigned else w.rnd == .rne) && (m.sat || !w.sat) && (m.negA || !w.negA) &&
  (m.negB || !w.negB) && (m.negC || !w.negC) && (m.ftz || !w.ftz) && w.sub.toNat ≤ m.maxSub

def plainMod (w : FI) (k : Nat) : Bool := w.ty == .i8 && w.modsOk { maxSub := k }

def words (w : FI) : Nat := 1 + w.sa.words

def laneDst (w : FI) : Bool := w.dst.isV || (w.dst.isS && w.sa.uniform)

def pairs (w : FI) : Bool := w.dst.vAligned 2 && w.sa.vAligned 2

/-- An FI lane instruction with the F3 form's TYPEs and modifiers (R69). -/
def lane (w : FI) (tys : Ty → Bool) (m : Mods) : Bool :=
  w.laneDst && w.sa.general && tys w.ty && w.modsOk m && (!w.ty.wide || w.pairs)

end FI

namespace F3

/-- A lane instruction of one source. -/
def lane1 (w : F3) (tys : Ty → Bool) (m : Mods) : Bool :=
  w.laneDst && w.sa.general && w.sb.unused && w.sc.unused && tys w.ty && w.modsOk m && (!w.ty.wide || w.pairs)

/-- A lane instruction of two sources. -/
def lane2 (w : F3) (tys : Ty → Bool) (m : Mods) : Bool :=
  w.laneDst && w.sa.general && w.sb.general && w.sc.unused && tys w.ty && w.modsOk m && (!w.ty.wide || w.pairs)

/-- A lane instruction of three sources. -/
def lane3 (w : F3) (tys : Ty → Bool) (m : Mods) : Bool :=
  w.laneDst && w.sa.general && w.sb.general && w.sc.general && tys w.ty && w.modsOk m && (!w.ty.wide || w.pairs)

end F3

def Ty.n32n64 (t : Ty) : Bool := t == .n32 || t == .n64
def Ty.int3264 (t : Ty) : Bool := t == .i32 || t == .n32 || t == .i64 || t == .n64
def Ty.half (t : Ty) : Bool := t == .bf16 || t == .f16

/-! ### Legality of each family -/

namespace F3

def legalIntSat (w : F3) : Bool := w.lane2 Ty.isInt { sat := true }
def legalImad (w : F3) : Bool := w.lane3 Ty.isInt { sat := true }
def legalImulh (w : F3) : Bool := w.lane2 Ty.isInt {}
def legalImnx (w : F3) : Bool := w.lane2 Ty.isInt { maxSub := 1 }
def legalIabs (w : F3) : Bool := w.lane1 (fun t => t.isInt && t.signed) { sat := true }

/-- A comparison into a p register (R170, R182). -/
def cmp (w : F3) (tys : Ty → Bool) (m : Mods) : Bool :=
  w.dst.isP && w.sa.general && w.sb.general && w.sc.unused && tys w.ty && w.modsOk m && (!w.ty.wide || w.pairs)
def legalIcmp (w : F3) : Bool := w.cmp Ty.isInt { maxSub := 5 }
def legalSel (w : F3) : Bool :=
  w.laneDst && w.sa.general && w.sb.general && w.sc.isP && w.ty.n32n64 && w.modsOk { negC := true } &&
  (!w.ty.wide || w.pairs)
/-- MOV also takes a p source and a p destination (R176). -/
def legalMov (w : F3) : Bool :=
  (w.dst.isP || w.laneDst) && (w.sa.general || w.sa.isP) && w.sb.unused && w.sc.unused && w.ty.n32n64 &&
  w.modsOk {} && (!w.ty.wide || w.pairs)
/-- LEA's address operands are pairs whatever its TYPE (R177). -/
def legalLea (w : F3) : Bool :=
  w.laneDst && w.sa.leaBase && w.sb.general && w.sc.unused && w.ty.int3264 && w.modsOk { maxSub := 7 } &&
  w.dst.vAligned 2 && w.sa.vAligned 2 && (!w.ty.wide || w.sb.vAligned 2)
def legalIdot (w : F3) : Bool := w.lane3 (· == .i32) { sat := true, maxSub := 3 }
def legalLop (w : F3) : Bool := w.lane2 Ty.n32n64 { negA := true, negB := true, maxSub := 2 }
def legalShf (w : F3) : Bool := w.lane2 Ty.int3264 { maxSub := 3 }
def legalBfx (w : F3) : Bool := w.lane2 (fun t => t == .i32 || t == .n32) {}
def legalBfi (w : F3) : Bool := w.lane3 (· == .n32) {}
/-- POPC and CLZ write one 32-bit word even for N64 (R175). -/
def legalCount (w : F3) : Bool :=
  w.laneDst && w.sa.general && w.sb.unused && w.sc.unused && w.ty.n32n64 && w.modsOk {} &&
  (!w.ty.wide || w.sa.vAligned 2)
def legalBrev (w : F3) : Bool := w.lane1 Ty.n32n64 {}
/-- LXCH's lane operand stays one 32-bit word under N64 (R178). -/
def legalLxch (w : F3) : Bool :=
  w.laneDst && w.sa.general && w.sb.general && w.sc.unused && w.ty.n32n64 && w.modsOk { maxSub := 3 } &&
  (!w.ty.wide || (w.dst.vAligned 2 && w.sa.vAligned 2))

def f32Two : Mods := { rnd := true, sat := true, negA := true, negB := true, ftz := true }
def legalFadd (w : F3) : Bool := w.lane2 (· == .f32) f32Two
def legalFfma (w : F3) : Bool := w.lane3 (· == .f32) { f32Two with negC := true }
def legalFmnx (w : F3) : Bool := w.lane2 (· == .f32) { negA := true, negB := true, ftz := true, maxSub := 1 }
def legalFcmp (w : F3) : Bool := w.cmp (· == .f32) { negA := true, negB := true, ftz := true, maxSub := 7 }
def legalFsfu (w : F3) : Bool := w.lane1 (· == .f32) { negA := true, ftz := true, maxSub := 7 }
def legalFclass (w : F3) : Bool := w.lane1 (fun t => t == .f32 || t.half) {}
def legalHfma2 (w : F3) : Bool := w.lane3 Ty.half { f32Two with negC := true }
def legalHadd2 (w : F3) : Bool := w.lane2 Ty.half f32Two
/-- CVT: SB is a TYPE code and SUB an element index below 32 / width (R187). -/
def legalCvt (w : F3) : Bool :=
  (match w.sb.typeCode with
    | none => false
    | some c =>
      let from_ := Ty.ofCode c
      w.sub.toNat < max 1 (32 / from_.width) && (!from_.wide || w.sa.vAligned 2)) &&
  (w.dst.isV || (w.dst.isS && w.sa.uniform)) && w.sa.general && w.sc.unused &&
  w.modsOk { rnd := true, sat := true, ftz := true, maxSub := 7 } && (!w.ty.wide || w.dst.vAligned 2)
/-- QCVT: v registers only, and TYPE with SUB as one block format (R166, R188). -/
def legalQcvt (w : F3) : Bool :=
  w.dst.isV && w.dst.vAligned 2 && w.sa.isV && w.sb.unused && w.sc.unused && w.modsOk { rnd := true, maxSub := 1 } &&
  (match w.ty with
    | .e4m3 | .e5m2 | .e2m1 => w.sub == 0
    | .i8 | .i4 | .n8 | .n4 => w.sub == 1
    | _ => false)

/-! Control, loop and allotment instructions (R115 to R136). -/

def bare (w : F3) : Bool := w.dst.isZero && w.noSources && w.plainMod 0
def unguarded (w : F3) : Bool := w.guard == .always
/-- NOP, EXIT, RFT and TRIG: nothing but a guard. -/
def legalBare (w : F3) : Bool := w.bare
/-- YIELD, COMMIT, ACQUIRE and SHED accept no guard either (R115, R405). -/
def legalBareGroup (w : F3) : Bool := w.bare && w.unguarded
def legalBrx (w : F3) : Bool :=
  w.unguarded && w.dst.isZero && w.sa.isS && w.sb.unused && w.sc.unused && w.plainMod 0
def legalRegang (w : F3) : Bool :=
  w.unguarded && w.dst.isZero && w.sa.sOrExt && w.sb.unused && w.sc.unused && w.plainMod 0
def legalVote (w : F3) : Bool :=
  w.sa.isP && w.sb.unused && w.sc.unused && w.plainMod 4 && (w.dst.isS || (w.dst.isP && w.sub.toNat < 2))
def legalPlop (w : F3) : Bool :=
  w.dst.isP && w.sa.isP && w.sb.isP && w.sc.unused && w.ty == .i8 &&
  w.modsOk { negA := true, negB := true, maxSub := 2 }
def legalMaskrd (w : F3) : Bool := w.unguarded && w.dst.isS && w.noSources && w.plainMod 4
def legalBar (w : F3) : Bool :=
  w.unguarded && w.dst.isZero && w.sa.sOrExt && w.sb.sExtZero && w.sc.unused && w.plainMod 2
/-- LOOPB's SB is always a literal, whose bit 63 is zero (R131). -/
def legalLoopb (w : F3) : Bool :=
  w.unguarded && w.dst.isZero && w.sa.sOrExt && w.sc.unused && w.plainMod 0 &&
  (match w.sb with
    | .ext lit false => !bit lit 63
    | _ => false)
def legalRefill (w : F3) : Bool := w.dst.isZero && w.sa.isP && w.sb.unused && w.sc.unused && w.plainMod 0
def legalBkpt (w : F3) : Bool := w.dst.isZero && w.noSources && w.plainMod 7

/-! Memory instructions of format F3 (R228, R229, R237). -/

/-- A uniform data source: s, a uniform special, ZERO or EXT (R141). -/
def uniformSrc (x : Src) : Bool := x.waitOk && x.general && x.uniform && !x.isB
def legalWstat (w : F3) : Bool :=
  w.dst.isS && uniformSrc w.sa && uniformSrc w.sb && w.sc.unused && w.plainMod 3
def legalTrb (w : F3) : Bool := w.dst.isB && w.sa.sOrExt && w.sb.unused && w.sc.unused && w.plainMod 0
def legalXfence (w : F3) : Bool := w.dst.isZero && w.noSources && w.plainMod 2

/-! Binning and arrival words (R271 to R273). -/

def legalBin (w : F3) : Bool :=
  w.dst.isZero && w.sa.sExtZero && w.sb.vsExtZero && w.sc.vsExtZero && w.plainMod 0
def legalAwset (w : F3) : Bool := w.dst.isZero && w.sa.sOrExt && w.sb.sOrExt && w.sc.unused && w.plainMod 0
def legalAwwait (w : F3) : Bool := w.dst.isS && w.sa.sExtZero && w.sb.sExtZero && w.sc.unused && w.plainMod 0
def legalAwgen (w : F3) : Bool := w.dst.isS && w.sa.sExtZero && w.sb.unused && w.sc.unused && w.plainMod 0

/-! Group matrix instructions (R320). -/

def legalLmm (w : F3) : Bool :=
  w.unguarded && w.dst.isV && w.dst.vAligned 2 && w.sa.waitOk && w.sa.isV && w.sb.waitOk && w.sb.isV &&
  w.ty.half && w.modsOk { maxSub := 1 } &&
  (if w.sub == 0 then w.sc.isV && w.sc.vAligned 2 else w.sc.sOrExt)
/-- Bits of a TSEL that must be zero (R322), where the selector is a literal. -/
def legalMrd (w : F3) : Bool :=
  w.dst.isV && w.sa.sOrExt && w.sb.unused && w.sc.unused && (w.ty == .f32 || w.ty == .i32) && w.modsOk {}
def legalMwr (w : F3) : Bool :=
  w.dst.isZero && w.sa.sOrExt && w.sb.isV && w.sc.unused && (w.ty == .f32 || w.ty == .i32) && w.modsOk {}
def legalCapo (w : F3) : Bool :=
  w.dst.isZero && (w.sa.sExtZero || w.sa == .reg .grp false) && w.sb.unused && w.sc.unused && w.plainMod 0

/-! Task instructions (R347). -/

def legalSpawn (w : F3) : Bool := w.dst.isS && w.sa.sOrExt && w.sb.unused && w.sc.unused && w.plainMod 0
def legalArm (w : F3) : Bool := w.dst.isS && w.sa.sOrExt && w.sb.sOrExt && w.sc.unused && w.plainMod 0
def legalTdec (w : F3) : Bool := w.dst.isZero && w.sa.sOrExt && w.sb.unused && w.sc.unused && w.plainMod 0
def legalPark (w : F3) : Bool :=
  w.unguarded && w.dst.isS && w.sa.sExtZero && w.sb.sOrZero && w.sc.isS &&
  (match w.sc with | .reg sp _ => sp.sAligned 2 | _ => false) && w.plainMod 2

/-! Handle instructions (R367) and system instructions (R387 to R390, R397). -/

def legalHalloc (w : F3) : Bool :=
  w.dst.sAligned 2 && w.sa.sOrExt && w.sb.sExtZero && w.sc.unused && w.plainMod 1
def legalHandleStatus (w : F3) : Bool :=
  (w.dst.isS || w.dst.isZero) && w.sa.isS && w.sb.unused && w.sc.unused && w.plainMod 0
def legalHweak (w : F3) : Bool := w.dst.isS && w.sa.isS && w.sb.unused && w.sc.unused && w.plainMod 0
def legalHupg (w : F3) : Bool := w.dst.sAligned 2 && w.sa.isS && w.sb.unused && w.sc.unused && w.plainMod 0
def legalHpri (w : F3) : Bool := w.dst.isZero && w.sa.isS && w.sb.sOrExt && w.sc.unused && w.plainMod 0
def legalTrap (w : F3) : Bool := w.dst.isZero && w.sa.sOrExt && w.sb.unused && w.sc.unused && w.plainMod 0
def legalChkerr (w : F3) : Bool := w.dst.isS && w.noSources && w.plainMod 0
def legalPmap (w : F3) : Bool := w.dst.isS && w.sa.isS && w.sb.unused && w.sc.unused && w.plainMod 1
def legalPreq (w : F3) : Bool := w.dst.isS && w.sa.isS && w.sb.unused && w.sc.unused && w.plainMod 0

end F3

namespace FI

def legalIntSat (w : FI) : Bool := w.lane Ty.isInt { sat := true }
def legalImulh (w : FI) : Bool := w.lane Ty.isInt {}
def legalImnx (w : FI) : Bool := w.lane Ty.isInt { maxSub := 1 }
def cmp (w : FI) (tys : Ty → Bool) (m : Mods) : Bool :=
  w.dst.isP && w.sa.general && tys w.ty && w.modsOk m && (!w.ty.wide || w.pairs)
def legalIcmp (w : FI) : Bool := w.cmp Ty.isInt { maxSub := 5 }
def legalMovi (w : FI) : Bool :=
  w.laneDst && w.sa.unused && (w.ty == .i32 || w.ty == .i64 || w.ty == .f32) && w.modsOk {} &&
  (!w.ty.wide || w.dst.vAligned 2)
def legalLea (w : FI) : Bool :=
  w.laneDst && w.sa.leaBase && w.ty.int3264 && w.modsOk { maxSub := 7 } && w.pairs
def legalLop (w : FI) : Bool := w.lane Ty.n32n64 { negA := true, negB := true, maxSub := 2 }
def legalShf (w : FI) : Bool := w.lane Ty.int3264 { maxSub := 3 }
def legalFadd (w : FI) : Bool := w.lane (· == .f32) F3.f32Two
def legalFmnx (w : FI) : Bool := w.lane (· == .f32) { negA := true, negB := true, ftz := true, maxSub := 1 }
def legalFcmp (w : FI) : Bool := w.cmp (· == .f32) { negA := true, negB := true, ftz := true, maxSub := 7 }

/-- The control-register numbers of R385. -/
def controlRegister (n : Nat) : Bool :=
  n ≤ 0x006 || (0x010 ≤ n && n ≤ 0x014) || (0x018 ≤ n && n ≤ 0x01B) || (0x020 ≤ n && n ≤ 0x02B) ||
  (0x030 ≤ n && n ≤ 0x037)

/-- The numbers of R385 that CWR may write (some only from supervisor code). -/
def writableRegister (n : Nat) : Bool :=
  n ≤ 0x002 || n == 0x005 || (0x021 ≤ n && n ≤ 0x02B) || (0x030 ≤ n && n ≤ 0x036)

/-- The register number of CRD and CWR; bits [17:12] of the immediate are reserved (R386). -/
def regNumber (w : FI) : Nat := w.imm.toNat % 4096

def legalCrd (w : FI) : Bool :=
  w.dst.isS && w.sa.unused && w.imm.toNat < 4096 && controlRegister w.regNumber && w.plainMod 0
def legalCwr (w : FI) : Bool :=
  w.dst.isZero && w.sa.isS && w.imm.toNat < 4096 && writableRegister w.regNumber && w.plainMod 0

end FI

namespace FM

def words (w : FM) : Nat := 1 + w.sa.words + w.sb.words + w.sc.words

/-- The base of a global or scratchpad access (R65, R215). -/
def baseOk (w : FM) : Bool :=
  if w.space then w.sa.sOrZero else (w.sa.isB || (w.sa.waitOk && w.sa.isS))

def sizeOk (w : FM) : Bool := w.size.bytes != 0
def wordOrDouble (w : FM) : Bool := w.size == .w32 || w.size == .w64

/-- SCOPE: CORE to SYS, and CORE only with SPACE 1 (R215). -/
def scopeOk (w : FM) : Bool := w.scope.plain && (!w.space || w.scope == .core)

/-- The size's rule for a register operand (R216): a pair is even, a quad a multiple of 4 and never an s. W128 takes four v
registers, and a literal has 64 bits (R61): DESIGN CHOICE, store data of W128 that is a literal is illegal (log 106). -/
def dstSize (w : FM) (d : Spec) : Bool :=
  match w.size with
  | .w64 => d.vAligned 2
  | .w128 => d.vAligned 4 && !d.isS
  | _ => true
def srcSize (w : FM) (x : Src) : Bool :=
  match w.size with
  | .w64 => x.vAligned 2
  | .w128 => x.isV && x.vAligned 4
  | _ => true

def loadDst (w : FM) : Bool :=
  (w.dst.isV || (w.dst.isS && w.sa.uniform && w.sb.uniform)) && w.dstSize w.dst
def onlyCore (w : FM) : Bool := w.scope == .core && w.order == .rlx

def legalLd (w : FM) : Bool :=
  w.loadDst && w.baseOk && w.sb.vsExtZero && w.sc.unused && w.sizeOk && w.scopeOk &&
  (w.order == .rlx || w.order == .acq)
def legalSt (w : FM) : Bool :=
  w.dst.isZero && w.baseOk && w.sb.vsExtZero && w.sc.vsExt && w.srcSize w.sc && w.sizeOk && w.scopeOk &&
  (w.order == .rlx || w.order == .rel)
def legalLds (w : FM) : Bool :=
  w.dst.isV && w.dstSize w.dst && w.sa.sOrZero && w.sb.sExtZero && w.sc.unused && w.sizeOk && w.onlyCore && w.space
def legalSts (w : FM) : Bool :=
  w.dst.isZero && w.sa.sOrZero && w.sb.sExtZero && w.sc.vsExt && w.srcSize w.sc && w.sizeOk && w.onlyCore && w.space
def legalLdk (w : FM) : Bool :=
  w.dst.isZero && (w.sa.isB || (w.sa.waitOk && w.sa.isS)) && w.sb.vsExtZero && w.sc.waitOk && w.sc.isS &&
  (w.size == .w32 || w.size == .w64 || w.size == .w128) && w.onlyCore && !w.space
def legalWld (w : FM) : Bool :=
  w.loadDst && w.sa.sOrZero && w.sb.vsExtZero && w.sc.unused && w.sizeOk && w.onlyCore && !w.space
def legalPref (w : FM) : Bool :=
  w.dst.isZero && (w.sa.isB || (w.sa.waitOk && w.sa.isS)) && w.sb.vsExtZero && w.sc.unused && w.sizeOk &&
  (w.scope == .core || w.scope == .clu || w.scope == .die) && w.order == .rlx && !w.space
/-- The operation of R232: codes 0 to 11, with 9 to 11 on W32 only. -/
def legalAtom (w : FM) : Bool :=
  (w.dst.isV || w.dst.isZero) && w.dstSize w.dst && w.baseOk && w.sb.vsExtZero && w.sc.vsExt && w.srcSize w.sc &&
  w.wordOrDouble && w.scopeOk && (w.ioff.toNat ≤ 8 || (w.ioff.toNat ≤ 11 && w.size == .w32))
/-- SC names an even register for W32 and a multiple of 4 for W64 (R233). -/
def legalCas (w : FM) : Bool :=
  (w.dst.isV || w.dst.isZero) && w.dstSize w.dst && w.baseOk && w.sb.vsExtZero && w.sc.waitOk && w.sc.isV &&
  w.sc.vAligned (if w.size == .w32 then 2 else 4) && w.wordOrDouble && w.scopeOk && w.ioff.toNat ≤ 1
def legalLr (w : FM) : Bool :=
  w.dst.isV && w.dstSize w.dst && w.baseOk && w.sb.vsExtZero && w.sc.unused && w.wordOrDouble && w.scopeOk &&
  (w.order == .rlx || w.order == .acq)
/-- The status that SC writes is one word whatever its size (R235), where R216 gives W64 an even pair: DESIGN CHOICE, d may
be any v register (log 105). -/
def legalSc (w : FM) : Bool :=
  (w.dst.isV || w.dst.isZero) && w.baseOk && w.sb.vsExtZero && w.sc.vsExt && w.srcSize w.sc && w.wordOrDouble &&
  w.scopeOk && (w.order == .rlx || w.order == .rel)
def legalFence (w : FM) : Bool :=
  w.dst.isZero && w.sa.unused && w.sb.unused && w.sc.unused && w.size == .w8 && !w.space && w.ioff == 0 &&
  w.order != .rlx && (w.scope.plain || (w.scope == .surv && w.order != .acq))
/-- LDW's gone flag goes to p0–p6 (R367). -/
def legalLdw (w : FM) : Bool :=
  w.dst.isV && w.dstSize w.dst && w.sa.waitOk && w.sa.isS && w.sb.vsExtZero && w.sc.isP &&
  w.sc != .reg (.p 7) false && w.sizeOk && w.scope == .dev && (w.order == .rlx || w.order == .acq) && !w.space

end FM

namespace FB

def words (_ : FB) : Nat := 1

def legalBra (w : FB) : Bool := w.guard == .always && w.dst.isZero && w.low == 0
def legalBrp (w : FB) : Bool := w.dst.isZero && w.low == 0
/-- SU an s specifier, COND 0 to 5, [3:0] zero (R120). -/
def legalBru (w : FB) : Bool :=
  let su := (bits w.low 8 8).toNat
  w.guard == .always && w.dst.isZero && 0x80 ≤ su && su ≤ 0xBF && (bits w.low 4 3).toNat ≤ 5 && bits w.low 0 4 == 0
def legalCall (w : FB) : Bool := w.guard == .always && w.dst.isS && w.low == 0

end FB

namespace FX

def words (w : FX) : Nat := 1 + w.sa.words + w.sb.words + w.sc.words

/-- DST an s register or ZERO, SA, SB and SC s registers, SC a multiple of 4, NOTIFY 0 with ZERO (R259). -/
def fieldsOk (w : FX) : Bool :=
  (w.dst.isS || (w.dst.isZero && w.notify == 0)) && w.notify.toNat ≤ 2 && w.sa.isS && w.sb.isS &&
  (match w.sc with | .reg sp _ => sp.sAligned 4 | _ => false)

/-- The destination space DSP and the source space SSP (R261). -/
def dsp (w : FX) : Nat := (bits w.cmd 7 2).toNat
def ssp (w : FX) : Nat := (bits w.cmd 5 2).toNat
def rty (w : FX) : Nat := (bits w.cmd 3 2).toNat
def vec (w : FX) : Nat := (bits w.cmd 0 5).toNat

def legalCpy (w : FX) : Bool :=
  w.fieldsOk && w.dsp ≤ 2 && w.ssp ≤ 1 && w.vec == 0 && !w.ord && (!w.mcast || w.dsp == 1) && (!w.peer || w.dsp == 0)
def legalCpyg (w : FX) : Bool :=
  w.fieldsOk && w.dsp ≤ 1 && w.ssp ≤ 1 && w.vec == 0 && !w.ord && (!w.mcast || w.dsp == 1) && (!w.peer || w.dsp == 0)
def legalCpys (w : FX) : Bool :=
  w.fieldsOk && w.dsp ≤ 1 && w.ssp ≤ 1 && w.vec == 0 && !w.ord && !w.mcast && (!w.peer || w.dsp == 0)
def legalCpyr (w : FX) : Bool :=
  w.fieldsOk && w.dsp ≤ 1 && w.ssp ≤ 1 && w.rty ≤ 2 && bits w.cmd 0 3 == 0 && !w.mcast && (!w.peer || w.dsp == 0)
def legalCpyh (w : FX) : Bool :=
  w.fieldsOk && w.dsp == 0 && w.ssp == 0 && !w.ord && !w.mcast && !w.peer
/-- CREL and BPATCH: one s operand and nothing else (R268, R269). -/
def oneOperand (w : FX) : Bool :=
  w.dst.isZero && w.sa.isS && w.sb.unused && w.sc.unused && !w.ord && !w.mcast && !w.hold && w.notify == 0 && !w.peer
def legalCrel (w : FX) : Bool := w.oneOperand && w.cmd == 0
def legalBpatch (w : FX) : Bool := w.oneOperand && bits w.cmd 0 8 == 0
def legalRebuild (w : FX) : Bool := w.fieldsOk && w.cmd == 0 && !w.ord && !w.mcast && !w.hold && !w.peer

end FX

namespace FT

/-- FMT, BLK and BGRP as R71 allows them together. -/
def formatOk (fmt : BitVec 4) (blk : Bool) (bgrp : BitVec 2) : Bool :=
  fmt.toNat ≤ 0xA &&
  (if blk then (3 ≤ fmt.toNat && fmt.toNat ≤ 5 && bgrp == 0) || (6 ≤ fmt.toNat && fmt.toNat ≤ 9 && bgrp.toNat ≤ 2)
   else bgrp == 0)

def noFormat (w : FT) : Bool := w.fmt == 0 && !w.blk && w.bgrp == 0
def descriptor1 (w : FT) : Bool := w.op1.toNat ≤ 15
def descriptor2 (w : FT) : Bool := w.op2.toNat ≤ 15

/-- The SRC field of MLD (R305). -/
def mldSrc (w : FT) : Nat := (bits w.ops 27 2).toNat
/-- The DK field of MST (R316). -/
def mstKind (w : FT) : Nat := (bits w.ops 27 2).toNat
/-- The RND field of MCVT (R312) and of MST (R316). -/
def mcvtRnd (w : FT) : Nat := (bits w.ops 12 3).toNat
def mstRnd (w : FT) : Nat := (bits w.ops 22 3).toNat

def legalMdesc (w : FT) : Bool :=
  w.tile == 0 && w.descriptor1 && w.op2 == 0 && w.lin == 0 && w.noFormat && bits w.ops 21 8 == 0 && bits w.ops 0 5 == 0
def legalMld (w : FT) : Bool :=
  w.tile == 0 && w.lin == 0 && w.noFormat && (w.op2 == 0 || w.mldSrc == 1) &&
  (match w.mldSrc with
    | 0 => bits w.ops 15 3 == 0
    | 3 => !bit w.ops 15
    | 1 => w.descriptor2
    | _ => bits w.ops 21 6 == 0 && bits w.ops 0 18 == 0)
/-- MMUL and MSCA: a format a k-step takes, END with its lineage (R310). -/
def legalMmul (w : FT) : Bool :=
  formatOk w.fmt w.blk w.bgrp && w.fmt != 0 && w.fmt != 0xA && bits w.ops 0 28 == 0 && (w.lin == 0 || bit w.ops 28)
def legalMzero (w : FT) : Bool := w.op1 == 0 && w.op2 == 0 && w.lin == 0 && w.noFormat && w.ops == 0
def tileFormat (w : FT) : Bool := (w.fmt == 0 || w.fmt == 0xA) && !w.blk && w.bgrp == 0
def legalMadd (w : FT) : Bool := w.op1 == 0 && w.op2 == 0 && w.lin == 0 && w.tileFormat && bits w.ops 6 23 == 0
def legalMscl (w : FT) : Bool := w.op1 == 0 && w.op2 == 0 && w.lin == 0 && w.tileFormat && bits w.ops 6 5 == 0
/-- The depth d of a format (R275): 64, 32 or 16; 0 for F32 and I32, which have none. -/
def depthOf (fmt : Nat) : Nat :=
  if fmt = 1 ∨ fmt = 2 then 16 else if fmt = 5 ∨ fmt = 7 ∨ fmt = 9 then 64
  else if fmt = 3 ∨ fmt = 4 ∨ fmt = 6 ∨ fmt = 8 then 32 else 0
def legalMcvt (w : FT) : Bool :=
  w.op2 == 0 && w.lin == 0 && !w.blk && w.bgrp == 0 && 1 ≤ w.fmt.toNat && w.fmt.toNat ≤ 9 && w.mcvtRnd ≤ 4 &&
  bits w.ops 15 14 == 0 && bits w.ops 9 2 == 0 && bits w.ops 0 6 == 0 && (!bit w.ops 7 || depthOf w.fmt.toNat == 16)
def legalMpub (w : FT) : Bool := w.op1 == 0 && w.op2 == 0 && w.noFormat && w.ops == 0
def legalMsettle (w : FT) : Bool := w.tile == 0 && w.op1 == 0 && w.op2 == 0 && w.noFormat && w.ops == 0
def legalMst (w : FT) : Bool :=
  w.op1 == 0 && w.lin == 0 && formatOk w.fmt w.blk w.bgrp && w.bgrp == 0 && w.mstRnd ≤ 4 && bits w.ops 18 2 == 0 &&
  (match w.mstKind with
    | 0 => w.op2 == 0 && bits w.ops 25 2 == 0 && bits w.ops 8 3 == 0
    | 1 => w.descriptor2 && !bit w.ops 11
    | _ => false)
def noOperands (w : FT) : Bool := w.tile == 0 && w.op1 == 0 && w.op2 == 0 && w.lin == 0 && w.noFormat
def legalMbar (w : FT) : Bool :=
  w.noOperands && bits w.ops 4 4 == 0 && (bits w.ops 8 2).toNat ≤ 2 && bits w.ops 10 6 == 0 &&
  (bits w.ops 16 5).toNat ≤ 17 && bits w.ops 21 8 == 0
/-- CNT and BACK are at least 1 (R318). -/
def legalMloop (w : FT) : Bool := w.noOperands && bits w.ops 14 14 != 0 && bits w.ops 0 14 != 0
def legalMpri (w : FT) : Bool := w.noOperands && bits w.ops 3 26 == 0
def legalMend (w : FT) : Bool := w.noOperands && w.ops == 0

end FT

/-- Static legality of every step. Event rows have no encoding and are always well formed; the two malformed rows
stand for words that are no instruction. -/
def Instr.wellFormed : Instr → Bool
  | .createKernelTask _ => true
  | .createJoinTask _ => true
  | .lpstatClear _ _ => true
  | .cqheadWrite _ _ => true
  | .prqheadWrite _ _ => true
  | .registerWrite _ _ _ => true
  | .pageRequestAnswer _ _ _ => true
  | .createPartition _ => true
  | .resizePartition _ => true
  | .destroyPartition _ => true
  | .setBuckets _ => true
  | .attest _ => true
  | .pwrcapWrite _ => true
  | .clockStepChange _ _ _ => true
  | .thermHot _ => true
  | .thermNormal _ => true
  | .thermalTrip _ => true
  | .supplySag => true
  | .reset _ _ _ => true
  | .memUe _ => true
  | .corrected _ => true
  | .ctrlUe _ => true
  | .taskDecrement _ => true
  | .dispatch _ _ => true
  | .cohortPlacement _ => true
  | .groupAdmit _ _ => true
  | .preemptionDiscard _ _ => true
  | .groupEnd _ => true
  | .cohortExit _ => true
  | .taskComplete _ _ => true
  | .earlyRelease _ _ => true
  | .completionEntry _ => true
  | .cohortKill _ => true
  | .headerFetch _ _ => true
  | .turn _ => true
  | .drain _ => true
  | .lift _ => true
  | .home _ => true
  | .refresh _ _ => true
  | .drop _ _ => true
  | .fillComplete _ _ => true
  | .bucketPieceLeave _ _ => true
  | .activate _ _ => true
  | .move _ _ _ => true
  | .earrive _ _ _ => true
  | .eend _ _ => true
  | .peerChunkReceive _ => true
  | .peerNackReceive _ _ _ => true
  | .ackTimeout _ _ => true
  | .targetChunkTimeout _ => true
  | .reduceApply _ => true
  | .parityDeltaApply _ => true
  | .parityAck _ => true
  | .parityDrop _ => true
  | .landingPermitGrant _ => true
  | .tilePush _ => true
  | .multicastDelivery _ => true
  | .operandFetch _ => true
  | .lmmServe _ => true
  | .engineHandover _ => true
  | .streamOvertake _ => true
  | .replay _ _ => true
  | .reclaim _ _ => true
  | .nop w => w.legalBare
  | .bra w => w.legalBra
  | .brp w => w.legalBrp
  | .bru w => w.legalBru
  | .brx w => w.legalBrx
  | .call w => w.legalCall
  | .ret w => w.legalBrx
  | .exit w => w.legalBare
  | .yield w => w.legalBareGroup
  | .regang w => w.legalRegang
  | .vote w => w.legalVote
  | .plop w => w.legalPlop
  | .maskrd w => w.legalMaskrd
  | .bar w => w.legalBar
  | .loopb w => w.legalLoopb
  | .refill w => w.legalRefill
  | .bkpt w => w.legalBkpt
  | .commit w => w.legalBareGroup
  | .iadd w => w.legalIntSat
  | .iaddI w => w.legalIntSat
  | .isub w => w.legalIntSat
  | .isubI w => w.legalIntSat
  | .imul w => w.legalIntSat
  | .imulI w => w.legalIntSat
  | .imad w => w.legalImad
  | .imulh w => w.legalImulh
  | .imulhI w => w.legalImulh
  | .imnx w => w.legalImnx
  | .imnxI w => w.legalImnx
  | .iabs w => w.legalIabs
  | .icmp w => w.legalIcmp
  | .icmpI w => w.legalIcmp
  | .sel w => w.legalSel
  | .mov w => w.legalMov
  | .movi w => w.legalMovi
  | .lea w => w.legalLea
  | .leaI w => w.legalLea
  | .idot4 w => w.legalIdot
  | .idot8 w => w.legalIdot
  | .lop w => w.legalLop
  | .lopI w => w.legalLop
  | .shf w => w.legalShf
  | .shfI w => w.legalShf
  | .bfx w => w.legalBfx
  | .bfi w => w.legalBfi
  | .popc w => w.legalCount
  | .clz w => w.legalCount
  | .brev w => w.legalBrev
  | .lxch w => w.legalLxch
  | .fadd w => w.legalFadd
  | .faddI w => w.legalFadd
  | .fmul w => w.legalFadd
  | .fmulI w => w.legalFadd
  | .ffma w => w.legalFfma
  | .fmnx w => w.legalFmnx
  | .fmnxI w => w.legalFmnx
  | .fcmp w => w.legalFcmp
  | .fcmpI w => w.legalFcmp
  | .fsfu w => w.legalFsfu
  | .fclass w => w.legalFclass
  | .hfma2 w => w.legalHfma2
  | .hadd2 w => w.legalHadd2
  | .hmul2 w => w.legalHadd2
  | .cvt w => w.legalCvt
  | .qcvt w => w.legalQcvt
  | .ld w => w.legalLd
  | .st w => w.legalSt
  | .lds w => w.legalLds
  | .sts w => w.legalSts
  | .ldk w => w.legalLdk
  | .wld w => w.legalWld
  | .wstat w => w.legalWstat
  | .trb w => w.legalTrb
  | .pref w => w.legalPref
  | .atom w => w.legalAtom
  | .cas w => w.legalCas
  | .lr w => w.legalLr
  | .sc w => w.legalSc
  | .fence w => w.legalFence
  | .xfence w => w.legalXfence
  | .cpy w => w.legalCpy
  | .cpyg w => w.legalCpyg
  | .cpys w => w.legalCpys
  | .cpyr w => w.legalCpyr
  | .cpyh w => w.legalCpyh
  | .crel w => w.legalCrel
  | .bin w => w.legalBin
  | .bpatch w => w.legalBpatch
  | .awset w => w.legalAwset
  | .awadd w => w.legalAwset
  | .awwait w => w.legalAwwait
  | .awgen w => w.legalAwgen
  | .lmm w => w.legalLmm
  | .mrd w => w.legalMrd
  | .mwr w => w.legalMwr
  | .capo w => w.legalCapo
  | .spawn w => w.legalSpawn
  | .arm w => w.legalArm
  | .tdec w => w.legalTdec
  | .trig w => w.legalBare
  | .park w => w.legalPark
  | .acquire w => w.legalBareGroup
  | .shed w => w.legalBareGroup
  | .halloc w => w.legalHalloc
  | .hfree w => w.legalHandleStatus
  | .hweak w => w.legalHweak
  | .hupg w => w.legalHupg
  | .hrel w => w.legalHandleStatus
  | .hpri w => w.legalHpri
  | .ldw w => w.legalLdw
  | .rebuild w => w.legalRebuild
  | .trap w => w.legalTrap
  | .rft w => w.legalBare
  | .chkerr w => w.legalChkerr
  | .crd w => w.legalCrd
  | .cwr w => w.legalCwr
  | .pmap w => w.legalPmap
  | .preq w => w.legalPreq
  | .mdesc w => w.legalMdesc
  | .mld w => w.legalMld
  | .mmul w => w.legalMmul
  | .msca w => w.legalMmul
  | .mzero w => w.legalMzero
  | .madd w => w.legalMadd
  | .mscl w => w.legalMscl
  | .mcvt w => w.legalMcvt
  | .mpub w => w.legalMpub
  | .msettle w => w.legalMsettle
  | .mst w => w.legalMst
  | .mbar w => w.legalMbar
  | .mloop w => w.legalMloop
  | .mpri w => w.legalMpri
  | .mend w => w.legalMend
  | .lflitWrite _ _ _ _ _ => true
  | .malformedWord _ => true
  | .malformedFtWord _ => true
  | .peerRead _ => true

end Sys2Proof
end

