-- ==== Sys2Proof/Decode.lean ====
section
/-!
DEFINITION. The decoder of group words (R57 to R69) and of tile-stream words (R70 to R72), total on any words,
and after it the encoder written from the same tables. A word that is no instruction is refused by name
(`Malformed`); a word with an assigned OPC always decodes, with every field kept, and `Instr.wellFormed` then says
whether R63 and the instruction's rule accept it.
-/

namespace Sys2Proof

/-! ### Field codes -/

/-- The specifier of an R60 code. 0xFF, which only a source field may hold as EXT, is reserved here. -/
def Spec.ofCode (c : BitVec 8) : Spec :=
  if c.toNat < 0x80 then .v (bits c 0 7)
  else if c.toNat < 0xC0 then .s (bits c 0 6)
  else if c.toNat < 0xC8 then .p (bits c 0 3)
  else if c.toNat < 0xD8 then .b (BitVec.ofNat 4 (c.toNat - 0xC8))
  else if c = 0xE0 then .zero
  else if c = 0xE1 then .lane
  else if c = 0xE2 then .slice
  else if c = 0xE3 then .grp
  else if c = 0xE4 then .cx
  else if c = 0xE5 then .cy
  else if c = 0xE6 then .cz
  else if c = 0xE7 then .stage
  else if c = 0xE8 then .iter
  else if c = 0xE9 then .wclk
  else .reserved c

/-- The R60 code of a specifier. -/
def Spec.code : Spec → Nat
  | .v n => n.toNat
  | .s n => 0x80 + n.toNat
  | .p n => 0xC0 + n.toNat
  | .b n => 0xC8 + n.toNat
  | .zero => 0xE0 | .lane => 0xE1 | .slice => 0xE2 | .grp => 0xE3 | .cx => 0xE4 | .cy => 0xE5 | .cz => 0xE6
  | .stage => 0xE7 | .iter => 0xE8 | .wclk => 0xE9
  | .reserved c => c.toNat

def Src.code : Src → Nat
  | .reg x _ => x.code
  | .ext _ _ => 0xFF

def Src.wait : Src → Bool
  | .reg _ w => w
  | .ext _ w => w

/-- The literal words of a field (R61). -/
def Src.literals : Src → List Word64
  | .reg _ _ => []
  | .ext x _ => [x]

/-- The source field of a code and a wait bit; EXT takes the next literal, and none is left when there is none. -/
def Src.ofCode (c : BitVec 8) (w : Bool) (lits : List Word64) : Option (Src × List Word64) :=
  if c = 0xFF then
    match lits with
    | [] => none
    | x :: rest => some (.ext x w, rest)
  else some (.reg (Spec.ofCode c) w, lits)

def Rnd.ofCode : Nat → Rnd
  | 0 => .rne | 1 => .rtz | 2 => .rdn | 3 => .rup | 4 => .rsd | 5 => .res5 | 6 => .res6 | _ => .res7
def Rnd.code : Rnd → Nat
  | .rne => 0 | .rtz => 1 | .rdn => 2 | .rup => 3 | .rsd => 4 | .res5 => 5 | .res6 => 6 | .res7 => 7

def Size.ofCode : Nat → Size
  | 0 => .w8 | 1 => .w16 | 2 => .w32 | 3 => .w64 | 4 => .w128 | 5 => .res5 | 6 => .res6 | _ => .res7
def Size.code : Size → Nat
  | .w8 => 0 | .w16 => 1 | .w32 => 2 | .w64 => 3 | .w128 => 4 | .res5 => 5 | .res6 => 6 | .res7 => 7

def Scope.ofCode : Nat → Scope
  | 0 => .core | 1 => .clu | 2 => .die | 3 => .dev | 4 => .sys | 5 => .surv | 6 => .res6 | _ => .res7
def Scope.code : Scope → Nat
  | .core => 0 | .clu => 1 | .die => 2 | .dev => 3 | .sys => 4 | .surv => 5 | .res6 => 6 | .res7 => 7

def Order.ofCode : Nat → Order
  | 0 => .rlx | 1 => .acq | 2 => .rel | _ => .ar
def Order.code : Order → Nat
  | .rlx => 0 | .acq => 1 | .rel => 2 | .ar => 3

/-! ### The opcode map -/

/-- The opcodes of format F3 (R68). -/
def ctorF3 (opc : Nat) : Option (F3 → Instr) :=
  match opc with
  | 0x000 => some .nop
  | 0x004 => some .brx
  | 0x006 => some .ret
  | 0x007 => some .exit
  | 0x008 => some .yield
  | 0x009 => some .regang
  | 0x00A => some .vote
  | 0x00B => some .plop
  | 0x00C => some .maskrd
  | 0x00D => some .bar
  | 0x00E => some .loopb
  | 0x00F => some .refill
  | 0x010 => some .bkpt
  | 0x011 => some .commit
  | 0x040 => some .iadd
  | 0x041 => some .isub
  | 0x042 => some .imul
  | 0x043 => some .imad
  | 0x044 => some .imulh
  | 0x045 => some .imnx
  | 0x046 => some .iabs
  | 0x047 => some .icmp
  | 0x048 => some .sel
  | 0x049 => some .mov
  | 0x04A => some .lea
  | 0x04B => some .idot4
  | 0x04C => some .idot8
  | 0x080 => some .lop
  | 0x081 => some .shf
  | 0x082 => some .bfx
  | 0x083 => some .bfi
  | 0x084 => some .popc
  | 0x085 => some .clz
  | 0x086 => some .brev
  | 0x087 => some .lxch
  | 0x0C0 => some .fadd
  | 0x0C1 => some .fmul
  | 0x0C2 => some .ffma
  | 0x0C3 => some .fmnx
  | 0x0C4 => some .fcmp
  | 0x0C5 => some .fsfu
  | 0x0C6 => some .fclass
  | 0x100 => some .hfma2
  | 0x101 => some .hadd2
  | 0x102 => some .hmul2
  | 0x103 => some .cvt
  | 0x104 => some .qcvt
  | 0x146 => some .wstat
  | 0x147 => some .trb
  | 0x185 => some .xfence
  | 0x1C6 => some .bin
  | 0x1C8 => some .awset
  | 0x1C9 => some .awadd
  | 0x1CA => some .awwait
  | 0x1CB => some .awgen
  | 0x200 => some .lmm
  | 0x201 => some .mrd
  | 0x202 => some .mwr
  | 0x203 => some .capo
  | 0x240 => some .spawn
  | 0x241 => some .arm
  | 0x242 => some .tdec
  | 0x243 => some .trig
  | 0x244 => some .park
  | 0x245 => some .acquire
  | 0x246 => some .shed
  | 0x280 => some .halloc
  | 0x281 => some .hfree
  | 0x282 => some .hweak
  | 0x283 => some .hupg
  | 0x284 => some .hrel
  | 0x285 => some .hpri
  | 0x2C0 => some .trap
  | 0x2C1 => some .rft
  | 0x2C2 => some .chkerr
  | 0x2C5 => some .pmap
  | 0x2C6 => some .preq
  | _ => none

/-- The opcodes of format FI (R68, R69). -/
def ctorFI (opc : Nat) : Option (FI → Instr) :=
  match opc with
  | 0x060 => some .iaddI
  | 0x061 => some .isubI
  | 0x062 => some .imulI
  | 0x064 => some .imulhI
  | 0x065 => some .imnxI
  | 0x067 => some .icmpI
  | 0x069 => some .movi
  | 0x06A => some .leaI
  | 0x0A0 => some .lopI
  | 0x0A1 => some .shfI
  | 0x0E0 => some .faddI
  | 0x0E1 => some .fmulI
  | 0x0E3 => some .fmnxI
  | 0x0E4 => some .fcmpI
  | 0x2C3 => some .crd
  | 0x2C4 => some .cwr
  | _ => none

/-- The opcodes of format FM (R68). -/
def ctorFM (opc : Nat) : Option (FM → Instr) :=
  match opc with
  | 0x140 => some .ld
  | 0x141 => some .st
  | 0x142 => some .lds
  | 0x143 => some .sts
  | 0x144 => some .ldk
  | 0x145 => some .wld
  | 0x148 => some .pref
  | 0x180 => some .atom
  | 0x181 => some .cas
  | 0x182 => some .lr
  | 0x183 => some .sc
  | 0x184 => some .fence
  | 0x286 => some .ldw
  | _ => none

/-- The opcodes of format FX (R68). -/
def ctorFX (opc : Nat) : Option (FX → Instr) :=
  match opc with
  | 0x1C0 => some .cpy
  | 0x1C1 => some .cpyg
  | 0x1C2 => some .cpys
  | 0x1C3 => some .cpyr
  | 0x1C4 => some .cpyh
  | 0x1C5 => some .crel
  | 0x1C7 => some .bpatch
  | 0x287 => some .rebuild
  | _ => none

/-- The opcodes of format FB (R68). -/
def ctorFB (opc : Nat) : Option (FB → Instr) :=
  match opc with
  | 0x001 => some .bra
  | 0x002 => some .brp
  | 0x003 => some .bru
  | 0x005 => some .call
  | _ => none

/-- The MOPC values of R72. -/
def ctorFT (opc : Nat) : Option (FT → Instr) :=
  match opc with
  | 0x001 => some .mdesc
  | 0x002 => some .mld
  | 0x003 => some .mmul
  | 0x004 => some .msca
  | 0x005 => some .mzero
  | 0x006 => some .madd
  | 0x007 => some .mscl
  | 0x008 => some .mcvt
  | 0x009 => some .mpub
  | 0x00A => some .msettle
  | 0x00B => some .mst
  | 0x00C => some .mbar
  | 0x00D => some .mloop
  | 0x00E => some .mpri
  | 0x00F => some .mend
  | _ => none

/-! ### Reading the formats -/

/-- Three source fields in the order SA, SB, SC, with their literals (R57, R61). -/
def readSources (w : Word64) (lits : List Word64) : Option (Src × Src × Src × List Word64) :=
  match Src.ofCode (bits w 34 8) (bit w 33) lits with
  | none => none
  | some (a, l1) =>
    match Src.ofCode (bits w 25 8) (bit w 24) l1 with
    | none => none
    | some (b, l2) =>
      match Src.ofCode (bits w 16 8) (bit w 15) l2 with
      | none => none
      | some (c, l3) => some (a, b, c, l3)

def readGuard (w : Word64) : Guard := ⟨bit w 53, bits w 50 3⟩
def readDst (w : Word64) : Spec := Spec.ofCode (bits w 42 8)

def readF3 (w : Word64) (lits : List Word64) : Option (F3 × List Word64) :=
  match readSources w lits with
  | none => none
  | some (a, b, c, rest) =>
    some ({ guard := readGuard w, dst := readDst w, sa := a, sb := b, sc := c,
            ty := Ty.ofCode (bits w 11 4).toNat, rnd := Rnd.ofCode (bits w 8 3).toNat, sat := bit w 7,
            negC := bit w 6, negB := bit w 5, negA := bit w 4, ftz := bit w 3, sub := bits w 0 3 }, rest)

def readFI (w : Word64) (lits : List Word64) : Option (FI × List Word64) :=
  match Src.ofCode (bits w 34 8) (bit w 33) lits with
  | none => none
  | some (a, rest) =>
    some ({ guard := readGuard w, dst := readDst w, sa := a, imm := bits w 15 18,
            ty := Ty.ofCode (bits w 11 4).toNat, rnd := Rnd.ofCode (bits w 8 3).toNat, sat := bit w 7,
            negC := bit w 6, negB := bit w 5, negA := bit w 4, ftz := bit w 3, sub := bits w 0 3 }, rest)

def readFM (w : Word64) (lits : List Word64) : Option (FM × List Word64) :=
  match readSources w lits with
  | none => none
  | some (a, b, c, rest) =>
    some ({ guard := readGuard w, dst := readDst w, sa := a, sb := b, sc := c,
            size := Size.ofCode (bits w 12 3).toNat, scope := Scope.ofCode (bits w 9 3).toNat,
            order := Order.ofCode (bits w 7 2).toNat, space := bit w 6, ioff := bits w 0 6 }, rest)

def readFX (w : Word64) (lits : List Word64) : Option (FX × List Word64) :=
  match readSources w lits with
  | none => none
  | some (a, b, c, rest) =>
    some ({ guard := readGuard w, dst := readDst w, sa := a, sb := b, sc := c, ord := bit w 14, mcast := bit w 13,
            hold := bit w 12, notify := bits w 10 2, peer := bit w 9, cmd := bits w 0 9 }, rest)

def readFB (w : Word64) : FB :=
  { guard := readGuard w, dst := readDst w, offset := bits w 16 26, low := bits w 0 16 }

def readFT (w : Word64) : FT :=
  { tile := bits w 50 6, op1 := bits w 45 5, op2 := bits w 40 5, lin := bits w 36 4, fmt := bits w 32 4,
    blk := bit w 31, bgrp := bits w 29 2, ops := bits w 0 29 }

/-- Bits [63:60] are the MARKER of a header (R53). -/
def isHeader (w : Word64) : Bool := bits w 60 4 == 0xF

/-- The result of reading a format, as a decoded instruction or the refusal of its missing literals. -/
def finishRead {α : Type} (mk : α → Instr) : Option (α × List Word64) → Except Malformed (Instr × List Word64)
  | some (x, rest) => .ok (mk x, rest)
  | none => .error .literalsPastEnd

/-- The decoder of a group word w, with the words of the block after it. -/
def decode (w : Word64) (rest : List Word64) : Except Malformed (Instr × List Word64) :=
  if isHeader w then .error .headerInBlock
  else
    match ctorF3 (bits w 54 10).toNat with
    | some mk => finishRead mk (readF3 w rest)
    | none =>
    match ctorFI (bits w 54 10).toNat with
    | some mk => finishRead mk (readFI w rest)
    | none =>
    match ctorFM (bits w 54 10).toNat with
    | some mk => finishRead mk (readFM w rest)
    | none =>
    match ctorFX (bits w 54 10).toNat with
    | some mk => finishRead mk (readFX w rest)
    | none =>
    match ctorFB (bits w 54 10).toNat with
    | some mk => .ok (mk (readFB w), rest)
    | none => .error .unassignedOpc

/-- The decoder of a tile-stream word (R70 to R73): every word is taken as an FT word, and a reserved MOPC is
refused. -/
def decodeFT (w : Word64) : Option Instr :=
  (ctorFT (bits w 56 8).toNat).map (fun mk => mk (readFT w))

/-- The first eight bytes of a list as a little-endian word; absent bytes read 0. -/
def word64OfBytes (bs : List Byte) : Word64 :=
  BitVec.ofNat 64 (((List.range 8).map (fun i => (bs.getD i 0).toNat * 2 ^ (8 * i))).sum)

/-- The eight bytes of a word, lowest address first (R146). -/
def bytesOfWord64 (w : Word64) : List Byte := (List.range 8).map (fun i => bits w (8 * i) 8)

/-- Bytes as the words they hold, in order. -/
def wordsOfBytes : Nat → List Byte → List Word64
  | 0, _ => []
  | k + 1, bs => if bs.length < 8 then [] else word64OfBytes (bs.take 8) :: wordsOfBytes k (bs.drop 8)

/-- The decoder on bytes as they lie in memory. -/
def decodeBytes (bs : List Byte) : Except Malformed (Instr × List Word64) :=
  match wordsOfBytes (bs.length / 8) bs with
  | [] => .error .literalsPastEnd
  | w :: rest => decode w rest

/-! ### The encoder -/

/-- OPC, guard and DST in their places (R57). -/
def encodeHigh (opc : Nat) (g : Guard) (d : Spec) : Nat :=
  opc * 2 ^ 54 + b2n g.neg * 2 ^ 53 + g.pg.toNat * 2 ^ 50 + d.code * 2 ^ 42

/-- The three source fields with their wait bits (R57). -/
def encodeSources (a b c : Src) : Nat :=
  a.code * 2 ^ 34 + b2n a.wait * 2 ^ 33 + b.code * 2 ^ 25 + b2n b.wait * 2 ^ 24 + c.code * 2 ^ 16 + b2n c.wait * 2 ^ 15

/-- MOD of F3 and FI (R63). -/
def encodeMod (ty : Ty) (rnd : Rnd) (sat negC negB negA ftz : Bool) (sub : BitVec 3) : Nat :=
  ty.code * 2 ^ 11 + rnd.code * 2 ^ 8 + b2n sat * 2 ^ 7 + b2n negC * 2 ^ 6 + b2n negB * 2 ^ 5 + b2n negA * 2 ^ 4 +
  b2n ftz * 2 ^ 3 + sub.toNat

def literalsOf (a b c : Src) : List Word64 := a.literals ++ b.literals ++ c.literals

def encodeF3 (opc : Nat) (w : F3) : List Word64 :=
  BitVec.ofNat 64 (encodeHigh opc w.guard w.dst + encodeSources w.sa w.sb w.sc +
    encodeMod w.ty w.rnd w.sat w.negC w.negB w.negA w.ftz w.sub) :: literalsOf w.sa w.sb w.sc

def encodeFI (opc : Nat) (w : FI) : List Word64 :=
  BitVec.ofNat 64 (encodeHigh opc w.guard w.dst + w.sa.code * 2 ^ 34 + b2n w.sa.wait * 2 ^ 33 +
    w.imm.toNat * 2 ^ 15 + encodeMod w.ty w.rnd w.sat w.negC w.negB w.negA w.ftz w.sub) :: w.sa.literals

def encodeFM (opc : Nat) (w : FM) : List Word64 :=
  BitVec.ofNat 64 (encodeHigh opc w.guard w.dst + encodeSources w.sa w.sb w.sc + w.size.code * 2 ^ 12 +
    w.scope.code * 2 ^ 9 + w.order.code * 2 ^ 7 + b2n w.space * 2 ^ 6 + w.ioff.toNat) :: literalsOf w.sa w.sb w.sc

def encodeFX (opc : Nat) (w : FX) : List Word64 :=
  BitVec.ofNat 64 (encodeHigh opc w.guard w.dst + encodeSources w.sa w.sb w.sc + b2n w.ord * 2 ^ 14 +
    b2n w.mcast * 2 ^ 13 + b2n w.hold * 2 ^ 12 + w.notify.toNat * 2 ^ 10 + b2n w.peer * 2 ^ 9 + w.cmd.toNat) ::
  literalsOf w.sa w.sb w.sc

def encodeFB (opc : Nat) (w : FB) : List Word64 :=
  [BitVec.ofNat 64 (encodeHigh opc w.guard w.dst + w.offset.toNat * 2 ^ 16 + w.low.toNat)]

def encodeFT (mopc : Nat) (w : FT) : Word64 :=
  BitVec.ofNat 64 (mopc * 2 ^ 56 + w.tile.toNat * 2 ^ 50 + w.op1.toNat * 2 ^ 45 + w.op2.toNat * 2 ^ 40 +
    w.lin.toNat * 2 ^ 36 + w.fmt.toNat * 2 ^ 32 + b2n w.blk * 2 ^ 31 + w.bgrp.toNat * 2 ^ 29 + w.ops.toNat)

/-- The words of an instruction: the instruction word and its literals, or the stream word; an event has none. -/
def encode : Instr → List Word64
  | .createKernelTask _ => []
  | .createJoinTask _ => []
  | .lpstatClear _ _ => []
  | .cqheadWrite _ _ => []
  | .prqheadWrite _ _ => []
  | .registerWrite _ _ _ => []
  | .pageRequestAnswer _ _ _ => []
  | .createPartition _ => []
  | .resizePartition _ => []
  | .destroyPartition _ => []
  | .setBuckets _ => []
  | .attest _ => []
  | .pwrcapWrite _ => []
  | .clockStepChange _ _ _ => []
  | .thermHot _ => []
  | .thermNormal _ => []
  | .thermalTrip _ => []
  | .supplySag => []
  | .reset _ _ _ => []
  | .memUe _ => []
  | .corrected _ => []
  | .ctrlUe _ => []
  | .taskDecrement _ => []
  | .dispatch _ _ => []
  | .cohortPlacement _ => []
  | .groupAdmit _ _ => []
  | .preemptionDiscard _ _ => []
  | .groupEnd _ => []
  | .cohortExit _ => []
  | .taskComplete _ _ => []
  | .earlyRelease _ _ => []
  | .completionEntry _ => []
  | .cohortKill _ => []
  | .headerFetch _ _ => []
  | .turn _ => []
  | .drain _ => []
  | .lift _ => []
  | .home _ => []
  | .refresh _ _ => []
  | .drop _ _ => []
  | .fillComplete _ _ => []
  | .bucketPieceLeave _ _ => []
  | .activate _ _ => []
  | .move _ _ _ => []
  | .earrive _ _ _ => []
  | .eend _ _ => []
  | .peerChunkReceive _ => []
  | .peerNackReceive _ _ _ => []
  | .ackTimeout _ _ => []
  | .targetChunkTimeout _ => []
  | .reduceApply _ => []
  | .parityDeltaApply _ => []
  | .parityAck _ => []
  | .parityDrop _ => []
  | .landingPermitGrant _ => []
  | .tilePush _ => []
  | .multicastDelivery _ => []
  | .operandFetch _ => []
  | .lmmServe _ => []
  | .engineHandover _ => []
  | .streamOvertake _ => []
  | .replay _ _ => []
  | .reclaim _ _ => []
  | .nop w => encodeF3 0x000 w
  | .bra w => encodeFB 0x001 w
  | .brp w => encodeFB 0x002 w
  | .bru w => encodeFB 0x003 w
  | .brx w => encodeF3 0x004 w
  | .call w => encodeFB 0x005 w
  | .ret w => encodeF3 0x006 w
  | .exit w => encodeF3 0x007 w
  | .yield w => encodeF3 0x008 w
  | .regang w => encodeF3 0x009 w
  | .vote w => encodeF3 0x00A w
  | .plop w => encodeF3 0x00B w
  | .maskrd w => encodeF3 0x00C w
  | .bar w => encodeF3 0x00D w
  | .loopb w => encodeF3 0x00E w
  | .refill w => encodeF3 0x00F w
  | .bkpt w => encodeF3 0x010 w
  | .commit w => encodeF3 0x011 w
  | .iadd w => encodeF3 0x040 w
  | .iaddI w => encodeFI 0x060 w
  | .isub w => encodeF3 0x041 w
  | .isubI w => encodeFI 0x061 w
  | .imul w => encodeF3 0x042 w
  | .imulI w => encodeFI 0x062 w
  | .imad w => encodeF3 0x043 w
  | .imulh w => encodeF3 0x044 w
  | .imulhI w => encodeFI 0x064 w
  | .imnx w => encodeF3 0x045 w
  | .imnxI w => encodeFI 0x065 w
  | .iabs w => encodeF3 0x046 w
  | .icmp w => encodeF3 0x047 w
  | .icmpI w => encodeFI 0x067 w
  | .sel w => encodeF3 0x048 w
  | .mov w => encodeF3 0x049 w
  | .movi w => encodeFI 0x069 w
  | .lea w => encodeF3 0x04A w
  | .leaI w => encodeFI 0x06A w
  | .idot4 w => encodeF3 0x04B w
  | .idot8 w => encodeF3 0x04C w
  | .lop w => encodeF3 0x080 w
  | .lopI w => encodeFI 0x0A0 w
  | .shf w => encodeF3 0x081 w
  | .shfI w => encodeFI 0x0A1 w
  | .bfx w => encodeF3 0x082 w
  | .bfi w => encodeF3 0x083 w
  | .popc w => encodeF3 0x084 w
  | .clz w => encodeF3 0x085 w
  | .brev w => encodeF3 0x086 w
  | .lxch w => encodeF3 0x087 w
  | .fadd w => encodeF3 0x0C0 w
  | .faddI w => encodeFI 0x0E0 w
  | .fmul w => encodeF3 0x0C1 w
  | .fmulI w => encodeFI 0x0E1 w
  | .ffma w => encodeF3 0x0C2 w
  | .fmnx w => encodeF3 0x0C3 w
  | .fmnxI w => encodeFI 0x0E3 w
  | .fcmp w => encodeF3 0x0C4 w
  | .fcmpI w => encodeFI 0x0E4 w
  | .fsfu w => encodeF3 0x0C5 w
  | .fclass w => encodeF3 0x0C6 w
  | .hfma2 w => encodeF3 0x100 w
  | .hadd2 w => encodeF3 0x101 w
  | .hmul2 w => encodeF3 0x102 w
  | .cvt w => encodeF3 0x103 w
  | .qcvt w => encodeF3 0x104 w
  | .ld w => encodeFM 0x140 w
  | .st w => encodeFM 0x141 w
  | .lds w => encodeFM 0x142 w
  | .sts w => encodeFM 0x143 w
  | .ldk w => encodeFM 0x144 w
  | .wld w => encodeFM 0x145 w
  | .wstat w => encodeF3 0x146 w
  | .trb w => encodeF3 0x147 w
  | .pref w => encodeFM 0x148 w
  | .atom w => encodeFM 0x180 w
  | .cas w => encodeFM 0x181 w
  | .lr w => encodeFM 0x182 w
  | .sc w => encodeFM 0x183 w
  | .fence w => encodeFM 0x184 w
  | .xfence w => encodeF3 0x185 w
  | .cpy w => encodeFX 0x1C0 w
  | .cpyg w => encodeFX 0x1C1 w
  | .cpys w => encodeFX 0x1C2 w
  | .cpyr w => encodeFX 0x1C3 w
  | .cpyh w => encodeFX 0x1C4 w
  | .crel w => encodeFX 0x1C5 w
  | .bin w => encodeF3 0x1C6 w
  | .bpatch w => encodeFX 0x1C7 w
  | .awset w => encodeF3 0x1C8 w
  | .awadd w => encodeF3 0x1C9 w
  | .awwait w => encodeF3 0x1CA w
  | .awgen w => encodeF3 0x1CB w
  | .lmm w => encodeF3 0x200 w
  | .mrd w => encodeF3 0x201 w
  | .mwr w => encodeF3 0x202 w
  | .capo w => encodeF3 0x203 w
  | .spawn w => encodeF3 0x240 w
  | .arm w => encodeF3 0x241 w
  | .tdec w => encodeF3 0x242 w
  | .trig w => encodeF3 0x243 w
  | .park w => encodeF3 0x244 w
  | .acquire w => encodeF3 0x245 w
  | .shed w => encodeF3 0x246 w
  | .halloc w => encodeF3 0x280 w
  | .hfree w => encodeF3 0x281 w
  | .hweak w => encodeF3 0x282 w
  | .hupg w => encodeF3 0x283 w
  | .hrel w => encodeF3 0x284 w
  | .hpri w => encodeF3 0x285 w
  | .ldw w => encodeFM 0x286 w
  | .rebuild w => encodeFX 0x287 w
  | .trap w => encodeF3 0x2C0 w
  | .rft w => encodeF3 0x2C1 w
  | .chkerr w => encodeF3 0x2C2 w
  | .crd w => encodeFI 0x2C3 w
  | .cwr w => encodeFI 0x2C4 w
  | .pmap w => encodeF3 0x2C5 w
  | .preq w => encodeF3 0x2C6 w
  | .mdesc w => [encodeFT 0x01 w]
  | .mld w => [encodeFT 0x02 w]
  | .mmul w => [encodeFT 0x03 w]
  | .msca w => [encodeFT 0x04 w]
  | .mzero w => [encodeFT 0x05 w]
  | .madd w => [encodeFT 0x06 w]
  | .mscl w => [encodeFT 0x07 w]
  | .mcvt w => [encodeFT 0x08 w]
  | .mpub w => [encodeFT 0x09 w]
  | .msettle w => [encodeFT 0x0A w]
  | .mst w => [encodeFT 0x0B w]
  | .mbar w => [encodeFT 0x0C w]
  | .mloop w => [encodeFT 0x0D w]
  | .mpri w => [encodeFT 0x0E w]
  | .mend w => [encodeFT 0x0F w]
  | .lflitWrite _ _ _ _ _ => []
  | .malformedWord _ => []
  | .malformedFtWord _ => []
  | .peerRead _ => []

/-- The tile-stream words of R72, which a matrix core's sequencer fetches; every other word is a group's. -/
def Instr.isStream : Instr → Bool
  | .mdesc _ | .mld _ | .mmul _ | .msca _ | .mzero _ | .madd _ | .mscl _ | .mcvt _ | .mpub _ | .msettle _ | .mst _
  | .mbar _ | .mloop _ | .mpri _ | .mend _ => true
  | _ => false

/-- How many words an instruction takes (R61). -/
def Instr.words : Instr → Nat
  | .createKernelTask _ => 0
  | .createJoinTask _ => 0
  | .lpstatClear _ _ => 0
  | .cqheadWrite _ _ => 0
  | .prqheadWrite _ _ => 0
  | .registerWrite _ _ _ => 0
  | .pageRequestAnswer _ _ _ => 0
  | .createPartition _ => 0
  | .resizePartition _ => 0
  | .destroyPartition _ => 0
  | .setBuckets _ => 0
  | .attest _ => 0
  | .pwrcapWrite _ => 0
  | .clockStepChange _ _ _ => 0
  | .thermHot _ => 0
  | .thermNormal _ => 0
  | .thermalTrip _ => 0
  | .supplySag => 0
  | .reset _ _ _ => 0
  | .memUe _ => 0
  | .corrected _ => 0
  | .ctrlUe _ => 0
  | .taskDecrement _ => 0
  | .dispatch _ _ => 0
  | .cohortPlacement _ => 0
  | .groupAdmit _ _ => 0
  | .preemptionDiscard _ _ => 0
  | .groupEnd _ => 0
  | .cohortExit _ => 0
  | .taskComplete _ _ => 0
  | .earlyRelease _ _ => 0
  | .completionEntry _ => 0
  | .cohortKill _ => 0
  | .headerFetch _ _ => 0
  | .turn _ => 0
  | .drain _ => 0
  | .lift _ => 0
  | .home _ => 0
  | .refresh _ _ => 0
  | .drop _ _ => 0
  | .fillComplete _ _ => 0
  | .bucketPieceLeave _ _ => 0
  | .activate _ _ => 0
  | .move _ _ _ => 0
  | .earrive _ _ _ => 0
  | .eend _ _ => 0
  | .peerChunkReceive _ => 0
  | .peerNackReceive _ _ _ => 0
  | .ackTimeout _ _ => 0
  | .targetChunkTimeout _ => 0
  | .reduceApply _ => 0
  | .parityDeltaApply _ => 0
  | .parityAck _ => 0
  | .parityDrop _ => 0
  | .landingPermitGrant _ => 0
  | .tilePush _ => 0
  | .multicastDelivery _ => 0
  | .operandFetch _ => 0
  | .lmmServe _ => 0
  | .engineHandover _ => 0
  | .streamOvertake _ => 0
  | .replay _ _ => 0
  | .reclaim _ _ => 0
  | .nop w => w.words
  | .bra _ => 1
  | .brp _ => 1
  | .bru _ => 1
  | .brx w => w.words
  | .call _ => 1
  | .ret w => w.words
  | .exit w => w.words
  | .yield w => w.words
  | .regang w => w.words
  | .vote w => w.words
  | .plop w => w.words
  | .maskrd w => w.words
  | .bar w => w.words
  | .loopb w => w.words
  | .refill w => w.words
  | .bkpt w => w.words
  | .commit w => w.words
  | .iadd w => w.words
  | .iaddI w => w.words
  | .isub w => w.words
  | .isubI w => w.words
  | .imul w => w.words
  | .imulI w => w.words
  | .imad w => w.words
  | .imulh w => w.words
  | .imulhI w => w.words
  | .imnx w => w.words
  | .imnxI w => w.words
  | .iabs w => w.words
  | .icmp w => w.words
  | .icmpI w => w.words
  | .sel w => w.words
  | .mov w => w.words
  | .movi w => w.words
  | .lea w => w.words
  | .leaI w => w.words
  | .idot4 w => w.words
  | .idot8 w => w.words
  | .lop w => w.words
  | .lopI w => w.words
  | .shf w => w.words
  | .shfI w => w.words
  | .bfx w => w.words
  | .bfi w => w.words
  | .popc w => w.words
  | .clz w => w.words
  | .brev w => w.words
  | .lxch w => w.words
  | .fadd w => w.words
  | .faddI w => w.words
  | .fmul w => w.words
  | .fmulI w => w.words
  | .ffma w => w.words
  | .fmnx w => w.words
  | .fmnxI w => w.words
  | .fcmp w => w.words
  | .fcmpI w => w.words
  | .fsfu w => w.words
  | .fclass w => w.words
  | .hfma2 w => w.words
  | .hadd2 w => w.words
  | .hmul2 w => w.words
  | .cvt w => w.words
  | .qcvt w => w.words
  | .ld w => w.words
  | .st w => w.words
  | .lds w => w.words
  | .sts w => w.words
  | .ldk w => w.words
  | .wld w => w.words
  | .wstat w => w.words
  | .trb w => w.words
  | .pref w => w.words
  | .atom w => w.words
  | .cas w => w.words
  | .lr w => w.words
  | .sc w => w.words
  | .fence w => w.words
  | .xfence w => w.words
  | .cpy w => w.words
  | .cpyg w => w.words
  | .cpys w => w.words
  | .cpyr w => w.words
  | .cpyh w => w.words
  | .crel w => w.words
  | .bin w => w.words
  | .bpatch w => w.words
  | .awset w => w.words
  | .awadd w => w.words
  | .awwait w => w.words
  | .awgen w => w.words
  | .lmm w => w.words
  | .mrd w => w.words
  | .mwr w => w.words
  | .capo w => w.words
  | .spawn w => w.words
  | .arm w => w.words
  | .tdec w => w.words
  | .trig w => w.words
  | .park w => w.words
  | .acquire w => w.words
  | .shed w => w.words
  | .halloc w => w.words
  | .hfree w => w.words
  | .hweak w => w.words
  | .hupg w => w.words
  | .hrel w => w.words
  | .hpri w => w.words
  | .ldw w => w.words
  | .rebuild w => w.words
  | .trap w => w.words
  | .rft w => w.words
  | .chkerr w => w.words
  | .crd w => w.words
  | .cwr w => w.words
  | .pmap w => w.words
  | .preq w => w.words
  | .mdesc _ => 1
  | .mld _ => 1
  | .mmul _ => 1
  | .msca _ => 1
  | .mzero _ => 1
  | .madd _ => 1
  | .mscl _ => 1
  | .mcvt _ => 1
  | .mpub _ => 1
  | .msettle _ => 1
  | .mst _ => 1
  | .mbar _ => 1
  | .mloop _ => 1
  | .mpri _ => 1
  | .mend _ => 1
  | .lflitWrite _ _ _ _ _ => 0
  | .malformedWord _ => 1
  | .malformedFtWord _ => 1
  | .peerRead _ => 0

/-- The OPC that a group word folds into SIGACC (R110); 0 for a word of no block. -/
def Instr.opcode : Instr → Nat
  | .createKernelTask _ => 0
  | .createJoinTask _ => 0
  | .lpstatClear _ _ => 0
  | .cqheadWrite _ _ => 0
  | .prqheadWrite _ _ => 0
  | .registerWrite _ _ _ => 0
  | .pageRequestAnswer _ _ _ => 0
  | .createPartition _ => 0
  | .resizePartition _ => 0
  | .destroyPartition _ => 0
  | .setBuckets _ => 0
  | .attest _ => 0
  | .pwrcapWrite _ => 0
  | .clockStepChange _ _ _ => 0
  | .thermHot _ => 0
  | .thermNormal _ => 0
  | .thermalTrip _ => 0
  | .supplySag => 0
  | .reset _ _ _ => 0
  | .memUe _ => 0
  | .corrected _ => 0
  | .ctrlUe _ => 0
  | .taskDecrement _ => 0
  | .dispatch _ _ => 0
  | .cohortPlacement _ => 0
  | .groupAdmit _ _ => 0
  | .preemptionDiscard _ _ => 0
  | .groupEnd _ => 0
  | .cohortExit _ => 0
  | .taskComplete _ _ => 0
  | .earlyRelease _ _ => 0
  | .completionEntry _ => 0
  | .cohortKill _ => 0
  | .headerFetch _ _ => 0
  | .turn _ => 0
  | .drain _ => 0
  | .lift _ => 0
  | .home _ => 0
  | .refresh _ _ => 0
  | .drop _ _ => 0
  | .fillComplete _ _ => 0
  | .bucketPieceLeave _ _ => 0
  | .activate _ _ => 0
  | .move _ _ _ => 0
  | .earrive _ _ _ => 0
  | .eend _ _ => 0
  | .peerChunkReceive _ => 0
  | .peerNackReceive _ _ _ => 0
  | .ackTimeout _ _ => 0
  | .targetChunkTimeout _ => 0
  | .reduceApply _ => 0
  | .parityDeltaApply _ => 0
  | .parityAck _ => 0
  | .parityDrop _ => 0
  | .landingPermitGrant _ => 0
  | .tilePush _ => 0
  | .multicastDelivery _ => 0
  | .operandFetch _ => 0
  | .lmmServe _ => 0
  | .engineHandover _ => 0
  | .streamOvertake _ => 0
  | .replay _ _ => 0
  | .reclaim _ _ => 0
  | .nop _ => 0x000
  | .bra _ => 0x001
  | .brp _ => 0x002
  | .bru _ => 0x003
  | .brx _ => 0x004
  | .call _ => 0x005
  | .ret _ => 0x006
  | .exit _ => 0x007
  | .yield _ => 0x008
  | .regang _ => 0x009
  | .vote _ => 0x00A
  | .plop _ => 0x00B
  | .maskrd _ => 0x00C
  | .bar _ => 0x00D
  | .loopb _ => 0x00E
  | .refill _ => 0x00F
  | .bkpt _ => 0x010
  | .commit _ => 0x011
  | .iadd _ => 0x040
  | .iaddI _ => 0x060
  | .isub _ => 0x041
  | .isubI _ => 0x061
  | .imul _ => 0x042
  | .imulI _ => 0x062
  | .imad _ => 0x043
  | .imulh _ => 0x044
  | .imulhI _ => 0x064
  | .imnx _ => 0x045
  | .imnxI _ => 0x065
  | .iabs _ => 0x046
  | .icmp _ => 0x047
  | .icmpI _ => 0x067
  | .sel _ => 0x048
  | .mov _ => 0x049
  | .movi _ => 0x069
  | .lea _ => 0x04A
  | .leaI _ => 0x06A
  | .idot4 _ => 0x04B
  | .idot8 _ => 0x04C
  | .lop _ => 0x080
  | .lopI _ => 0x0A0
  | .shf _ => 0x081
  | .shfI _ => 0x0A1
  | .bfx _ => 0x082
  | .bfi _ => 0x083
  | .popc _ => 0x084
  | .clz _ => 0x085
  | .brev _ => 0x086
  | .lxch _ => 0x087
  | .fadd _ => 0x0C0
  | .faddI _ => 0x0E0
  | .fmul _ => 0x0C1
  | .fmulI _ => 0x0E1
  | .ffma _ => 0x0C2
  | .fmnx _ => 0x0C3
  | .fmnxI _ => 0x0E3
  | .fcmp _ => 0x0C4
  | .fcmpI _ => 0x0E4
  | .fsfu _ => 0x0C5
  | .fclass _ => 0x0C6
  | .hfma2 _ => 0x100
  | .hadd2 _ => 0x101
  | .hmul2 _ => 0x102
  | .cvt _ => 0x103
  | .qcvt _ => 0x104
  | .ld _ => 0x140
  | .st _ => 0x141
  | .lds _ => 0x142
  | .sts _ => 0x143
  | .ldk _ => 0x144
  | .wld _ => 0x145
  | .wstat _ => 0x146
  | .trb _ => 0x147
  | .pref _ => 0x148
  | .atom _ => 0x180
  | .cas _ => 0x181
  | .lr _ => 0x182
  | .sc _ => 0x183
  | .fence _ => 0x184
  | .xfence _ => 0x185
  | .cpy _ => 0x1C0
  | .cpyg _ => 0x1C1
  | .cpys _ => 0x1C2
  | .cpyr _ => 0x1C3
  | .cpyh _ => 0x1C4
  | .crel _ => 0x1C5
  | .bin _ => 0x1C6
  | .bpatch _ => 0x1C7
  | .awset _ => 0x1C8
  | .awadd _ => 0x1C9
  | .awwait _ => 0x1CA
  | .awgen _ => 0x1CB
  | .lmm _ => 0x200
  | .mrd _ => 0x201
  | .mwr _ => 0x202
  | .capo _ => 0x203
  | .spawn _ => 0x240
  | .arm _ => 0x241
  | .tdec _ => 0x242
  | .trig _ => 0x243
  | .park _ => 0x244
  | .acquire _ => 0x245
  | .shed _ => 0x246
  | .halloc _ => 0x280
  | .hfree _ => 0x281
  | .hweak _ => 0x282
  | .hupg _ => 0x283
  | .hrel _ => 0x284
  | .hpri _ => 0x285
  | .ldw _ => 0x286
  | .rebuild _ => 0x287
  | .trap _ => 0x2C0
  | .rft _ => 0x2C1
  | .chkerr _ => 0x2C2
  | .crd _ => 0x2C3
  | .cwr _ => 0x2C4
  | .pmap _ => 0x2C5
  | .preq _ => 0x2C6
  | .mdesc _ => 0
  | .mld _ => 0
  | .mmul _ => 0
  | .msca _ => 0
  | .mzero _ => 0
  | .madd _ => 0
  | .mscl _ => 0
  | .mcvt _ => 0
  | .mpub _ => 0
  | .msettle _ => 0
  | .mst _ => 0
  | .mbar _ => 0
  | .mloop _ => 0
  | .mpri _ => 0
  | .mend _ => 0
  | .lflitWrite _ _ _ _ _ => 0
  | .malformedWord _ => 0
  | .malformedFtWord _ => 0
  | .peerRead _ => 0

/-- The instruction this decoder reads from a group instruction whose bits are w, numbered from the least
significant bit of its first word; the words above nbits are zero. A tile-stream word is read by `decodeFT`
instead: the two word families share encodings, and which one applies is decided by the fetching agent (R73). -/
def decodeTableWord (nbits w : Nat) : Option Instr :=
  let x := w % 2 ^ nbits
  let word := fun (i : Nat) => BitVec.ofNat 64 (x / 2 ^ (64 * i))
  match decode (word 0) [word 1, word 2, word 3] with
  | .ok (i, _) => some i
  | .error _ => none

end Sys2Proof
end

