-- ==== Sys2Proof/Config.lean ====
section
/-!
DEFINITION. What the spec leaves to the part or leaves open: the free values (opaque constants, applied to a
counter of State or to the operands they depend on), and the constants of one device that the spec names without
giving a value. Nothing can evaluate them, so a claim holds whatever they are.
-/

namespace Sys2Proof.Config

/-! ### Constants of one device -/

/-- HMEMQ units of the device, "set at boot" (R38; log 17). -/
opaque hmemqUnits : Nat
/-- The device serial number (R431; log 7). -/
opaque serial : BitVec 64
/-- The bytes of the firmware image that runs at `State.reset` (R431; log 7). -/
opaque bootImage : List (BitVec 8)
/-- The bytes of the fuse configuration, for the fused root-key hash, SVN and boot counter (R431; log 7). -/
opaque fuseBytes : BitVec 256 → BitVec 6 → Nat → List (BitVec 8)
/-- The security version number that the bytes of a firmware image state; the spec does not say where (R429; log 7). -/
opaque imageSvn : List (BitVec 8) → BitVec 6
/-- SHA-256 of Fensal's root public key, fused at manufacture in this device (R429; log 7). -/
opaque rootKeyHash : BitVec 256
/-- The unique secret in the fuses of the device (R430). -/
opaque deviceSecret : Nat
/-- What the device derives from its secret (R430; log 7): the identifier of a tree, the start of a hash chain of a leaf of
a tree, and the random mask with which the leaf signs. -/
opaque identityId : Nat → Nat → BitVec 128
opaque identityChain : Nat → Nat → Nat → Nat → BitVec 256
opaque identityMask : Nat → Nat → Nat → BitVec 256
/-- The memory-channel group that holds a physical address; the spec gives no interleaving (R52; log 16). -/
opaque channelOf : Nat → Nat
/-- The link port a peer rank is reached over: the job's routing (R255; log 16). -/
opaque portOf : Nat → Nat

/-- OWNOFF of a capability row in the device view (R39; log 100). -/
opaque ownOff : Nat → BitVec 32
/-- BURST of the rows MEMBW and LINKBW in the device view, where no one bucket is meant (R39; log 100). -/
opaque deviceBurst : Nat → BitVec 32
/-- RATE of the capability rows KEY (0x05) and ASID (0x06), which R38 gives no number (R39). -/
opaque capRate : Nat → BitVec 32

/-! ### Free values -/

/-- The two 256-bit halves of an AES-XTS-256 key, for the n-th draw of the on-die DRBG (R432; log 65). -/
opaque drbgKey : Nat → BitVec 512
/-- TLB entries that the instruction-cache lines of a cluster without valid code can hold: the spec gives those lines no
number (R200; log 13). -/
opaque icacheEntries : Nat → Nat
/-- A byte at a physical address that R191 reserves: the spec gives it no contents (log 14). -/
opaque reservedByte : Nat → BitVec 8

/-- FSFU in the corners where R183 gives only an error bound: the function's code and the input bits (log 15). -/
opaque fsfu : Nat → BitVec 32 → BitVec 32
/-- Cycles that pass before a step, for the n-th step (log 5). -/
opaque cyclesPerStep : Nat → Nat
/-- Microseconds of the reference clock that pass before a step (log 5). -/
opaque microsPerStep : Nat → Nat
/-- A free choice among k: the n-th choice (TLB replacement, the order of equal requests; logs 1, 13). -/
opaque choice : Nat → Nat → Nat

end Sys2Proof.Config
end

