-- ==== Sys2Proof/Machine/Float.lean ====
section
/-!
DEFINITION. Number formats and rounding (R145 to R154): exact values as signed fractions, the Round of R150 with its
modes and its overflow rule, the random word of R152, and the exact operations that lane and matrix arithmetic
round once.
-/

namespace Sys2Proof.Machine

/-- An exact value: NaN, an infinity, or (−1)^neg · num / den with den > 0. A zero keeps its sign. -/
inductive FV
  | nan
  | inf (neg : Bool)
  | fin (neg : Bool) (num : Nat) (den : Nat)
  deriving DecidableEq, Repr, Inhabited

/-- How a format's top codes are used (R145). -/
inductive FKind
  | ieee | e4m3 | e2m1
  deriving DecidableEq, Repr, Inhabited

/-- A floating-point format (R145). -/
structure FFmt where
  width : Nat
  frac : Nat
  bias : Nat
  kind : FKind
  deriving DecidableEq, Repr, Inhabited

def fmtF32 : FFmt := ⟨32, 23, 127, .ieee⟩
def fmtBF16 : FFmt := ⟨16, 7, 127, .ieee⟩
def fmtF16 : FFmt := ⟨16, 10, 15, .ieee⟩
def fmtE5M2 : FFmt := ⟨8, 2, 15, .ieee⟩
def fmtE4M3 : FFmt := ⟨8, 3, 7, .e4m3⟩
def fmtE2M1 : FFmt := ⟨4, 1, 1, .e2m1⟩

/-- The format of a floating TYPE. -/
def fmtOf : Ty → FFmt
  | .f32 => fmtF32 | .bf16 => fmtBF16 | .f16 => fmtF16 | .e5m2 => fmtE5M2 | .e4m3 => fmtE4M3 | .e2m1 => fmtE2M1
  | _ => fmtF32

/-- The canonical NaN (R147); E2M1 has none and gives +0 (R150). -/
def FFmt.nan (f : FFmt) : Nat :=
  match f.kind with
  | .ieee => (2 ^ (f.width - 1 - f.frac) - 1) * 2 ^ f.frac + 2 ^ (f.frac - 1)
  | .e4m3 => 0x7F
  | .e2m1 => 0

/-- The largest finite encoding (R145). -/
def FFmt.maxCode (f : FFmt) : Nat :=
  match f.kind with
  | .ieee => (2 ^ (f.width - 1 - f.frac) - 1) * 2 ^ f.frac - 1
  | .e4m3 => 0x7E
  | .e2m1 => 0x7

/-- The encoding of +inf. -/
def FFmt.infCode (f : FFmt) : Nat := (2 ^ (f.width - 1 - f.frac) - 1) * 2 ^ f.frac

def FFmt.signBit (f : FFmt) (neg : Bool) : Nat := if neg then 2 ^ (f.width - 1) else 0

/-- n · 2^k as a fraction. -/
def scaled (n : Nat) (k : Int) : Nat × Nat := if 0 ≤ k then (n * 2 ^ k.toNat, 1) else (n, 2 ^ (-k).toNat)

/-- The value of an encoding (R145). -/
def FFmt.decode (f : FFmt) (x : Nat) : FV :=
  let x := x % 2 ^ f.width
  let neg := decide (2 ^ (f.width - 1) ≤ x)
  let m := x % 2 ^ (f.width - 1)
  let e := m / 2 ^ f.frac
  let fr := m % 2 ^ f.frac
  let finite : FV :=
    if e = 0 then let p := scaled fr (1 - (f.bias : Int) - f.frac); .fin neg p.1 p.2
    else let p := scaled (2 ^ f.frac + fr) ((e : Int) - f.bias - f.frac); .fin neg p.1 p.2
  match f.kind with
  | .ieee => if e = 2 ^ (f.width - 1 - f.frac) - 1 then (if fr = 0 then .inf neg else .nan) else finite
  | .e4m3 => if m = 0x7F then .nan else finite
  | .e2m1 => finite

/-- Floor of log2 of num / den, for num > 0. -/
def floorLog2 (num den : Nat) : Int :=
  let l : Int := (num.log2 : Int) - (den.log2 : Int)
  let p := scaled den l
  if p.1 ≤ num * p.2 then l else l - 1

/-- |x| / 2^k as quotient, remainder and divisor. -/
def divPow2 (num den : Nat) (k : Int) : Nat × Nat × Nat :=
  let n := if 0 ≤ k then num else num * 2 ^ (-k).toNat
  let d := if 0 ≤ k then den * 2 ^ k.toNat else den
  (n / d, n % d, d)

/-- The rounding step of R150 and R152 on a magnitude: q kept, rem/d below it. -/
def roundUp (mode : Rnd) (neg : Bool) (r : Nat) (q rem d : Nat) : Bool :=
  match mode with
  | .rne => decide (d < 2 * rem) || (decide (2 * rem = d) && q % 2 == 1)
  | .rtz => false
  | .rdn => neg && rem != 0
  | .rup => !neg && rem != 0
  | .rsd => decide (2 ^ 24 ≤ rem * 2 ^ 24 / d + r)
  | _ => false

/-- Whether the mode rounds an overflow away from zero (R151). -/
def roundsAway (mode : Rnd) (neg : Bool) : Bool :=
  match mode with
  | .rne | .rsd => true
  | .rup => !neg
  | .rdn => neg
  | _ => false

/-- Over (R151). -/
def FFmt.over (f : FFmt) (neg : Bool) (infinite : Bool) (mode : Rnd) (sat : Bool) : Nat :=
  let top := f.signBit neg + f.maxCode
  match f.kind with
  | .e2m1 => top
  | .e4m3 => if sat then top else if infinite || roundsAway mode neg then f.nan else top
  | .ieee => if sat then top else if infinite || roundsAway mode neg then f.signBit neg + f.infCode else top

/-- |x| < smallest normal of F. -/
def FFmt.subnormal (f : FFmt) (num den : Nat) : Bool :=
  let p := scaled den (1 - (f.bias : Int))
  decide (num * p.2 < p.1)

/-- The encoding of q · 2^k, where q has at most frac + 2 bits and k is the quantum R150 chose. -/
def FFmt.encodeMag (f : FFmt) (q : Nat) (k : Int) : Nat :=
  let q' := if q = 2 ^ (f.frac + 1) then 2 ^ f.frac else q
  let k' := if q = 2 ^ (f.frac + 1) then k + 1 else k
  if q' < 2 ^ f.frac then q' else (k' + f.frac + f.bias).toNat * 2 ^ f.frac + (q' - 2 ^ f.frac)

/-- Round(x, F, mode, sat, ftz) of R150; r is the random word's 24 bits under RSD (R152). -/
def FFmt.round (f : FFmt) (mode : Rnd) (sat ftz : Bool) (r : Nat) : FV → Nat
  | .nan => f.nan
  | .inf neg => f.over neg true mode sat
  | .fin neg num den =>
    if num = 0 then f.signBit neg
    else if ftz && f.subnormal num den then f.signBit neg
    else
      let emin : Int := 1 - (f.bias : Int)
      let k : Int := max (floorLog2 num den) emin - f.frac
      let p := divPow2 num den k
      let q := if roundUp mode neg r p.1 p.2.1 p.2.2 then p.1 + 1 else p.1
      if q = 0 then f.signBit neg
      else
        let code := f.encodeMag q k
        if f.maxCode < code then f.over neg false mode sat
        else if ftz && decide (code < 2 ^ f.frac) then f.signBit neg
        else f.signBit neg + code

/-- RoundRNE(x, F) (R150). -/
def FFmt.rne (f : FFmt) (x : FV) : Nat := f.round .rne false false 0 x

namespace FV

def neg : FV → FV
  | .nan => .nan
  | .inf s => .inf (!s)
  | .fin s n d => .fin (!s) n d

def negIf (b : Bool) (x : FV) : FV := if b then x.neg else x

/-- FTZ on an operand: a subnormal becomes 0 of its sign (R180). -/
def flush (f : FFmt) : FV → FV
  | .fin s n d => if f.subnormal n d then .fin s 0 1 else .fin s n d
  | x => x

/-- The signed numerator of a finite value. -/
def snum (s : Bool) (n : Nat) : Int := if s then -(n : Int) else n

/-- The exact sum; inf − inf is NaN (R180). An exact zero sum is +0, and −0 under RDN, whatever the signs of its terms
(R150; log 67). -/
def add (mode : Rnd) : FV → FV → FV
  | .nan, _ | _, .nan => .nan
  | .inf a, .inf b => if a = b then .inf a else .nan
  | .inf a, _ | _, .inf a => .inf a
  | .fin a n1 d1, .fin b n2 d2 =>
    let v : Int := snum a n1 * d2 + snum b n2 * d1
    if v = 0 then .fin (mode == .rdn) 0 1 else .fin (decide (v < 0)) v.natAbs (d1 * d2)

/-- The exact product; inf × 0 is NaN (R180). -/
def mul : FV → FV → FV
  | .nan, _ | _, .nan => .nan
  | .inf a, .inf b => .inf (a != b)
  | .inf a, .fin b n _ => if n = 0 then .nan else .inf (a != b)
  | .fin a n _, .inf b => if n = 0 then .nan else .inf (a != b)
  | .fin a n1 d1, .fin b n2 d2 => .fin (a != b) (n1 * n2) (d1 * d2)

/-- An exact quotient of finite values with a nonzero divisor. -/
def div : FV → FV → FV
  | .fin a n1 d1, .fin b n2 d2 => if n2 = 0 then .nan else .fin (a != b) (n1 * d2) (d1 * n2)
  | _, _ => .nan

/-- The exact sum of a list, in which any NaN, or +inf with −inf, gives NaN (R156). -/
def sum : List FV → FV
  | [] => .fin false 0 1
  | [x] => x
  | x :: rest => add .rne x (sum rest)

def ofInt (v : Int) : FV := .fin (decide (v < 0)) v.natAbs 1

def isNan : FV → Bool | .nan => true | _ => false
def isInf : FV → Bool | .inf _ => true | _ => false
def isZero : FV → Bool | .fin _ 0 _ => true | _ => false
def negative : FV → Bool | .inf s => s | .fin s _ _ => s | .nan => false

/-- a < b of the extended reals, with −0 = +0; false with a NaN (R182). -/
def lt : FV → FV → Bool
  | .nan, _ | _, .nan => false
  | .inf a, .inf b => a && !b
  | .inf a, .fin _ _ _ => a
  | .fin _ _ _, .inf b => !b
  | .fin a n1 d1, .fin b n2 d2 => decide (snum a n1 * d2 < snum b n2 * d1)

/-- a = b of the extended reals, with −0 = +0; false with a NaN (R182). -/
def eq : FV → FV → Bool
  | .nan, _ | _, .nan => false
  | .inf a, .inf b => a == b
  | .fin a n1 d1, .fin b n2 d2 => decide (snum a n1 * d2 = snum b n2 * d1)
  | _, _ => false

/-- The magnitude. -/
def abs : FV → FV
  | .nan => .nan
  | .inf _ => .inf false
  | .fin _ n d => .fin false n d

end FV

/-- A value rounded to an integer by the mode (R154). -/
def roundInt (mode : Rnd) (r : Nat) : FV → Int
  | .fin s n d =>
    let q := if roundUp mode s r (n / d) (n % d) d then n / d + 1 else n / d
    if s then -(q : Int) else q
  | _ => 0

/-- Sat(x, lo, hi). -/
def clampInt (lo hi x : Int) : Int := if x < lo then lo else if hi < x then hi else x

/-- The range of an integer format of n bits (R146). -/
def intLo (signed : Bool) (n : Nat) : Int := if signed then -(2 ^ (n - 1) : Int) else 0
def intHi (signed : Bool) (n : Nat) : Int := if signed then 2 ^ (n - 1) - 1 else 2 ^ n - 1

/-- A floating value to an integer format: rounded, clamped, NaN to 0 (R154). -/
def toIntFmt (mode : Rnd) (r : Nat) (signed : Bool) (n : Nat) (x : FV) : Int :=
  match x with
  | .nan => 0
  | .inf s => if s then intLo signed n else intHi signed n
  | .fin _ _ _ => clampInt (intLo signed n) (intHi signed n) (roundInt mode r x)

/-- An n-bit code read as an integer by its format's signedness (R146). -/
def readInt (signed : Bool) (n : Nat) (x : Nat) : Int :=
  let m := x % 2 ^ n
  if signed && decide (2 ^ (n - 1) ≤ m) then (m : Int) - 2 ^ n else m

/-- The low n bits of an integer (wrapping modulo 2^n). -/
def wrapBits (n : Nat) (x : Int) : Nat := (x % (2 ^ n : Int)).toNat

/-- The 64-bit mixer of R152. -/
def mix (z : Word64) : Word64 :=
  let a := (z ^^^ (z >>> 30)) * 0xBF58476D1CE4E5B9
  let b := (a ^^^ (a >>> 27)) * 0x94D049BB133111EB
  b ^^^ (b >>> 31)

/-- r of R152: h[63:40] of four mixes over the seed and the coordinate words. -/
def rsdWord (seed k0 k1 k2 k3 : Word64) : Nat :=
  let h := mix (mix (mix (mix (seed ^^^ k0) ^^^ k1) ^^^ k2) ^^^ k3)
  (bits h 40 24).toNat

/-- FMNX (R181): the smaller or larger operand, −0 below +0, a lone NaN ignored; operands as encodings. -/
def minMaxF32 (wantMax : Bool) (a b : Nat) : Nat :=
  let x := fmtF32.decode a
  let y := fmtF32.decode b
  if x.isNan then (if y.isNan then fmtF32.nan else b)
  else if y.isNan then a
  else
    let aLess := x.lt y || (x.eq y && x.negative && !y.negative)
    if aLess = wantMax then b else a

/-- FCLASS (R185): the one-hot class of a raw encoding. -/
def classOf (f : FFmt) (x : Nat) : Nat :=
  match f.decode x with
  | .nan => 2 ^ 8
  | .inf s => if s then 2 ^ 0 else 2 ^ 7
  | .fin s n d =>
    if n = 0 then (if s then 2 ^ 3 else 2 ^ 4)
    else if f.subnormal n d then (if s then 2 ^ 2 else 2 ^ 5)
    else if s then 2 ^ 1 else 2 ^ 6

/-- The value of an element of any TYPE: floating formats by R145, integers exactly (R187). -/
def typeValue (t : Ty) (x : Nat) : FV :=
  if t.isFloat then (fmtOf t).decode x else FV.ofInt (readInt t.signed t.width x)

/-- Integer square root, by Newton's iteration on a fuel of the argument's bits. -/
def isqrtFuel : Nat → Nat → Nat → Nat
  | 0, _, x => x
  | k + 1, n, x =>
    let y := (x + n / x) / 2
    if y < x then isqrtFuel k n y else x

/-- Floor of the square root. -/
def isqrt (n : Nat) : Nat := if n = 0 then 0 else isqrtFuel (n.log2 + 4) n (2 ^ (n.log2 / 2 + 1))

/-- √a correctly rounded by RNE (R183), for a positive finite a; 2^80 leaves more bits than a tie can need, and a
remainder is kept as a sticky half. -/
def sqrtRne (num den : Nat) (ftz : Bool) : Nat :=
  let s := 2 ^ 320
  let v := num * s * s / den
  let q := isqrt v
  let exact := decide (q * q * den = num * s * s)
  fmtF32.round .rne false ftz 0 (.fin false (2 * q + b2n (!exact)) (2 * s))

/-- A value is an integer. -/
def FV.isInt : FV → Bool
  | .fin _ n d => decide (n % d = 0)
  | _ => false

/-! ### The bounds of FSFU (R183)

Each function is enclosed between two fractions far closer together than an ulp, and a free value is kept only where it
lies within the bound of both ends, so that it lies within the bound of the exact value itself. -/

/-- Two values between which an exact one lies, the first no larger in magnitude. -/
structure Encl where
  lo : FV
  hi : FV

def fixOne : Nat := 2 ^ 128

/-- 1/√(num/den) between neighbours on a grid of 2^−320, or exactly. -/
def rsqrtEncl (num den : Nat) : Encl :=
  let s := 2 ^ 320
  let q := isqrt (den * s * s / num)
  ⟨.fin false q s, .fin false (if q * q * num = den * s * s then q else q + 1) s⟩

/-- 2^f for a fraction f of 128 bits, from below and within one part in 2^119: the product of the square roots of 2 that
the bits of f name. -/
def exp2Frac (f : Nat) : Nat :=
  ((List.range 128).foldl (fun (acc : Nat × Nat) i =>
    let r := isqrt (acc.2 * fixOne)
    (if f / 2 ^ (127 - i) % 2 = 1 then acc.1 * r / fixOne else acc.1, r)) (fixOne, 2 * fixOne)).1

/-- 2^a for an a of magnitude num/den. -/
def exp2Encl (neg : Bool) (num den : Nat) : Encl :=
  let whole := num / den
  let part := num % den * fixOne
  let near := fun (e top : Nat) (k : Nat × Nat) =>
    (⟨.fin false (e * k.1) (fixOne * k.2), .fin false (min (e * (2 ^ 110 + 1)) (top * 2 ^ 110) * k.1) (fixOne * k.2 * 2 ^ 110)⟩ : Encl)
  if neg then
    if 200 ≤ whole then ⟨.fin false 0 1, .fin false 1 (2 ^ 200)⟩
    else if part = 0 then ⟨.fin false 1 (2 ^ whole), .fin false 1 (2 ^ whole)⟩
    else near (exp2Frac (fixOne - (part + den - 1) / den)) (2 * fixOne) (1, 2 ^ (whole + 1))
  else if 128 ≤ whole then ⟨.inf false, .inf false⟩
  else near (exp2Frac (part / den)) (2 * fixOne) (2 ^ whole, 1)

/-- log2 of num/den: the exponent, then 64 bits of fraction by repeated squaring; a power of 2 exactly. -/
def log2Encl (num den : Nat) : Encl :=
  let e := floorLog2 num den
  let m := num * (scaled den e).2 * fixOne / (scaled den e).1
  let digits := (List.range 64).foldl (fun (acc : Nat × Nat) _ =>
    let q := acc.2 * acc.2 / fixOne
    if 2 * fixOne ≤ q then (2 * acc.1 + 1, q / 2) else (2 * acc.1, q)) (0, m)
  let at_ : Int → FV := fun v => .fin (decide (v < 0)) v.natAbs (2 ^ 64)
  let v : Int := e * 2 ^ 64 + (digits.1 : Int)
  if m = fixOne then ⟨at_ v, at_ v⟩ else if v < 0 then ⟨at_ (v + 2), at_ v⟩ else ⟨at_ v, at_ (v + 2)⟩

/-- |sin(π·num/den)| times 2^128, within 2^−110 of it, with its sign: reduced to a quarter turn, then the power series. -/
def sinPiFixed (num den : Nat) : Int :=
  let t := num % (2 * den)
  let neg := decide (den ≤ t)
  let t := t % den
  let t := if den < 2 * t then den - t else t
  let z : Int := ((0x3243F6A8885A308D313198A2E03707344 * t / den : Nat) : Int)
  let one : Int := (fixOne : Int)
  let sum := (List.range 24).foldl (fun (acc : Int × Int) i =>
    let next := -(acc.2 * z / one * z / one) / (((2 * i + 2) * (2 * i + 3) : Nat) : Int)
    (acc.1 + next, next)) (z, z)
  if neg then -sum.1 else sum.1

/-- sin(π·a) for an a of magnitude num/den. -/
def sinPiEncl (neg : Bool) (num den : Nat) : Encl :=
  let v := if neg then -sinPiFixed num den else sinPiFixed num den
  let at_ : Int → FV := fun v => .fin (decide (v < 0)) v.natAbs fixOne
  ⟨at_ (v - 2 ^ 18), at_ (v + 2 ^ 18)⟩

/-- tanh of an a of magnitude num/den: x − x³/3 and 2x⁵/15 above it where x is small, below 1 by less than 2^−100 where it
is large, else by 2^(2·a·log2 e). -/
def tanhEncl (neg : Bool) (num den : Nat) : Encl :=
  if num * 2 ^ 15 ≤ den then
    let low := num * (3 * den ^ 2 - num ^ 2)
    ⟨.fin neg low (3 * den ^ 3), .fin neg (5 * low * den ^ 2 + 2 * num ^ 5) (15 * den ^ 5)⟩
  else if 64 * den ≤ num then ⟨.fin neg (2 ^ 100 - 1) (2 ^ 100), .fin neg 1 1⟩
  else
    let w := 2 * num * 0x171547652B82FE1777D0FFDA0D23A7D11 / den
    let e := exp2Frac (w % fixOne) * 2 ^ (w / fixOne)
    let one := fixOne * 2 ^ 105
    ⟨.fin neg (e - fixOne) (e + fixOne), .fin neg (e * (2 ^ 105 + 1) - one) (e * (2 ^ 105 + 1) + one)⟩

/-- y is a finite F32 value within num · 2^k of v. -/
def withinOf (num : Nat) (k : Int) (v : FV) (y : Nat) : Bool :=
  let b := scaled num k
  match (fmtF32.decode y).add .rne v.neg with
  | .fin _ n den => decide (n * b.2 ≤ b.1 * den)
  | _ => false

/-- A free F32 value y where it keeps within num · 2^k of both ends; elsewhere the lower end rounded. -/
def Encl.keep (v : Encl) (num : Nat) (k : Int) (y : Nat) : Nat :=
  if withinOf num k v.lo y && withinOf num k v.hi y then y else fmtF32.rne v.lo

/-- The same within n ulp, the spacing of F32 values at the exact result; an overflow gives inf. -/
def Encl.keepUlp (v : Encl) (n : Nat) (y : Nat) : Nat :=
  match v.lo with
  | .fin s num den =>
    if (fmtF32.decode (fmtF32.rne v.lo)).isInf then fmtF32.rne (.inf s)
    else v.keep n ((if num = 0 then -126 else max (floorLog2 num den) (-126)) - 23) y
  | x => fmtF32.rne x

/-- The free value of FSFU in the cases where R183 states a bound and no exact result, kept within the bound (log 15). -/
def fsfuFree (fn : Nat) (ftz : Bool) (neg : Bool) (num den : Nat) (y : Word32) : Word32 :=
  let r : Nat :=
    match fn with
    | 0 => Encl.keepUlp ⟨.fin neg den num, .fin neg den num⟩ 1 y.toNat
    | 1 => (rsqrtEncl num den).keepUlp 2 y.toNat
    | 3 => (exp2Encl neg num den).keepUlp 2 y.toNat
    | 4 =>
      if decide (den ≤ 2 * num) && decide (num ≤ 2 * den) then (log2Encl num den).keep 1 (-22) y.toNat
      else (log2Encl num den).keepUlp 2 y.toNat
    | 5 => (sinPiEncl neg num den).keep 1 (-22) y.toNat
    | 6 => (sinPiEncl false (2 * num + den) (2 * den)).keep 1 (-22) y.toNat
    | _ => (tanhEncl neg num den).keepUlp 2 y.toNat
  let v : Word32 := BitVec.ofNat 32 r
  if ftz && decide ((v &&& 0x7FFFFFFF).toNat < 2 ^ 23) then v &&& 0x80000000 else v

/-- FSFU (R183, R184) on an F32 input x after NEG: the specials and the exact cases as the table gives them, and
elsewhere the part's own fixed function of the bits (log 15). -/
def fsfuValue (fn : Nat) (ftz : Bool) (x : Word32) : Word32 :=
  let raw := fmtF32.decode x.toNat
  let a := if ftz then raw.flush fmtF32 else raw
  let out := fun (v : FV) => BitVec.ofNat 32 (fmtF32.round .rne false ftz 0 v)
  let key : Word32 := if ftz && a.isZero then (if a.negative then 0x80000000 else 0) else x
  let open_ :=
    match a with
    | .fin s n d => fsfuFree fn ftz s n d (Config.fsfu fn key)
    | _ => 0
  let qnan : Word32 := BitVec.ofNat 32 fmtF32.nan
  match a with
  | .nan => qnan
  | .inf s =>
    match fn with
    | 0 => out (.fin s 0 1)
    | 1 => if s then qnan else out (.fin false 0 1)
    | 2 => if s then qnan else out (.inf false)
    | 3 => if s then out (.fin false 0 1) else out (.inf false)
    | 4 => if s then qnan else out (.inf false)
    | 7 => out (.fin s 1 1)
    | _ => qnan
  | .fin s n d =>
    if n = 0 then
      match fn with
      | 0 | 1 => out (.inf s)
      | 2 | 7 => out (.fin s 0 1)
      | 3 => out (.fin false 1 1)
      | 4 => out (.inf true)
      | 5 => out (.fin s 0 1)
      | _ => open_
    else
      match fn with
      | 1 => if s then qnan else open_
      | 2 => if s then qnan else BitVec.ofNat 32 (sqrtRne n d ftz)
      | 3 =>
        if n % d = 0 && decide (n / d ≤ 300) then
          let k : Int := if s then -((n / d : Nat) : Int) else (n / d : Nat)
          let p := scaled 1 k
          if decide (-149 ≤ k) && decide (k ≤ 127) then out (.fin false p.1 p.2) else open_
        else open_
      | 4 => if s then qnan else if n = d then out (.fin false 0 1) else open_
      | 5 => if n % d = 0 then out (.fin s 0 1) else open_
      | 6 => if 2 * n % d = 0 && n % d != 0 then out (.fin false 0 1) else open_
      | _ => open_

end Sys2Proof.Machine
end

