-- ==== Sys2Proof/Machine/Crypto.lean ====
section
/-!
DEFINITION. The cryptography that the spec names by its standards: SHA-256 (R429, R431; FIPS 180-4), LMS and HSS
signatures (R429, R430; RFC 8554), and AES-XTS-256 (R432; FIPS 197, IEEE 1619). Keys and their derivation are free
(Config; logs 7, 65).
-/

namespace Sys2Proof.Machine

/-- A number as n little-endian bytes. -/
def numBytes (n x : Nat) : List Byte := (List.range n).map (fun i => BitVec.ofNat 8 (x / 2 ^ (8 * i)))

/-- A number as n big-endian bytes. -/
def bigBytes (n x : Nat) : List Byte := (numBytes n x).reverse

/-- The number that big-endian bytes spell. -/
def bigNum (b : List Byte) : Nat := b.foldl (fun acc x => 256 * acc + x.toNat) 0

/-- The number that little-endian bytes spell. -/
def littleNum (b : List Byte) : Nat := bigNum b.reverse

theorem numBytes_length (n x : Nat) : (numBytes n x).length = n := by simp [numBytes]
theorem bigBytes_length (n x : Nat) : (bigBytes n x).length = n := by simp [bigBytes, numBytes_length]

/-! ### SHA-256 (FIPS 180-4) -/

/-- The primes below 312, which are the first 64. -/
def shaPrimes : List Nat :=
  (List.range 312).filter (fun p => decide (1 < p) && (List.range 18).all (fun d => decide (d < 2) || decide (p ≤ d) || p % d != 0))

/-- The largest number whose k-th power is at most x, found bit by bit; it is below 2^36 here. -/
def wholeRoot (k x : Nat) : Nat :=
  (List.range 36).reverse.foldl (fun acc i => if (acc + 2 ^ i) ^ k ≤ x then acc + 2 ^ i else acc) 0

/-- The first 32 bits of the fraction of p's k-th root. -/
def rootBits (k p : Nat) : Word32 := BitVec.ofNat 32 (wholeRoot k (p * 2 ^ (32 * k)))

/-- The constants of the 64 rounds: from the cube roots of the primes. -/
def shaConstants : List Word32 := shaPrimes.map (rootBits 3)

/-- The eight working words. -/
structure Sha where
  a : Word32
  b : Word32
  c : Word32
  d : Word32
  e : Word32
  f : Word32
  g : Word32
  h : Word32
  deriving DecidableEq, Repr, Inhabited

/-- The initial words: from the square roots of the first eight primes. -/
def shaStart : Sha :=
  let r := fun (i : Nat) => rootBits 2 (shaPrimes.getD i 0)
  ⟨r 0, r 1, r 2, r 3, r 4, r 5, r 6, r 7⟩

def rotr (x : Word32) (n : Nat) : Word32 := (x >>> n) ||| (x <<< (32 - n))

/-- One of the 64 rounds, with its constant and its word of the schedule. -/
def Sha.round (s : Sha) (kw : Word32 × Word32) : Sha :=
  let s1 := rotr s.e 6 ^^^ rotr s.e 11 ^^^ rotr s.e 25
  let ch := (s.e &&& s.f) ^^^ (~~~s.e &&& s.g)
  let t1 := s.h + s1 + ch + kw.1 + kw.2
  let s0 := rotr s.a 2 ^^^ rotr s.a 13 ^^^ rotr s.a 22
  let maj := (s.a &&& s.b) ^^^ (s.a &&& s.c) ^^^ (s.b &&& s.c)
  ⟨t1 + (s0 + maj), s.a, s.b, s.c, s.d + t1, s.e, s.f, s.g⟩

/-- The schedule of 64 words, the newest first, from the 16 of a block. -/
def shaSchedule (block : List Byte) : List Word32 :=
  let first := (List.range 16).map (fun i => BitVec.ofNat 32 (bigNum ((block.drop (4 * i)).take 4)))
  (List.range 48).foldl (fun (w : List Word32) _ =>
    let x := w.getD 14 0
    let y := w.getD 1 0
    let s0 := rotr x 7 ^^^ rotr x 18 ^^^ (x >>> 3)
    let s1 := rotr y 17 ^^^ rotr y 19 ^^^ (y >>> 10)
    (w.getD 15 0 + s0 + w.getD 6 0 + s1) :: w) first.reverse

def Sha.block (s : Sha) (block : List Byte) : Sha :=
  let t := (shaConstants.zip (shaSchedule block).reverse).foldl Sha.round s
  ⟨s.a + t.a, s.b + t.b, s.c + t.c, s.d + t.d, s.e + t.e, s.f + t.f, s.g + t.g, s.h + t.h⟩

/-- The message with its padding: a one bit, zeros, and its length in bits. -/
def shaPad (m : List Byte) : List Byte :=
  m ++ [0x80] ++ List.replicate ((119 - m.length % 64) % 64) 0 ++ bigBytes 8 (8 * m.length)

/-- The blocks of n bytes of a list, at most as many as the fuel. -/
def blocksOf (n : Nat) : Nat → List Byte → List (List Byte)
  | 0, _ => []
  | k + 1, m => if m.isEmpty then [] else m.take n :: blocksOf n k (m.drop n)

def Sha.words (s : Sha) : List Word32 := [s.a, s.b, s.c, s.d, s.e, s.f, s.g, s.h]

/-- SHA-256, whose first byte is the low byte of the result. -/
def sha256 (m : List Byte) : BitVec 256 :=
  let p := shaPad m
  let s := (blocksOf 64 (p.length / 64) p).foldl Sha.block shaStart
  BitVec.ofNat 256 (littleNum (s.words.flatMap (fun w => bigBytes 4 w.toNat)))

/-- The 32 bytes of SHA-256. -/
def hashBytes (m : List Byte) : List Byte := numBytes 32 (sha256 m).toNat

theorem hashBytes_length (m : List Byte) : (hashBytes m).length = 32 := numBytes_length _ _

/-! ### LM-OTS with LMOTS_SHA256_N32_W4 (RFC 8554, section 4) -/

/-- LMOTS_SHA256_N32_W4. -/
def otsType : List Byte := bigBytes 4 3

/-- The 67 digits of a message: those of its hash Q, and those of Q's checksum. -/
def otsDigits (id q mask msg : List Byte) : List Nat :=
  let digits : List Byte → List Nat := fun b => b.flatMap (fun x => [x.toNat / 16, x.toNat % 16])
  let d := digits (hashBytes (id ++ q ++ [0x81, 0x81] ++ mask ++ msg))
  d ++ (digits (bigBytes 2 ((d.map (fun x => 15 - x)).sum * 16))).take 3

/-- A hash chain: n steps of chain i from its step j. -/
def otsChain (id q : List Byte) (i : Nat) : Nat → Nat → List Byte → List Byte
  | 0, _, x => x
  | n + 1, j, x => otsChain id q i n (j + 1) (hashBytes (id ++ q ++ bigBytes 2 i ++ [BitVec.ofNat 8 j] ++ x))

/-- The public key that the ends of the 67 chains give. -/
def otsKey (id q : List Byte) (ends : List (List Byte)) : List Byte := hashBytes (id ++ q ++ [0x80, 0x80] ++ ends.flatten)

/-- The public key that a signature (type, C, y[0] to y[66]) gives for a message. -/
def otsCandidate (id q msg sig : List Byte) : List Byte :=
  otsKey id q ((otsDigits id q ((sig.drop 4).take 32) msg).zipIdx.map (fun (d, i) =>
    otsChain id q i (15 - d) d ((sig.drop (36 + 32 * i)).take 32)))

/-! ### LMS with M = 32 (RFC 8554, section 5) -/

/-- The typecode of LMS_SHA256_M32_H10 or LMS_SHA256_M32_H15. -/
def lmsType (h : Nat) : List Byte := bigBytes 4 (if h = 10 then 6 else 7)

/-- A leaf of the tree. -/
def lmsLeaf (id key : List Byte) (node : Nat) : List Byte := hashBytes (id ++ bigBytes 4 node ++ [0x82, 0x82] ++ key)

/-- An inner node of the tree, over its two children. -/
def lmsInner (id : List Byte) (node : Nat) (left right : List Byte) : List Byte :=
  hashBytes (id ++ bigBytes 4 node ++ [0x83, 0x83] ++ left ++ right)

/-- The root that a node and the path above it give. -/
def lmsClimb (id : List Byte) : List (List Byte) → Nat → List Byte → List Byte
  | [], _, x => x
  | p :: rest, node, x =>
    lmsClimb id rest (node / 2) (if node % 2 = 1 then lmsInner id (node / 2) p x else lmsInner id (node / 2) x p)

/-- Bytes of an LMS signature of height h: q, the one-time signature, the type, the path. -/
def lmsSigLen (h : Nat) : Nat := 12 + 32 * 68 + 32 * h

/-- The root that a signature gives for a message under the identifier I of a tree of height h. -/
def lmsCandidate (h : Nat) (id msg sig : List Byte) : List Byte :=
  let q := sig.take 4
  let path := (List.range h).map (fun i => (sig.drop (2188 + 32 * i)).take 32)
  let node := 2 ^ h + bigNum q
  lmsClimb id path node (lmsLeaf id (otsCandidate id q msg (sig.drop 4)) node)

/-- The signature's types are those of the public key, and its length and leaf number fit. -/
def lmsForm (h : Nat) (sig : List Byte) : Bool :=
  sig.length == lmsSigLen h && (sig.drop 4).take 4 == otsType && (sig.drop 2184).take 4 == lmsType h &&
  decide (bigNum (sig.take 4) < 2 ^ h)

/-- Verification under a public key of 56 bytes: the two types, the identifier I and the root. -/
def lmsVerify (h : Nat) (key msg sig : List Byte) : Bool :=
  lmsForm h sig && key.take 8 == lmsType h ++ otsType && key.drop 24 == lmsCandidate h ((key.drop 8).take 16) msg sig

/-! ### HSS with two levels (RFC 8554, section 6) -/

/-- Verification under a root public key: the number of levels, which is 2, and the top level's LMS public key. The signature
is the number of signed public keys, which is 1, the signature over the second level's public key, that key, and its
signature over the message. -/
def hssVerify (h : Nat) (root msg sig : List Byte) : Bool :=
  let n := lmsSigLen h
  let second := (sig.drop (4 + n)).take 56
  root.take 4 == bigBytes 4 2 && sig.take 4 == bigBytes 4 1 && lmsVerify h (root.drop 4) second ((sig.drop 4).take n) &&
  lmsVerify h second msg (sig.drop (60 + n))

/-! ### The device's identity key (R430): signing

Config gives the identifier of each tree and the start of each chain, which the device derives from its secret. Tree 0 is
the top level, and tree n + 1 is the bottom level of the boot whose leaf is n. -/

/-- The identifier I of a tree. -/
def identityId (tree : Nat) : List Byte := numBytes 16 (Config.identityId Config.deviceSecret tree).toNat

/-- Where chain i of a leaf starts. -/
def chainStart (tree leaf i : Nat) : List Byte := numBytes 32 (Config.identityChain Config.deviceSecret tree leaf i).toNat

/-- The one-time public key of a leaf. -/
def leafKey (tree leaf : Nat) : List Byte :=
  let id := identityId tree
  let q := bigBytes 4 leaf
  otsKey id q ((List.range 67).map (fun i => otsChain id q i 15 0 (chainStart tree leaf i)))

/-- The node of that number, k levels above the leaves of a tree of height 15. -/
def treeNode (tree : Nat) : Nat → Nat → List Byte
  | 0, node => lmsLeaf (identityId tree) (leafKey tree (node - 2 ^ 15)) node
  | k + 1, node => lmsInner (identityId tree) node (treeNode tree k (2 * node)) (treeNode tree k (2 * node + 1))

/-- The public key of a tree: 56 bytes. -/
def treeKey (tree : Nat) : List Byte := lmsType 15 ++ otsType ++ identityId tree ++ treeNode tree 15 1

/-- The LMS signature of a message by a leaf: 2,668 bytes. -/
def leafSign (tree leaf : Nat) (msg : List Byte) : List Byte :=
  let id := identityId tree
  let q := bigBytes 4 leaf
  let mask := numBytes 32 (Config.identityMask Config.deviceSecret tree leaf).toNat
  q ++ otsType ++ mask ++
    ((otsDigits id q mask msg).zipIdx.map (fun (d, i) => otsChain id q i d 0 (chainStart tree leaf i))).flatten ++
    lmsType 15 ++ ((List.range 15).map (fun k => treeNode tree k ((2 ^ 15 + leaf) / 2 ^ k ^^^ 1))).flatten

/-- The HSS signature of a report by bottom leaf `attn` of the boot whose top leaf is `bootn` (R430, R431): 5,396 bytes. -/
def identitySign (bootn attn : Nat) (msg : List Byte) : List Byte :=
  bigBytes 4 1 ++ leafSign 0 bootn (treeKey (bootn + 1)) ++ treeKey (bootn + 1) ++ leafSign (bootn + 1) attn msg

/-! ### AES-256 (FIPS 197) -/

/-- Multiplication by x in GF(2^8) with the polynomial 0x11B. -/
def aesDouble (x : Byte) : Byte := (x <<< 1) ^^^ (if bit x 7 then 0x1B else 0)

def aesMulFuel : Nat → Byte → Byte → Byte
  | 0, _, _ => 0
  | k + 1, x, y => (if bit y 0 then x else 0) ^^^ aesMulFuel k (aesDouble x) (y >>> 1)
def aesMul (x y : Byte) : Byte := aesMulFuel 8 x y

/-- The inverse, which is x^254; 0 for 0. -/
def aesInv (x : Byte) : Byte :=
  let y := (List.range 6).foldl (fun r _ => aesMul (aesMul r r) x) x
  aesMul y y

def rotl8 (x : Byte) (n : Nat) : Byte := (x <<< n) ||| (x >>> (8 - n))
def subByte (x : Byte) : Byte :=
  let b := aesInv x
  b ^^^ rotl8 b 1 ^^^ rotl8 b 2 ^^^ rotl8 b 3 ^^^ rotl8 b 4 ^^^ 0x63
def unsubByte (y : Byte) : Byte := aesInv (rotl8 y 1 ^^^ rotl8 y 3 ^^^ rotl8 y 6 ^^^ 0x05)

def xorBytes (a b : List Byte) : List Byte := (a.zip b).map (fun (x, y) => x ^^^ y)

/-- The 60 words of the key schedule, the newest first. -/
def keyWords (key : List Byte) : List (List Byte) :=
  let first := (List.range 8).map (fun i => (key.drop (4 * i)).take 4)
  ((List.range 52).foldl (fun (acc : List (List Byte) × Byte) n =>
    let w := acc.1.getD 0 []
    let old := acc.1.getD 7 []
    if n % 8 = 0 then
      let t := (w.drop 1 ++ w.take 1).map subByte
      (xorBytes old (xorBytes t [acc.2, 0, 0, 0]) :: acc.1, aesDouble acc.2)
    else if n % 8 = 4 then (xorBytes old (w.map subByte) :: acc.1, acc.2)
    else (xorBytes old w :: acc.1, acc.2)) (first.reverse, 1)).1

/-- The 15 round keys of 16 bytes, in order. -/
def roundKeys (key : List Byte) : List (List Byte) := blocksOf 16 15 (keyWords key).reverse.flatten

/-- Row r of the block turns to the left by turn·r columns: 1 as ShiftRows, 3 as its inverse. -/
def shiftRows (turn : Nat) (b : List Byte) : List Byte :=
  (List.range 16).map (fun i => b.getD (4 * ((i / 4 + turn * (i % 4)) % 4) + i % 4) 0)

/-- Each column times the circulant matrix with this first row. -/
def mixColumns (row : List Byte) (b : List Byte) : List Byte :=
  (List.range 16).map (fun i =>
    (List.range 4).foldl (fun acc j => acc ^^^ aesMul (row.getD ((j + 4 - i % 4) % 4) 0) (b.getD (4 * (i / 4) + j) 0)) 0)

def aesEncrypt (key block : List Byte) : List Byte :=
  match roundKeys key with
  | [] => block
  | k0 :: rest =>
    rest.zipIdx.foldl (fun b (k, i) =>
      let t := shiftRows 1 (b.map subByte)
      xorBytes (if i = 13 then t else mixColumns [2, 3, 1, 1] t) k) (xorBytes block k0)

def aesDecrypt (key block : List Byte) : List Byte :=
  match (roundKeys key).reverse with
  | [] => block
  | k14 :: rest =>
    rest.zipIdx.foldl (fun b (k, i) =>
      let t := xorBytes ((shiftRows 3 b).map unsubByte) k
      if i = 13 then t else mixColumns [14, 11, 13, 9] t) (xorBytes block k14)

/-! ### AES-XTS-256 over a 64-byte sector (R432; IEEE 1619) -/

/-- The data half and the tweak half of a key. -/
def dataKey (key : BitVec 512) : List Byte := numBytes 32 key.toNat
def tweakKey (key : BitVec 512) : List Byte := numBytes 32 (key.toNat / 2 ^ 256)

/-- A tweak times α in GF(2^128). -/
def tweakDouble (t : List Byte) : List Byte :=
  let x := 2 * littleNum t
  numBytes 16 (if x < 2 ^ 128 then x else (x - 2 ^ 128) ^^^ 0x87)

def tweakTimes : Nat → List Byte → List Byte
  | 0, t => t
  | k + 1, t => tweakTimes k (tweakDouble t)

/-- The tweak of the 16-byte block at a physical address: its sector's address bits [47:6], encrypted, then one doubling
for each block before it in the sector. -/
def xtsTweak (key : BitVec 512) (pa : Nat) : List Byte :=
  tweakTimes (pa % 64 / 16) (aesEncrypt (tweakKey key) (numBytes 16 (pa / 64 % 2 ^ 42)))

def xtsEncrypt (key : BitVec 512) (pa : Nat) (block : List Byte) : List Byte :=
  let t := xtsTweak key pa
  xorBytes (aesEncrypt (dataKey key) (xorBytes block t)) t

def xtsDecrypt (key : BitVec 512) (pa : Nat) (block : List Byte) : List Byte :=
  let t := xtsTweak key pa
  xorBytes (aesDecrypt (dataKey key) (xorBytes block t)) t

end Sys2Proof.Machine
end

