-- ==== Sys2Proof/Machine/Sparse.lean ====
section
/-!
DEFINITION. Sparse maps from natural-number keys, in one canonical form: keys strictly rising, and no entry equal
to the value an unlisted key stands for. Memory, register files and the device's numbered units are such maps, so
equal contents are equal data.
-/

namespace Sys2Proof.Machine

/-- A sparse map: its entries in ascending key order. -/
abbrev SMap (α : Type) := List (Nat × α)

/-- The value at key k; an unlisted key reads d. -/
def SMap.get {α : Type} (d : α) : SMap α → Nat → α
  | [], _ => d
  | (k', v) :: rest, k => if k = k' then v else SMap.get d rest k

/-- An entry put before the first larger key. -/
def SMap.insert {α : Type} (k : Nat) (v : α) : SMap α → SMap α
  | [] => [(k, v)]
  | e :: rest => if k < e.1 then (k, v) :: e :: rest else e :: SMap.insert k v rest

/-- The map with v at key k; writing d removes the entry. -/
def SMap.put {α : Type} [DecidableEq α] (d : α) (m : SMap α) (k : Nat) (v : α) : SMap α :=
  let m := m.filter (fun e => e.1 != k)
  if v = d then m else SMap.insert k v m

/-- The canonical form: every key is above `lo`'s predecessors, keys rise, no entry holds d. -/
def SMap.wfFrom {α : Type} [DecidableEq α] (d : α) : Nat → SMap α → Bool
  | _, [] => true
  | lo, (k, v) :: rest => decide (lo ≤ k) && decide (v ≠ d) && SMap.wfFrom d (k + 1) rest

/-- The canonical form from the lowest key on. -/
def SMap.wf {α : Type} [DecidableEq α] (d : α) (m : SMap α) : Bool := SMap.wfFrom d 0 m

/-- Memory: addresses with the bytes they hold, an unlisted address reading 0. -/
abbrev Memory := List Host.Cell

/-- What a byte reads as (R428 step 3 for device memory; a design choice for host memory, log 8). -/
def Memory.read (m : Memory) (a : Nat) : Byte := SMap.get 0 m a
/-- A write of one byte, keeping the canonical form. -/
def Memory.write (m : Memory) (a : Nat) (b : Byte) : Memory := SMap.put 0 m a b
/-- The canonical form of a memory. -/
def Memory.wf (m : Memory) : Bool := SMap.wf (0 : Byte) m

end Sys2Proof.Machine
end

