-- ==== Sys2Proof/Machine/State.lean ====
section
/-!
DEFINITION. The state of one Snivik device: every piece of state the spec gives the machine, as plain data, and the
state right after a power-on reset whose boot completed (R428). INVENTORY.md lists each field with its rule.
-/

namespace Sys2Proof.Machine

/-! ### Values with poison (R158) -/

/-- A 32-bit register word or accumulator element with its poison. -/
structure PWord where
  val : Word32
  pois : Option Tag
  deriving DecidableEq, Repr, Inhabited

/-- A uniform register: 64 bits, poison for each half (R139). -/
structure SVal where
  val : Word64
  lo : Option Tag
  hi : Option Tag
  deriving DecidableEq, Repr, Inhabited

/-- A predicate register: a bit and a poison bit per lane, one tag (R139). -/
structure PReg where
  val : BitVec 128
  pois : BitVec 128
  tag : Tag
  deriving DecidableEq, Repr, Inhabited

/-- A translation register (R196). -/
structure BReg where
  valid : Bool
  asid : BitVec 8
  vbase : Addr
  frame : Addr
  limit : BitVec 30
  w : Bool
  deriving DecidableEq, Repr, Inhabited

def PWord.zero : PWord := ⟨0, none⟩
def SVal.zero : SVal := ⟨0, none, none⟩
def PReg.zero : PReg := ⟨0, 0, 0⟩
def BReg.invalid : BReg := ⟨false, 0, 0, 0, 0, false⟩

/-- A byte on its way to memory: its physical address or scratchpad offset, value and poison, and the group and lane
that wrote it (none for an engine or the device itself). -/
structure WByte where
  addr : Nat
  val : Byte
  pois : Option Tag
  writer : Option (Nat × Nat)
  deriving DecidableEq, Repr, Inhabited

/-- The flags and the lowest tag of R395. -/
structure Chkiv where
  ptag : Tag
  engflt : Bool
  qsat : Bool
  remote : Bool
  poison : Bool
  deriving DecidableEq, Repr, Inhabited

def Chkiv.clear : Chkiv := ⟨0, false, false, false, false⟩

/-! ### Engine commands (R240, R241) -/

/-- A command's state (R241). -/
inductive CmdState
  | held | queued | active
  deriving DecidableEq, Repr, Inhabited

/-- The kind of an engine command (R261, R377). -/
inductive CmdKind
  | cpy | cpyg | cpys | cpyr | cpyh | rebuild
  deriving DecidableEq, Repr, Inhabited

/-- How a command fails (R246, R258, R264). -/
inductive FailKind
  | nack | tout
  deriving DecidableEq, Repr, Inhabited

/-- A peer chunk in flight on PCH (R326): its number, the bytes it counts, and when it was sent. -/
structure SentChunk where
  num : Nat
  bytes : Nat
  sentUs : Nat
  deriving DecidableEq, Repr, Inhabited

/-- An engine command in EQ(k) (R240, R241, R259, R260). -/
structure Cmd where
  uid : Nat
  slot : Nat
  /-- the order in which it became QUEUED in its cluster -/
  order : Nat
  state : CmdState
  kind : CmdKind
  part : Nat
  tid : Nat
  cohort : Nat
  core : Nat
  gid : Nat
  /-- the issuing cohort has exited (R241) -/
  orphan : Bool
  /-- issued by a resumed continuation, which holds no scratchpad (R357) -/
  resumed : Bool
  asid : BitVec 8
  dsp : Nat
  ssp : Nat
  rty : Nat
  ord : Bool
  mcast : Bool
  peer : Bool
  notify : Nat
  vec : Nat
  aw : Option Nat
  ntid : Nat
  dst : Word64
  src : Word64
  /-- LEN and ROWS; for REBUILD one row of NSU stripe units -/
  len : Nat
  rows : Nat
  dpitch : Nat
  spitch : Nat
  idxoff : Nat
  idxmax : Nat
  setId : Nat
  nmem : Nat
  rank : Nat
  prank : Nat
  hnum : Option Nat
  cmask : BitVec 4
  /-- REBUILD: the parity group, the member and the first stripe unit (R377) -/
  pgid : BitVec 16
  tgt : Nat
  fsu : Nat
  /-- the index list read on activation (R264) -/
  idx : List Nat
  /-- bytes moved, and chunks numbered so far -/
  moved : Nat
  chunks : Nat
  /-- the next chunk's bytes once their tokens were asked for, and its pieces that have not left a bucket (R52) -/
  asked : Nat
  pieces : Nat
  /-- chunks moved that wait to make their Arrive: number and bytes -/
  done : List (Nat × Nat)
  sent : List SentChunk
  /-- ordered chunks held at this device's destination controller: number and bytes (R256) -/
  waits : List (Nat × Nat)
  /-- REBUILD: when the chunk's peer reads were sent, and the answers so far by member (R377) -/
  readsUs : Option Nat
  replies : List (Nat × List PByte)
  /-- REBUILD: the members that the chunk's peer reads were sent to, from then until the chunk is computed (R377) -/
  srcs : List Nat
  /-- the command is to end with ERR -/
  err : Option FailKind
  /-- the count patched in was poisoned (R269) -/
  poisonedCount : Bool
  /-- the cohorts that receive an ACTIVE command's bytes under MCAST (R245) -/
  targets : List Nat
  deriving DecidableEq, Repr, Inhabited

/-! ### Slices, splits and loops (R88 to R109) -/

/-- KIND of a lane entry (R96). -/
inductive EntryKind
  | branch | sideTrip | rejoin
  deriving DecidableEq, Repr, Inhabited

/-- A lane entry of LSTK (R96). `side` tells a side trip's stage: false in the retire section, true in the
prologue (R106); a side trip's `arr` holds R. -/
structure LaneEntry where
  kind : EntryKind
  rpc : Option Addr
  orig : BitVec 4
  taken : BitVec 4
  arr : BitVec 4
  tpc : Addr
  phase : Bool
  /-- the block a side trip returns into, with SIGACC as REFILL left it (R106, R110) -/
  back : Option (Addr × Word64 × BitVec 12)
  deriving DecidableEq, Repr, Inhabited

/-- A memory access of one lane after translation: the lane, the virtual address or offset, the physical address (the
same offset in scratchpad and weight store), and the operands that an atomic holds while it waits, with their poison. -/
structure Access where
  lane : Nat
  va : Nat
  pa : Nat
  x : Word64 := 0
  y : Word64 := 0
  pois : Option Tag := none
  deriving DecidableEq, Repr, Inhabited

/-- What a slice waits for across issue attempts (R93). -/
inductive Wait
  | none
  /-- the split entry's reconvergence header (R100) -/
  | rejoin
  /-- a REGANG of some words with its effective gang (R101) -/
  | regang (gang : BitVec 32) (words : Nat)
  /-- the loop exit (R106, R107) -/
  | loopExit
  /-- a BAR of some words: barrier, mode, count; `acted` once the group has acted (R130) -/
  | bar (nb : Nat) (mode : Nat) (count : Nat) (words : Nat) (acted : Bool)
  /-- an instruction that has committed and waits for the store queue or the scheduler, with its accesses
      (R366, R349, R355) -/
  | staged (stage : Nat) (accs : List Access)
  /-- an atomic that has committed (R231, R334): entries numbered below `mark` are ahead of it; the lanes whose steps are
      still to come, the fill that a CAS delivers into, whether an acquire is due, and the v registers it will write -/
  | atomic (mark : Nat) (rest : List Access) (fill : Option Nat) (acq : Bool) (regs : List Nat)
  /-- a CAS whose lane steps are done, and whose fill has not arrived (R218) -/
  | filling (fill : Nat)
  /-- a fence: the loads it waits for, and of a survivable one the number of its marker, whose entries ahead it waits for
      (R236, R237) -/
  | fence (loads : List Nat) (mark : Option Nat)
  /-- an engine command that has committed and waits to enter its queue (R240) -/
  | command (c : Cmd)
  /-- a BPATCH or CREL: its order in the group, its operand and the entries ahead of it (R267 to R269) -/
  | patch (order : Nat) (val : Word64) (entries : List Nat)
  /-- any other instruction that has committed: the operands it holds, the entries it waits for, the v registers it will
      write, and the number of an LDW, which counts among the loads until its step (R236) -/
  | held (vals : List Word64) (entries : List Nat) (regs : List Nat) (load : Option Nat)
  /-- ACQUIRE, waiting for admission, or admitted (R135) -/
  | acquire (admitted : Bool)
  deriving DecidableEq, Repr, Inhabited

/-- One slice (R88), with its membership of a path and the path's values: whether a header comes next, the block
that is running, and SIGACC (R89, R110). -/
structure Slice where
  pc : Addr
  amask : BitVec 4
  xmask : BitVec 4
  imask : BitVec 4
  lstk : List LaneEntry
  spl : Option Nat
  path : Nat
  hdr : Bool
  blkPc : Addr
  blk : Word64
  sig : BitVec 12
  wait : Wait
  held : Bool
  handler : Bool
  /-- the path's last PREQ since the trap was entered: none, one that reported MAPPED, or the request's RID (R353, R390) -/
  preq : Option (Option Nat)
  deriving DecidableEq, Repr, Inhabited

/-- A split entry (R99). -/
structure Split where
  rpc : Addr
  gang : BitVec 32
  saved : BitVec 128
  arrs : BitVec 32
  parent : Option Nat
  deriving DecidableEq, Repr, Inhabited

/-- The record of an active refill loop (R103, R406). -/
structure Loop where
  pro : Addr
  body : Addr
  ret : Addr
  exit : Addr
  queue : Nat
  lmask : BitVec 128
  taken : List Word32
  complete : List Word32
  turned : List Word32
  /-- the store-queue entry of the last CMTD placed -/
  lastCmtd : Option Nat
  deriving DecidableEq, Repr, Inhabited

/-! ### The store queue, fills and reservations (R211, R143, R234) -/

/-- What an entry does when it drains (R329). -/
inductive EntryOp
  /-- a data entry to global memory; `rel` is the scope of a release (R332) -/
  | global (bytes : List WByte) (rel : Option Scope)
  /-- a data entry to scratchpad -/
  | scratch (bytes : List WByte)
  /-- LDK (R226): source byte addresses with destination offsets and lanes, and the arrival word -/
  | ldk (moves : List (Nat × Nat × Nat)) (aw : Option Nat)
  /-- BIN (R250): table offset, and bin, amount, poison and number of each acting lane in lane order -/
  | bin (table : Nat) (adds : List (Nat × Word32 × Option Tag × Nat))
  | awset (off : Nat) (target : Word32)
  | awadd (off : Nat) (n : Word32)
  | relMarker (scope : Scope)
  | teMarker
  | survMarker
  | trigMarker (lanes : BitVec 128)
  /-- CMTD (R406); `final` once its loop has exited with it as the last (R409) -/
  | cmtd (off : Nat) (value : Word32) (final : Bool)
  deriving DecidableEq, Repr, Inhabited

/-- A store-queue entry: U or C, and the iteration of a retire-section entry (R211). Pieces of one beat that belong to
different iterations have the beat's `place` among the 64 in common (log 20). -/
structure SQEntry where
  id : Nat
  place : Nat
  committed : Bool
  iter : Option Word32
  op : EntryOp
  deriving DecidableEq, Repr, Inhabited

/-- One register write that a fill delivers (R143). -/
inductive RegWrite
  | v (reg : Nat) (lane : Nat) (word : PWord)
  | s (reg : Nat) (val : SVal)
  deriving DecidableEq, Repr, Inhabited

/-- What a fill still waits for. -/
inductive FillWait
  | ready
  /-- a WLD's refresh window ends at this cycle (R207) -/
  | cycle (c : Nat)
  /-- an LMM: in the core's request queue, or served and on its way to its registers (R293) -/
  | lmm (served : Bool)
  /-- a CAS whose lanes have not all made their steps (R218, R231) -/
  | atomic
  /-- an MRD of a tile whose mask is not clear: the part and the acting lanes, until the tile is settled (R300, R322) -/
  | mrd (tile : Nat) (part : Nat) (lanes : BitVec 128) (reg : Nat)
  deriving DecidableEq, Repr, Inhabited

/-- An outstanding fill: the registers it holds empty and the words it will write. -/
structure Fill where
  id : Nat
  vregs : List Nat
  sregs : List Nat
  writes : List RegWrite
  wait : FillWait
  load : Bool
  deriving DecidableEq, Repr, Inhabited

/-- A lane's reservation (R234, R326). -/
structure Reservation where
  lane : Nat
  granule : Nat
  scratch : Bool
  size : Size
  scope : Scope
  asid : BitVec 8
  deriving DecidableEq, Repr, Inhabited

/-! ### The trap frame (R380, R381) -/

/-- The trap registers of a group, the slices that vectored as they stood, and the slices held at the trapping
instruction. -/
structure TrapFrame where
  busy : Bool
  tcause : Word64
  tpc : Addr
  taddr : Word64
  tmask : BitVec 128
  tsave0 : Word64
  tsave1 : Word64
  tsave2 : Word64
  tsave3 : Word64
  saved : List (Nat × Slice)
  heldSlices : List Nat
  deriving DecidableEq, Repr, Inhabited

def TrapFrame.clear : TrapFrame := ⟨false, 0, 0, 0, 0, 0, 0, 0, 0, [], []⟩

/-! ### A group -/

/-- The register files of a group (R139): words of v by 128·register + lane, and the numbers of the registers that
are empty. The handler's own bank of s56 to s63 (R382) is at 120 to 127 of `s`. -/
structure Regs where
  v : SMap PWord
  vEmpty : List Nat
  s : SMap SVal
  sEmpty : List Nat
  p : SMap PReg
  b : SMap BReg
  iter : SMap Word32
  deriving DecidableEq, Repr, Inhabited

/-- The specials of a group (R142). -/
structure Specials where
  grp : BitVec 4
  cx : BitVec 16
  cy : BitVec 16
  cz : BitVec 8
  stage : BitVec 3
  deriving DecidableEq, Repr, Inhabited

/-- The per-group control registers (R385) and the restart state (R212, R214). -/
structure GroupCtl where
  quantum : BitVec 16
  prio : BitVec 3
  rsalt : Word32
  capsel : Word64
  rgnpc : Addr
  rgnsig : BitVec 12
  asid : BitVec 8
  /-- the path whose turn it is, and the instructions it has issued in a row (R94) -/
  curPath : Nat
  turns : Nat
  /-- the return predictor (R121) -/
  predictor : List Addr
  deriving DecidableEq, Repr, Inhabited

/-- A place in a program where a path can stand: its word, the block that is running, SIGACC, and whether a header comes
next. -/
structure Place where
  pc : Addr
  blkPc : Addr
  blk : Word64
  sig : BitVec 12
  hdr : Bool
  deriving DecidableEq, Repr, Inhabited

/-- The allotment of a group (R19, R51, R135). -/
structure Allotment where
  fullv : Nat
  full : Bool
  /-- the cycle of the first ACQUIRE request that stands, while the group waits for admission -/
  request : Option Nat
  /-- the ACQUIRE word the group was admitted at in the state R394 asks for, as a slice that stands there -/
  admittedAt : Option Place
  /-- the cycle of admission, and the time of the request that was admitted -/
  admittedCycle : Nat
  requestedCycle : Nat
  deriving DecidableEq, Repr, Inhabited

/-- A resident group: where it is, its registers, its slices and everything it has in flight. -/
structure Group where
  gid : Nat
  /-- the cohort it belongs to; for a resumed continuation, the cohort of the group that parked -/
  cohort : Nat
  /-- the continuation's TID, for a resumed group (R357) -/
  cont : Option Nat
  part : Nat
  core : Nat
  quarter : Nat
  slot : Nat
  sp : Specials
  regs : Regs
  ctl : GroupCtl
  allot : Allotment
  slices : List Slice
  splits : SMap (Option Split)
  loop : Option Loop
  sq : List SQEntry
  resv : List Reservation
  fills : List Fill
  /-- packets that must be performed at L2V or at DM before a later packet of the group may be Lifted, as the release
      markers drained so far ask (R332) -/
  holdLifts : List Nat
  holdHomes : List Nat
  frame : TrapFrame
  trig : BitVec 128
  /-- a PARK has committed: no other path issues anything further (R355) -/
  parking : Bool
  /-- the group was killed or discarded for good, and only drains -/
  stopped : Bool
  /-- a pre-emption's discard has begun: no path issues until it ends (R214, R394) -/
  discarding : Bool
  deriving DecidableEq, Repr, Inhabited

/-! ### A cohort with its stream (chapters 13 and 14) -/

/-- A barrier (R129); `seqLast` is the sequencer's own LASTP bit (R317), `seen` the groups that have arrived since
placement (R130), `seqSeen` the same of the sequencer. -/
structure Barrier where
  cnt : Nat
  arr : Nat
  phase : Bool
  lastp : BitVec 16
  seen : BitVec 16
  seqLast : Bool
  seqSeen : Bool
  deriving DecidableEq, Repr, Inhabited

def Barrier.zero : Barrier := ⟨0, 0, false, 0, 0, false, false⟩

/-- A staging slot: 1,024 element bytes and 256 scale bytes, each with its sector's poison (R277). -/
structure StageSlot where
  elems : List PByte
  scales : List PByte
  /-- the lineages whose pieces or primary values the slot holds, its depth, and the lineages that pin it (R296) -/
  mask : BitVec 16
  depth : Nat
  pins : BitVec 16
  deriving DecidableEq, Repr, Inhabited

/-- An empty list stands for zero bytes. -/
def StageSlot.zero : StageSlot := ⟨[], [], 0, 0, 0⟩

/-- A descriptor register: its 32 bytes and the poison of their sector (R139, R304). -/
structure Desc where
  w0 : Word64
  w1 : Word64
  w2 : Word64
  w3 : Word64
  pois : Option Tag
  deriving DecidableEq, Repr, Inhabited

/-- A landing slot (R244). -/
inductive Landing
  | free
  | granted
  | full
  deriving DecidableEq, Repr, Inhabited

/-- A walk of a fragment in a push-mode partition: the stream word it serves, the bytes of its one tile, and whether
they stand in landing slot 0 (R243, R244, R286). -/
structure Walk where
  word : Addr
  elems : List PByte
  scales : List PByte
  pushed : Bool
  /-- the arrival word that the walk counts into, and the pieces of its tile that have not left a bucket, once they were
      asked for (R243, R244, R52) -/
  aw : Option Nat
  pieces : Option Nat
  deriving DecidableEq, Repr, Inhabited

/-- A multicast send that waits for its receivers (R287). -/
structure McastSend where
  slot : Nat
  tag : Nat
  cores : List Nat
  elems : List PByte
  scales : List PByte
  deriving DecidableEq, Repr, Inhabited

/-- A cohort sequencer (R280 to R283, R318, R319). -/
structure Sequencer where
  active : Bool
  ended : Bool
  pc : Addr
  strm : Addr
  lc0 : Nat
  lc1 : Nat
  own0 : Option Addr
  own1 : Option Addr
  mxpri : Nat
  /-- since when the stream has waited ready for the engine (R291; log 93) -/
  waitSince : Option Nat
  /-- early operand fetches: the word's address and the fragment it brought (R280, R309) -/
  early : List (Addr × List PByte × List PByte)
  /-- the END-marked words that have ended a lineage (R318) -/
  endedAt : List Addr
  /-- receives outstanding: tag and slot (R308) -/
  recvs : List (Nat × Nat)
  send : Option McastSend
  walk : Option Walk
  /-- the barrier that the MBAR at pc waits on, and whether its phase has completed (R317) -/
  bar : Option (Nat × Bool)
  deriving DecidableEq, Repr, Inhabited

/-- Why a cohort is to be killed, and what its record says (R398, R399). -/
structure KillReason where
  type : BitVec 8
  detail : BitVec 20
  addr : Nat
  /-- the task's cause when the kill is not followed by a relaunch: 5 KILLED, 6 PAGE_FAULT, 7 TRAP -/
  cause : BitVec 8
  /-- a relaunch is allowed (R281, R400) -/
  relaunch : Bool
  deriving DecidableEq, Repr, Inhabited

/-- A placed cohort. -/
structure Cohort where
  uid : Nat
  part : Nat
  tid : Nat
  /-- its place in the task's linear order (R48) -/
  index : Nat
  core : Nat
  slot : Nat
  cx : BitVec 16
  cy : BitVec 16
  cz : BitVec 8
  /-- SEED of the launch record, read at placement (R28, R152) -/
  seed : Word64
  /-- RSALT and ASIDCUR that group 0 held when it ended (R152, R286; log 31) -/
  rsalt0 : Word32
  asid0 : BitVec 8
  ngm1 : Nat
  scrk : Nat
  lslot : Nat
  stsl : Nat
  atiles : Nat
  scratch : Memory
  scratchPois : SMap (Option Tag)
  bars : SMap Barrier
  chkiv : Chkiv
  landing : SMap Landing
  /-- accumulator elements by 1,024·tile + 32·row + column -/
  tiles : SMap PWord
  tileMask : SMap (BitVec 16)
  tileDepth : SMap Nat
  stage : SMap StageSlot
  desc : SMap (Option Desc)
  seq : Sequencer
  /-- groups that have ended, as a mask of group numbers, and the lanes' reports for early launch -/
  ended : BitVec 16
  triggered : BitVec 16
  kill : Option KillReason
  /-- killed, and draining towards its freeing -/
  killed : Bool
  /-- exited, while its scratchpad waits for engine commands (R411) -/
  exited : Bool
  deriving DecidableEq, Repr, Inhabited

/-! ### Cores and clusters -/

/-- A TLB entry (R199). -/
structure TlbEntry where
  asid : BitVec 8
  vpage : Nat
  size : Nat
  ppage : Nat
  x : Bool
  w : Bool
  deriving DecidableEq, Repr, Inhabited

/-- A lineage's state (R294). -/
inductive LinState
  | closed | open | ending
  deriving DecidableEq, Repr, Inhabited

/-- The arithmetic of a derived instruction (R296). -/
inductive DerivedOp
  | mmul | msca | madd | mscl | mcvt
  deriving DecidableEq, Repr, Inhabited

/-- A derived instruction of a lineage, in stream order, with the operands that are derived. -/
structure Derived where
  op : DerivedOp
  word : FT
  pc : Addr
  aDerived : Bool
  bDerived : Bool
  /-- the operand slot that is not derived, as it stood when the word issued -/
  kept : StageSlot
  rsalt : Word32
  deriving DecidableEq, Repr, Inhabited

/-- One lineage of a core (R294 to R298). -/
structure Lineage where
  state : LinState
  owner : Nat
  src : Nat
  /-- the tail reads as I32 or F32 by the k-steps that fed it -/
  tail : SMap PWord
  tailInt : Bool
  corrections : List (SMap PWord)
  derived : List Derived
  /-- corrections replayed and folded so far, and the place of its END among the core's -/
  replayed : Nat
  endSeq : Nat
  deriving DecidableEq, Repr, Inhabited

def Lineage.clear : Lineage := ⟨.closed, 0, 0, [], false, [], [], 0, 0⟩

/-- An LMM request in the engine's queue (R293): the group, its fill, the instruction's operands as read. -/
structure LmmReq where
  gid : Nat
  fill : Nat
  bf16 : Bool
  a : List PWord
  b : List PWord
  c : List PWord
  /-- the tile and quadrant that stand for C, for SUB 1, until the tile is settled and C is read (R300) -/
  tile : Option (Nat × Nat)
  dst : Nat
  deriving DecidableEq, Repr, Inhabited

/-- The state of one core (units of R38 numbered 4·cluster + core). -/
structure Core where
  /-- the capo token's holder for each quarter, and the picks it took in a row (R92, R323) -/
  capo : SMap (Option Nat)
  capoPicks : SMap Nat
  /-- one more than the group slot last picked by step 2 of R92, for each quarter; 0 before any -/
  lastSlot : SMap Nat
  lineages : SMap Lineage
  /-- the cohort whose stream holds the matrix engine, and since when it has held it while another stream was ready (R291,
      R292; log 93) -/
  engine : Option Nat
  contested : Option Nat
  lmmQueue : List LmmReq
  l1 : List TlbEntry
  /-- the admission head that last saw a pre-emption in each quarter, and when (R394) -/
  preempted : SMap (Option (Nat × Nat))
  deriving DecidableEq, Repr, Inhabited

def Core.reset : Core := ⟨[], [], [], [], none, none, [], [], []⟩

/-- An entry of the range-lock table (R252). -/
structure Lock where
  write : Bool
  scratch : Bool
  /-- scratchpad: the core; the offset counts in the allotment of the command's cohort there (log 39) -/
  core : Nat
  asid : BitVec 8
  base : Nat
  len : Nat
  cmd : Nat
  seq : Nat
  deriving DecidableEq, Repr, Inhabited

/-- The state of one cluster. -/
structure Cluster where
  eq : List Cmd
  rlt : List Lock
  nextSeq : Nat
  nextOrder : Nat
  l2 : List TlbEntry
  victim : List TlbEntry
  deriving DecidableEq, Repr, Inhabited

def Cluster.reset : Cluster := ⟨[], [], 0, 0, [], []⟩

/-! ### Tasks and partitions -/

/-- STATE of a task control block (R28). -/
inductive TaskState
  | free | waiting | ready | running | parked | done | failed
  deriving DecidableEq, Repr, Inhabited

/-- KIND of a task control block (R28). -/
inductive TaskKind
  | kernel | join | continuation
  deriving DecidableEq, Repr, Inhabited

/-- What wakes a parked continuation (R353, R356). -/
inductive Wake
  /-- the cohort's arrival word at this offset leaves this generation -/
  | gen (cohort : Nat) (off : Nat) (g : Word32)
  | dep
  /-- the outcome of this page request; none wakes at once -/
  | preq (rid : Option Nat)
  deriving DecidableEq, Repr, Inhabited

/-- A task control block (R28) with what the scheduler keeps beside it. -/
structure Task where
  tid : Nat
  state : TaskState
  pri : Nat
  epri : Nat
  kind : TaskKind
  depc : Nat
  relaunch : Bool
  early : Bool
  nsucc : Nat
  emask : BitVec 4
  recVa : Addr
  entry : Addr
  argp : Word64
  nxm1 : Nat
  nym1 : Nat
  nzm1 : Nat
  ngm1 : Nat
  maxpc : Nat
  swgt : Nat
  mxpri : Nat
  fullv : Nat
  atiles : Nat
  scrk : Nat
  stsl : Nat
  lslot : Nat
  succ0 : Nat
  succ1 : Nat
  succ2 : Nat
  succ3 : Nat
  rstamp : Nat
  /-- ORIG of a continuation (R36) -/
  orig : Nat
  /-- the successors already decremented, the early release, the next cohort to place, the cohorts that exited -/
  sent : BitVec 4
  earlyDone : Bool
  nextCohort : Nat
  exited : Nat
  /-- cohorts whose groups have all triggered or exited (R32) -/
  trigCohorts : List Nat
  /-- kills of each cohort, by index (R400) -/
  kills : SMap Nat
  /-- the cluster a killed cohort was on, by index, while it waits to be placed again -/
  killedOn : SMap Nat
  chkiv : Chkiv
  wake : Option Wake
  /-- the cohort of the parked group, and the group's number there (R37) -/
  parkCohort : Nat
  parkGroup : Nat
  /-- FLAGS and GEN when a .GEN wake fired (R357) -/
  wakeStatus : Word64
  /-- where the parked slices stand in their blocks, and the lanes of the group that had triggered (R352, R355) -/
  parkPlaces : List Place
  parkTrig : BitVec 128
  /-- every group of the task so far, whose stores must reach DEV (R30) -/
  gids : List Nat
  /-- those of its continuations' resumes -/
  contGids : List Nat
  /-- the cohorts it has placed that were killed -/
  killedRuns : List Nat
  /-- the cohorts it has placed that were not killed: the runs whose events count for it (R396) -/
  runs : List Nat
  /-- the completion entry has been queued or written -/
  reported : Bool
  deriving DecidableEq, Repr, Inhabited

/-- A launch flit in the port queue (R22, R24), with the group and slice of the SPAWN that sent it. -/
structure Flit where
  w0 : Word64
  w1 : Word64
  w2 : Word64
  w3 : Word64
  origin : Option (Nat × Nat)
  deriving DecidableEq, Repr, Inhabited

/-- A completion entry that the scheduler holds (R35); `frees` when writing it frees the block (R29). -/
structure Entry where
  tid : Nat
  state : Nat
  cause : Nat
  chkv : Word64
  frees : Bool
  deriving DecidableEq, Repr, Inhabited

/-- A waiter of a page request (R205, R390): a path, by its cohort, group and lowest slice, or a continuation. -/
inductive Waiter
  | path (cohort : Nat) (group : Nat) (slice : Nat)
  | cont (tid : Nat)
  deriving DecidableEq, Repr, Inhabited

structure PageReq where
  rid : Nat
  asid : BitVec 8
  page : Nat
  tid : Nat
  wr : Bool
  waiters : List Waiter
  outcome : Option Bool
  deriving DecidableEq, Repr, Inhabited

/-- An MSI-X vector (R23). -/
structure Vector where
  addr : Word64
  data : Word32
  mask : Bool
  /-- messages that wait for the vector to be unmasked -/
  pending : Nat
  deriving DecidableEq, Repr, Inhabited

/-- At creation: masked, nothing pending (log 9). -/
def Vector.fresh : Vector := ⟨0, 0, true, 0⟩

/-- A transfer whose pieces wait at a bucket (R52): a command's, by cluster and number; a parity delta's; a tile pushed
to a cohort; the answer to a peer's read. -/
inductive Transfer
  | command (cluster : Nat) (uid : Nat)
  | delta (id : Nat)
  | push (cohort : Nat)
  | reply (va : Nat) (data : List PByte)
  deriving DecidableEq, Repr, Inhabited

/-- A token bucket (R52): tokens in elevenths of a byte, and the pieces that wait to leave with their bytes, oldest
first. -/
structure Bucket where
  tokens : Nat
  pieces : List (Transfer × Nat)
  deriving DecidableEq, Repr, Inhabited

/-- What a management request fixes for a partition (R41). -/
structure Totals where
  push : Bool
  nclu : Nat
  nwsb : Nat
  nasid : Nat
  memu : Nat
  linku : Nat
  dmq : Nat
  hmq : Nat
  dbor : Nat
  hbor : Nat
  ttsize : Nat
  cbase : Nat
  ttbase : Nat
  mburst : Nat
  lburst : Nat
  deriving DecidableEq, Repr, Inhabited

/-- The launch port and the page-request port (R21, R391), with the MSI-X table (R23). -/
structure Ports where
  closed : Bool
  flits : List Flit
  ovf : Bool
  cqBase : Addr
  cqSize : Nat
  cqHead : Word64
  cqTail : Word64
  prqBase : Addr
  prqHead : Word64
  prqTail : Word64
  vectors : SMap Vector
  deriving DecidableEq, Repr, Inhabited

/-- The per-partition control registers (R385). -/
structure PartCtl where
  svlock : Bool
  thandler : Addr
  peerto : Nat
  poolBase : Addr
  poolFree : Nat
  crBase : Addr
  ptroot : SMap Addr
  objBase : Addr
  objN : Nat
  heapBase : Addr
  heapLen : Nat
  hpoolBase : Addr
  hpoolFree : Nat
  pgTab : Addr
  /-- ALSTAT (R361) -/
  rcnt : Word32
  overH : Bool
  overD : Bool
  deriving DecidableEq, Repr, Inhabited

def PartCtl.fresh : PartCtl := ⟨false, 0, 1000, 0, 0, 0, [], 0, 0, 0, 0, 0, 0, 0, 0, false, false⟩

/-- A physical run of this device's instance of a protected buffer: its first byte, its length, the parity group
and the virtual address it lies at (R373; placed by the loader, log 19). -/
structure ProtRange where
  pa : Nat
  len : Nat
  pgid : BitVec 16
  va : Nat
  deriving DecidableEq, Repr, Inhabited

/-- A run of the partition's weight-store space that a launch record maps a weight-store buffer to (R14, R43; told by the
loader, log 54). -/
structure WsMap where
  recVa : Addr
  off : Nat
  len : Nat
  deriving DecidableEq, Repr, Inhabited

/-- A partition (R38 to R46). -/
structure Part where
  id : Nat
  totals : Totals
  clusters : List Nat
  banks : List Nat
  key : Nat
  asids : List Nat
  /-- the request that created or last changed it (R431) -/
  request : Request
  /-- a destroy is in progress (R46) -/
  destroying : Bool
  ports : Ports
  ctl : PartCtl
  tasks : List Task
  /-- decrements on their way to the home scheduler, oldest first: the TID, and the vector that a CPYH interrupts on once
      it is taken (R266) -/
  decrements : List (Nat × Option Nat)
  /-- results of SPAWN flits that the scheduler has taken, by group and slice -/
  spawned : List (Nat × Nat × Word64)
  entries : List Entry
  /-- killed cohorts to place again: task and index, in the order of their kills (R49) -/
  relaunches : List (Nat × Nat)
  /-- RUNNING tasks in dispatch order (R49) -/
  dispatched : List Nat
  lastCore : Option Nat
  requests : List PageReq
  buckets : List (BucketId × Bucket)
  prot : List ProtRange
  wsMaps : List WsMap
  deriving DecidableEq, Repr, Inhabited

/-! ### Memory outside the groups (R326) -/

/-- A copy of a 64-byte line in a core view or an L2 view, with the key draw it was last written under (R47). -/
structure Copy where
  view : View
  line : Nat
  bytes : List Byte
  pois : Option Tag
  key : Option Nat
  /-- of a copy in a core view, the packets in DF that it held when it was last refreshed (R327, R330) -/
  held : List Nat
  deriving DecidableEq, Repr, Inhabited

/-- A write packet (R326) in CFQ or DF: its core, its group, cohort and task, the store-queue entry it left, its bytes,
and the earlier packets that must be performed at L2V (`lifts`) or at DM (`homes`) before it may be Lifted (R332). -/
structure Packet where
  id : Nat
  entry : Nat
  core : Nat
  gid : Nat
  cohort : Nat
  tid : Nat
  part : Nat
  bytes : List WByte
  lifts : List Nat
  homes : List Nat
  deriving DecidableEq, Repr, Inhabited

/-- Who a parity delta's write came from (R339, R340): a group's packet, an engine command's chunk, a peer's
chunk, or a cohort's tile stream. -/
inductive DeltaSource
  /-- a group's write, from a store-queue entry where it has one -/
  | group (gid : Nat) (cohort : Nat) (tid : Nat) (entry : Option Nat)
  | command (cmd : Nat) (chunk : Nat)
  | peer (chunk : Nat)
  | stream (cohort : Nat) (tid : Nat)
  /-- the device itself, or the host -/
  | device
  deriving DecidableEq, Repr, Inhabited

/-- A parity delta in PQ (R374); `sent` once its piece has left the link bucket (R52). -/
structure Delta where
  sent : Bool
  id : Nat
  part : Nat
  pgid : BitVec 16
  member : Nat
  va : Nat
  bytes : List Byte
  pois : Option Tag
  sentUs : Nat
  source : DeltaSource
  deriving DecidableEq, Repr, Inhabited

/-- A chunk that has opened at a destination controller here: a peer's (R258), or an ordered chunk of one of this
device's own commands (R256), by the command's number and the chunk's. -/
structure OpenChunk where
  id : Nat
  /-- the number that the link gives a peer's chunk, and the port it comes over -/
  num : Nat
  port : Nat
  origin : Option (Nat × Nat)
  part : Nat
  asid : BitVec 8
  /-- the cohort whose scratchpad it goes to, or none for global memory -/
  space : Option Nat
  va : Nat
  len : Nat
  kind : ChunkKind
  /-- the bytes received, by offset -/
  got : List (Nat × PByte)
  /-- the ordered set it belongs to -/
  set : Option Nat
  openedUs : Nat
  /-- a sector did not translate or refused the write -/
  faulted : Bool
  /-- performed, and waiting for its parity deltas before it is acknowledged -/
  applied : Bool
  deriving DecidableEq, Repr, Inhabited

/-- An ordered reduction set at a destination controller (R256, R422): each member's total in bytes as its chunks name
it, and the ranges it has applied, or that timed out, by rank, address and length. -/
structure RSet where
  num : Nat
  part : Nat
  space : Option Nat
  setId : Nat
  members : Nat
  totals : List (Nat × Nat)
  applied : List (Nat × Nat × Nat)
  gone : List (Nat × Nat × Nat)
  /-- its id is free again -/
  freed : Bool
  deriving DecidableEq, Repr, Inhabited

/-- A message this device has put on a link (R255, R374, R377). -/
inductive LinkMsg
  | chunk (port : Nat) (prank : Nat) (num : Nat) (va : Nat) (kind : ChunkKind) (data : List PByte)
  | ack (chunk : Nat)
  | nack (chunk : Nat)
  | delta (id : Nat) (pgid : BitVec 16) (member : Nat) (va : Nat) (bytes : List Byte) (pois : Option Tag)
  | deltaAck (pgid : BitVec 16) (va : Nat)
  | readReq (cluster : Nat) (slot : Nat) (rank : Nat) (va : Nat) (len : Nat)
  | readReply (va : Nat) (data : List PByte)
  deriving DecidableEq, Repr, Inhabited

/-- An error record (R398). -/
structure ErrRec where
  type : BitVec 8
  unit : BitVec 4
  seq : Word32
  part : BitVec 8
  tid : BitVec 20
  detail : BitVec 20
  addr : Word64
  wclk : Word64
  deriving DecidableEq, Repr, Inhabited

/-- The management window (R41, R424, R428, R430, R431). -/
structure Mgmt where
  /-- BUSYF, and the partition whose destroy is in progress -/
  busy : Option Nat
  status : BitVec 8
  pwrcap : BitVec 12
  pwrnow : BitVec 12
  junction : BitVec 8
  /-- 0 NORMAL, 1 CAPPED, 2 HOT, 3 TRIP -/
  therm : BitVec 2
  clockStep : Nat
  bootStep : BitVec 8
  bootCode : BitVec 8
  lastRst : BitVec 8
  /-- fuses: the SHA-256 of Fensal's root public key, and the security version number (R429) -/
  rootKey : BitVec 256
  svn : BitVec 6
  /-- the bytes of the running firmware image (R429, R431); none for the one that runs at `State.reset` (log 7) -/
  image : Option (List Byte)
  bootCount : Nat
  /-- keys drawn from the DRBG so far (R432); the model's own -/
  draws : Nat
  reports : Nat
  report : List Byte
  /-- the whole package is stopped by a thermal trip (R427) -/
  stopped : Bool
  deriving DecidableEq, Repr, Inhabited

/-! ### The whole device -/

/-- Which agent's step comes next (log 1). Events are steps of the opcode table; a quarter makes a pick of R92; a
sequencer issues its next stream word; the host writes bytes of memory (log 18); the loader tells the parity agent
where an instance lies and which weight-store bytes a launch record maps (logs 19, 54); firmware goes on with a destroy in progress (R46, log 21). -/
inductive Action
  | event (i : Instr)
  | quarter (core : Nat) (quarter : Nat)
  | sequencer (cohort : Nat)
  | hostWrite (part : Nat) (pa : Nat) (bytes : List Byte)
  | protect (part : Nat) (range : ProtRange)
  | mapWeights (part : Nat) (m : WsMap)
  | firmware
  deriving DecidableEq, Repr, Inhabited

/-- The agent that issues the instruction word in this step. -/
inductive Cur
  | none
  | path (group : Nat) (slice : Nat)
  | stream (cohort : Nat)
  /-- firmware, going on with the destroy in progress -/
  | firmware
  deriving DecidableEq, Repr, Inhabited

/-- The state of the device. The fields from `agenda` on are the model's own (log 1, log 3, log 4). -/
structure State where
  cycle : Nat
  refUs : Nat
  mgmt : Mgmt
  mem : Memory
  memPois : SMap (Option Tag)
  ws : Memory
  wsPois : SMap (Option Tag)
  copies : List Copy
  cfq : List Packet
  df : List Packet
  pq : List Delta
  opens : List OpenChunk
  rsets : List RSet
  parts : List Part
  cores : SMap Core
  clusters : SMap Cluster
  cohorts : List Cohort
  groups : List Group
  errs : SMap (Option ErrRec)
  errSeq : SMap Word32
  cluOwner : SMap (Option Nat)
  wsbOwner : SMap (Option Nat)
  keyOwner : SMap (Option Nat)
  asidOwner : SMap (Option Nat)
  /-- the key in each KEY unit's slots, by the number of its draw (R432), and the draw whose key each 64-byte sector of
      memory was last written under (R47); none: under no partition's key -/
  keySlots : SMap (Option Nat)
  memKey : SMap (Option Nat)
  agenda : List Action
  choices : Nat
  free : Nat
  cur : Cur
  waited : Bool
  nextUid : Nat
  linkOut : List LinkMsg
  msiOut : List (Nat × Nat × Word64 × Word32)
  deriving DecidableEq, Repr

/-- Why the machine stops. -/
inductive Fault
  /-- Raised by `exec` of an instruction word when no path or sequencer issues it (`State.cur` names none). Safe:
      `step` always names the issuer, so no run of `step` raises it; a claim about `exec` must name an issuer. -/
  | noIssuer
  deriving DecidableEq, Repr, Inhabited

/-- Why a step has no meaning in this model. -/
inductive Refusal
  /-- Raised by a dispatch arm whose instruction has no meaning yet. Safe: the machine stops. -/
  | notModelled (mnemonic : String)
  deriving DecidableEq, Repr, Inhabited

/-- The management window right after a boot that completed: PWRCAP 2,400, NORMAL, step 6, code 0 (R424, R428);
the other values are logs 6 and 7. -/
def Mgmt.boot (cause : BitVec 8) (rootKey : BitVec 256) (svn : BitVec 6) (image : Option (List Byte)) (bootCount draws : Nat) : Mgmt :=
  { busy := none, status := 0, pwrcap := 2400, pwrnow := 0, junction := 0, therm := 0, clockStep := 16,
    bootStep := 6, bootCode := 0, lastRst := cause, rootKey := rootKey, svn := svn,
    image := image, bootCount := bootCount, draws := draws, reports := 0, report := [],
    stopped := false }

/-- The device after a reset whose boot completed: device memory and the weight store zero and clean, error records
clear, every unit free, no partition (R428). Host memory is outside the device and keeps its bytes. -/
def State.booted (m : Mgmt) (hostMem : Memory) (hostPois : SMap (Option Tag)) (hostKeys : SMap (Option Nat)) : State :=
  { cycle := 0, refUs := 0, mgmt := m, mem := hostMem, memPois := hostPois, ws := [], wsPois := [], copies := [],
    cfq := [], df := [], pq := [], opens := [], rsets := [], parts := [], cores := [], clusters := [],
    cohorts := [], groups := [], errs := [], errSeq := [], cluOwner := [], wsbOwner := [], keyOwner := [],
    asidOwner := [], keySlots := [], memKey := hostKeys, agenda := [], choices := 0, free := 0, cur := .none, waited := false, nextUid := 0,
    linkOut := [], msiOut := [] }

/-- The machine right after a power-on reset: LASTRST 0, the first boot of the device (logs 6 to 8), which burned the fuses up
to the security version number of the image it runs (R429). -/
def State.reset : State :=
  State.booted (Mgmt.boot 0 Config.rootKeyHash (Config.imageSvn Config.bootImage) none 1 0) [] [] []

end Sys2Proof.Machine
end

