-- ==== Sys2Proof/Machine/Update.lean ====
section
/-!
DEFINITION. Reading and replacing the parts of State: groups, cohorts, partitions, cores and clusters by their
names; the fixed geometry of the device; error records (R398) and CHKIV (R395, R396).
-/

namespace Sys2Proof.Machine

/-! ### Geometry (R38): 72 clusters of 4 cores, 18 clusters to a die, 64 banks to a die -/

def clusterOf (core : Nat) : Nat := core / 4
def dieOfCluster (cluster : Nat) : Nat := cluster / 18
def dieOf (core : Nat) : Nat := core / 72
def coreInCluster (core : Nat) : Nat := core % 4

/-! ### Named parts of the state -/

namespace State

def group? (s : State) (gid : Nat) : Option Group := s.groups.find? (fun g => g.gid == gid)
def cohort? (s : State) (uid : Nat) : Option Cohort := s.cohorts.find? (fun c => c.uid == uid)
def part? (s : State) (id : Nat) : Option Part := s.parts.find? (fun p => p.id == id)
def core (s : State) (n : Nat) : Core := SMap.get Core.reset s.cores n
def cluster (s : State) (n : Nat) : Cluster := SMap.get Cluster.reset s.clusters n

def setGroup (s : State) (g : Group) : State :=
  { s with groups := s.groups.map (fun x => if x.gid = g.gid then g else x) }
def setCohort (s : State) (c : Cohort) : State :=
  { s with cohorts := s.cohorts.map (fun x => if x.uid = c.uid then c else x) }
def setPart (s : State) (p : Part) : State :=
  { s with parts := s.parts.map (fun x => if x.id = p.id then p else x) }
def setCore (s : State) (n : Nat) (c : Core) : State := { s with cores := SMap.put Core.reset s.cores n c }
def setCluster (s : State) (n : Nat) (c : Cluster) : State :=
  { s with clusters := SMap.put Cluster.reset s.clusters n c }

/-- Change a group, if it is resident. -/
def onGroup (s : State) (gid : Nat) (f : Group → Group) : State :=
  match s.group? gid with
  | some g => s.setGroup (f g)
  | none => s
def onCohort (s : State) (uid : Nat) (f : Cohort → Cohort) : State :=
  match s.cohort? uid with
  | some c => s.setCohort (f c)
  | none => s
def onPart (s : State) (id : Nat) (f : Part → Part) : State :=
  match s.part? id with
  | some p => s.setPart (f p)
  | none => s
def onCore (s : State) (n : Nat) (f : Core → Core) : State := s.setCore n (f (s.core n))
def onCluster (s : State) (n : Nat) (f : Cluster → Cluster) : State := s.setCluster n (f (s.cluster n))

/-- The cohort a group runs in, while it is placed. -/
def cohortOf? (s : State) (g : Group) : Option Cohort := s.cohort? g.cohort

def dropGroup (s : State) (gid : Nat) : State := { s with groups := s.groups.filter (fun g => g.gid != gid) }
def dropCohort (s : State) (uid : Nat) : State := { s with cohorts := s.cohorts.filter (fun c => c.uid != uid) }

/-- A group leaves its core for good. Its cohort keeps the RSALT and the ASIDCUR of a group 0 (R152, R286; log 31). -/
def retireGroup (s : State) (g : Group) : State :=
  (if g.sp.grp = 0 && g.cont.isNone then
    s.onCohort g.cohort (fun c => { c with rsalt0 := g.ctl.rsalt, asid0 := g.ctl.asid })
  else s).dropGroup g.gid

/-- A fresh number for a group, cohort, entry, packet, fill or delta (log 1). -/
def fresh (s : State) : Nat × State := (s.nextUid, { s with nextUid := s.nextUid + 1 })

/-- A free choice among k (log 1). -/
def choose (s : State) (k : Nat) : Nat × State :=
  (Config.choice s.free k % k, { s with free := s.free + 1 })

end State

/-- The partition is being destroyed, or is gone (R46). -/
def State.leaving (s : State) (part : Nat) : Bool := ((s.part? part).map (·.destroying)).getD true

/-- The partition's home die: the lowest-numbered die that holds clusters of it (R26). -/
def Part.homeDie (p : Part) : Nat := dieOfCluster (p.clusters.foldl min 71)

/-- Insertion into an ascending list of numbers. -/
def insertNat (x : Nat) : List Nat → List Nat
  | [] => [x]
  | y :: rest => if x ≤ y then x :: y :: rest else y :: insertNat x rest

/-- The numbers in ascending order. -/
def sortNat : List Nat → List Nat
  | [] => []
  | x :: rest => insertNat x (sortNat rest)

/-- The partition's cores, ascending (R48). -/
def Part.cores (p : Part) : List Nat :=
  (sortNat p.clusters).flatMap (fun k => [4 * k, 4 * k + 1, 4 * k + 2, 4 * k + 3])

/-- The partition's first ASID (R195). -/
def Part.firstAsid (p : Part) : BitVec 8 := BitVec.ofNat 8 (p.asids.getD 0 0)

/-- The home die's tick counter, 44 bits of 16 cycles each (R33). -/
def State.tick (s : State) : Nat := s.cycle / 16 % 2 ^ 44

/-! ### Token buckets (R52) -/

/-- A change to one bucket of a partition. -/
def Part.onBucket (p : Part) (id : BucketId) (f : Bucket → Bucket) : Part :=
  { p with buckets := p.buckets.map (fun (i, b) => if i = id then (i, f b) else (i, b)) }

/-- A piece of n bytes waits at a bucket. -/
def State.askBucket (s : State) (part : Nat) (id : BucketId) (t : Transfer) (n : Nat) : State :=
  s.onPart part (fun p => p.onBucket id (fun b => { b with pieces := b.pieces ++ [(t, n)] }))

/-- The channel group that holds a physical address (log 16). -/
def channelGroup (pa : Nat) : BucketId := .memory (Config.channelOf pa % 192)

/-- A read that an instruction or a walker makes within its step takes its tokens; the wait for them is part of the
step's time (logs 5, 16). -/
def State.chargeRead (s : State) (part pa n : Nat) : State :=
  s.onPart part (fun p => p.onBucket (channelGroup pa) (fun b => { b with tokens := b.tokens - 11 * n }))

/-! ### Poison and CHKIV -/

/-- Merge of two poison states: poisoned if either is, with the lower tag (R158, R159). -/
def mergePois : Option Tag → Option Tag → Option Tag
  | none, b => b
  | a, none => a
  | some a, some b => some (if a.toNat ≤ b.toNat then a else b)

def mergeAll (l : List (Option Tag)) : Option Tag := l.foldl mergePois none

/-- Two CHKIV values merge by ORing their flags and taking the lower PTAG among those with POISON (R395). -/
def Chkiv.merge (a b : Chkiv) : Chkiv :=
  { ptag := if a.poison && b.poison then (if a.ptag.toNat ≤ b.ptag.toNat then a.ptag else b.ptag)
            else if a.poison then a.ptag else if b.poison then b.ptag else 0
    engflt := a.engflt || b.engflt, qsat := a.qsat || b.qsat, remote := a.remote || b.remote
    poison := a.poison || b.poison }

/-- The 64 bits of CHKIV (R395). -/
def Chkiv.word (c : Chkiv) : Word64 :=
  at64 52 c.ptag + BitVec.ofNat 64 (b2n c.engflt * 8 + b2n c.qsat * 4 + b2n c.remote * 2 + b2n c.poison)

def Chkiv.ofPois : Option Tag → Chkiv
  | none => Chkiv.clear
  | some t => { Chkiv.clear with poison := true, ptag := t }

/-- A change to a task of a partition. -/
def Part.onTask (p : Part) (tid : Nat) (f : Task → Task) : Part :=
  { p with tasks := p.tasks.map (fun t => if t.tid = tid then f t else t) }
def Part.task? (p : Part) (tid : Nat) : Option Task := p.tasks.find? (fun t => t.tid == tid)

/-- An event for the CHKIV of a task (R396). -/
def State.noteTask (s : State) (part tid : Nat) (c : Chkiv) : State :=
  s.onPart part (fun p => p.onTask tid (fun t => { t with chkiv := t.chkiv.merge c }))

/-- An event for the task of a run that has exited; a killed run's events are dropped (R396). -/
def State.noteExited (s : State) (uid part tid : Nat) (c : Chkiv) : State :=
  match (s.part? part).bind (·.task? tid) with
  | some t => if t.runs.contains uid then s.noteTask part tid c else s
  | none => s

/-- An event for the CHKIV of a cohort's run: the cohort's until it exits, and then the task's (R396). -/
def State.noteCohort (s : State) (uid part tid : Nat) (c : Chkiv) : State :=
  match s.cohort? uid with
  | some k => if k.exited then s.noteExited uid part tid c else s.setCohort { k with chkiv := k.chkiv.merge c }
  | none => s.noteExited uid part tid c

/-- An event that a group's instruction notes; a resumed continuation's goes to the task (R396). -/
def State.noteGroup (s : State) (g : Group) (c : Chkiv) : State :=
  if c = Chkiv.clear then s
  else
    match s.cohort? g.cohort with
    | none => s
    | some k => if g.cont.isSome then s.noteTask g.part k.tid c else s.noteCohort g.cohort g.part k.tid c

/-! ### Error records (R398) -/

/-- Log one record on a die; the tag names the die and the record's index. -/
def State.logErr (s : State) (die : Nat) (type : BitVec 8) (unit : BitVec 4) (part : BitVec 8) (tid : Nat)
    (detail : Nat) (addr : Nat) : Tag × State :=
  let n := SMap.get 0 s.errSeq die
  let idx := n.toNat % 1024
  let r : ErrRec := { type := type, unit := unit, seq := n, part := part, tid := BitVec.ofNat 20 tid,
                      detail := BitVec.ofNat 20 detail, addr := BitVec.ofNat 64 addr,
                      wclk := BitVec.ofNat 64 s.cycle }
  (BitVec.ofNat 12 (die * 1024 + idx),
   { s with errs := SMap.put none s.errs (die * 1024 + idx) (some r), errSeq := SMap.put 0 s.errSeq die (n + 1) })

/-- The same, where the tag is not used. -/
def State.logOnly (s : State) (die : Nat) (type : BitVec 8) (unit : BitVec 4) (part : Nat) (tid : Nat)
    (detail : Nat) (addr : Nat) : State := (s.logErr die type unit (BitVec.ofNat 8 part) tid detail addr).2

/-- Send a message-signalled interrupt of a partition with its vector's address and data: at once, or pending while the
vector is masked; every message counts (R23). -/
def State.sendMsi (s : State) (part vector : Nat) : State :=
  match s.part? part with
  | none => s
  | some p =>
    let v := SMap.get Vector.fresh p.ports.vectors vector
    if v.mask then
      s.setPart { p with ports := { p.ports with vectors := SMap.put Vector.fresh p.ports.vectors vector
                                                              { v with pending := v.pending + 1 } } }
    else { s with msiOut := s.msiOut ++ [(part, vector, v.addr, v.data)] }

end Sys2Proof.Machine
end

