-- ==== Sys2Proof/Machine/Phys.lean ====
section
/-!
DEFINITION. Device memory as the home of every global byte (R326): the physical map of R191, reads and writes of bytes
with their sector's poison (R158, R159), the parity agent's deltas (R339, R374), reservations that a write clears
(R335), scratchpad and weight store, and 64-bit words in memory.
-/

namespace Sys2Proof.Machine

/-- A physical address that exists: device memory or host memory (R191). -/
def physOk (pa : Nat) : Bool := decide (pa < 0xC000000000) || (decide (0x800000000000 ≤ pa) && decide (pa < 0x1000000000000))

/-- A physical address of device memory. -/
def deviceOk (pa : Nat) : Bool := decide (pa < 0xC000000000)

namespace State

/-- A byte at its home as it was written, with the poison of its sector; a reserved address holds no bytes, and what
reads there is free (R191; log 14). -/
def readDM (s : State) (pa : Nat) : PByte :=
  if physOk pa then ⟨Memory.read s.mem pa, SMap.get none s.memPois (pa / 64)⟩ else ⟨Config.reservedByte pa, none⟩

def readBytes (s : State) (pa n : Nat) : List PByte := (List.range n).map (fun i => s.readDM (pa + i))

/-- A 64-bit little-endian word at its home. -/
def readWord (s : State) (pa : Nat) : Word64 := word64OfBytes ((s.readBytes pa 8).map (·.val))

/-! ### Keys (R47, R432, R433; log 65) -/

/-- The draw whose key a partition's slots hold. -/
def keyOf (s : State) (part : Nat) : Option Nat := (s.part? part).bind (fun p => SMap.get none s.keySlots p.key)
/-- The draw whose key serves a core: its cluster's owner's. -/
def keyOfCore (s : State) (core : Nat) : Option Nat := (SMap.get none s.cluOwner (clusterOf core)).bind s.keyOf

end State

/-- A byte that was written under one key and is read under another: its 16-byte block is encrypted under the one and
decrypted under the other (R432); the host and the device itself read what an owner reads. `at_` gives the bytes as they
were written. -/
def openByte (wrote reads : Option Nat) (at_ : Nat → Byte) (pa : Nat) : Byte :=
  match wrote, reads with
  | some k, some r =>
    if k = r then at_ pa
    else
      let block := (List.range 16).map (fun i => at_ (pa / 16 * 16 + i))
      (xtsDecrypt (Config.drbgKey r) pa (xtsEncrypt (Config.drbgKey k) pa block)).getD (pa % 16) 0
  | _, _ => at_ pa

namespace State

/-- A byte at its home, read under the key of some draw (R47). -/
def readUnder (s : State) (key : Option Nat) (pa : Nat) : PByte :=
  ⟨openByte (SMap.get none s.memKey (pa / 64)) key (fun a => (s.readDM a).val) pa, (s.readDM pa).pois⟩

/-- The same, as partition `part` reads it. -/
def readAs (s : State) (part pa : Nat) : PByte := s.readUnder (s.keyOf part) pa
def readBytesAs (s : State) (part pa n : Nat) : List PByte := (List.range n).map (fun i => s.readAs part (pa + i))
def readWordAs (s : State) (part pa : Nat) : Word64 := word64OfBytes ((s.readBytesAs part pa 8).map (·.val))

end State

/-- The sectors that a list of bytes touches, each once, in the order first met. -/
def sectorsOf (bytes : List WByte) : List Nat :=
  bytes.foldl (fun acc b => if acc.contains (b.addr / 64) then acc else acc ++ [b.addr / 64]) []

/-- All 64 bytes of the sector are written. -/
def coversSector (bytes : List WByte) (sec : Nat) : Bool :=
  (List.range 64).all (fun i => bytes.any (fun b => b.addr == 64 * sec + i))

/-- The poison a sector takes from a store: the Merge of the stored words when the whole sector is written, else
merged with its old poison (R159). One entry or packet is one store, so a sector that several beats of an ST cover takes
several partial stores: DESIGN CHOICE (log 110). -/
def sectorPois (old : Option Tag) (bytes : List WByte) (sec : Nat) : Option Tag :=
  let mine := bytes.filter (fun b => b.addr / 64 == sec)
  let stored := mergeAll (mine.map (·.pois))
  if coversSector mine sec then stored else mergePois old stored

/-- The bytes and sector poisons of a memory after a store; a later byte at one address wins. -/
def storeBytes (m : Memory) (bytes : List WByte) : Memory := bytes.foldl (fun m b => Memory.write m b.addr b.val) m
def storePois (p : SMap (Option Tag)) (bytes : List WByte) : SMap (Option Tag) :=
  (sectorsOf bytes).foldl (fun p sec => SMap.put none p sec (sectorPois (SMap.get none p sec) bytes sec)) p

/-- The sectors that a partition is about to write pass under its key: a sector that holds another key's bytes holds from
now on what the partition reads there (R47, R432). The device's own writes leave the key as it is. -/
def State.claim (s : State) (part : Nat) (secs : List Nat) : State :=
  match s.keyOf part with
  | none => s
  | some k =>
    secs.foldl (fun s sec =>
      match SMap.get none s.memKey sec with
      | none => { s with memKey := SMap.put none s.memKey sec (some k) }
      | some j =>
        if j = k then s
        else
          { s with mem := storeBytes s.mem ((List.range 64).map (fun i =>
                     ⟨64 * sec + i, (s.readUnder (some k) (64 * sec + i)).val, none, none⟩))
                   memKey := SMap.put none s.memKey sec (some k) }) s

/-! ### GF(2^8) with the polynomial 0x11D (R373) -/

/-- Multiplication by 2. -/
def gfDouble (x : Nat) : Nat := if 2 * x < 256 then 2 * x else (2 * x - 256) ^^^ 0x1D

/-- The product, by the bits of the second factor. -/
def gfMulFuel : Nat → Nat → Nat → Nat
  | 0, _, _ => 0
  | k + 1, x, y => (if y % 2 = 1 then x else 0) ^^^ gfMulFuel k (gfDouble x) (y / 2)
def gfMul (x y : Nat) : Nat := gfMulFuel 8 (x % 256) (y % 256)
def gfPow2 : Nat → Nat
  | 0 => 1
  | k + 1 => gfDouble (gfPow2 k)

/-! ### Parity-group records (R375) -/

/-- The record of a parity group: its physical address and its fields. -/
structure PRec where
  at_ : Nat
  pgid : BitVec 16
  k : Nat
  m : Nat
  self : Nat
  live : BitVec 16
  first : Nat
  stride : Nat
  deriving DecidableEq, Repr

def State.parityRecord? (s : State) (p : Part) (pgid : BitVec 16) : Option PRec :=
  (List.range 64).findSome? (fun slot =>
    let a := p.ctl.pgTab.toNat + 32 * slot
    let w0 := s.readWordAs p.id a
    let w1 := s.readWordAs p.id (a + 8)
    if pgid != 0 && bits w0 48 16 == pgid then
      some { at_ := a, pgid := pgid, k := (bits w0 44 4).toNat, m := (bits w0 42 2).toNat, self := (bits w0 38 4).toNat,
             live := bits w0 20 16, first := (bits w1 51 13).toNat, stride := (bits w1 38 13).toNat }
    else none)

/-! ### Reservations that a write clears (R234, R335) -/

/-- Where a write is performed: a core's view, a die's L2 view, or DM. -/
inductive WritePoint
  | core (c : Nat)
  | die (d : Nat)
  | home
  deriving DecidableEq, Repr

/-- A write at a point counts for a reservation: at the core view of its own core, or at the point of its scope. -/
def pointClears (g : Group) (r : Reservation) : WritePoint → Bool
  | .core c => g.core == c
  | .die d => (r.scope == .clu || r.scope == .die) && dieOf g.core == d
  | .home => r.scope == .dev || r.scope == .sys

/-- The granules that bytes touch, each with its writer. -/
def granulesOf (bytes : List WByte) : List (Nat × Option (Nat × Nat)) :=
  bytes.foldl (fun acc b => if acc.contains (b.addr / 64, b.writer) then acc else acc ++ [(b.addr / 64, b.writer)]) []

/-- The bytes clear lane r's reservation of g: they meet its granule in its space, at a point that counts, and
another party wrote them. -/
def clearsReservation (g : Group) (r : Reservation) (granules : List (Nat × Option (Nat × Nat))) (scratch : Option Nat)
    (point : WritePoint) : Bool :=
  r.scratch == scratch.isSome && (scratch == none || scratch == some g.cohort) && pointClears g r point &&
  granules.any (fun (a, w) => a == r.granule && w != some (g.gid, r.lane))

def State.clearReservations (s : State) (bytes : List WByte) (scratch : Option Nat) (point : WritePoint) : State :=
  let gs := granulesOf bytes
  { s with groups := s.groups.map (fun g =>
      { g with resv := g.resv.filter (fun r => !clearsReservation g r gs scratch point) }) }

/-- Words of some bytes that the device writes, clean. -/
def deviceBytes (pa : Nat) (ws : List Word64) : List WByte :=
  (ws.flatMap bytesOfWord64).zipIdx.map (fun (b, i) => (⟨pa + i, b, none, none⟩ : WByte))

/-- Bytes written at their home, past the parity agent: contents, key, sector poison and reservations. A reserved
address takes nothing (log 14). -/
def State.writeHome (s : State) (part : Nat) (bytes : List WByte) : State :=
  let bs := bytes.filter (fun b => physOk b.addr)
  let s := s.claim part (sectorsOf bs)
  ({ s with mem := storeBytes s.mem bs, memPois := storePois s.memPois bs } : State).clearReservations bs none .home

/-- PEND of a record: the deltas of the group in PQ (R375). -/
def State.refreshPend (s : State) (p : Part) (pgid : BitVec 16) : State :=
  match s.parityRecord? p pgid with
  | none => s
  | some r =>
    let n := (s.pq.filter (fun d => d.part == p.id && d.pgid == pgid)).length
    let old := s.readWordAs p.id (r.at_ + 16)
    s.writeHome p.id (deviceBytes (r.at_ + 16) [((old >>> 32) <<< 32) + BitVec.ofNat 64 (n % 2 ^ 32)])

/-- The deltas that one written sector of a protected instance forms, one for each live parity member; each waits at
the LINKU bucket of its member's port (R374, R52). -/
def State.formDeltas (s : State) (p : Part) (range : ProtRange) (sec : Nat) (old new : List Byte) (pois : Option Tag)
    (src : DeltaSource) : State :=
  match s.parityRecord? p range.pgid with
  | none => s
  | some r =>
    if r.k ≤ r.self then s
    else
      let diff := (old.zip new).map (fun (a, b) => a ^^^ b)
      if bit r.live r.self = false then s else
      (List.range r.m).foldl (fun s i =>
        if bit r.live (r.k + i) then
          let f := if i = 0 then 1 else gfPow2 r.self
          let bytes := diff.map (fun b => BitVec.ofNat 8 (gfMul b.toNat f))
          let (id, s) := s.fresh
          let va := range.va + (64 * sec - range.pa)
          ({ s with
            pq := s.pq ++ [{ sent := false, id := id, part := p.id, pgid := range.pgid, member := r.k + i, va := va
                             bytes := bytes, pois := pois, sentUs := s.refUs, source := src }] } : State).askBucket p.id
              (.link (Config.portOf (r.first + r.stride * (r.k + i)) % 18)) (.delta id) 64
        else s) s |>.refreshPend p range.pgid

/-! ### Writes that reach their home -/

/-- One sector's bytes reach DM inside a protected instance: the delta is formed in the same step (R339, R374). -/
def State.parityFor (s0 s1 : State) (part : Nat) (bytes : List WByte) (src : DeltaSource) : State :=
  match s0.part? part with
  | none => s1
  | some p =>
    if p.prot.isEmpty then s1
    else
      (sectorsOf bytes).foldl (fun s sec =>
        match p.prot.find? (fun r => decide (r.pa ≤ 64 * sec) && decide (64 * sec < r.pa + r.len)) with
        | none => s
        | some range =>
          s.formDeltas p range sec ((s0.readBytesAs part (64 * sec) 64).map (·.val))
            ((s1.readBytesAs part (64 * sec) 64).map (·.val))
            (SMap.get none s1.memPois sec) src) s1

/-- Bytes written at DM: contents, sector poison, parity deltas, and reservations at DEV and SYS scope. -/
def State.writeDM (s : State) (part : Nat) (bytes : List WByte) (src : DeltaSource) : State :=
  s.parityFor (s.writeHome part bytes) part bytes src

/-- The deltas that a write would form: one for each live parity member and protected sector (R374). -/
def State.deltasFor (s : State) (part : Nat) (bytes : List WByte) : Nat :=
  match s.part? part with
  | none => 0
  | some p =>
    if p.prot.isEmpty then 0
    else
      ((sectorsOf bytes).map (fun sec =>
        match (p.prot.find? (fun r => decide (r.pa ≤ 64 * sec) && decide (64 * sec < r.pa + r.len))).bind
            (fun r => s.parityRecord? p r.pgid) with
        | some r =>
          if r.self < r.k && bit r.live r.self then ((List.range r.m).filter (fun i => bit r.live (r.k + i))).length else 0
        | none => 0)).sum

/-- PQ has room for the deltas of a write: it holds 4,096 (R374). -/
def State.parityRoom (s : State) (part : Nat) (bytes : List WByte) : Bool :=
  let n := s.deltasFor part bytes
  n == 0 || decide (s.pq.length + n ≤ 4096)

/-- Words that the device itself writes at DM for a partition, clean (records, page-table entries, rings). -/
def State.writeWords (s : State) (part pa : Nat) (ws : List Word64) : State :=
  s.writeDM part (deviceBytes pa ws) .device

/-- A frame or a run of bytes zeroed and cleared of poison (R203, R361): its lines leave every view, so that a first
touch reads 0, and it holds no key's bytes (logs 65, 83). -/
def State.zeroRun (s : State) (pa len : Nat) : State :=
  let inside := fun (sec : Nat) => decide (pa ≤ 64 * sec) && decide (64 * sec < pa + len)
  { s with mem := s.mem.filter (fun c => !(decide (pa ≤ c.1) && decide (c.1 < pa + len)))
           memPois := s.memPois.filter (fun c => !inside c.1)
           memKey := s.memKey.filter (fun c => !inside c.1)
           copies := s.copies.filter (fun c => !inside c.line)
           groups := s.groups.map (fun g => { g with resv := g.resv.filter (fun r =>
             !(!r.scratch && inside r.granule && pointClears g r .home)) }) }

/-! ### Scratchpad (R209) and the weight store (R206) -/

/-- Bytes of the cohort's allotment: (SCRK + 32·LSLOT) KiB, and the bytes below the landing slots. -/
def Cohort.allotted (c : Cohort) : Nat := (c.scrk + 32 * c.lslot) * 1024
def Cohort.belowLanding (c : Cohort) : Nat := c.scrk * 1024

def Cohort.readScratch (c : Cohort) (off : Nat) : PByte :=
  ⟨Memory.read c.scratch off, SMap.get none c.scratchPois (off / 64)⟩
def Cohort.readScratchBytes (c : Cohort) (off n : Nat) : List PByte := (List.range n).map (fun i => c.readScratch (off + i))

/-- A 32-bit little-endian word of scratchpad. -/
def Cohort.scratchWord (c : Cohort) (off : Nat) : Word32 :=
  (word64OfBytes ((c.readScratchBytes off 4).map (·.val))).setWidth 32

def Cohort.writeScratch (c : Cohort) (bytes : List WByte) : Cohort :=
  { c with scratch := storeBytes c.scratch bytes, scratchPois := storePois c.scratchPois bytes }

/-- A 32-bit word written to scratchpad, leaving its sector's poison as it is merged with `pois`. -/
def Cohort.writeScratchWord (c : Cohort) (off : Nat) (w : Word32) (pois : Option Tag) : Cohort :=
  c.writeScratch ((List.range 4).map (fun i => (⟨off + i, bits w (8 * i) 8, pois, none⟩ : WByte)))

/-- Scratchpad bytes of a cohort written at their home in the core view (R327), with the reservations they clear. -/
def State.writeScratch (s : State) (uid : Nat) (bytes : List WByte) : State :=
  match s.cohort? uid with
  | none => s
  | some c => (s.setCohort (c.writeScratch bytes)).clearReservations bytes (some uid) (.core c.core)

/-- The weight-store bank that holds an offset of the partition's space (R206), as a device-wide unit number. -/
def Part.bankOf (p : Part) (off : Nat) : Option Nat := (sortNat p.banks)[off / (12 * 1024 * 1024)]?

/-- The device-wide byte number of a weight-store offset. -/
def Part.wsByte (p : Part) (off : Nat) : Nat :=
  (p.bankOf off).getD 0 * (12 * 1024 * 1024) + off % (12 * 1024 * 1024)

/-- The bytes of the partition's weight-store space. -/
def Part.wsSize (p : Part) : Nat := p.banks.length * (12 * 1024 * 1024)

def State.readWs (s : State) (p : Part) (off : Nat) : PByte :=
  let a := p.wsByte off
  ⟨Memory.read s.ws a, SMap.get none s.wsPois (a / 64)⟩

def State.writeWs (s : State) (bytes : List WByte) : State :=
  { s with ws := storeBytes s.ws bytes, wsPois := storePois s.wsPois bytes }

end Sys2Proof.Machine
end

