-- ==== Sys2Proof/Machine/Mmu.lean ====
section
/-!
DEFINITION. Address translation: the four-level walk (R192, R193), the TLBs and victim storage (R199, R200), the run
that TRB finds (R197), and the changes PMAP and the allocator make to a mapping (R200, R203, R389).
-/

namespace Sys2Proof.Machine

/-! ### Levels (R192) -/

def levelShift : Nat → Nat | 0 => 44 | 1 => 29 | 2 => 23 | _ => 17
def levelBits : Nat → Nat | 0 => 13 | 1 => 15 | _ => 6
/-- The size of the table at a level, to which it is aligned. -/
def tableSize (level : Nat) : Nat := 8 * 2 ^ levelBits level
/-- The page size of a leaf at a level (1 to 3). -/
def pageSize (level : Nat) : Nat := 2 ^ levelShift level

/-- A page-table entry (R193). -/
structure Pte where
  paddr : Nat
  x : Bool
  w : Bool
  leaf : Bool
  valid : Bool
  reserved : Bool
  deriving DecidableEq, Repr

def Pte.ofWord (e : Word64) : Pte :=
  { paddr := (bits e 9 39).toNat * 512, x := bit e 4, w := bit e 3, leaf := bit e 1, valid := bit e 0
    reserved := bits e 48 16 != 0 || bits e 5 4 != 0 || bit e 2 }

/-- A leaf entry for PMAP and the allocator: W 1, X 0 (R389). -/
def Pte.leafWord (pa : Nat) : Word64 := BitVec.ofNat 64 (pa / 512 * 512 + 8 + 2 + 1)

/-- A malformed entry at a level (R193). -/
def Pte.malformed (e : Pte) (level : Nat) : Bool :=
  e.reserved || (e.leaf && level == 0) || (!e.leaf && level == 3) || !physOk e.paddr ||
  (e.paddr % (if e.leaf then pageSize level else tableSize (level + 1)) != 0)

/-- The end of a walk. -/
inductive PageWalk
  /-- a page: its level, the entry's physical address, the page's physical address and permissions -/
  | leaf (level : Nat) (entryPa : Nat) (ppage : Nat) (x w : Bool)
  /-- no valid entry at a level; the entry's physical address -/
  | absent (level : Nat) (entryPa : Nat)
  | noTable
  | malformed
  deriving DecidableEq, Repr

/-- The walk from a table at `level`, for `fuel` more levels, through the partition's key (R194). -/
def State.walkFrom (s : State) (part va : Nat) : Nat → Nat → Nat → PageWalk
  | 0, _, _ => .malformed
  | fuel + 1, level, table =>
    let a := table + 8 * (va / 2 ^ levelShift level % 2 ^ levelBits level)
    let e := Pte.ofWord (s.readWordAs part a)
    if !e.valid then .absent level a
    else if e.malformed level then .malformed
    else if e.leaf then .leaf level a e.paddr e.x e.w
    else s.walkFrom part va fuel (level + 1) e.paddr

/-- The entries that a walk reads, each 8 bytes (R52). -/
def State.walkReads (s : State) (part va : Nat) : Nat → Nat → Nat → List Nat
  | 0, _, _ => []
  | fuel + 1, level, table =>
    let a := table + 8 * (va / 2 ^ levelShift level % 2 ^ levelBits level)
    let e := Pte.ofWord (s.readWordAs part a)
    if !e.valid || e.malformed level || e.leaf then [a] else a :: s.walkReads part va fuel (level + 1) e.paddr

/-- PTROOT of an ASID: the partition's ASIDs take PTROOT0 to PTROOT3 in order (R385). -/
def Part.ptroot (p : Part) (asid : BitVec 8) : Addr :=
  match p.asids.findIdx? (fun a => BitVec.ofNat 8 a == asid) with
  | some i => SMap.get 0 p.ctl.ptroot i
  | none => 0

/-- A walk under an ASID; a PTROOT of 0 names no table (R192). -/
def State.walk (s : State) (p : Part) (asid : BitVec 8) (va : Nat) : PageWalk :=
  if p.ptroot asid = 0 then .noTable else s.walkFrom p.id va 4 0 (p.ptroot asid).toNat

/-- The tokens that the walk's reads take (R52). -/
def State.chargeWalk (s : State) (p : Part) (asid : BitVec 8) (va : Nat) : State :=
  if p.ptroot asid = 0 then s
  else (s.walkReads p.id va 4 0 (p.ptroot asid).toNat).foldl (fun s a => s.chargeRead p.id a 8) s

/-! ### TLBs (R199) -/

def TlbEntry.hits (e : TlbEntry) (asid : BitVec 8) (va : Nat) : Bool :=
  e.asid == asid && decide (e.vpage ≤ va) && decide (va < e.vpage + e.size)

/-- An entry put into a TLB of a given size; a full one gives up a freely chosen entry (log 13). -/
def State.tlbInsert (s : State) (cap : Nat) (tlb : List TlbEntry) (e : TlbEntry) :
    State × List TlbEntry × Option TlbEntry :=
  if tlb.length < cap then (s, e :: tlb, none)
  else
    let (i, s) := s.choose tlb.length
    (s, e :: tlb.eraseIdx i, tlb[i]?)

/-- Entries that a cluster's victim storage can hold: four in each scratchpad line outside every cohort's allotment, and
those in instruction-cache lines, at most 16,384 (R200). -/
def State.victimCap (s : State) (k : Nat) : Nat :=
  let used := ((s.cohorts.filter (fun c => clusterOf c.core == k)).map (fun c => (c.scrk + 32 * c.lslot) * 16)).sum
  min 16384 (4 * (4 * 24576 - used) + Config.icacheEntries s.choices)

/-- A placement, an ACQUIRE or a fetch takes lines of a cluster back: some of its victim entries are dropped, and no more
remain than the other lines hold (R200; log 13). -/
def State.reclaimVictims (s : State) (k : Nat) : State :=
  let v := (s.cluster k).victim
  if v.isEmpty then s
  else
    let (n, s) := s.choose (v.length + 1)
    s.onCluster k (fun c => { c with victim := (c.victim.take n).take (s.victimCap k) })

/-- A translation fills L1; what L1 evicts goes to L2, and what L2 evicts to victim storage (R199, R200). -/
def State.tlbFill (s : State) (core : Nat) (e : TlbEntry) : State :=
  let c := s.core core
  if c.l1.contains e then s
  else
    let (s, l1, out1) := s.tlbInsert 64 c.l1 e
    let s := s.setCore core { s.core core with l1 := l1 }
    match out1 with
    | none => s
    | some e1 =>
      let k := clusterOf core
      let (s, l2, out2) := s.tlbInsert 2048 (s.cluster k).l2 e1
      let s := s.setCluster k { s.cluster k with l2 := l2 }
      match out2 with
      | none => s
      | some e2 =>
        let (s, vs, _) := s.tlbInsert (s.victimCap k) (s.cluster k).victim e2
        s.setCluster k { s.cluster k with victim := vs.take (s.victimCap k) }

/-- What a translation gives: a physical address with the page's permissions, a fault, or a malformed entry. -/
inductive Trans
  | ok (pa : Nat) (x w : Bool)
  | absent
  | malformed
  deriving DecidableEq, Repr

/-- A translation through a core's L1, its cluster's L2 and victim storage, and the page tables (R199). -/
def State.translate (s : State) (p : Part) (core : Nat) (asid : BitVec 8) (va : Nat) : Trans × State :=
  let k := s.cluster (clusterOf core)
  match ((s.core core).l1 ++ k.l2 ++ k.victim).find? (fun e => e.hits asid va) with
  | some e => (.ok (e.ppage + (va - e.vpage)) e.x e.w, s.tlbFill core e)
  | none =>
    let s' := s.chargeWalk p asid va
    match s.walk p asid va with
    | .leaf level _ pp x w =>
      let e : TlbEntry := ⟨asid, va / pageSize level * pageSize level, pageSize level, pp, x, w⟩
      (.ok (pp + va % pageSize level) x w, s'.tlbFill core e)
    | .absent _ _ | .noTable => (.absent, s')
    | .malformed => (.malformed, s')

/-- A translation with no TLB, for the scheduler and the host side. -/
def State.translateWalk (s : State) (p : Part) (asid : BitVec 8) (va : Nat) : Trans :=
  match s.walk p asid va with
  | .leaf level _ pp x w => .ok (pp + va % pageSize level) x w
  | .absent _ _ | .noTable => .absent
  | .malformed => .malformed

/-- The kinds of access a page may refuse (R201). -/
inductive AccKind
  | read | write | fetch
  deriving DecidableEq, Repr

/-- A translation for an access: a physical address, a fault (with PERM when a mapping refuses it), or malformed. -/
inductive TransAcc
  | ok (pa : Nat)
  | fault (perm : Bool)
  | malformed
  deriving DecidableEq, Repr

def Trans.forAcc (k : AccKind) : Trans → TransAcc
  | .ok pa x w =>
    match k with
    | .read => .ok pa
    | .write => if w then .ok pa else .fault true
    | .fetch => if x then .ok pa else .fault true
  | .absent => .fault false
  | .malformed => .malformed

/-- The address lies in the heap window (R361). -/
def Part.inHeap (p : Part) (va : Nat) : Bool :=
  decide (p.ctl.heapBase.toNat ≤ va) && decide (va < p.ctl.heapBase.toNat + p.ctl.heapLen)

/-- LIMIT of TRB: bytes to the end of the page, extended page by page while the next entry of the same leaf table maps
the following page with the same size and permissions, physically adjacent, up to 2^29 bytes (R197). -/
def State.extendRun (s : State) (part level pp : Nat) (x w : Bool) : Nat → Nat → Nat → Nat → Nat
  | 0, _, _, len => min len (2 ^ 29)
  | fuel + 1, entry, next, len =>
    if 2 ^ 29 ≤ len then 2 ^ 29
    else if next % (tableSize level) = 0 then len
    else
      let e := Pte.ofWord (s.readWordAs part entry)
      if e.valid && !e.malformed level && e.leaf && e.x == x && e.w == w && e.paddr == pp then
        s.extendRun part level (pp + pageSize level) x w fuel (entry + 8) (next + 8) (len + pageSize level)
      else len

/-- LIMIT of TRB from the TLB entry that served it (R196, R197): to the end of its page, extended from the entry's place
in the leaf table of its page size, where a walk reaches one. -/
def State.trbRun (s : State) (p : Part) (e : TlbEntry) (va : Nat) : Nat :=
  let first := e.vpage + e.size - va
  let extend := fun (level entry : Nat) =>
    if pageSize level = e.size then
      s.extendRun p.id level (e.ppage + e.size) e.x e.w 64 (entry + 8) (entry + 8) first
    else min first (2 ^ 29)
  match s.walk p e.asid va with
  | .leaf level entry _ _ _ => extend level entry
  | .absent level entry => extend level entry
  | _ => min first (2 ^ 29)

/-- Invalidate every copy of a translation of the partition's page, and set LIMIT 0 in the b registers whose run
meets it (R200). -/
def State.invalidatePage (s : State) (p : Part) (asid : BitVec 8) (page : Nat) (size : Nat) : State :=
  let keep := fun (e : TlbEntry) =>
    !(e.asid == asid && decide (e.vpage < page + size) && decide (page < e.vpage + e.size))
  let s := p.clusters.foldl (fun s k =>
    s.onCluster k (fun c => { c with l2 := c.l2.filter keep, victim := c.victim.filter keep })) s
  let s := p.cores.foldl (fun s n => s.onCore n (fun c => { c with l1 := c.l1.filter keep })) s
  { s with groups := s.groups.map (fun g =>
      if g.part = p.id then
        { g with regs := { g.regs with b := g.regs.b.map (fun (i, r) =>
            if r.valid && r.asid == asid && decide (r.vbase.toNat < page + size) &&
               decide (page < r.vbase.toNat + r.limit.toNat) then (i, { r with limit := 0 }) else (i, r)) } }
      else g) }

/-- The 128 KiB page of an address. -/
def pageOf (va : Nat) : Nat := va / 2 ^ 17 * 2 ^ 17

/-- A physical frame goes back to its pool: a device frame to the page pool, a host frame to the host-frame list
(R203, R205, R361). -/
def State.pushFrame (s : State) (part : Nat) (frame : Nat) : State :=
  match s.part? part with
  | none => s
  | some p =>
    if deviceOk frame then
      let s := s.writeWords p.id (p.ctl.poolBase.toNat + 8 * p.ctl.poolFree) [BitVec.ofNat 64 frame]
      s.setPart { p with ctl := { p.ctl with poolFree := p.ctl.poolFree + 1 } }
    else
      let s := s.writeWords p.id (p.ctl.hpoolBase.toNat + 8 * p.ctl.hpoolFree) [BitVec.ofNat 64 frame]
      s.setPart { p with ctl := { p.ctl with hpoolFree := p.ctl.hpoolFree + 1 } }

/-- Take the entry at index POOLFREE − 1 of a pool (R203); the frame's physical address. -/
def State.popFrame (s : State) (part : Nat) (host : Bool) : Option (Nat × State) :=
  match s.part? part with
  | none => none
  | some p =>
    if host then
      if p.ctl.hpoolFree = 0 then none
      else some ((s.readWordAs p.id (p.ctl.hpoolBase.toNat + 8 * (p.ctl.hpoolFree - 1))).toNat,
                 s.setPart { p with ctl := { p.ctl with hpoolFree := p.ctl.hpoolFree - 1 } })
    else
      if p.ctl.poolFree = 0 then none
      else some ((s.readWordAs p.id (p.ctl.poolBase.toNat + 8 * (p.ctl.poolFree - 1))).toNat,
                 s.setPart { p with ctl := { p.ctl with poolFree := p.ctl.poolFree - 1 } })

/-- Map a zeroed frame at a level-3 entry with W 1 and X 0 (R203, R389). -/
def State.mapFrame (s : State) (part entryPa frame : Nat) : State :=
  (s.zeroRun frame (2 ^ 17)).writeWords part entryPa [Pte.leafWord frame]

end Sys2Proof.Machine
end

