-- ==== Sys2Proof/Machine/Sched.lean ====
section
/-!
DEFINITION. The task table of a partition's home scheduler (R27 to R31, R35, R36): control blocks with their image in
device memory (R28), completion entries, ready stamps, decrements, wakes, and the failure of a task with its spread.
-/

namespace Sys2Proof.Machine

/-! ### Control blocks (R28) -/

def TaskState.code : TaskState → Nat
  | .free => 0 | .waiting => 1 | .ready => 2 | .running => 3 | .parked => 4 | .done => 5 | .failed => 6
def TaskKind.code : TaskKind → Nat
  | .kernel => 0 | .join => 1 | .continuation => 2

/-- The eight words of a control block. -/
def Task.image (t : Task) : List Word64 :=
  let nat := fun (n : Nat) => BitVec.ofNat 64 n
  [ nat (t.tid * 2 ^ 44 + t.state.code * 2 ^ 40 + t.pri * 2 ^ 37 + t.epri * 2 ^ 34 + t.kind.code * 2 ^ 32 +
      t.depc * 2 ^ 16 + b2n t.relaunch * 2 ^ 15 + b2n t.early * 2 ^ 14 + t.nsucc * 2 ^ 11 + t.emask.toNat * 2 ^ 7),
    nat t.recVa.toNat,
    nat t.entry.toNat,
    t.argp,
    nat (t.nxm1 * 2 ^ 48 + t.nym1 * 2 ^ 32 + t.nzm1 * 2 ^ 24 + t.ngm1 * 2 ^ 20 + t.maxpc * 2 ^ 17 + t.swgt * 2 ^ 13 +
      t.mxpri * 2 ^ 10),
    nat ((t.fullv * 2 ^ 60 + t.atiles * 2 ^ 53 + t.scrk * 2 ^ 42 + t.stsl * 2 ^ 36 + t.lslot * 2 ^ 32) / 2 ^ 32 * 2 ^ 32),
    nat ((if t.kind = .continuation then t.orig else t.succ0) * 2 ^ 44 + t.succ1 * 2 ^ 24 + t.succ2 * 2 ^ 4),
    nat (t.succ3 * 2 ^ 44 + t.rstamp) ]

/-- The block's address in device memory (R26). -/
def Part.blockAddr (p : Part) (tid : Nat) : Nat := p.totals.ttbase + 64 * tid

/-- A task put into the table, and its block's image into device memory. -/
def State.putTask (s : State) (part : Nat) (t : Task) : State :=
  match s.part? part with
  | none => s
  | some p =>
    let p := if p.tasks.any (fun x => x.tid == t.tid) then p.onTask t.tid (fun _ => t)
             else { p with tasks := p.tasks ++ [t] }
    (s.setPart p).writeWords p.id (p.blockAddr t.tid) t.image

/-- Change a task, if the table holds it. -/
def State.onTask (s : State) (part tid : Nat) (f : Task → Task) : State :=
  match (s.part? part).bind (·.task? tid) with
  | some t => s.putTask part (f t)
  | none => s

/-- Free a block: STATE becomes FREE and the other fields stand (R30). -/
def State.freeTask (s : State) (part tid : Nat) : State :=
  let s := s.onTask part tid (fun t => { t with state := .free })
  s.onPart part (fun p => { p with tasks := p.tasks.filter (fun t => t.tid != tid)
                                   dispatched := p.dispatched.filter (· != tid) })

def State.task? (s : State) (part tid : Nat) : Option Task := (s.part? part).bind (·.task? tid)

/-- The task has placed the cohort. -/
def Task.placed (t : Task) (uid : Nat) : Bool := (t.runs ++ t.killedRuns).contains uid

/-- The task that placed a cohort, while it stands under its TID: a block that was freed may be another task's by now. -/
def State.taskOf (s : State) (part tid uid : Nat) : Option Task := (s.task? part tid).filter (fun t => t.placed uid)

def Task.successors (t : Task) : List (Nat × Nat) :=
  ([t.succ0, t.succ1, t.succ2, t.succ3].take t.nsucc).zipIdx.map (fun (x, i) => (i, x))

/-! ### Completion entries (R35) -/

/-- The result of a flit, laid out as word 0 of a completion entry (R35, R349). -/
def resultWord (tid state cause : Nat) : Word64 := put64 44 20 tid + put64 40 4 state + put64 32 8 cause

/-- The completion ring is full, or empty. -/
def Ports.cqFull (p : Ports) : Bool := (p.cqTail - p.cqHead).toNat == 2 ^ p.cqSize
def Ports.cqEmpty (p : Ports) : Bool := p.cqTail == p.cqHead

/-- The words of an entry. -/
def Entry.words (e : Entry) : List Word64 := [resultWord e.tid e.state e.cause, e.chkv]

/-- An entry goes to the ring at CQTAIL, with the message when the ring was empty, and the block it is for is freed. -/
def State.writeEntry (s : State) (p : Part) (e : Entry) : State :=
  let a := p.ports.cqBase.toNat + 16 * (p.ports.cqTail.toNat % 2 ^ p.ports.cqSize)
  let s := s.setPart { p with ports := { p.ports with cqTail := p.ports.cqTail + 1 } }
  let s := s.writeWords p.id a e.words
  let s := if p.ports.cqEmpty then s.sendMsi p.id 32 else s
  if e.frees then s.freeTask p.id e.tid else s

/-- An entry is written in the event that it belongs to (R30, R35); behind others that are held, or into a full ring, the
scheduler holds it until the ring takes it (COMPLETION_ENTRY). A partition that is being destroyed writes none (R46). -/
def State.pushEntry (s : State) (part : Nat) (e : Entry) : State :=
  match s.part? part with
  | none => s
  | some p =>
    if p.destroying then s
    else if p.entries.isEmpty && !p.ports.cqFull then s.writeEntry p e
    else s.setPart { p with entries := p.entries ++ [e] }

/-- A rejected flit or decrement (R29): STATE 0, CHKV 0. -/
def State.reject (s : State) (part tid cause : Nat) : State := s.pushEntry part ⟨tid, 0, cause, 0, false⟩

/-! ### READY (R29, R33) -/

/-- A task becomes READY with a fresh stamp. -/
def Task.makeReady (t : Task) (tick : Nat) : Task := { t with state := .ready, rstamp := tick, epri := t.pri }

/-- The effective priority at a tick (R33). -/
def Task.eprioAt (t : Task) (tick : Nat) : Nat := min 7 (t.pri + (tick + 2 ^ 44 - t.rstamp) % 2 ^ 44 / 128)

/-- The ready queue's order: higher EPRI, then the earlier stamp, then the lower TID (R33). -/
def Task.before (tick : Nat) (a b : Task) : Bool :=
  let pa := a.eprioAt tick
  let pb := b.eprioAt tick
  let wa := (tick + 2 ^ 44 - a.rstamp) % 2 ^ 44
  let wb := (tick + 2 ^ 44 - b.rstamp) % 2 ^ 44
  decide (pb < pa) || (pa == pb && (decide (wb < wa) || (wa == wb && decide (a.tid < b.tid))))

/-- The head of the ready queue. -/
def Part.readyHead (p : Part) (tick : Nat) : Option Task :=
  (p.tasks.filter (fun t => t.state == .ready)).foldl (fun best t =>
    match best with
    | none => some t
    | some b => if Task.before tick t b then some t else some b) none

/-! ### Failure (R29, R30) -/

/-- The waiters of some cohorts' groups and some continuations leave the page requests (R205). -/
def Part.dropWaiters (p : Part) (uids tids : List Nat) : Part :=
  { p with requests := p.requests.map (fun (r : PageReq) =>
      { r with waiters := r.waiters.filter (fun x => match x with | .path u _ _ => !uids.contains u | .cont t => !tids.contains t) }) }

/-- The continuations that parked in some cohorts. -/
def Part.parkedIn (p : Part) (uids : List Nat) : List Task :=
  p.tasks.filter (fun t => t.kind == .continuation && uids.contains t.parkCohort)

/-- Fail a task: FAILED, its completion entry, a kill without relaunch of every cohort that runs for it, whose kill frees its
continuations without an entry, its waiters gone from the page requests (R205), and PRED_FAILED for each successor it has not
yet decremented; fuel bounds the spread by the number of tasks. -/
def State.failTaskFuel : Nat → State → Nat → Nat → Nat → State
  | 0, s, _, _, _ => s
  | fuel + 1, s, part, tid, cause =>
    match s.task? part tid with
    | none => s
    | some t =>
      if t.state == .done || t.state == .failed || t.reported then s
      else
        let s := s.putTask part { t with state := .failed, reported := true }
        let s := s.pushEntry part ⟨tid, 6, cause, t.chkiv.word, true⟩
        let s := s.onPart part (fun p => { p with dispatched := p.dispatched.filter (· != tid)
                                                  relaunches := p.relaunches.filter (fun r => r.1 != tid) })
        let s := s.onPart part (fun p => p.dropWaiters t.runs ((p.parkedIn t.runs).map (·.tid)))
        let s := { s with cohorts := s.cohorts.map (fun c =>
          if t.runs.contains c.uid ∧ c.kill = none then
            { c with kill := some ⟨0, 0, 0, BitVec.ofNat 8 cause, false⟩ } else c) }
        t.successors.foldl (fun s (i, succ) =>
          if bit t.sent i then s
          else
            match s.task? part succ with
            | some u => if u.state == .waiting then State.failTaskFuel fuel s part succ 4 else s
            | none => s) s

/-- Fail a task with a cause; a continuation becomes FAILED and its task fails, where the cohort it parked in still runs for
that task (R29, R37, R205). -/
def State.failTask (s : State) (part tid cause : Nat) : State :=
  match s.part? part with
  | none => s
  | some p =>
    match p.task? tid with
    | some t =>
      if t.kind == .continuation then
        let s := s.putTask part { t with state := .failed }
        if (p.task? t.orig).any (fun o => o.runs.contains t.parkCohort) then s.failTaskFuel (p.tasks.length + 1) part t.orig cause
        else s
      else s.failTaskFuel (p.tasks.length + 1) part tid cause
    | none => s

/-! ### Decrements and wakes (R29, R31, R356) -/

/-- One decrement taken by the scheduler. -/
def State.decrementTask (s : State) (part tid : Nat) : State :=
  match s.task? part tid with
  | none => s.reject part tid 8
  | some t =>
    match t.state with
    | .free => s.reject part tid 8
    | .waiting =>
      let t := { t with depc := t.depc - 1 }
      if t.depc = 0 then
        if t.kind == .join then s.putTask part { t with state := .done }
        else s.putTask part (t.makeReady s.tick)
      else s.putTask part t
    | .parked =>
      if t.wake = some .dep then
        let t := { t with depc := t.depc - 1 }
        if t.depc = 0 then s.putTask part (t.makeReady s.tick) else s.putTask part t
      else s.reject part tid 9
    | _ => s.reject part tid 9

/-- Send a decrement to the home scheduler (R31, R350); with a vector, CPYH's interrupt follows it (R266). -/
def State.sendDecrementThen (s : State) (part tid : Nat) (vec : Option Nat) : State :=
  s.onPart part (fun p => { p with decrements := p.decrements ++ [(tid, vec)] })
def State.sendDecrement (s : State) (part tid : Nat) : State := s.sendDecrementThen part tid none

/-- Wake a parked continuation: READY with a fresh stamp (R36, R356). -/
def State.wakeTask (s : State) (part tid : Nat) (status : Word64) : State :=
  s.onTask part tid (fun t =>
    if t.state == .parked then { (t.makeReady s.tick) with wakeStatus := status } else t)

/-- FLAGS in [63:32] and GEN in [31:0] of an arrival word (R273, R357). -/
def Cohort.awStatus (c : Cohort) (off : Nat) : Word64 :=
  (c.scratchWord (off + 12)).setWidth 64 <<< 32 ||| (c.scratchWord (off + 8)).setWidth 64

/-- A GEN step of a cohort's arrival word wakes every continuation parked on an older generation (R356). -/
def State.awWakes (s : State) (uid off : Nat) : State :=
  match s.cohort? uid with
  | none => s
  | some c =>
    match s.part? c.part with
    | none => s
    | some p =>
      p.tasks.foldl (fun s t =>
        match t.wake with
        | some (.gen u o g) =>
          if t.state == .parked && u == uid && o == off && c.scratchWord (off + 8) != g
          then s.wakeTask c.part t.tid (c.awStatus off) else s
        | _ => s) s

/-! ### Arrival words (R246) -/

/-- The four bytes of a 32-bit word of scratchpad, written by the device. -/
def wordBytes (off : Nat) (w : Word32) : List WByte :=
  (List.range 4).map (fun i => (⟨off + i, bits w (8 * i) 8, none, none⟩ : WByte))

/-- Arrive(n) on the arrival word at an offset of a cohort's scratchpad. -/
def State.arrive (s : State) (uid off n : Nat) : State :=
  match s.cohort? uid with
  | none => s
  | some c =>
    let target := (c.scratchWord off).toNat
    let cnt := (c.scratchWord (off + 4)).toNat + n
    if cnt < target then s.writeScratch uid (wordBytes (off + 4) (BitVec.ofNat 32 cnt))
    else
      let flags := c.scratchWord (off + 12)
      let excess := if target < cnt then wordBytes (off + 12) (flags ||| 3) else []
      (s.writeScratch uid (wordBytes (off + 4) 0 ++ wordBytes (off + 8) (c.scratchWord (off + 8) + 1) ++ excess)).awWakes
        uid off

/-- Fail(f) on an arrival word: ERR with NACK (bit 2) or TOUT (bit 3), COUNT 0, GEN stepped. -/
def State.failWord (s : State) (uid off : Nat) (f : FailKind) : State :=
  match s.cohort? uid with
  | none => s
  | some c =>
    let flag : Word32 := match f with | .nack => 5 | .tout => 9
    (s.writeScratch uid (wordBytes (off + 4) 0 ++ wordBytes (off + 8) (c.scratchWord (off + 8) + 1) ++
      wordBytes (off + 12) (c.scratchWord (off + 12) ||| flag))).awWakes uid off

end Sys2Proof.Machine
end

