-- ==== Sys2Proof/Machine/Ops.lean ====
section
/-!
DEFINITION. The named operations that the meanings of instruction words share: the issuing path as a context, register
files (R139 to R144), the commit of a region (R212), the end of an issued word with its signature check (R110), kills
(R399), taking a trap (R380, R381) and the return from one (R388).
-/

namespace Sys2Proof.Machine

abbrev Result := Host.Outcome State Fault Refusal

/-- The step is done. -/
def State.done (s : State) : Result := .next { s with waited := false }

/-- The instruction waits (R7): it has no effect and issues again later. -/
def State.wait (s : State) : Result := .next { s with waited := true }

/-! ### Slices and paths (R88, R89) -/

def Slice.live (x : Slice) : Bool := x.xmask != 0xF

/-- A slice whose lanes have all exited. -/
def Slice.gone : Slice := { (default : Slice) with xmask := 0xF }

/-- Slice i; there is none past the last. -/
def Group.sliceAt (g : Group) (i : Nat) : Slice := g.slices.getD i Slice.gone

/-- The slice is part of a path: live, and not waiting on its own in a rejoin or a loop exit (R89). -/
def Slice.onPath (x : Slice) : Bool := x.live && x.wait != .rejoin && x.wait != .loopExit

/-- The slices of path p, ascending; a path is named by its lowest slice. -/
def Group.members (g : Group) (p : Nat) : List Nat :=
  (List.range 32).filter (fun i => (g.sliceAt i).onPath && (g.sliceAt i).path == p)

/-- Change some slices of a group. -/
def Group.mapSlices (g : Group) (is : List Nat) (f : Nat → Slice → Slice) : Group :=
  { g with slices := g.slices.zipIdx.map (fun (x, i) => if is.contains i then f i x else x) }

/-- The group's turn ends (R94). -/
def Group.endTurn (g : Group) : Group := { g with ctl := { g.ctl with turns := 2 ^ 16 } }

/-- Give the members of one path their lowest slice as its name. -/
def Group.asPath (g : Group) (is : List Nat) : Group :=
  let lo := is.foldl min 31
  g.mapSlices is (fun _ x => { x with path := lo })

/-- Every path renamed by its lowest live slice. -/
def Group.rename (g : Group) : Group :=
  { g with slices := g.slices.zipIdx.map (fun (x, i) =>
      if x.onPath then { x with path := ((g.members x.path).head?).getD i } else { x with path := i }) }

/-- The lanes of a 4-bit mask of slice i, ascending. -/
def lanesOf (i : Nat) (m : BitVec 4) : List Nat := ((List.range 4).filter (fun j => bit m j)).map (fun j => 4 * i + j)

/-- The active lanes of some slices, ascending. -/
def Group.activeLanes (g : Group) (is : List Nat) : List Nat := is.flatMap (fun i => lanesOf i (g.sliceAt i).amask)

/-- A list of lanes as a 128-bit mask. -/
def laneMask (ls : List Nat) : BitVec 128 := BitVec.ofNat 128 ((ls.map (fun l => 2 ^ l)).sum)

/-- A list of slices as a gang mask (R90). -/
def gangMask (is : List Nat) : BitVec 32 := BitVec.ofNat 32 ((is.map (fun i => 2 ^ i)).sum)

/-! ### The issuing context -/

/-- The path that issues: its group, cohort and partition, its slices and its lowest slice's values. -/
structure Ctx where
  g : Group
  co : Cohort
  p : Part
  slices : List Nat
  head : Slice

/-- The context of the current issue, where State.cur names a path. -/
def State.ctx? (s : State) : Option Ctx :=
  match s.cur with
  | .path gid sl =>
    match s.group? gid with
    | none => none
    | some g =>
      match s.cohort? g.cohort with
      | none => none
      | some co =>
        match s.part? g.part with
        | none => none
        | some p =>
          match g.members sl with
          | [] => none
          | i :: rest => some ⟨g, co, p, i :: rest, g.sliceAt i⟩
  | _ => none

namespace Ctx

def pc (c : Ctx) : Addr := c.head.pc
def path (c : Ctx) : Nat := (c.slices.head?).getD 0
def handler (c : Ctx) : Bool := c.head.handler
/-- Active(path), ascending. -/
def active (c : Ctx) : List Nat := c.g.activeLanes c.slices

/-- LEN of the block that is running (R53). -/
def len (c : Ctx) : Nat := (bits c.head.blk 52 8).toNat
/-- SEC of the block (R53): 0 plain, 1 prologue, 2 body, 3 retire. -/
def sec (c : Ctx) : Nat := (bits c.head.blk 16 2).toNat
/-- RCV of the block as a header address, or none when it is 0 (R53, R96). -/
def rcv (c : Ctx) : Option Addr :=
  let r := bits c.head.blk 38 14
  if r = 0 then none else some (c.head.blkPc + 8 * r.signExtend 57)
/-- The address just past the block's last word (R54). -/
def blockEnd (c : Ctx) : Addr := c.head.blkPc + 8 * BitVec.ofNat 57 (c.len + 1)
/-- The word of `words` words at pc ends the block. -/
def isLast (c : Ctx) (words : Nat) : Bool := c.pc + 8 * BitVec.ofNat 57 words == c.blockEnd
def next (c : Ctx) (words : Nat) : Addr := c.pc + 8 * BitVec.ofNat 57 words
/-- Supervisor code: handler mode, or any code while SVLOCK is 0 (R383). -/
def supervisor (c : Ctx) : Bool := c.handler || !c.p.ctl.svlock

end Ctx

/-! ### Register files (R139 to R144) -/

/-- Where s register n is kept: the handler's bank of s56 to s63 stands at 120 to 127 (R382). -/
def sIndex (handler : Bool) (n : Nat) : Nat := if handler && 56 ≤ n then 64 + n else n

namespace Group

def vWord (g : Group) (r lane : Nat) : PWord := SMap.get PWord.zero g.regs.v (128 * r + lane)
def setV (g : Group) (r lane : Nat) (w : PWord) : Group :=
  { g with regs := { g.regs with v := SMap.put PWord.zero g.regs.v (128 * r + lane) w } }

/-- An s register as the path sees it: handler mode has its own bank of s56 to s63 (R382). -/
def sVal (g : Group) (handler : Bool) (n : Nat) : SVal := SMap.get SVal.zero g.regs.s (sIndex handler n)
def setS (g : Group) (handler : Bool) (n : Nat) (v : SVal) : Group :=
  { g with regs := { g.regs with s := SMap.put SVal.zero g.regs.s (sIndex handler n) v } }

def pReg (g : Group) (n : Nat) : PReg := SMap.get PReg.zero g.regs.p n
def setP (g : Group) (n : Nat) (r : PReg) : Group :=
  if n = 7 then g else { g with regs := { g.regs with p := SMap.put PReg.zero g.regs.p n r } }
def bReg (g : Group) (n : Nat) : BReg := SMap.get BReg.invalid g.regs.b n
def setB (g : Group) (n : Nat) (r : BReg) : Group :=
  { g with regs := { g.regs with b := SMap.put BReg.invalid g.regs.b n r } }
def iterOf (g : Group) (lane : Nat) : Word32 := SMap.get 0xFFFFFFFF g.regs.iter lane

/-- Empty(v) and Empty(s) (R143). -/
def vIsEmpty (g : Group) (r : Nat) : Bool := g.regs.vEmpty.contains r
def sIsEmpty (g : Group) (handler : Bool) (n : Nat) : Bool := g.regs.sEmpty.contains (sIndex handler n)

/-- The v registers of the group's allotment: 16, or 8·(FULLV + 2) once it holds its full allotment (R19, R50). -/
def vCount (g : Group) : Nat := if g.allot.full then 8 * (g.allot.fullv + 2) else 16

/-- Bit L of p, and of its poison; p7 is true and clean (R139). -/
def pBit (g : Group) (n lane : Nat) : Bool := n == 7 || bit (g.pReg n).val lane
def pPois (g : Group) (n lane : Nat) : Option Tag :=
  if n = 7 then none else if bit (g.pReg n).pois lane then some (g.pReg n).tag else none

/-- Write lanes of a p register with their poison; the register's tag is the lowest tag among its poisoned lanes
(R159). -/
def writeP (g : Group) (n : Nat) (ws : List (Nat × Bool × Option Tag)) : Group :=
  if n = 7 then g
  else
    let r := g.pReg n
    let m := laneMask (ws.map (·.1))
    let val := (r.val &&& ~~~m) ||| laneMask ((ws.filter (·.2.1)).map (·.1))
    let pois := (r.pois &&& ~~~m) ||| laneMask ((ws.filter (·.2.2.isSome)).map (·.1))
    let kept := if r.pois &&& ~~~m = 0 then none else some r.tag
    let tag := mergePois kept (mergeAll (ws.map (·.2.2)))
    g.setP n ⟨val, pois, if pois = 0 then 0 else tag.getD 0⟩

end Group

/-- Poison as a CHKIV event: POISON with the tag, when there is any (R160). -/
def State.notePois (s : State) (g : Group) (t : Option Tag) : State := s.noteGroup g (Chkiv.ofPois t)

/-! ### Kills (R399) -/

/-- A cohort meets a kill condition: its groups stop at once, and COHORT_KILL takes the steps of R399. -/
def State.requestKill (s : State) (uid : Nat) (r : KillReason) : State :=
  s.onCohort uid (fun c => if c.kill.isSome then c else { c with kill := some r })

/-- The types of R398 that name a kill. -/
def killPoison (addr : Nat) : KillReason := ⟨0x0E, 0, addr, 5, true⟩
def killSignature (addr : Nat) : KillReason := ⟨0x05, 0, addr, 5, true⟩
def killMask (addr : Nat) : KillReason := ⟨0x06, 0, addr, 5, true⟩
def killDoubleTrap (addr cause : Nat) : KillReason := ⟨0x0D, BitVec.ofNat 20 cause, addr, 5, true⟩
def killControl (addr : Nat) : KillReason := ⟨0x04, 0, addr, 5, true⟩
/-- A sequencer stop is never relaunched; its task fails with 0x06 for a page fault and 0x07 otherwise (R281). -/
def killStop (cause addr : Nat) : KillReason :=
  ⟨0x0C, BitVec.ofNat 20 cause, addr, if cause = 0x14 then 6 else 7, false⟩

/-- A poisoned address or steering value: the cohort is killed and the instruction has no other effect (R160). -/
def State.poisonKill (s : State) (c : Ctx) : Result := (s.requestKill c.g.cohort (killPoison c.pc.toNat)).done

/-- A double trap (R382). -/
def State.doubleTrap (s : State) (c : Ctx) (cause : Nat) : Result :=
  (s.requestKill c.g.cohort (killDoubleTrap c.pc.toNat cause)).done

/-! ### Taking a trap (R380, R381) -/

/-- The cause codes of R379. -/
def trapIllegal : Nat := 0x01
def trapBadHeader : Nat := 0x02
def trapBadWord : Nat := 0x03
def trapBadTarget : Nat := 0x04
def trapEmptyRead : Nat := 0x05
def trapRegRange : Nat := 0x06
def trapMaskOverflow : Nat := 0x07
def trapRegangDeadlock : Nat := 0x08
def trapLoopState : Nat := 0x09
def trapLoopNest : Nat := 0x0A
def trapBarrierInBody : Nat := 0x0B
def trapBarOperand : Nat := 0x0C
def trapBreakpoint : Nat := 0x0D
def trapSoft : Nat := 0x0E
def trapAddrRange : Nat := 0x0F
def trapMisaligned : Nat := 0x10
def trapScratchRange : Nat := 0x11
def trapWsRange : Nat := 0x12
def trapBadBase : Nat := 0x13
def trapPageFault : Nat := 0x14
def trapRangeLock : Nat := 0x15
def trapRegionOverflow : Nat := 0x16
def trapEngineOp : Nat := 0x17
def trapTaskOp : Nat := 0x18
def trapHandleOp : Nat := 0x19
def trapLmmPath : Nat := 0x1A

/-- One trap: its cause, its TMASK lanes and what the frame records (R381). -/
structure Trap where
  cause : Nat
  lanes : List Nat
  addr : Nat
  detail : Nat
  wr : Bool
  perm : Bool
  save0 : Word64
  save1 : Word64
  save2 : Word64
  save3 : Word64
  /-- the return point -/
  tpc : Addr
  deriving DecidableEq, Repr

/-- A trap with nothing beyond its cause and lanes, returning to the trapping word. -/
def Trap.plain (cause : Nat) (lanes : List Nat) (tpc : Addr) : Trap :=
  ⟨cause, lanes, 0, 0, false, false, 0, 0, 0, 0, tpc⟩

def Trap.withAddr (t : Trap) (a : Nat) (wr : Bool) : Trap := { t with addr := a, wr := wr }
def Trap.withCode (t : Trap) (code : Nat) : Trap := { t with save0 := BitVec.ofNat 64 code }

/-- TCAUSE with HMODE set (R381). -/
def Trap.tcause (t : Trap) : Word64 :=
  BitVec.ofNat 64 (2 ^ 63 + b2n t.perm * 2 ^ 17 + b2n t.wr * 2 ^ 16 + t.detail % 256 * 2 ^ 8 + t.cause % 256)

/-- The vectoring slices of a trap: those of the path that hold a TMASK lane (R380 step 1). -/
def vectoring (slices : List Nat) (lanes : List Nat) : List Nat :=
  slices.filter (fun i => lanes.any (fun l => l / 4 == i))

/-- The frame filled and the handler path formed, as one step (R380). The other slices of the path are held at the
instruction; for a page fault the path was cut to its faulting slices before. -/
def Group.enterHandler (g : Group) (slices : List Nat) (thandler : Addr) (t : Trap) : Group :=
  let vec := vectoring slices t.lanes
  let others := slices.filter (fun i => !vec.contains i)
  let m := laneMask t.lanes
  let lo := vec.foldl min 31
  let frame : TrapFrame :=
    { busy := true, tcause := t.tcause, tpc := t.tpc, taddr := BitVec.ofNat 64 t.addr, tmask := m, tsave0 := t.save0,
      tsave1 := t.save1, tsave2 := t.save2, tsave3 := t.save3, saved := vec.map (fun i => (i, g.sliceAt i)),
      heldSlices := others }
  let g := g.mapSlices others (fun _ x => { x with held := true, path := others.foldl min 31 })
  let g := g.mapSlices vec (fun i x =>
    { x with amask := bits m (4 * i) 4, pc := thandler, hdr := true, handler := true, wait := .none, path := lo,
             preq := none })
  let g := if others.isEmpty then g else g.endTurn
  { g with frame := frame, resv := g.resv.filter (fun r => !t.lanes.contains r.lane) }

/-- The path is held at its instruction, without effect, until the frame frees; it then issues the instruction again (R380). -/
def Group.hold (g : Group) (slices : List Nat) : Group := (g.mapSlices slices (fun _ x => { x with held := true })).endTurn

/-- Take a trap at an instruction of a path. In handler mode it is a double trap (R382); while the frame is busy the
path is held; with THANDLER 0 the task fails with cause 0x06 for a page fault and
0x07 otherwise, and every cohort of it is killed without relaunch (R380). -/
def State.takeTrap (s : State) (c : Ctx) (t : Trap) : Result :=
  if c.handler then s.doubleTrap c t.cause
  else if c.g.frame.busy then (s.setGroup (c.g.hold c.slices)).done
  else if c.p.ctl.thandler = 0 then
    (s.failTask c.p.id c.co.tid (if t.cause = trapPageFault then 6 else 7)).done
  else (s.setGroup (c.g.enterHandler c.slices c.p.ctl.thandler t)).done

/-- A trap of the whole word: its TMASK lanes are the path's active lanes. -/
def State.trapAll (s : State) (c : Ctx) (cause : Nat) : Result := s.takeTrap c (Trap.plain cause c.active c.pc)
def State.trapCode (s : State) (c : Ctx) (cause code : Nat) : Result :=
  s.takeTrap c ((Trap.plain cause c.active c.pc).withCode code)

/-- The return from a handler (R388): every handler slice leaves handler mode at TPC with its saved AMASK and SIGACC,
the slices held at the trapping instruction join it there as one path, the frame frees, and the paths held by R380 are
released. -/
def Group.leaveHandler (g : Group) : Group :=
  let f := g.frame
  let restore := fun (x : Slice) =>
    { x with pc := f.tpc, handler := false, held := false, wait := Wait.none
             hdr := x.hdr || x.blkPc + 8 * (1 + (bits x.blk 52 8).setWidth 57) == f.tpc }
  let g := g.mapSlices (f.saved.map (·.1)) (fun i x =>
    match f.saved.find? (fun p => p.1 == i) with
    | some (_, old) => restore { old with xmask := x.xmask }
    | none => x)
  let g := g.mapSlices f.heldSlices (fun _ x => restore x)
  let g := (g.asPath (f.saved.map (·.1) ++ f.heldSlices)).mapSlices (List.range 32) (fun _ x => { x with held := false })
  let g := if f.heldSlices.isEmpty then g else g.endTurn
  { g with frame := { f with busy := false, tcause := f.tcause &&& 0x7FFFFFFFFFFFFFFF, saved := [], heldSlices := [] } }

/-! ### Commit (R212) and the end of an issued word (R110) -/

/-- Commit: every U entry but a held retire entry becomes C, and the group's reservations clear (R212, R234). -/
def Group.commit (g : Group) : Group :=
  { g with sq := g.sq.map (fun e => if e.iter.isNone then { e with committed := true } else e), resv := [] }

/-- A new entry goes to the end of the queue; a retire entry goes ahead of the held retire entries of younger iterations
that end it, so that iterations drain in age order (R108, R406; log 37). -/
def SQEntry.queued (e : SQEntry) (sq : List SQEntry) : List SQEntry :=
  let younger := fun (x : SQEntry) => match e.iter, x.iter with
    | some i, some j => !x.committed && i.ult j
    | _, _ => false
  let tail := sq.reverse.takeWhile younger
  sq.take (sq.length - tail.length) ++ e :: tail.reverse

/-- What a beat puts into the queue: its pieces by iteration, which share one place (log 20). -/
abbrev Beat := List (Option Word32 × EntryOp)

/-- Beats put into the queue in order (R211), with fresh numbers; a beat's place is its first piece's number. -/
def State.enqueue (s : State) (gid : Nat) (committed : Bool) (bs : List Beat) : State :=
  bs.foldl (fun s b =>
    let place := s.nextUid
    b.foldl (fun s (it, op) =>
      let (id, s) := s.fresh
      s.onGroup gid (fun g => { g with sq := SQEntry.queued ⟨id, place, committed && it.isNone, it, op⟩ g.sq })) s) s

/-- The SIGACC step of R56 over the ten bits of an OPC, most significant bit first. -/
def crcStep (crc : BitVec 12) (b : Bool) : BitVec 12 :=
  if (bit crc 11) != b then (crc <<< 1) ^^^ 0x80F else crc <<< 1
def crcOpc (crc : BitVec 12) (opc : Nat) : BitVec 12 :=
  (List.range 10).foldl (fun c i => crcStep c (opc.testBit (9 - i))) crc

/-- The path's SIGACC with this word folded in. -/
def Ctx.folded (c : Ctx) (opc : Nat) : BitVec 12 := crcOpc c.head.sig opc

/-- Commit for a side-effecting instruction: the region continues from the word after it (R212). -/
def Ctx.committed (c : Ctx) (opc words : Nat) : Group :=
  let g := c.g.commit
  { g with ctl := { g.ctl with rgnpc := c.next words, rgnsig := c.folded opc } }

/-- The signature check of a block's last word (R110): a mismatch kills the cohort. -/
def State.checkSig (s : State) (c : Ctx) (opc words : Nat) : State :=
  if c.isLast words && c.folded opc != bits c.head.blk 0 12
  then s.requestKill c.g.cohort (killSignature c.pc.toNat) else s

/-- The slices of the path stand at the next word with the word folded into SIGACC; past the block's end a header
comes next (R54). -/
def Group.advance (g : Group) (c : Ctx) (opc words : Nat) : Group :=
  g.mapSlices c.slices (fun _ x =>
    { x with pc := c.next words, sig := c.folded opc, hdr := c.isLast words, wait := .none })

/-- The slices of the path wait at their word. -/
def State.setWait (s : State) (c : Ctx) (x : Wait) : State :=
  s.onGroup c.g.gid (fun g => g.mapSlices c.slices (fun _ y => { y with wait := x }))

/-- The end of an issued word that falls through. `s` holds the word's effects. -/
def State.finish (s : State) (c : Ctx) (opc words : Nat) : Result :=
  ((s.onGroup c.g.gid (fun g => g.advance c opc words)).checkSig c opc words).done

/-- The end of an issued word that moves the whole path to a header (R117). -/
def State.finishAt (s : State) (c : Ctx) (opc words : Nat) (target : Addr) : Result :=
  ((s.onGroup c.g.gid (fun g => g.mapSlices c.slices (fun _ x =>
      { x with pc := target, sig := c.folded opc, hdr := true, wait := .none }))).checkSig c opc words).done

/-- The meaning of an instruction word given for its issuing path; with no issuing path there is none. -/
def State.issue (s : State) (k : Ctx → Result) : Result :=
  match s.ctx? with
  | some c => k c
  | none => .fault .noIssuer

end Sys2Proof.Machine
end

