-- ==== Sys2Proof/Machine/Operands.lean ====
section
/-!
DEFINITION. Operands: the checks an instruction word passes before it acts (legality, handler mode, R137, R143, R144,
R59, R58, R160), the acting lanes, the value and poison of a source in a lane (R141, R142, R162), destinations
(R163, R164), fills of long-latency instructions (R143), and the run of a lane instruction (R163).
-/

namespace Sys2Proof.Machine

/-! ### What an instruction needs of the register files -/

/-- The registers an instruction touches: each destination and source with the number of consecutive registers it
takes, in the order R163 visits them; its guard; whether its word is legal; whether handler mode forbids it. -/
structure Need where
  legal : Bool
  forbidden : Bool
  guard : Guard
  dst : List (Spec × Nat)
  srcs : List (Src × Nat)

/-- 2 registers for a wide v operand, 1 otherwise. -/
def regsFor (wide : Bool) : Nat := if wide then 2 else 1

/-- A wide operand takes two v registers but one s register (R62, R162). -/
def regsAt (sp : Spec) (wide : Bool) : Nat := regsFor (wide && sp.isV)
def srcRegsAt (x : Src) (wide : Bool) : Nat := match x with | .reg sp _ => regsAt sp wide | .ext _ _ => 1

/-- The v registers of an operand lie in the group's allotment (R137). -/
def Group.inAllotment (g : Group) (sp : Spec) (k : Nat) : Bool :=
  match sp with
  | .v n => decide (n.toNat + k ≤ g.vCount)
  | _ => true

/-- Some register of an operand is empty. -/
def Group.specEmpty (g : Group) (handler : Bool) (sp : Spec) (k : Nat) : Bool :=
  match sp with
  | .v n => (List.range k).any (fun i => g.vIsEmpty (n.toNat + i))
  | .s n => (List.range k).any (fun i => g.sIsEmpty handler (n.toNat + i))
  | _ => false

def Group.srcEmpty (g : Group) (handler : Bool) (x : Src) (k : Nat) : Bool :=
  match x with
  | .reg sp _ => g.specEmpty handler sp k
  | .ext _ _ => false

/-- All v registers named lie in the allotment (R137). -/
def Need.inRange (n : Need) (g : Group) : Bool :=
  n.dst.all (fun (d, k) => g.inAllotment d k) &&
  n.srcs.all (fun (x, k) => match x with | .reg sp _ => g.inAllotment sp k | .ext _ _ => true)

/-- What R163 finds before an instruction acts. -/
inductive Ready
  | ok | wait | emptyRead
  deriving DecidableEq, Repr

/-- An empty destination waits (R144); then the first empty source in order waits or traps by its wait bit (R59). -/
def Need.ready (n : Need) (g : Group) (handler : Bool) : Ready :=
  if n.dst.any (fun (d, k) => g.specEmpty handler d k) then .wait
  else
    match n.srcs.find? (fun (x, k) => g.srcEmpty handler x k) with
    | none => .ok
    | some (x, _) => if x.wait then .emptyRead else .wait

/-- An active lane's guard bit is poisoned (R160). -/
def Ctx.guardPoisoned (c : Ctx) (gd : Guard) : Bool := c.active.any (fun l => (c.g.pPois gd.pg.toNat l).isSome)

/-- The active lanes whose guard holds (R58). -/
def Ctx.acting (c : Ctx) (gd : Guard) : List Nat := c.active.filter (fun l => c.g.pBit gd.pg.toNat l != gd.neg)

/-- The checks of an issue, and then the instruction's own meaning on its acting lanes. R75 orders ILLEGAL_OP before these, and not
REG_RANGE, an empty operand's wait or trap and a poisoned guard's kill (R168) among themselves: DESIGN CHOICE (log 115). -/
def State.gate (s : State) (c : Ctx) (n : Need) (k : List Nat → Result) : Result :=
  if !n.legal then s.trapAll c trapIllegal
  else if n.forbidden && c.handler then s.doubleTrap c 0
  else if !n.inRange c.g then s.trapAll c trapRegRange
  else
    match n.ready c.g c.handler with
    | .wait => s.wait
    | .emptyRead => s.trapAll c trapEmptyRead
    | .ok => if c.guardPoisoned n.guard then s.poisonKill c else k (c.acting n.guard)

/-- A word whose checks ask nothing of registers but its guard. -/
def Need.bare (legal forbidden : Bool) (gd : Guard) : Need := ⟨legal, forbidden, gd, [], []⟩

/-! ### Reading sources -/

/-- A value and the Merge of the source words it came from. -/
abbrev Read := Word64 × Option Tag

/-- The special specifiers (R142). -/
def Ctx.special (c : Ctx) (s : State) (sp : Spec) (lane : Nat) : Word64 :=
  match sp with
  | .lane => BitVec.ofNat 64 lane
  | .slice => BitVec.ofNat 64 (lane / 4)
  | .grp => c.g.sp.grp.setWidth 64
  | .cx => c.g.sp.cx.setWidth 64
  | .cy => c.g.sp.cy.setWidth 64
  | .cz => c.g.sp.cz.setWidth 64
  | .stage => c.g.sp.stage.setWidth 64
  | .iter => (c.g.iterOf lane).setWidth 64
  | .wclk => BitVec.ofNat 64 s.cycle
  | _ => 0

/-- The low 32 bits, as a 64-bit word. -/
def low32 (x : Word64) : Word64 := (x.setWidth 32).setWidth 64

/-- A source in one lane, as 32 bits or as 64 bits (R141, R162). -/
def Ctx.read (c : Ctx) (s : State) (x : Src) (wide : Bool) (lane : Nat) : Read :=
  match x with
  | .ext lit _ => (if wide then lit else low32 lit, none)
  | .reg sp _ =>
    match sp with
    | .v n =>
      let a := c.g.vWord n.toNat lane
      if wide then
        let b := c.g.vWord (n.toNat + 1) lane
        ((b.val ++ a.val : BitVec 64), mergePois a.pois b.pois)
      else (a.val.setWidth 64, a.pois)
    | .s n =>
      let v := c.g.sVal c.handler n.toNat
      if wide then (v.val, mergePois v.lo v.hi) else (low32 v.val, v.lo)
    | .p n => (BitVec.ofNat 64 (b2n (c.g.pBit n.toNat lane)), c.g.pPois n.toNat lane)
    | .b n => (let a := (c.g.bReg n.toNat).vbase.setWidth 64; (if wide then a else low32 a), none)
    | sp => (let a := c.special s sp lane; (if wide then a else low32 a), none)

/-- A uniform source's 64 bits. -/
def Ctx.uniform (c : Ctx) (s : State) (x : Src) : Read := c.read s x true 0

/-- A uniform operand, where it can be read, is one that the word allows: a set reserved bit is ILLEGAL_OP, which comes before
the instruction's own traps (R75). -/
def Ctx.operandFits (c : Ctx) (s : State) (x : Src) (bad : Word64 → Bool) : Bool :=
  c.g.srcEmpty c.handler x 1 || (c.uniform s x).2.isSome || !bad (c.uniform s x).1

/-- No lane reads the operand: the guard holds in none, or its poison ends the cohort first (R58, R160). -/
def Ctx.unread (c : Ctx) (gd : Guard) : Bool := c.guardPoisoned gd || (c.acting gd).isEmpty

/-- The i-th of consecutive s registers. -/
def Ctx.uniformAt (c : Ctx) (x : Src) (i : Nat) : Read :=
  match x with
  | .reg (.s n) _ => let v := c.g.sVal c.handler (n.toNat + i); (v.val, mergePois v.lo v.hi)
  | _ => (0, none)

/-! ### Writing destinations (R163, R164) -/

/-- How a 32-bit result fills an s register: with copies of bit 31 for I8, I16 and I32, else with zeros (R164). -/
def extendsSign (t : Ty) : Bool := t == .i8 || t == .i16 || t == .i32

/-- One lane's result. -/
abbrev LaneResult := Nat × Word64 × Option Tag

/-- The value an s register takes from a result. -/
def uniformResult (wide signed : Bool) (x : Word64) : Word64 :=
  if wide then x else if signed then (x.setWidth 32).signExtend 64 else low32 x

/-- The results of the acting lanes written to DST. An s destination takes the result of the lowest acting lane: the sources are
uniform, and only an RSD rounding tells lanes apart, whose random word R152 keys by a lane that no rule names for one uniform
write: DESIGN CHOICE (log 113). -/
def Group.writeDst (g : Group) (handler : Bool) (dst : Spec) (wide signed : Bool) (rs : List LaneResult) : Group :=
  match dst with
  | .v n => rs.foldl (fun g (l, x, t) =>
      let g := g.setV n.toNat l ⟨x.setWidth 32, t⟩
      if wide then g.setV (n.toNat + 1) l ⟨(x >>> 32).setWidth 32, t⟩ else g) g
  | .s n =>
    match rs with
    | [] => g
    | (_, x, t) :: _ => g.setS handler n.toNat ⟨uniformResult wide signed x, t, t⟩
  | .p n => g.writeP n.toNat (rs.map (fun (l, x, t) => (l, x != 0, t)))
  | _ => g

/-- One s register written full, with one poison for both halves, when some lane acts (R164). -/
def Group.writeS (g : Group) (handler : Bool) (dst : Spec) (r : Read) : Group :=
  match dst with
  | .s n => g.setS handler n.toNat ⟨r.1, r.2, r.2⟩
  | _ => g

/-! ### Fills (R143) -/

/-- The registers a destination takes. -/
def vRegsOf (sp : Spec) (k : Nat) : List Nat := match sp with | .v n => (List.range k).map (n.toNat + ·) | _ => []
def sRegsOf (handler : Bool) (sp : Spec) : List Nat := match sp with | .s n => [sIndex handler n.toNat] | _ => []

/-- A fill begins: its registers become empty, and it holds the words it will write. -/
def State.beginFill (s : State) (gid : Nat) (vs ss : List Nat) (writes : List RegWrite) (wait : FillWait)
    (load : Bool) : State :=
  let (id, s) := s.fresh
  s.onGroup gid (fun g =>
    { g with fills := g.fills ++ [⟨id, vs, ss, writes, wait, load⟩]
             regs := { g.regs with vEmpty := g.regs.vEmpty ++ vs, sEmpty := g.regs.sEmpty ++ ss } })

/-- The register writes that deliver lane results to DST. -/
def regWrites (handler : Bool) (dst : Spec) (wide signed : Bool) (rs : List LaneResult) : List RegWrite :=
  match dst with
  | .v n => rs.flatMap (fun (l, x, t) =>
      if wide then [.v n.toNat l ⟨x.setWidth 32, t⟩, .v (n.toNat + 1) l ⟨(x >>> 32).setWidth 32, t⟩]
      else [.v n.toNat l ⟨x.setWidth 32, t⟩])
  | .s n =>
    match rs with
    | [] => []
    | (_, x, t) :: _ => [.s (sIndex handler n.toNat) ⟨uniformResult wide signed x, t, t⟩]
  | _ => []

/-- A long-latency result: DST empties now and fills later; with no acting lane nothing happens. -/
def State.fillDst (s : State) (gid : Nat) (handler : Bool) (dst : Spec) (wide signed : Bool) (rs : List LaneResult)
    (wait : FillWait) (load : Bool) : State :=
  if rs.isEmpty then s
  else
    match dst with
    | .v _ => s.beginFill gid (vRegsOf dst (regsFor wide)) [] (regWrites handler dst wide signed rs) wait load
    | .s _ => s.beginFill gid [] (sRegsOf handler dst) (regWrites handler dst wide signed rs) wait load
    | _ => s

def applyWrite (g : Group) : RegWrite → Group
  | .v r lane word => g.setV r lane word
  | .s r v => { g with regs := { g.regs with s := SMap.put SVal.zero g.regs.s r v } }

/-- A fill completes: its words are written and its registers are full. -/
def Group.completeFill (g : Group) (f : Fill) : Group :=
  let g := f.writes.foldl applyWrite g
  { g with fills := g.fills.filter (fun x => x.id != f.id)
           regs := { g.regs with vEmpty := g.regs.vEmpty.filter (fun r => !f.vregs.contains r)
                                 sEmpty := g.regs.sEmpty.filter (fun r => !f.sregs.contains r) } }

/-! ### Lane instructions (R163) -/

/-- A lane instruction: its word, its operands with their widths, and how its result is written. -/
structure LaneOp where
  opc : Nat
  words : Nat
  legal : Bool
  guard : Guard
  dst : Spec
  wide : Bool
  signed : Bool
  a : Src
  aWide : Bool
  b : Src
  bWide : Bool
  c : Src
  cWide : Bool

/-- The same, for sources and a destination of one TYPE. -/
def laneF3 (w : F3) (opc : Nat) (legal : Bool) : LaneOp :=
  ⟨opc, w.words, legal, w.guard, w.dst, w.ty.wide, extendsSign w.ty, w.sa, w.ty.wide, w.sb, w.ty.wide, w.sc, w.ty.wide⟩

/-- The immediate of FI as a source: sign-extended, or bits [31:14] of an F32 (R64). -/
def immSrc (w : FI) : Src :=
  if w.ty = .f32 then .ext ((w.imm.setWidth 64) <<< 14) false else .ext (w.imm.signExtend 64) false

def laneFI (w : FI) (opc : Nat) (legal : Bool) : LaneOp :=
  ⟨opc, w.words, legal, w.guard, w.dst, w.ty.wide, extendsSign w.ty, w.sa, w.ty.wide, immSrc w, w.ty.wide,
   .reg .zero false, w.ty.wide⟩

def LaneOp.need (o : LaneOp) : Need :=
  ⟨o.legal, false, o.guard, [(o.dst, regsAt o.dst o.wide)],
   [(o.a, srcRegsAt o.a o.aWide), (o.b, srcRegsAt o.b o.bWide), (o.c, srcRegsAt o.c o.cWide)]⟩

/-- The effect a lane instruction has in one lane: its operands' values to the result. -/
abbrev LaneFn := Nat → Word64 → Word64 → Word64 → Word64

/-- The result of lane l, with the Merge of every source word read there (R159). -/
def LaneOp.result (o : LaneOp) (c : Ctx) (s : State) (f : LaneFn) (l : Nat) : LaneResult :=
  let a := c.read s o.a o.aWide l
  let b := c.read s o.b o.bWide l
  let d := c.read s o.c o.cWide l
  (l, f l a.1 b.1 d.1, mergePois (mergePois a.2 b.2) d.2)

/-- The Merge of the poison of all lane results: what the instruction notes in CHKIV (R160). -/
def poisonOf (rs : List LaneResult) : Option Tag := mergeAll (rs.map (·.2.2))

/-- A prompt lane instruction given the results of its acting lanes. -/
def State.writeLanes (s : State) (c : Ctx) (o : LaneOp) (rs : List LaneResult) : Result :=
  (((s.onGroup c.g.gid (fun g => g.writeDst c.handler o.dst o.wide o.signed rs)).notePois c.g (poisonOf rs))).finish
    c o.opc o.words

/-- A prompt lane instruction (R163). -/
def State.lane (s : State) (o : LaneOp) (f : Ctx → LaneFn) : Result :=
  s.issue (fun c => s.gate c o.need (fun lanes => s.writeLanes c o (lanes.map (o.result c s (f c)))))

/-- A long-latency lane instruction (R143, R163). -/
def State.laneFill (s : State) (o : LaneOp) (f : Ctx → LaneFn) : Result :=
  s.issue (fun c => s.gate c o.need (fun lanes =>
    let rs := lanes.map (o.result c s (f c))
    (((s.fillDst c.g.gid c.handler o.dst o.wide o.signed rs .ready false).notePois c.g (poisonOf rs))).finish c o.opc o.words))

/-- The random word of R152 for a lane instruction. -/
def Ctx.random (c : Ctx) (lane e : Nat) : Nat :=
  let sp := c.g.sp
  let k0 := BitVec.ofNat 64 (sp.cx.toNat + 2 ^ 16 * sp.cy.toNat + 2 ^ 32 * sp.cz.toNat + 2 ^ 40 * sp.grp.toNat)
  let inLoop := match c.g.loop with | some lp => bit lp.lmask lane | none => false
  let k2 := if inLoop then BitVec.ofNat 64 ((c.g.iterOf lane).toNat + 2 ^ 32 * (e + 1))
            else BitVec.ofNat 64 (lane + 2 ^ 32 * e)
  rsdWord c.co.seed k0 (c.pc.setWidth 64) k2 (c.g.ctl.rsalt.setWidth 64)

end Sys2Proof.Machine
end

