-- ==== Sys2Proof/Machine/Flags.lean ====
section
/-!
DEFINITION. Conditions and results that several instructions compute alike: integer operands and results at a TYPE's
width (R165), the comparisons of ICMP, FCMP and BRU (R170, R182, R120), and F32 and packed operands with NEG and FTZ
(R180, R186). The machine has no status flags; its sticky flags are those of CHKIV (R395), which `State.notePois` and
`State.noteGroup` set.
-/

namespace Sys2Proof.Machine

/-! ### Integers (R165) -/

/-- An operand at TYPE's width and signedness. -/
def intOf (t : Ty) (x : Word64) : Int := readInt t.signed t.width x.toNat

/-- An exact result wrapped modulo 2^n, or clamped under SAT, and extended by the TYPE's signedness. -/
def intResult (t : Ty) (sat : Bool) (x : Int) : Word64 :=
  BitVec.ofInt 64 (if sat then clampInt (intLo t.signed t.width) (intHi t.signed t.width) x
                   else readInt t.signed t.width (wrapBits t.width x))

/-- The condition of ICMP by SUB (R166). -/
def condInt (sub : BitVec 3) (a b : Int) : Bool :=
  match sub.toNat with
  | 0 => decide (a = b)
  | 1 => decide (a ≠ b)
  | 2 => decide (a < b)
  | 3 => decide (a ≤ b)
  | 4 => decide (b < a)
  | _ => decide (b ≤ a)

/-- The condition of BRU by COND, on a signed 64-bit value (R120). -/
def condZero (cond : Nat) (x : Word64) : Bool :=
  match cond with
  | 0 => x == 0
  | 1 => x != 0
  | 2 => x.slt 0
  | 3 => !x.slt 0
  | 4 => (0 : Word64).slt x
  | _ => !(0 : Word64).slt x

/-- A Boolean as a lane result. -/
def boolWord (b : Bool) : Word64 := BitVec.ofNat 64 (b2n b)

/-! ### Floating operands (R180, R186) -/

/-- An encoding of a format after NEG and FTZ: the sign flipped, then a subnormal made a zero of its sign. -/
def floatIn (f : FFmt) (neg ftz : Bool) (x : Nat) : Nat :=
  let m := x % 2 ^ f.width
  let top := 2 ^ (f.width - 1)
  let m := if neg then (if m < top then m + top else m - top) else m
  if ftz && decide (m % top < 2 ^ f.frac) then m / top * top else m

/-- The condition of FCMP by SUB (R182). -/
def condFloat (sub : BitVec 3) (a b : FV) : Bool :=
  match sub.toNat with
  | 0 => a.eq b
  | 1 => !a.eq b
  | 2 => a.lt b
  | 3 => a.lt b || a.eq b
  | 4 => b.lt a
  | 5 => b.lt a || a.eq b
  | 6 => !a.isNan && !b.isNan
  | _ => a.isNan || b.isNan

/-- The modifiers of a floating lane instruction. -/
structure FMods where
  rnd : Rnd
  sat : Bool
  ftz : Bool
  negA : Bool
  negB : Bool
  negC : Bool

def fmodsF3 (w : F3) : FMods := ⟨w.rnd, w.sat, w.ftz, w.negA, w.negB, w.negC⟩
def fmodsFI (w : FI) : FMods := ⟨w.rnd, w.sat, w.ftz, w.negA, w.negB, w.negC⟩

/-- An operand's value after NEG and FTZ. -/
def floatVal (f : FFmt) (neg ftz : Bool) (x : Nat) : FV := f.decode (floatIn f neg ftz x)

/-- The sum, the product and the fused sum of R180 on encodings of a format; r is the random word of RSD. -/
def fAdd (f : FFmt) (m : FMods) (r : Nat) (a b : Nat) : Nat :=
  f.round m.rnd m.sat m.ftz r (FV.add m.rnd (floatVal f m.negA m.ftz a) (floatVal f m.negB m.ftz b))
def fMul (f : FFmt) (m : FMods) (r : Nat) (a b : Nat) : Nat :=
  f.round m.rnd m.sat m.ftz r (FV.mul (floatVal f m.negA m.ftz a) (floatVal f m.negB m.ftz b))
def fFma (f : FFmt) (m : FMods) (r : Nat) (a b c : Nat) : Nat :=
  f.round m.rnd m.sat m.ftz r
    (FV.add m.rnd (FV.mul (floatVal f m.negA m.ftz a) (floatVal f m.negB m.ftz b)) (floatVal f m.negC m.ftz c))

/-- An operation on each half of a packed pair: element 0 in [15:0], element 1 in [31:16] (R186). -/
def packed (op : Nat → Nat → Nat → Nat → Nat) (a b c : Word64) : Word64 :=
  let h := fun (x : Word64) (e : Nat) => x.toNat / 2 ^ (16 * e) % 2 ^ 16
  BitVec.ofNat 64 (op 0 (h a 0) (h b 0) (h c 0) + 2 ^ 16 * op 1 (h a 1) (h b 1) (h c 1))

end Sys2Proof.Machine
end

