-- ==== Sys2Proof/Machine/Issue.lean ====
section
/-!
DEFINITION. What a step runs: the fetch of an instruction word with its literals (R61, R199, R202), the pick of a
quarter (R92 to R94), the sequencer's next stream word (R280), the passing of time, and the agenda of agents (log 1).
Everything here takes the meaning of one instruction as an argument; Step.lean supplies `exec`.
-/

namespace Sys2Proof

/-- The agent that steps next when the agenda is empty, for the n-th step (log 1). -/
opaque Config.nextAction : Nat → Machine.Action

namespace Machine

/-- The meaning of one instruction. -/
abbrev Run := Instr → State → Result

/-! ### Fetch -/

/-- One 64-bit word at a virtual address, fetched for execution; none is a fetch fault (R201, R202). The fetch can take an
instruction-cache line back from victim storage (R200). -/
def State.fetchWord (s : State) (p : Part) (core : Nat) (asid : BitVec 8) (va : Nat) :
    Option (Word64 × Option Tag) × State :=
  let r := s.translate p core asid va
  match r.1.forAcc .fetch with
  | .ok pa => (some (s.readWordAs p.id pa, SMap.get none s.memPois (pa / 64)), r.2.reclaimVictims (clusterOf core))
  | _ => (none, r.2)

/-- Up to n consecutive words; the flag says that a fault cut them short. -/
def State.fetchWords (p : Part) (core : Nat) (asid : BitVec 8) : Nat → State → Nat → List (Word64 × Option Tag) × Bool × State
  | 0, s, _ => ([], false, s)
  | n + 1, s, va =>
    match s.fetchWord p core asid va with
    | (none, s) => ([], true, s)
    | (some w, s) =>
      let r := State.fetchWords p core asid n s (va + 8)
      (w :: r.1, r.2.1, r.2.2)

/-- What fetching an instruction gives. -/
inductive Fetched
  | instr (i : Instr)
  | malformed (why : Malformed)
  /-- the fetch takes a page fault, which cannot be served (R202) -/
  | fault
  /-- the word's sector is poisoned: an uncorrectable error in an instruction word (R399) -/
  | poisoned
  deriving DecidableEq, Repr

/-- Decode fetched words; `cut` says that a fault ended them before the block did. -/
def decodeFetched (ws : List (Word64 × Option Tag)) (cut : Bool) : Fetched :=
  match ws with
  | [] => .fault
  | (w, t) :: rest =>
    if t.isSome then .poisoned
    else
      match decode w (rest.map (·.1)) with
      | .ok (i, _) => if (ws.take i.words).any (·.2.isSome) then .poisoned else .instr i
      | .error .literalsPastEnd => if cut then .fault else .malformed .literalsPastEnd
      | .error why => .malformed why

/-- The words of a block that remain from pc on, at most a word and three literals. -/
def Slice.wordsLeft (x : Slice) : Nat :=
  min 4 (((x.blkPc + 8 * ((bits x.blk 52 8).setWidth 57 + 1)) - x.pc).toNat / 8)

/-- The instruction at the pc of a path. -/
def State.fetchInstr (s : State) (p : Part) (g : Group) (path : Nat) : Fetched × State :=
  let x := g.sliceAt path
  let r := State.fetchWords p g.core g.ctl.asid x.wordsLeft s x.pc.toNat
  (decodeFetched r.1 r.2.1, r.2.2)

/-! ### The pick of a quarter (R92 to R94) -/

/-- The group may issue: it has not stopped, and its cohort meets no kill. -/
def State.mayIssue (s : State) (g : Group) : Bool :=
  !g.stopped && (match s.cohort? g.cohort with | some c => c.kill.isNone && !c.killed | none => false)

/-- The slice's path takes part in the rotation: it does not wait on another path or on a trap in progress. -/
def Slice.issues (x : Slice) : Bool :=
  x.onPath && !x.held && (match x.wait with | .regang _ _ => false | _ => true)

/-- What a path may still do while a PARK of its group is in progress: the PARK itself, and the end of an instruction
that is under way (a flit that a SPAWN has sent, an atomic that has committed, the fill of a CAS; R355 step 2, log 49). -/
def Wait.midway : Wait → Bool
  | .staged k _ => k == 2 || k == 3
  | .atomic _ _ _ _ _ => true
  | .filling _ => true
  | _ => false

/-- What a path may still do while a discard of its group is in progress: the lane steps of an atomic that has committed, whose
fill the discard waits for (R144, R214). -/
def Wait.inAtomic : Wait → Bool
  | .atomic _ _ _ _ _ => true
  | _ => false

/-- The slice may issue, as far as a PARK or a discard in progress lets it. -/
def Group.letsIssue (g : Group) (x : Slice) : Bool :=
  x.issues && (!g.parking || x.wait.midway) && (!g.discarding || x.wait.inAtomic)

/-- The paths of a group that may issue, ascending. -/
def Group.paths (g : Group) : List Nat :=
  (List.range 32).filter (fun i => g.letsIssue (g.sliceAt i) && (g.members (g.sliceAt i).path).head? == some i)

/-- The current path's turn has ended: QUANTUM instructions, YIELD, or a split or join (R94, R123). -/
def GroupCtl.turnOver (c : GroupCtl) : Bool :=
  (c.quantum != 0 && decide (c.quantum.toNat ≤ c.turns)) || decide (2 ^ 16 ≤ c.turns)

/-- The order in which R94 asks the paths of a group. -/
def Group.pathOrder (g : Group) : List Nat :=
  let ps := g.paths
  let cur := ps.filter (· == g.ctl.curPath)
  let rest := ps.filter (fun p => decide (g.ctl.curPath < p)) ++ ps.filter (fun p => decide (p < g.ctl.curPath))
  if g.ctl.turnOver then rest ++ cur else cur ++ rest

/-- Path p becomes the current path, with nothing issued yet, unless its turn goes on (R94). -/
def Group.openTurn (g : Group) (p : Nat) : Group :=
  if p = g.ctl.curPath && !g.ctl.turnOver then g else { g with ctl := { g.ctl with curPath := p, turns := 0 } }

/-- The turn count as path p issues (R94): the steps of one instruction count as one. -/
def Group.countTurn (g : Group) (p : Nat) : Group :=
  { g with ctl := { g.ctl with curPath := p
                               turns := if p = g.ctl.curPath && !g.ctl.turnOver then
                                          min (g.ctl.turns + b2n ((g.sliceAt p).wait == .none)) (2 ^ 16 - 1)
                                        else 1 } }

/-- The word of a path issues: a header fetch where a header comes next (R89), else the fetched instruction with the
path named as the issuer. A header fetch takes the pick, as a word does and each further step of a word that is under way
(log 84). -/
def State.issuePath (run : Run) (s : State) (g : Group) (p : Nat) : Result :=
  if (g.sliceAt p).hdr then run (.headerFetch g.gid p) (s.onGroup g.gid (fun g => g.openTurn p))
  else
    match s.part? g.part, s.cohort? g.cohort with
    | some pt, some co =>
      let r := s.fetchInstr pt g p
      let s' := { (r.2.onGroup g.gid (fun g => g.countTurn p)) with cur := .path g.gid p }
      match r.1 with
      | .instr i => run i s'
      | .malformed why => run (.malformedWord why) s'
      | .fault => (s.failTask g.part co.tid 6).done
      | .poisoned => (s.requestKill g.cohort (killControl (g.sliceAt p).pc.toNat)).done
    | _, _ => s.wait

/-- A result that did something, if it did. -/
def effective : Result → Option Result
  | .next s => if s.waited then none else some (.next s)
  | r => some r

/-- The first path of a group that can issue, in the order of R94. -/
def State.issueGroup (run : Run) (s : State) (g : Group) : Option Result :=
  g.pathOrder.findSome? (fun p => effective (s.issuePath run g p))

/-- The turn of a current path that cannot issue now ends (R94). -/
def State.endTurns (run : Run) (s : State) (gs : List Group) : State :=
  gs.foldl (fun s g =>
    if g.paths.contains g.ctl.curPath && (effective (s.issuePath run g g.ctl.curPath)).isSome then s
    else s.onGroup g.gid (·.endTurn)) s

/-- The groups of a quarter that may issue, by slot; a quarter has 16 slots (R1). -/
def State.quarterGroups (s : State) (core quarter : Nat) : List Group :=
  let gs := s.groups.filter (fun g => g.core == core && g.quarter == quarter && s.mayIssue g)
  (List.range 16).flatMap (fun slot => gs.filter (fun g => g.slot == slot))

/-- The picks that the capo holder took in a row while another group was ready. -/
def Core.withPicks (c : Core) (q n : Nat) : Core := { c with capoPicks := SMap.put 0 c.capoPicks q n }
def Core.withSlot (c : Core) (q slot : Nat) : Core := { c with lastSlot := SMap.put 0 c.lastSlot q (slot + 1) }

/-- A quarter's pick (R92): the capo holder unless it took the last three picks while another group was ready, then
the rotation over the group slots; the barred holder comes last, when no other group is ready. -/
def State.pickQuarter (run : Run) (s : State) (core quarter : Nat) : Result :=
  let c := s.core core
  let s := s.endTurns run (s.quarterGroups core quarter)
  let gs := s.quarterGroups core quarter
  let holder := SMap.get none c.capo quarter
  let last := SMap.get 0 c.lastSlot quarter
  let others := gs.filter (fun g => some g.gid != holder)
  let rotation := others.filter (fun g => decide (last ≤ g.slot)) ++ others.filter (fun g => decide (g.slot < last))
  let own := gs.filter (fun g => some g.gid == holder)
  let byRotation := rotation.findSome? (fun g => (s.onCore core (fun c => (c.withPicks quarter 0).withSlot quarter g.slot)).issueGroup run g)
  let byHolder := own.findSome? (fun g =>
    (s.onCore core (fun c => c.withPicks quarter (if byRotation.isSome then SMap.get 0 c.capoPicks quarter + 1 else 0))).issueGroup run g)
  if SMap.get 0 c.capoPicks quarter < 3 then (byHolder <|> byRotation).getD s.wait
  else (byRotation <|> byHolder).getD s.wait

/-! ### The cohort sequencer (R280) -/

/-- Group 0 of a cohort, while it is resident. -/
def State.groupZero? (s : State) (uid : Nat) : Option Group :=
  s.groups.find? (fun g => g.cohort == uid && g.cont.isNone && g.sp.grp == 0)

/-- The ASID that a stream's accesses use: ASIDCUR of the cohort's group 0, and after its end the last it held
(R286; log 31). -/
def State.streamAsid (s : State) (co : Cohort) : BitVec 8 :=
  match s.groupZero? co.uid with
  | some g => g.ctl.asid
  | none => co.asid0

/-- A stream word, fetched as data: X is not tested (R281). -/
def State.streamWord (s : State) (p : Part) (co : Cohort) (pc : Addr) : Option (Word64 × Option Tag) × State :=
  let r := s.translate p co.core (s.streamAsid co) pc.toNat
  match r.1.forAcc .read with
  | .ok pa => (some (s.readWordAs p.id pa, SMap.get none s.memPois (pa / 64)), r.2)
  | _ => (none, r.2)

/-- The next word of a cohort's tile stream issues. -/
def State.pickSequencer (run : Run) (s : State) (uid : Nat) : Result :=
  match s.cohort? uid with
  | none => s.done
  | some co =>
    match s.part? co.part with
    | none => s.done
    | some p =>
      if !co.seq.active || co.seq.ended || co.kill.isSome || co.killed then s.done
      else
        let r := s.streamWord p co co.seq.pc
        let s' := { r.2 with cur := .stream uid }
        match r.1 with
        | none => run (.malformedFtWord 0) s'
        | some (w, t) =>
          if t.isSome then (s.requestKill uid (killControl co.seq.pc.toNat)).done
          else
            match decodeFT w with
            | some i => run i s'
            | none => run (.malformedFtWord w) s'

/-! ### Time (log 5) -/

/-- Tokens that a bucket gains over some cycles, in elevenths of a byte: MEMU·2 or LINKU·4 a cycle, up to the burst
the request sets (R52). -/
def Bucket.refill (b : Bucket) (rate burst cycles : Nat) : Bucket := { b with tokens := min burst (b.tokens + rate * cycles) }

def Part.refill (p : Part) (cycles : Nat) : Part :=
  { p with buckets := p.buckets.map (fun (id, b) =>
      match id with
      | .memory _ => (id, b.refill (2 * p.totals.memu) (11264 * p.totals.mburst) cycles)
      | .link _ => (id, b.refill (4 * p.totals.linku) (11264 * p.totals.lburst) cycles)) }

/-- EPRI of the ready tasks follows the tick (R33). -/
def State.agePriorities (s : State) : State :=
  s.parts.foldl (fun s p =>
    (p.tasks.filter (fun t => t.state == .ready && t.epri != t.eprioAt s.tick)).foldl
      (fun s t => s.putTask p.id { t with epri := t.eprioAt s.tick }) s) s

/-- Some cycles and microseconds pass. -/
def State.elapse (s : State) (cycles micros : Nat) : State :=
  ({ s with cycle := s.cycle + cycles, refUs := s.refUs + micros
            parts := s.parts.map (fun (p : Part) => p.refill cycles) }).agePriorities

/-! ### The agenda (log 1) -/

/-- A row of the opcode table that no path or sequencer issues. -/
def isEvent : Instr → Bool
  | .malformedWord _ => false
  | .malformedFtWord _ => false
  | i => i.words == 0

/-- The host writes bytes of host memory, or of a partition's device memory under the partition's key; a reserved address
takes nothing (logs 18, 65). -/
def State.hostWrite (s : State) (part pa : Nat) (bytes : List Byte) : State :=
  s.writeDM part (bytes.zipIdx.map (fun (b, i) => (⟨pa + i, b, none, none⟩ : WByte))) .device

/-- The request that a destroy in progress answers (R41). -/
def destroyRequest (id : Nat) : Request := ⟨put64 56 8 3 + put64 48 8 id, 0, 0, 0, 0, 0, 0, 0⟩

/-- One agent's step. -/
def State.perform (run : Run) (s : State) : Action → Result
  | .event i => if isEvent i then run i s else s.done
  | .quarter core q => s.pickQuarter run core q
  | .sequencer uid => s.pickSequencer run uid
  | .hostWrite part pa bytes => (s.hostWrite part pa bytes).done
  | .protect part range => (s.onPart part (fun p => { p with prot := p.prot ++ [range] })).done
  | .mapWeights part m => (s.onPart part (fun p => { p with wsMaps := p.wsMaps ++ [m] })).done
  | .firmware =>
    match s.mgmt.busy with
    | some id => run (.destroyPartition (destroyRequest id)) { s with cur := .firmware }
    | none => s.done

/-- The head of the agenda, or a free choice when it is empty; each step counts in `choices`. -/
def State.takeAction (s : State) : Action × State :=
  match s.agenda with
  | a :: rest => (a, { s with agenda := rest, choices := s.choices + 1, cur := .none, waited := false })
  | [] => (Config.nextAction s.choices, { s with choices := s.choices + 1, cur := .none, waited := false })

/-- One step of the device, for a meaning of its instructions: `note` takes down what holds before time passes, and then one
agent acts. A device that a
thermal trip has stopped takes only the host's reset (R427). -/
def State.stepWith (run : Run) (note : State → State) (s : State) : Result :=
  let (a, s1) := s.takeAction
  let s2 := (note s1).elapse (Config.cyclesPerStep s.choices) (Config.microsPerStep s.choices)
  if s.mgmt.stopped then
    match a with
    | .event (.reset .hostReset v f) => s2.perform run (.event (.reset .hostReset v f))
    | _ => s1.done
  else s2.perform run a

end Machine
end Sys2Proof
end

