-- ==== Sys2Proof/Machine/Paths.lean ====
section
/-!
DEFINITION. How slices part and rejoin: lane entries (R96 to R98), split entries (R99, R100), REGANG and its deadlock
(R101, R102), refill loops with their side trips and exit (R103 to R107, R406, R409), the fetch of a header (R89, R97,
R110, R212), and branches (R95, R117).
-/

namespace Sys2Proof.Machine

/-! ### Names of paths after a change -/

/-- The current path's turn after slices parted or joined: it goes on while the same live slices are one path, under the
path's new name, and ends otherwise (R94). -/
def Group.keepTurn (g old : Group) : Group :=
  let live := (old.members old.ctl.curPath).filter (fun i => (g.sliceAt i).live)
  match live with
  | [] => g.endTurn
  | i :: _ =>
    if (g.sliceAt i).onPath && g.members (g.sliceAt i).path == live then
      { g with ctl := { g.ctl with curPath := (g.sliceAt i).path } }
    else g.endTurn

/-- A wait at a word that the path issues anew with the slices that join it there (R89): nothing of the word is done in
some lanes only (log 85). -/
def Wait.reissues : Wait → Bool
  | .bar _ _ _ _ false => true
  | .acquire _ => true
  | _ => false

/-- The word at the slice's PC is not under way. -/
def Wait.unbegun (w : Wait) : Bool := w == .none || w.reissues

/-- Two slices stand at the same place: what makes them one path (R89). A slice whose word there is under way joins none
that has not begun it (log 85). -/
def Slice.sameSpot (x y : Slice) : Bool :=
  x.onPath && y.onPath && x.pc == y.pc && x.spl == y.spl && x.hdr == y.hdr && x.handler == y.handler && x.held == y.held &&
  (x.wait == y.wait || (x.wait.unbegun && y.wait.unbegun)) && (x.hdr || (x.blkPc == y.blkPc && x.sig == y.sig))

/-- Some slices named anew by where each stands. -/
def Group.regroup (g : Group) (is : List Nat) : Group :=
  g.mapSlices is (fun i x =>
    { x with path := ((is.filter (fun j => (g.sliceAt i).sameSpot (g.sliceAt j))).head?).getD i })

/-- Slices fully exited, as a gang mask. -/
def Group.dead (g : Group) : BitVec 32 := gangMask ((List.range 32).filter (fun i => !(g.sliceAt i).live))

/-- The exited lanes of the group. -/
def Group.exited (g : Group) : BitVec 128 := laneMask ((List.range 32).flatMap (fun i => lanesOf i (g.sliceAt i).xmask))

/-- The slices of a gang mask, ascending. -/
def slicesOf (m : BitVec 32) : List Nat := (List.range 32).filter (fun i => bit m i)

/-! ### Lane entries (R97, R98) -/

/-- What joining the entries at a header gives. -/
inductive Joined
  | at_ (x : Slice)       -- the slice stands at the header with no entry left that names it
  | moved (x : Slice)     -- the waiting lanes start at TPC
  | broken                -- the conservation check fails (R111)
  deriving DecidableEq, Repr

/-- R97 at a header, from the top of the stack on. A side trip's entry names no header. -/
def joinEntries (h : Addr) (x : Slice) : List LaneEntry → Joined
  | [] => .at_ { x with lstk := [] }
  | e :: rest =>
    if e.kind = .sideTrip || e.rpc != some h then .at_ { x with lstk := e :: rest }
    else if e.kind = .branch && !e.phase then
      .moved { x with lstk := { e with arr := x.amask, phase := true } :: rest, amask := e.taken &&& ~~~x.xmask, pc := e.tpc
                      hdr := true }
    else if e.arr ||| x.amask = e.orig &&& ~~~x.xmask then
      joinEntries h { x with amask := e.arr ||| x.amask } rest
    else .broken

/-- R98: while no running lane is left, the waiting lanes start or the arrived lanes go on. -/
def unwind (x : Slice) : List LaneEntry → Slice
  | [] => { x with lstk := [] }
  | e :: rest =>
    if x.amask != 0 || e.kind == .sideTrip then { x with lstk := e :: rest }
    else if !e.phase && e.taken &&& ~~~x.xmask != 0 then
      { x with lstk := { e with arr := 0, phase := true } :: rest, amask := e.taken &&& ~~~x.xmask, pc := e.tpc, hdr := true }
    else
      let arrived := if e.phase then e.arr &&& ~~~x.xmask else 0
      match e.rpc with
      | some r => unwind { x with amask := arrived, pc := if arrived = 0 then x.pc else r, hdr := x.hdr || arrived != 0 } rest
      | none => unwind { x with amask := arrived } rest

def Slice.unwound (x : Slice) : Slice := unwind x x.lstk

/-! ### Split entries (R99, R100) -/

def Group.split? (g : Group) (k : Nat) : Option Split := SMap.get none g.splits k
def Group.setSplit (g : Group) (k : Nat) (e : Option Split) : Group := { g with splits := SMap.put none g.splits k e }
def Group.freeSplit (g : Group) : Option Nat := (List.range 32).find? (fun k => (g.split? k).isNone)

/-- R100 for one entry: once the waiting and the exited slices cover GANG, the waiting slices form one path at RPC;
the flag says that the masks failed their check. -/
def Group.tryRelease (g : Group) (k : Nat) : Group × Bool :=
  match g.split? k with
  | none => (g, false)
  | some e =>
    if (e.arrs ||| g.dead) &&& e.gang != e.gang then (g, false)
    else
      let ws := slicesOf (e.arrs &&& ~~~g.dead)
      let bad := laneMask (g.activeLanes ws) != (e.saved &&& ~~~g.exited)
      let g := g.mapSlices ws (fun _ x => { x with wait := .none, spl := e.parent, hdr := true })
      ((g.asPath ws).setSplit k none, bad)

def Group.tryReleases (g : Group) : Group × Bool :=
  (List.range 32).foldl (fun (g, bad) k => let r := g.tryRelease k; (r.1, bad || r.2)) (g, false)

/-! ### REGANG (R101, R102) -/

/-- The entry and its ancestors; the fuel bounds the chain by the table. -/
def Group.ancestors (g : Group) : Nat → Option Nat → List Nat
  | 0, _ => []
  | _, none => []
  | fuel + 1, some k =>
    match g.split? k with
    | some e => k :: g.ancestors fuel e.parent
    | none => []

/-- Free every split entry that no live slice holds, directly or as an ancestor, in the program or in a saved handler
slice. -/
def Group.sweepSplits (g : Group) : Group :=
  let saved := g.frame.saved.filter (fun x => (g.sliceAt x.1).live)
  let held := (g.slices.filter (·.live) ++ saved.map (·.2)).flatMap (fun x => g.ancestors 32 x.spl)
  { g with splits := g.splits.filter (fun (k, _) => held.contains k) }

/-- The slices that wait at the REGANG word of slice i with its effective gang. -/
def Group.regangMates (g : Group) (i : Nat) : List Nat :=
  (List.range 32).filter (fun j => (g.sliceAt j).live && (g.sliceAt j).wait == (g.sliceAt i).wait &&
    (g.sliceAt j).pc == (g.sliceAt i).pc)

/-- Split entry a lies inside b: b is an ancestor of it, or its gang is a proper part of b's. -/
def Group.splitInside (g : Group) (a b : Nat) : Bool :=
  (g.ancestors 32 (some a)).tail.contains b ||
  (match g.split? a, g.split? b with
   | some x, some y => x.gang &&& y.gang == x.gang && x.gang != y.gang
   | _, _ => false)

/-- The innermost split entry whose gang contains m (R101). Where two such entries lie inside one another neither way,
the one held by the slice with SPL `own` is kept, else the lower (log 86). -/
def Group.innermost (g : Group) (own : Option Nat) (m : BitVec 32) : Option Nat :=
  let holds := fun (k : Nat) => match g.split? k with | some e => e.gang &&& m == m | none => false
  ((List.range 32).filter holds).foldl (fun best k =>
    match best with
    | none => some k
    | some b => if g.splitInside k b then some k else some b) ((g.ancestors 32 own).find? holds)

/-- A satisfied REGANG releases its slices into one path at the next word (R101); the flag says that their SIGACCs
differ (R110). -/
def Group.releaseRegang (g : Group) (i : Nat) : Group × Bool :=
  match (g.sliceAt i).wait with
  | .regang gang words =>
    let mates := g.regangMates i
    if gang &&& ~~~g.dead &&& ~~~(gangMask mates) != 0 then (g, false)
    else
      let m := gangMask mates
      let spl := g.innermost (g.sliceAt i).spl m
      let bad := mates.any (fun j => (g.sliceAt j).sig != (g.sliceAt i).sig)
      let next := fun (x : Slice) => x.pc + 8 * BitVec.ofNat 57 words
      let g := g.mapSlices mates (fun _ x =>
        { x with wait := .none, spl := spl, sig := crcOpc x.sig 0x009, pc := next x
                 hdr := next x == x.blkPc + 8 * ((bits x.blk 52 8).setWidth 57 + 1) })
      ((g.asPath mates).sweepSplits, bad)
  | _ => (g, false)

def Group.tryRegangs (g : Group) : Group × Bool :=
  (List.range 32).foldl (fun (g, bad) i => let r := g.releaseRegang i; (r.1, bad || r.2)) (g, false)

def Wait.isRegang : Wait → Bool | .regang _ _ => true | _ => false

/-- REGANG_DEADLOCK stands: every live slice waits in a REGANG, a rejoin or a loop exit, one of them in a REGANG (R102). -/
def Group.deadlocked (g : Group) : Bool :=
  let live := g.slices.filter (·.live)
  live.all (fun x => !x.held && (x.wait.isRegang || x.wait == .rejoin || x.wait == .loopExit)) &&
  live.any (fun x => x.wait.isRegang)

/-- The lowest path that waits in a REGANG. -/
def Group.regangLowest (g : Group) : Nat :=
  ((List.range 32).find? (fun i => (g.sliceAt i).live && (g.sliceAt i).wait.isRegang && (g.sliceAt i).path == i)).getD 0

/-- The trap of R102 at the lowest path that waits in a REGANG. -/
def State.regangDeadlock (s : State) (c : Ctx) (g : Group) : Result :=
  let waiting := (List.range 32).filter (fun i => (g.sliceAt i).live && (g.sliceAt i).wait.isRegang)
  let paths := waiting.filter (fun i => (g.sliceAt i).path == i)
  let gangOf := fun (i : Nat) => match (g.sliceAt i).wait with | .regang m _ => m.toNat | _ => 0
  let slices := fun (i : Nat) => waiting.filter (fun j => (g.sliceAt j).path == i)
  let p1 := g.regangLowest
  let word := fun (hi lo : Nat) => BitVec.ofNat 64 (hi * 2 ^ 32 + lo)
  let second := match paths[1]? with | some p => word (gangOf p) (gangMask (slices p)).toNat | none => 0
  let jsl := gangMask ((List.range 32).filter (fun i =>
    (g.sliceAt i).live && ((g.sliceAt i).wait == .rejoin || (g.sliceAt i).wait == .loopExit)))
  let t : Trap :=
    { Trap.plain trapRegangDeadlock (g.activeLanes (slices p1)) (g.sliceAt p1).pc with
      save0 := word g.dead.toNat (gangMask waiting).toNat
      save1 := word (gangOf p1) (gangMask (slices p1)).toNat
      save2 := second
      save3 := word paths.length jsl.toNat }
  (s.setGroup g).takeTrap { c with g := g, slices := slices p1, head := g.sliceAt p1 } t

/-! ### Refill loops (R103 to R107) -/

/-- A 32-bit word of the iteration queue (R104). -/
def State.queueWord (s : State) (uid off : Nat) : Word32 :=
  match s.cohort? uid with | some c => c.scratchWord off | none => 0

/-- A take (R105): an index, with NEXT stepped, or none when the queue is exhausted. -/
def State.takeIndex (s : State) (uid queue : Nat) : Option Word32 × State :=
  let i := s.queueWord uid queue
  if i.ult (s.queueWord uid (queue + 4)) then (some i, s.writeScratch uid (wordBytes queue (i + 1))) else (none, s)

/-- Lane `lane` of slice i holds iteration `it`. -/
def Group.setIter (g : Group) (lane : Nat) (it : Word32) : Group :=
  { g with regs := { g.regs with iter := SMap.put 0xFFFFFFFF g.regs.iter lane it } }

def laneBit (lane : Nat) : BitVec 4 := 1#4 <<< (lane % 4)

/-- The lowest set bit of a lane mask. -/
def lowestLane (m : BitVec 4) : BitVec 4 := m &&& (-m)
def lowestIndex (m : BitVec 4) : Nat := ((List.range 4).find? (fun j => bit m j)).getD 0

/-- A lane finds the queue exhausted: it is idle (R105). -/
def Group.goIdle (g : Group) (lane : Nat) : Group :=
  (g.setIter lane 0xFFFFFFFF).mapSlices [lane / 4] (fun _ x => { x with imask := x.imask ||| laneBit lane })

/-- Slice i with no running lane left: it waits at the loop's exit when every lane of it in LMASK is idle or exited and
some is idle (R106), whatever entries were pushed before LOOPB, and with the entries pushed inside the loop left on LSTK, since no rule pops them
(log 28); otherwise waiting or arrived lanes go on (R98). -/
def Slice.settle (lp : Option Loop) (i : Nat) (x : Slice) : Slice :=
  if x.amask != 0 then x
  else
    match lp with
    | none => x.unwound
    | some lp =>
      let mine := bits lp.lmask (4 * i) 4 &&& ~~~x.xmask
      if mine != 0 && mine &&& ~~~x.imask == 0 then { x with wait := .loopExit, pc := lp.exit, hdr := true } else x.unwound

/-- The end of a side trip of slice i (R106, R133): the entry e is on top of the stack `rest`. -/
def convertTrip (lp : Loop) (i : Nat) (x : Slice) (e : LaneEntry) (rest : List LaneEntry) : Slice :=
  let f := e.arr &&& ~~~x.imask
  let k := e.orig &&& ~~~e.arr
  let home := fun (y : Slice) =>
    match e.back with
    | some (bp, b, sig) =>
      { y with pc := e.tpc, blkPc := bp, blk := b, sig := sig, hdr := e.tpc == bp + 8 * ((bits b 52 8).setWidth 57 + 1) }
    | none => { y with pc := e.tpc }
  if k = 0 then { x with lstk := rest, amask := f, pc := lp.body, hdr := true }.settle lp i
  else if f = 0 then home { x with lstk := rest, amask := k }
  else
    home { x with lstk := { e with kind := .rejoin, taken := f, arr := f, rpc := some lp.body, phase := true
                                   orig := e.orig &&& ~~~x.imask } :: rest
                  amask := k }

/-- Step 4 of R106 for the running lane: the next lane of TAKEN starts its retire section, or the entry converts. -/
def nextTrip (lp : Loop) (i : Nat) (x : Slice) (e : LaneEntry) (rest : List LaneEntry) : Slice :=
  let left := e.taken &&& ~~~(lowestLane e.taken)
  if left = 0 then convertTrip lp i x e rest
  else { x with lstk := { e with taken := left, phase := false } :: rest, amask := lowestLane left, pc := lp.ret, hdr := true }

/-- A header of section `sec` fetched by slice i in a side trip: none when the lane goes on inside its section. -/
def State.sideTrip (s : State) (g : Group) (i : Nat) (sec : Nat) : Option State :=
  match g.loop, (g.sliceAt i).lstk with
  | some lp, e :: rest =>
    if e.kind != .sideTrip || (g.sliceAt i).handler then none
    else
      let lane := 4 * i + lowestIndex e.taken
      if !e.phase then
        if sec = 3 then none
        else
          let lp := { lp with complete := lp.complete ++ [g.iterOf lane] }
          let r := s.takeIndex g.cohort lp.queue
          match r.1 with
          | some it =>
            let lp := { lp with taken := lp.taken ++ [it] }
            let g := { (g.setIter lane it) with loop := some lp }
            some (r.2.setGroup (g.mapSlices [i] (fun _ x =>
              { x with lstk := { e with phase := true } :: rest, pc := lp.pro, hdr := true })))
          | none =>
            let g := { (g.goIdle lane) with loop := some lp }
            some (r.2.setGroup (g.mapSlices [i] (fun _ x => nextTrip lp i x e x.lstk.tail)))
      else if sec = 1 then none
      else some (s.setGroup (g.mapSlices [i] (fun _ x => nextTrip lp i x e rest)))
  | _, _ => none

/-- The last CMTD entry of a loop that exits forwards from now on (R409). -/
def SQEntry.finalCmtd (e : SQEntry) (last : Option Nat) : SQEntry :=
  match e.op with
  | .cmtd off v _ => if some e.id = last then { e with op := .cmtd off v true } else e
  | _ => e

/-- The loop's exit (R107, R409): every lane of LMASK is idle or exited, every slice of it waits, and every iteration
taken has had its Turn; the released slices form their paths by R89; the flag says that the masks failed their check. -/
def Group.tryExit (g : Group) : Group × Bool :=
  match g.loop with
  | none => (g, false)
  | some lp =>
    let part := (List.range 32).filter (fun i => bits lp.lmask (4 * i) 4 != 0)
    let mine := fun (i : Nat) => bits lp.lmask (4 * i) 4 &&& ~~~(g.sliceAt i).xmask
    let ready := part.all (fun i =>
      let x := g.sliceAt i
      (mine i &&& ~~~x.imask) == 0 && (mine i == 0 || x.wait == .loopExit)) &&
      lp.taken.all (fun it => lp.turned.contains it)
    if !ready then (g, false)
    else
      let ws := part.filter (fun i => mine i != 0)
      let bad := ws.any (fun i => ((g.sliceAt i).imask ||| (g.sliceAt i).amask) &&& ~~~(g.sliceAt i).xmask != mine i)
      let g := g.mapSlices (List.range 32) (fun _ x => { x with imask := 0 })
      let g := g.mapSlices ws (fun i x => { x with wait := .none, amask := mine i, pc := lp.exit, hdr := true })
      ({ (g.regroup ws) with loop := none, regs := { g.regs with iter := [] },
                             sq := g.sq.map (·.finalCmtd lp.lastCmtd) }, bad)

/-! ### What follows a change of slices -/

/-- After slices begin to wait, exit or take their Turns: releases, the loop's exit and the deadlock check. A failed
comparison kills the cohort (R111). -/
def State.settlePaths (s : State) (c : Ctx) : Result :=
  match s.group? c.g.gid with
  | none => s.done
  | some g0 =>
    let (g, bad1) := g0.tryExit
    let (g, bad2) := g.tryReleases
    let (g, bad3) := g.tryRegangs
    let g := g.keepTurn g0
    let s := s.setGroup g
    if bad1 || bad2 then (s.requestKill g.cohort (killMask c.pc.toNat)).done
    else if bad3 then (s.requestKill g.cohort (killSignature c.pc.toNat)).done
    else if g.deadlocked then s.regangDeadlock c g
    else s.done

/-! ### Headers (R53, R54, R74, R89) -/

/-- What stands where a header is expected. -/
inductive HeaderAt
  | header (w : Word64)
  | other
  | fault
  | poisoned
  deriving DecidableEq, Repr

/-- The word at an address of the path's code, as a header (R54 tests only MARKER). -/
def State.headerAt (s : State) (p : Part) (g : Group) (va : Addr) : HeaderAt × State :=
  let r := s.fetchWord p g.core g.ctl.asid va.toNat
  match r.1 with
  | none => (.fault, r.2)
  | some (w, t) => (if t.isSome then .poisoned else if isHeader w then .header w else .other, r.2)

/-- Continue with the header at a target; a target that is none traps as BAD_TARGET at the branch (R117). -/
def State.atTarget (s : State) (c : Ctx) (va : Addr) (k : State → Word64 → Result) : Result :=
  match s.headerAt c.p c.g va with
  | (.header w, s) => k s w
  | (.other, s) => s.trapAll c trapBadTarget
  | (.fault, s) => (s.failTask c.p.id c.co.tid 6).done
  | (.poisoned, s) => (s.requestKill c.g.cohort (killControl va.toNat)).done

/-- One slice of the fetching path: its side trip, its lane entries, its split entry, or the block (R97, R100, R106). `entered`:
the slices that stand inside a block now, where they may meet others (R89). -/
structure FetchAcc where
  st : State
  entered : List Nat
  broken : Bool

/-- Slice i stands inside a block after its side trip ended there (R106). -/
def State.backInBlock (s : State) (gid i : Nat) : Bool :=
  ((s.group? gid).map (fun g => (g.sliceAt i).onPath && !(g.sliceAt i).hdr)).getD false

def fetchSlice (gid : Nat) (h : Addr) (w : Word64) (acc : FetchAcc) (i : Nat) : FetchAcc :=
  match acc.st.group? gid with
  | none => acc
  | some g =>
    match acc.st.sideTrip g i (bits w 16 2).toNat with
    | some s => { acc with st := s, entered := acc.entered ++ (if s.backInBlock gid i then [i] else []) }
    | none =>
      match joinEntries h (g.sliceAt i) (g.sliceAt i).lstk with
      | .moved x => { acc with st := acc.st.setGroup (g.mapSlices [i] (fun _ _ => x)) }
      | .broken => { acc with broken := true }
      | .at_ x =>
        match x.spl.bind g.split? with
        | some e =>
          if e.rpc = h then
            let g := g.mapSlices [i] (fun _ _ => { x with wait := .rejoin })
            { acc with st := acc.st.setGroup (g.setSplit (x.spl.getD 0) (some { e with arrs := e.arrs ||| gangMask [i] })) }
          else
            { acc with st := acc.st.setGroup (g.mapSlices [i] (fun _ _ => { x with pc := h + 8, hdr := false, blkPc := h, blk := w, sig := 0xFFF }))
                       entered := acc.entered ++ [i] }
        | none =>
          { acc with st := acc.st.setGroup (g.mapSlices [i] (fun _ _ => { x with pc := h + 8, hdr := false, blkPc := h, blk := w, sig := 0xFFF }))
                     entered := acc.entered ++ [i] }

/-- The slices that fetch the header together: those of the group that stand at it with the path's SPL (R89). -/
def Group.arrivals (g : Group) (i : Nat) : List Nat :=
  (List.range 32).filter (fun j => (g.sliceAt i).sameSpot (g.sliceAt j))

/-- The fetching slices `js` with those that already stand where one of the entered slices `es` now stands (R89). -/
def Group.withMates (g : Group) (js es : List Nat) : List Nat :=
  (List.range 32).filter (fun j => js.contains j || es.any (fun i => (g.sliceAt i).sameSpot (g.sliceAt j)))

/-- The fetching slices named anew after the fetch; a path that waits at the word where they now stand issues it again with those
that join it (R89). -/
def Group.joinPaths (g : Group) (js es : List Nat) : Group :=
  let ms := g.withMates js es
  let g := g.regroup ms
  if ms.length = js.length then g
  else g.mapSlices ms (fun _ x => if x.wait.reissues then { x with wait := .none } else x)

/-- A region begins at this header for the group (R212). -/
def Group.beginRegion (g : Group) (h : Addr) : Group :=
  { g.commit with ctl := { g.ctl with rgnpc := h, rgnsig := 0xFFF } }

/-- HEADER_FETCH by the path of slice i (R89): the checks of R74 and R382, then each slice in order. -/
def execHeaderFetch (gid slice : Nat) (s : State) : Result :=
  match ({ s with cur := .path gid slice }).ctx? with
  | none => s.done
  | some c0 =>
    if !c0.head.hdr || !c0.g.letsIssue c0.head || !s.mayIssue c0.g then s.done
    else
      let js := c0.g.arrivals c0.path
      let g0 := if js.length = c0.slices.length then c0.g else (c0.g.asPath js).keepTurn c0.g
      let c := { c0 with g := g0, slices := js, head := g0.sliceAt c0.path }
      let s := s.setGroup g0
      match s.headerAt c.p g0 c.pc with
      | (.fault, s) => (s.failTask c.p.id c.co.tid 6).done
      | (.poisoned, s) => (s.requestKill c.g.cohort (killControl c.pc.toNat)).done
      | (.other, s) => s.trapAll c trapBadHeader
      | (.header w, s) =>
        if bits w 52 8 = 0 then s.trapAll c trapBadHeader
        else if bits w 12 3 != 0 then s.trapAll c trapIllegal
        else if bit w 15 && c.handler then s.doubleTrap c 0
        else
          let acc := js.foldl (fetchSlice gid c.pc w) ⟨s, [], false⟩
          if acc.broken then (s.requestKill c.g.cohort (killMask c.pc.toNat)).done
          else
            let s := acc.st.onGroup gid (fun g =>
              let g' := if bit w 15 then g.beginRegion c.pc else g
              (g'.joinPaths js acc.entered).keepTurn g0)
            s.settlePaths c

/-! ### Branches (R95, R99, R117) -/

/-- The lanes of slice i among a list of lanes. -/
def sliceLanes (i : Nat) (ls : List Nat) : BitVec 4 :=
  BitVec.ofNat 4 (((ls.filter (fun l => l / 4 == i)).map (fun l => 2 ^ (l % 4))).sum)

/-- R95 in one slice: whole to the target, whole past the branch, or parted with the fall-through lanes first. -/
def branchSlice (c : Ctx) (opc words : Nat) (target : Addr) (taken : BitVec 4) (x : Slice) : Slice :=
  let sig := c.folded opc
  if taken = x.amask then { x with pc := target, hdr := true, sig := sig, wait := .none }
  else
    let x' := { x with pc := c.next words, hdr := c.isLast words, sig := sig, wait := Wait.none }
    if taken = 0 then x'
    else
      { x' with amask := x.amask &&& ~~~taken
                lstk := { kind := .branch, rpc := c.rcv, orig := x.amask, taken := taken, arr := 0, tpc := target
                          phase := false, back := none } :: x.lstk }

/-- A split entry for the path (R99), naming the entry its slices held before. -/
def Ctx.newSplit (c : Ctx) (rpc : Addr) : Split :=
  { rpc := rpc, gang := gangMask c.slices, saved := laneMask c.active, arrs := 0, parent := c.head.spl }

/-- The slices whose lanes a branch parts. -/
def Ctx.partedBy (c : Ctx) (taken : List Nat) : List Nat :=
  c.slices.filter (fun i => sliceLanes i taken != 0 && sliceLanes i taken != (c.g.sliceAt i).amask)

/-- A branch leaves the path's slices at different PCs (R99). -/
def Ctx.splitBy (c : Ctx) (words : Nat) (target : Addr) (taken : List Nat) : Bool :=
  c.slices.any (fun i => sliceLanes i taken == (c.g.sliceAt i).amask) &&
  c.slices.any (fun i => sliceLanes i taken != (c.g.sliceAt i).amask) && target != c.next words

/-- Go on once the RCV target of a branch that diverges is known to be a header (R74). -/
def State.atRcv (s : State) (c : Ctx) (words : Nat) (target : Addr) (taken : List Nat) (k : State → Result) : Result :=
  match c.rcv with
  | some rpc =>
    if !(c.partedBy taken).isEmpty || c.splitBy words target taken then s.atTarget c rpc (fun s _ => k s) else k s
  | none => k s

/-- A branch decided per lane (R95, R96, R99), with its traps before any slice changes; its targets are known to be
headers. -/
def State.branch (s : State) (c : Ctx) (opc words : Nat) (target : Addr) (taken : List Nat) : Result :=
  let splits := c.splitBy words target taken
  if (c.partedBy taken).any (fun i => 16 ≤ (c.g.sliceAt i).lstk.length) then s.trapAll c trapMaskOverflow
  else if splits && c.rcv.isSome && c.g.freeSplit.isNone then s.trapAll c trapMaskOverflow
  else
    let s := s.onGroup c.g.gid (fun g0 =>
      let g := g0.mapSlices c.slices (fun i x => branchSlice c opc words target (sliceLanes i taken) x)
      let g :=
        match c.rcv, g.freeSplit with
        | some rpc, some k =>
          if splits then (g.setSplit k (some (c.newSplit rpc))).mapSlices c.slices (fun _ x => { x with spl := some k })
          else g
        | _, _ => g
      (g.regroup c.slices).keepTurn g0)
    (s.checkSig c opc words).done

end Sys2Proof.Machine
end

