-- ==== Sys2Proof/Machine/Control.lean ====
section
/-!
DEFINITION. Control, loop and allotment instructions (R115 to R137, R404), and the barrier machinery of R129 and R130
that MBAR shares.
-/

namespace Sys2Proof.Machine

/-! ### Branches (R118 to R121) -/

/-- The target of an FB word (R117). -/
def Ctx.target (c : Ctx) (w : FB) : Addr := c.pc + 8 * w.offset.signExtend 57

def execBra (w : FB) (s : State) : Result :=
  s.issue (fun c => s.atTarget c (c.target w) (fun s _ =>
    s.gate c (Need.bare w.legalBra false w.guard) (fun _ => s.finishAt c 0x001 1 (c.target w))))

def execBrp (w : FB) (s : State) : Result :=
  s.issue (fun c => s.atTarget c (c.target w) (fun s _ =>
    let go := fun (s : State) =>
      s.gate c (Need.bare w.legalBrp false w.guard) (fun lanes => s.branch c 0x002 1 (c.target w) lanes)
    if c.guardPoisoned w.guard then go s else s.atRcv c 1 (c.target w) (c.acting w.guard) go))

/-- The s register that BRU tests, with its wait bit (R120). -/
def bruSrc (w : FB) : Src := .reg (Spec.ofCode (bits w.low 8 8)) (bit w.low 7)

def execBru (w : FB) (s : State) : Result :=
  s.issue (fun c => s.atTarget c (c.target w) (fun s _ =>
    let n : Need := ⟨w.legalBru, false, w.guard, [], [(bruSrc w, 1)]⟩
    s.gate c n (fun _ =>
      let v := c.uniform s (bruSrc w)
      if v.2.isSome then s.poisonKill c
      else if condZero (bits w.low 4 3).toNat v.1 then s.finishAt c 0x003 1 (c.target w)
      else s.finish c 0x003 1)))

/-- The target in a source that is a full and clean s register. -/
def Ctx.targetIn (c : Ctx) (s : State) (x : Src) : Option Word64 :=
  match x with
  | .reg (.s n) _ =>
    if c.g.sIsEmpty c.handler n.toNat || (c.uniform s x).2.isSome then none else some (c.uniform s x).1
  | _ => none

/-- BRX and RET: the target is a register, whose bits [63:57] and [2:0] are zero (R117, R121). BAD_TARGET comes before
ILLEGAL_OP (R75). -/
def State.jumpRegister (s : State) (w : F3) (k : State → Ctx → Addr → Result) : Result :=
  s.issue (fun c =>
    let n : Need := ⟨w.legalBrx, false, w.guard, [], [(w.sa, 1)]⟩
    match c.targetIn s w.sa with
    | none => s.gate c n (fun _ => s.poisonKill c)
    | some v =>
      if bits v 57 7 != 0 || bits v 0 3 != 0 then s.trapAll c trapBadTarget
      else s.atTarget c (v.setWidth 57) (fun s _ => s.gate c n (fun _ => k s c (v.setWidth 57))))

def execBrx (w : F3) (s : State) : Result :=
  s.jumpRegister w (fun s c t => s.finishAt c 0x004 w.words t)

/-- RET also pops the return predictor, which no result depends on (R121). -/
def execRet (w : F3) (s : State) : Result :=
  s.jumpRegister w (fun s c t =>
    (s.onGroup c.g.gid (fun g => { g with ctl := { g.ctl with predictor := g.ctl.predictor.tail } })).finishAt c 0x006 w.words t)

/-- CALL, the last word of its block: the link is the next block's header (R121). -/
def execCall (w : FB) (s : State) : Result :=
  s.issue (fun c => s.atTarget c (c.target w) (fun s _ =>
    let n : Need := ⟨w.legalCall && c.isLast 1, false, w.guard, [(w.dst, 1)], []⟩
    s.gate c n (fun _ =>
      let s := s.onGroup c.g.gid (fun g =>
        let g := g.writeS c.handler w.dst ((c.next 1).setWidth 64, none)
        { g with ctl := { g.ctl with predictor := (c.next 1 :: g.ctl.predictor).take 16 } })
      s.finishAt c 0x005 1 (c.target w))))

/-! ### Exit, yield, no-op and breakpoint (R122 to R124) -/

def execNop (w : F3) (s : State) : Result :=
  s.issue (fun c => s.gate c (Need.bare w.legalBare false w.guard) (fun _ => s.finish c 0x000 w.words))

/-- YIELD ends the path's turn (R123). -/
def execYield (w : F3) (s : State) : Result :=
  s.issue (fun c => s.gate c (Need.bare w.legalBareGroup false w.guard) (fun _ =>
    (s.onGroup c.g.gid (·.endTurn)).finish c 0x008 w.words))

/-- Slice i after EXIT of some of its lanes; with no running lane it unwinds by R98, or waits at the loop's exit. -/
def exitSlice (c : Ctx) (words i : Nat) (gone : BitVec 4) (x : Slice) : Slice :=
  ({ x with pc := c.next words, hdr := c.isLast words, sig := c.folded 0x007, wait := .none, xmask := x.xmask ||| gone
            amask := x.amask &&& ~~~gone }).settle c.g.loop i

def execExit (w : F3) (s : State) : Result :=
  s.issue (fun c => s.gate c (Need.bare w.legalBare true w.guard) (fun lanes =>
    if c.sec != 0 && c.g.loop.isSome then s.trapAll c trapLoopState
    else
      let s := s.setGroup ((((c.committed 0x007 w.words).mapSlices c.slices
        (fun i x => exitSlice c w.words i (sliceLanes i lanes) x)).regroup c.slices).keepTurn c.g)
      let s := if lanes.isEmpty then s else s.enqueue c.g.gid true [[(none, .trigMarker (laneMask lanes))]]
      (s.checkSig c 0x007 w.words).settlePaths c))

/-- BKPT: BREAKPOINT in the lanes whose guard holds, with n in DETAIL and the return point past the word (R124). -/
def execBkpt (w : F3) (s : State) : Result :=
  s.issue (fun c => s.gate c (Need.bare w.legalBkpt false w.guard) (fun lanes =>
    if lanes.isEmpty then s.finish c 0x010 w.words
    else s.takeTrap c { Trap.plain trapBreakpoint lanes (c.next w.words) with detail := w.sub.toNat }))

/-- COMMIT (R404). -/
def execCommit (w : F3) (s : State) : Result :=
  s.issue (fun c => s.gate c (Need.bare w.legalBareGroup true w.guard) (fun _ =>
    (s.setGroup (c.committed 0x011 w.words)).finish c 0x011 w.words))

/-! ### REGANG (R125) -/

def execRegang (w : F3) (s : State) : Result :=
  s.issue (fun c =>
    let n : Need := ⟨w.legalRegang, true, w.guard, [], [(w.sa, 1)]⟩
    s.gate c n (fun _ =>
      let v := c.uniform s w.sa
      if v.2.isSome then s.poisonKill c
      else if c.sec != 0 && c.g.loop.isSome then s.trapAll c trapLoopState
      else
        let eff := v.1.setWidth 32 ||| gangMask c.slices
        let g := c.g.mapSlices c.slices (fun _ x => { x with wait := .regang eff w.words })
        let (g1, _) := g.tryRegangs
        if g1.deadlocked then
          (if g1.regangLowest = c.path then s else s.checkSig c 0x009 w.words).regangDeadlock c g1
        else ((s.setGroup g).checkSig c 0x009 w.words).settlePaths c))

/-! ### Predicates across lanes (R126 to R128) -/

/-- The value of VOTE by SUB over the voting lanes (R126). -/
def voteValue (c : Ctx) (p : Nat) (sub : Nat) (lanes : List Nat) : Word64 :=
  let hold := lanes.filter (fun l => c.g.pBit p l)
  match sub with
  | 0 => boolWord (!hold.isEmpty)
  | 1 => boolWord (hold.length == lanes.length)
  | 2 => (laneMask hold).setWidth 64
  | 3 => (laneMask hold >>> 64).setWidth 64
  | _ => BitVec.ofNat 64 hold.length

def srcP : Src → Nat
  | .reg (.p n) _ => n.toNat
  | _ => 7

def execVote (w : F3) (s : State) : Result :=
  s.issue (fun c =>
    let n : Need := ⟨w.legalVote, false, w.guard, [(w.dst, 1)], []⟩
    s.gate c n (fun lanes =>
      let p := srcP w.sa
      let v := voteValue c p w.sub.toNat lanes
      let t := mergeAll (lanes.map (fun l => c.g.pPois p l))
      let s := s.onGroup c.g.gid (fun g =>
        match w.dst with
        | .p d => g.writeP d.toNat (lanes.map (fun l => (l, v != 0, t)))
        | d => g.writeS c.handler d (v, t))
      (s.notePois c.g t).finish c 0x00A w.words))

def execPlop (w : F3) (s : State) : Result :=
  s.issue (fun c => s.gate c (Need.bare w.legalPlop false w.guard) (fun lanes =>
    let a := fun (l : Nat) => c.g.pBit (srcP w.sa) l != w.negA
    let b := fun (l : Nat) => c.g.pBit (srcP w.sb) l != w.negB
    let v := fun (l : Nat) =>
      match w.sub.toNat with
      | 0 => a l && b l
      | 1 => a l || b l
      | _ => a l != b l
    let rs := lanes.map (fun l => (l, v l, mergePois (c.g.pPois (srcP w.sa) l) (c.g.pPois (srcP w.sb) l)))
    let s := s.onGroup c.g.gid (fun g =>
      match w.dst with
      | .p d => g.writeP d.toNat rs
      | _ => g)
    (s.notePois c.g (mergeAll (rs.map (·.2.2)))).finish c 0x00B w.words))

/-- The value of MASKRD by SUB (R128). -/
def maskValue (c : Ctx) (sub : Nat) : Word64 :=
  match sub with
  | 0 => (laneMask c.active).setWidth 64
  | 1 => (laneMask c.active >>> 64).setWidth 64
  | 2 => (gangMask c.slices).setWidth 64
  | 3 => c.g.exited.setWidth 64
  | _ => (c.g.exited >>> 64).setWidth 64

def execMaskrd (w : F3) (s : State) : Result :=
  s.issue (fun c =>
    let n : Need := ⟨w.legalMaskrd, false, w.guard, [(w.dst, 1)], []⟩
    s.gate c n (fun _ =>
      (s.onGroup c.g.gid (fun g => g.writeS c.handler w.dst (maskValue c w.sub.toNat, none))).finish c 0x00C w.words))

/-! ### Barriers (R129, R130) -/

/-- A slice released from a BAR that has acted: it stands at the next word. -/
def Slice.passBar (x : Slice) (words : Nat) : Slice :=
  let next := x.pc + 8 * BitVec.ofNat 57 words
  { x with wait := .none, pc := next, sig := crcOpc x.sig 0x00D
           hdr := next == x.blkPc + 8 * ((bits x.blk 52 8).setWidth 57 + 1) }

/-- The slice waits on barrier n in a BAR that has acted. -/
def Slice.atBar (x : Slice) (n : Nat) : Option Nat :=
  match x.wait with
  | .bar nb _ _ words true => if nb = n && x.live then some words else none
  | _ => none

/-- A released slice whose BAR was its block's last word and whose SIGACC differs from SIG (R110). -/
def Slice.barMismatch (x : Slice) (words : Nat) : Bool :=
  let y := x.passBar words
  y.hdr && y.sig != bits y.blk 0 12

/-- Release every slice of a group that waits on barrier n. -/
def Group.passBars (g : Group) (n : Nat) : Group :=
  { g with slices := g.slices.map (fun x => match x.atBar n with | some words => x.passBar words | none => x) }
def Group.barMismatch (g : Group) (n : Nat) : Bool :=
  g.slices.any (fun x => match x.atBar n with | some words => x.barMismatch words | none => false)

/-- Release one group's waiters on a barrier. -/
def State.passGroup (s : State) (gid n : Nat) : State :=
  match s.group? gid with
  | none => s
  | some g =>
    let s' := s.setGroup (g.passBars n)
    if g.barMismatch n then s'.requestKill g.cohort (killSignature ((g.slices.find? (fun x => (x.atBar n).isSome)).getD default).pc.toNat)
    else s'

/-- A phase of barrier n completes: every group of the cohort that waits on it is released, and its sequencer. -/
def State.completePhase (s : State) (uid n : Nat) : State :=
  let gids := (s.groups.filter (fun g => g.cohort == uid)).map (·.gid)
  let s := gids.foldl (fun s gid => s.passGroup gid n) s
  s.onCohort uid (fun c =>
    { c with seq := { c.seq with bar := match c.seq.bar with | some (m, _) => some (m, m == n || (c.seq.bar.map (·.2)).getD false) | none => none } })

def Cohort.barrier (c : Cohort) (n : Nat) : Barrier := SMap.get Barrier.zero c.bars n
def Cohort.setBarrier (c : Cohort) (n : Nat) (b : Barrier) : Cohort := { c with bars := SMap.put Barrier.zero c.bars n b }

/-- An arrival on a barrier whose count agrees (R130): the barrier, and whether the phase completes. -/
def Barrier.arrive (b : Barrier) (count : Nat) : Barrier × Bool :=
  let cnt := if b.cnt = 0 then count else b.cnt
  let arr := b.arr + 1
  if arr = cnt then ({ b with phase := !b.phase, arr := 0, cnt := 0 }, true) else ({ b with cnt := cnt, arr := arr }, false)

/-- Group number k records its arrival in the current phase. -/
def Barrier.record (b : Barrier) (k : Nat) : Barrier :=
  let m : BitVec 16 := 1#16 <<< k
  { b with seen := b.seen ||| m, lastp := if b.phase then b.lastp ||| m else b.lastp &&& ~~~m }

/-- A WAIT passes at once: the group has arrived, and the phase of its last arrival is over (R130). -/
def Barrier.passed (b : Barrier) (k : Nat) : Bool := bit b.seen k && b.phase != bit b.lastp k

/-- The BAR that a slice waits in, not acted yet: number, mode, count. -/
def Slice.barAsk (x : Slice) : Option (Nat × Nat × Nat) :=
  match x.wait with
  | .bar nb mode count _ false => if x.held then none else some (nb, mode, count)
  | _ => none

/-- The trap BAR_OPERAND at the lowest path of the group. -/
def State.barTrap (s : State) (c : Ctx) (g : Group) (p : Nat) : Result :=
  s.trapAll { c with g := g, slices := g.members p, head := g.sliceAt p } trapBarOperand

/-- What a group's BAR does once every live slice waits at one and its committed stores have drained (R130); none
while it waits. Where the paths name one barrier and mode but different counts, R130 does not say which counts: DESIGN
CHOICE, the lowest path's (log 87). -/
def State.barTry (s : State) (c : Ctx) : Option Result :=
  match s.group? c.g.gid with
  | none => none
  | some g =>
    let asks := (g.slices.filter (·.live)).map (·.barAsk)
    let low := ((List.range 32).find? (fun i => (g.sliceAt i).live)).getD 0
    if asks.any (·.isNone) then none
    else
      match (g.sliceAt low).barAsk with
      | none => none
      | some (nb, mode, count) =>
        if asks.any (fun a => (a.map (fun x => (x.1, x.2.1))) != some (nb, mode)) then some (s.barTrap c g low)
        else if g.sq.any (·.committed) then none
        else if 15 < nb || 17 < count then some (s.barTrap c g low)
        else
          let cnt := if count = 0 then c.co.ngm1 + 1 else count
          let b := c.co.barrier nb
          let k := g.sp.grp.toNat
          if mode != 2 && b.cnt != 0 && b.cnt != cnt then some (s.barTrap c g low)
          else
            let acted := s.setGroup { g with slices := g.slices.map (fun x =>
              match x.wait with | .bar n m q ws _ => { x with wait := .bar n m q ws true } | _ => x) }
            if mode = 2 then
              some (if b.passed k then (acted.passGroup g.gid nb).done else acted.done)
            else
              let (b', complete) := (b.record k).arrive cnt
              let s1 := acted.onCohort c.co.uid (fun co => co.setBarrier nb b')
              let s2 := if mode = 1 then s1.passGroup g.gid nb else s1
              some (if complete then (s2.completePhase c.co.uid nb).done else s2.done)

def execBar (w : F3) (s : State) : Result :=
  s.issue (fun c =>
    match c.head.wait with
    | .bar _ _ _ _ acted => if acted then s.wait else (s.barTry c).getD s.wait
    | _ =>
      let n : Need := ⟨w.legalBar, true, w.guard, [], [(w.sa, 1), (w.sb, 1)]⟩
      s.gate c n (fun _ =>
        let nb := c.uniform s w.sa
        let count := c.uniform s w.sb
        if nb.2.isSome || count.2.isSome then s.poisonKill c
        else if c.sec != 0 then s.trapAll c trapBarrierInBody
        else
          let g := (c.committed 0x00D w.words).mapSlices c.slices
            (fun _ x => { x with wait := .bar nb.1.toNat w.sub.toNat count.1.toNat w.words false })
          let s1 := s.setGroup g
          (s1.barTry c).getD s1.done))

/-! ### Refill loops (R131 to R133) -/

/-- The scratchpad of a group: a resumed continuation has none (R357). -/
def Ctx.scratchSize (c : Ctx) : Nat := if c.g.cont.isSome then 0 else c.co.allotted
/-- The bytes below the landing slots, which thread instructions may store to (R209). -/
def Ctx.scratchBelow (c : Ctx) : Nat := if c.g.cont.isSome then 0 else c.co.belowLanding

/-- Each lane of a list takes an index in order (R103, R105). -/
def State.takeAll (s : State) (uid gid queue : Nat) (lanes : List Nat) : State :=
  lanes.foldl (fun s l =>
    let r := s.takeIndex uid queue
    r.2.onGroup gid (fun g =>
      match r.1 with
      | some it => { (g.setIter l it) with loop := g.loop.map (fun lp => { lp with taken := lp.taken ++ [it] }) }
      | none => g.goIdle l)) s

/-- A slice of the path after LOOPB: the lanes with an index run the prologue, and a slice with none waits at the
exit. -/
def loopSlice (c : Ctx) (lp : Loop) (x : Slice) : Slice :=
  let got := x.amask &&& ~~~x.imask
  let x := { x with sig := c.folded 0x00E, amask := got, wait := Wait.none }
  if got = 0 then { x with pc := lp.exit, hdr := true, wait := .loopExit } else { x with pc := lp.pro, hdr := true }

def sectionTarget (c : Ctx) (lit : Word64) (lo : Nat) : Addr := c.pc + 8 * (bits lit lo 21).signExtend 57

/-- A section header at its target, with the SEC it must have (R132). -/
def State.atSection (s : State) (c : Ctx) (va : Addr) (sec : Nat) (k : State → Result) : Result :=
  s.atTarget c va (fun s h => if (bits h 16 2).toNat = sec then k s else s.trapAll c trapBadTarget)

def execLoopb (w : F3) (s : State) : Result :=
  s.issue (fun c =>
    let n : Need := ⟨w.legalLoopb && c.isLast w.words, true, w.guard, [], [(w.sa, 1)]⟩
    s.gate c n (fun _ =>
      let q := c.uniform s w.sa
      let lit := (c.uniform s w.sb).1
      let off := q.1.toNat
      let at_ := fun (cause : Nat) => s.takeTrap c ((Trap.plain cause c.active c.pc).withAddr off true)
      if q.2.isSome then s.poisonKill c
      else if c.sec != 0 then s.trapAll c trapLoopState
      else if c.g.loop.isSome then s.trapAll c trapLoopNest
      else if off % 16 != 0 then at_ trapMisaligned
      else if c.scratchBelow < off + 16 then at_ trapScratchRange
      else
        let pro := sectionTarget c lit 0
        let body := sectionTarget c lit 21
        let ret := sectionTarget c lit 42
        s.atSection c pro 1 (fun s => s.atSection c body 2 (fun s => s.atSection c ret 3 (fun s =>
          let lp : Loop :=
            { pro := pro, body := body, ret := ret, exit := c.next w.words, queue := off, lmask := laneMask c.active
              taken := [], complete := [], turned := [], lastCmtd := none }
          let s := s.onGroup c.g.gid (fun g => { g with loop := some lp })
          let s := s.takeAll c.co.uid c.g.gid off c.active
          let s := s.onGroup c.g.gid (fun g =>
            ((g.mapSlices c.slices (fun _ x => loopSlice c lp x)).regroup c.slices).keepTurn g)
          (s.checkSig c 0x00E w.words).settlePaths c)))))

/-- A slice of the path after REFILL with the lanes r of R (R106). -/
def refillSlice (c : Ctx) (lp : Loop) (words : Nat) (r : BitVec 4) (x : Slice) : Slice :=
  let sig := c.folded 0x00F
  if r = 0 then { x with pc := c.next words, hdr := c.isLast words, sig := sig, wait := .none }
  else
    { x with lstk := { kind := .sideTrip, rpc := none, orig := x.amask, taken := r, arr := r, tpc := c.next words
                       phase := false, back := some (x.blkPc, x.blk, sig) } :: x.lstk
             amask := lowestLane r, pc := lp.ret, hdr := true, sig := sig, wait := .none }

def execRefill (w : F3) (s : State) : Result :=
  s.issue (fun c => s.gate c (Need.bare w.legalRefill true w.guard) (fun lanes =>
    match c.g.loop with
    | none => s.trapAll c trapLoopState
    | some lp =>
      let r := lanes.filter (fun l => c.g.pBit (srcP w.sa) l)
      if c.sec != 2 then s.trapAll c trapLoopState
      else if lanes.any (fun l => (c.g.pPois (srcP w.sa) l).isSome) then s.poisonKill c
      else if c.slices.any (fun i => sliceLanes i r != 0 && decide (16 ≤ (c.g.sliceAt i).lstk.length)) then
        s.trapAll c trapMaskOverflow
      else
        let s := s.onGroup c.g.gid (fun g =>
          ((g.mapSlices c.slices (fun i x => refillSlice c lp w.words (sliceLanes i r) x)).regroup c.slices).keepTurn g)
        (s.checkSig c 0x00F w.words).done))

/-! ### Allotment (R135, R136) -/

/-- The live slices form one path with no lane or split entry and no loop (R394). -/
def Group.plainPath (g : Group) : Bool :=
  let live := g.slices.filter (·.live)
  live.all (fun x => x.lstk.isEmpty && x.spl.isNone && !x.handler && !x.held && x.path == (live.head?.map (·.path)).getD 0) &&
  g.loop.isNone

/-- Where a slice stands. -/
def Slice.place (x : Slice) : Place := ⟨x.pc, x.blkPc, x.blk, x.sig, x.hdr⟩

/-- The group holds its full allotment from now on (R135); `x` is a slice that stands at its ACQUIRE word. -/
def Group.grantFull (g : Group) (cycle : Nat) (x : Slice) : Group :=
  { g with allot := { g.allot with full := true, request := none, admittedCycle := cycle
                                   requestedCycle := g.allot.request.getD cycle
                                   admittedAt := if g.plainPath then some x.place else none }
           slices := g.slices.map (fun x => if x.wait = .acquire false then { x with wait := .acquire true } else x) }

def execAcquire (w : F3) (s : State) : Result :=
  s.issue (fun c => s.gate c (Need.bare w.legalBareGroup true w.guard) (fun _ =>
    match c.head.wait with
    | .acquire admitted => if admitted then s.finish c 0x245 w.words else s.wait
    | _ =>
      let g := c.committed 0x245 w.words
      if g.allot.full then (s.setGroup g).finish c 0x245 w.words
      else if g.allot.fullv = 0 then (s.setGroup (g.grantFull s.cycle c.head)).finish c 0x245 w.words
      else
        let g := { g with allot := { g.allot with request := some (g.allot.request.getD s.cycle) } }
        (s.setGroup (g.mapSlices c.slices (fun _ x => { x with wait := .acquire false }))).done))

/-- Registers above v15 are released, and their contents are lost (R136). -/
def Group.shed (g : Group) : Group :=
  { g with allot := { g.allot with full := false, admittedAt := none }
           regs := { g.regs with v := g.regs.v.filter (fun (k, _) => decide (k < 128 * 16)) } }

/-- The v registers that an instruction which has committed is still to write (R218, R366). -/
def Wait.vregs : Wait → List Nat
  | .atomic _ _ _ _ regs => regs
  | .held _ _ regs _ => regs
  | _ => []

/-- A write to v16 or above is outstanding. -/
def Group.highFills (g : Group) : Bool :=
  g.fills.any (fun f => f.vregs.any (fun r => decide (16 ≤ r))) ||
  g.slices.any (fun x => x.wait.vregs.any (fun r => decide (16 ≤ r)))

/-- SHED. At the prologue allotment it has no effect but the commit, which R136 puts first (log 103). -/
def execShed (w : F3) (s : State) : Result :=
  s.issue (fun c => s.gate c (Need.bare w.legalBareGroup true w.guard) (fun _ =>
    let first := match c.head.wait with | .staged _ _ => false | _ => true
    let g := if first then c.committed 0x246 w.words else c.g
    if c.g.allot.full && c.g.highFills then
      if first then (s.setGroup (g.mapSlices c.slices (fun _ x => { x with wait := .staged 0 [] }))).done else s.wait
    else (s.setGroup (if c.g.allot.full then g.shed else g)).finish c 0x246 w.words))

end Sys2Proof.Machine
end

