-- ==== Sys2Proof/Machine/Memory.lean ====
section
/-!
DEFINITION. The abstract memory machine of chapter 15: core views and L2 views with their copies, write packets, the
store queue with its drain (R326 to R340), loads (R331), releases and acquires (R332, R333), atomic steps (R334); and
the checks an access passes at issue (R217, R220, R201).
-/

namespace Sys2Proof.Machine

/-! ### Copies and packets (R326, R330) -/

def State.copy? (s : State) (v : View) (line : Nat) : Option Copy :=
  s.copies.find? (fun c => c.view == v && c.line == line)

def State.dropCopy (s : State) (v : View) (line : Nat) : State :=
  { s with copies := s.copies.filter (fun c => !(c.view == v && c.line == line)) }

def State.setCopy (s : State) (c : Copy) : State :=
  let t := s.dropCopy c.view c.line
  { t with copies := t.copies ++ [c] }

/-- The bytes of a list that lie in a line. -/
def bytesIn (line : Nat) (bs : List WByte) : List WByte := bs.filter (fun b => b.addr / 64 == line)

/-- A copy after some bytes are written into it; its poison follows R159. -/
def Copy.write (c : Copy) (bs : List WByte) : Copy :=
  let mine := bytesIn c.line bs
  if mine.isEmpty then c
  else
    { c with bytes := mine.foldl (fun l b => l.set (b.addr % 64) b.val) c.bytes, pois := sectorPois c.pois mine c.line }

/-- A byte of a copy as it was written. -/
def Copy.at_ (c : Copy) (pa : Nat) : Byte := c.bytes.getD (pa % 64) 0

/-- A copy as it reads under a key (R47). -/
def Copy.opened (c : Copy) (key : Option Nat) : Copy :=
  if c.key.isNone || key.isNone || c.key == key then c
  else { c with bytes := (List.range 64).map (fun i => openByte c.key key c.at_ (64 * c.line + i)), key := key }

/-- A copy after some bytes are written into it under a key. -/
def Copy.writeUnder (c : Copy) (key : Option Nat) (bs : List WByte) : Copy :=
  if (bytesIn c.line bs).isEmpty then c else { ((c.opened key).write bs) with key := key <|> c.key }

/-- The line as device or host memory holds it. -/
def State.homeLine (s : State) (v : View) (line : Nat) : Copy :=
  { view := v, line := line, bytes := (s.readBytes (64 * line) 64).map (·.val), pois := SMap.get none s.memPois line
    key := SMap.get none s.memKey line, held := [] }

/-- Packets written into a copy in their order, each under its partition's key. -/
def State.keep (s : State) (c : Copy) (ps : List Packet) : Copy :=
  ps.foldl (fun c p => c.writeUnder (s.keyOf p.part) p.bytes) c

/-- Refresh of a copy in L2V(d): DM's bytes, keeping what packets of die d wrote that have not been Homed (R330). -/
def State.refreshL2 (s : State) (d line : Nat) : State :=
  s.setCopy (s.keep (s.homeLine (.die d) line) (s.df.filter (fun p => dieOf p.core == d)))

/-- The packets in DF whose writes a die's copy of a line shows: those of the die that write into it, whose bytes a Lift and a
Refresh leave in the copy (R329, R330). -/
def State.shownIn (s : State) (d line : Nat) : List Nat :=
  (s.df.filter (fun p => dieOf p.core == d && !(bytesIn line p.bytes).isEmpty)).map (·.id)

/-- Refresh of a copy in CV(c): the L2 view's bytes as the core's partition reads them, keeping what packets of core c
wrote that have not been Lifted. -/
def State.refreshCV (s : State) (c line : Nat) : State :=
  let s := if (s.copy? (.die (dieOf c)) line).isSome then s else s.refreshL2 (dieOf c) line
  match s.copy? (.die (dieOf c)) line with
  | none => s
  | some l2 =>
    let new := { (l2.opened (s.keyOfCore c)) with view := .core c, held := s.shownIn (dieOf c) line }
    s.setCopy (s.keep new (s.cfq.filter (fun p => p.core == c)))

def State.ensureCV (s : State) (c line : Nat) : State := if (s.copy? (.core c) line).isSome then s else s.refreshCV c line
def State.ensureL2 (s : State) (d line : Nat) : State := if (s.copy? (.die d) line).isSome then s else s.refreshL2 d line

/-- A byte of a copy, read under a key. -/
def Copy.byte (c : Copy) (key : Option Nat) (pa : Nat) : PByte := ⟨openByte c.key key c.at_ pa, c.pois⟩

/-- The youngest write of a byte among packets, oldest first, with the packet's own poison alone (log 109). -/
def youngest (ps : List Packet) (pa : Nat) : Option PByte :=
  ((ps.flatMap (·.bytes)).filter (fun b => b.addr == pa)).getLast?.map (fun b => ⟨b.val, b.pois⟩)

/-! ### Loads (R213, R331) -/

/-- The youngest store-queue entry of the group that writes a byte (R213); of the CMTD entries, the final one of a loop
that has exited forwards (R409; log 36). A forwarded byte has its entry's poison and not that of the sector beneath it,
which R159 does not say: DESIGN CHOICE (log 109). -/
def Group.forward (g : Group) (scratch : Bool) (a : Nat) : Option PByte :=
  let bs := g.sq.flatMap (fun e =>
    match e.op, scratch with
    | .global bs _, false => bs
    | .scratch bs, true => bs
    | .cmtd off v true, true => wordBytes off v
    | _, _ => [])
  (bs.filter (fun b => b.addr == a)).getLast?.map (fun b => ⟨b.val, b.pois⟩)

/-- The value of a global byte at a scope, past the store queue (R331); the copies it needs are in the state. -/
def State.byteAt (s : State) (core : Nat) (scope : Scope) (pa : Nat) : PByte :=
  let mine := fun (l : List Packet) => l.filter (fun p => p.core == core)
  let key := s.keyOfCore core
  let home := s.readUnder key pa
  match scope with
  | .core => ((s.copy? (.core core) (pa / 64)).map (·.byte key pa)).getD home
  | .clu | .die => (youngest (mine s.cfq) pa).getD (((s.copy? (.die (dieOf core)) (pa / 64)).map (·.byte key pa)).getD home)
  | _ => (youngest (mine s.df ++ mine s.cfq) pa).getD home

/-- Bring the copy that a load at a scope reads, if it is absent. -/
def State.ensureFor (s : State) (core : Nat) (scope : Scope) (line : Nat) : State :=
  match scope with
  | .core => s.ensureCV core line
  | .clu | .die => s.ensureL2 (dieOf core) line
  | _ => s

/-- A source before the copies holds the byte: an entry of the group, or at CLU and DIE a packet of the core that has not been
Lifted (R331). -/
def State.beforeCopy (s : State) (g : Group) (scope : Scope) (pa : Nat) : Bool :=
  (g.forward false pa).isSome ||
  (match scope with
   | .clu | .die => (youngest (s.cfq.filter (fun p => p.core == g.core)) pa).isSome
   | _ => false)

/-- A group's load of n global bytes of one line (R331); a copy is brought only where it is the source of some byte. -/
def State.loadGlobal (s : State) (g : Group) (scope : Scope) (pa n : Nat) : List PByte × State :=
  let s := if (List.range n).all (fun i => s.beforeCopy g scope (pa + i)) then s else s.ensureFor g.core scope (pa / 64)
  ((List.range n).map (fun i => (g.forward false (pa + i)).getD (s.byteAt g.core scope (pa + i))), s)

/-- A group's load of n scratchpad bytes. -/
def loadScratch (g : Group) (co : Cohort) (off n : Nat) : List PByte :=
  (List.range n).map (fun i => (g.forward true (off + i)).getD (co.readScratch (off + i)))

/-- Little-endian bytes as a number, with the Merge of their poison. -/
def numOfBytes (bs : List PByte) : Nat := (bs.zipIdx.map (fun (b, i) => b.val.toNat * 2 ^ (8 * i))).sum
def poisOfBytes (bs : List PByte) : Option Tag := mergeAll (bs.map (·.pois))

/-! ### Acquires (R333) -/

def State.refreshAllL2 (s : State) (d : Nat) : State :=
  (s.copies.filter (fun c => c.view == .die d)).foldl (fun s c => s.refreshL2 d c.line) s
def State.refreshAllCV (s : State) (core : Nat) : State :=
  (s.copies.filter (fun c => c.view == .core core)).foldl (fun s c => s.refreshCV core c.line) s

/-- The Refresh steps of an acquire at a scope by a core. -/
def State.acquire (s : State) (core : Nat) (scope : Scope) : State :=
  match scope with
  | .core => s
  | .clu | .die => s.refreshAllCV core
  | _ => (s.refreshAllL2 (dieOf core)).refreshAllCV core

def orderAcquires : Order → Bool | .acq | .ar => true | _ => false
def orderReleases : Order → Bool | .rel | .ar => true | _ => false

/-! ### Store-queue entries (R211, R212) -/

/-- The places that some entries take: the pieces of one beat take one place together (log 20). -/
def placesOf (sq : List SQEntry) : Nat :=
  (sq.foldl (fun acc e => if acc.contains e.place then acc else e.place :: acc) []).length

/-- The places taken of the 64: by every entry but CMTD (R406) and the markers of TRIG and EXIT (R341). -/
def Group.sqCount (g : Group) : Nat :=
  placesOf (g.sq.filter (fun e => match e.op with | .cmtd _ _ _ => false | .trigMarker _ => false | _ => true))
def Group.sqUncommitted (g : Group) : Nat := placesOf (g.sq.filter (fun e => !e.committed))

/-- The iteration that a retire-section entry of a lane is tagged with (R108, R414). -/
def Ctx.retireIter (c : Ctx) (lane : Nat) : Option Word32 :=
  if c.sec = 3 && !c.handler && c.g.loop.isSome then some (c.g.iterOf lane) else none

/-- Lanes by their iteration (log 20): outside a retire section all of them together. -/
def Ctx.byIter (c : Ctx) (ls : List Nat) : List (Option Word32 × List Nat) :=
  let its := ls.foldl (fun acc l => if acc.contains (c.retireIter l) then acc else acc ++ [c.retireIter l]) []
  its.map (fun it => (it, ls.filter (fun l => c.retireIter l == it)))

/-- The beats of a list of lanes: one for each eighth that has some, or one for all of them, its lanes by iteration. -/
def Ctx.beats (c : Ctx) (one : Bool) (lanes : List Nat) : List (List (Option Word32 × List Nat)) :=
  (if one then [c.byIter lanes] else (List.range 8).map (fun e => c.byIter (lanes.filter (fun l => l / 16 == e)))).filter
    (fun b => !b.isEmpty)

/-- Room for n more entries: an overflow of U entries traps, a queue full of C entries waits (R211). -/
def State.withRoom (s : State) (c : Ctx) (lanes : List Nat) (n : Nat) (k : State → Result) : Result :=
  if 64 < c.g.sqUncommitted + n then s.takeTrap c (Trap.plain trapRegionOverflow lanes c.pc)
  else if 64 < c.g.sqCount + n then s.wait
  else k s

/-! ### Drain, Lift and Home (R329, R332) -/

/-- Packets of a group on their way: not yet Lifted, and not yet Homed. -/
def State.unlifted (s : State) (gid : Nat) : List Nat := (s.cfq.filter (fun p => p.gid == gid)).map (·.id)
def State.unhomed (s : State) (gid : Nat) : List Nat :=
  (s.cfq.filter (fun p => p.gid == gid)).map (·.id) ++ (s.df.filter (fun p => p.gid == gid)).map (·.id)

/-- Every packet of the group has been performed at a scope. -/
def State.performedAt (s : State) (gid : Nat) (scope : Scope) : Bool :=
  match scope with
  | .core => true
  | .clu | .die => (s.unlifted gid).isEmpty
  | _ => (s.unhomed gid).isEmpty

/-- The holds that a release at a scope puts on a later packet. -/
def State.holdsFor (s : State) (gid : Nat) (scope : Scope) : List Nat × List Nat :=
  match scope with
  | .core => ([], [])
  | .clu | .die => (s.unlifted gid, [])
  | _ => ([], s.unhomed gid)

/-- The task that a group runs in. -/
def State.tidOf (s : State) (g : Group) : Nat := ((s.cohort? g.cohort).map (·.tid)).getD 0

/-- A packet for each line that bytes touch, put into the cluster's fabric queue; `entry` is the store-queue entry they
leave, or none for an atomic's, whose packet counts as an entry of its own (R334). -/
def State.sendPackets (s : State) (g : Group) (entry : Option Nat) (bytes : List WByte) (holds : List Nat × List Nat) :
    State :=
  (sectorsOf bytes).foldl (fun s line =>
    let (id, s) := s.fresh
    { s with cfq := s.cfq ++ [{ id := id, entry := entry.getD id, core := g.core, gid := g.gid, cohort := g.cohort
                                tid := s.tidOf g, part := g.part, bytes := bytesIn line bytes
                                lifts := g.holdLifts ++ holds.1, homes := g.holdHomes ++ holds.2 }] }) s

/-- Global bytes written into CV(c), with the reservations they clear (R329, R335). -/
def State.writeCV (s : State) (core : Nat) (bytes : List WByte) : State :=
  let s := (sectorsOf bytes).foldl (fun s line =>
    let s := s.ensureCV core line
    match s.copy? (.core core) line with
    | some c => s.setCopy (c.writeUnder (s.keyOfCore core) bytes)
    | none => s) s
  s.clearReservations bytes none (.core core)

/-- One bin increment of a lane of group gid (R250). -/
def State.addBin (s : State) (uid gid table : Nat) (add : Nat × Word32 × Option Tag × Nat) : State :=
  match s.cohort? uid with
  | none => s
  | some c =>
    let off := table + 4 * add.1
    let v := c.scratchWord off + add.2.1
    s.writeScratch uid ((wordBytes off v).map (fun b => { b with pois := add.2.2.1, writer := some (gid, add.2.2.2) }))

/-- The delta's member is still live in this device's record; else no marker waits for it and it is sent nowhere (R376). -/
def State.deltaLive (s : State) (d : Delta) : Bool :=
  (((s.part? d.part).bind (fun p => s.parityRecord? p d.pgid)).map (fun r => bit r.live d.member)).getD true

/-- The delta comes of a write of the group. -/
def Delta.ofGroup (d : Delta) (gid : Nat) : Bool :=
  match d.source with
  | .group g _ _ _ => g == gid
  | _ => false

/-- The delta comes of a store-queue entry of the group that is numbered below `mark`. -/
def Delta.before (d : Delta) (gid mark : Nat) : Bool :=
  match d.source with
  | .group g _ _ (some e) => g == gid && decide (e < mark)
  | _ => false

/-- The condition on which a marker drains (R332, R338, R340, R341, R376). -/
def State.drainable (s : State) (g : Group) (op : EntryOp) : Bool :=
  match op with
  | .teMarker => (s.unhomed g.gid).isEmpty
  | .trigMarker _ => (s.unhomed g.gid).isEmpty
  | .survMarker =>
    (s.unhomed g.gid).isEmpty &&
    s.pq.all (fun d => !d.ofGroup g.gid || !s.deltaLive d)
  | _ => true

/-- What the oldest entry does as it drains; it has left the queue. -/
def State.drainOp (s : State) (g : Group) (entry : Nat) (op : EntryOp) : State :=
  match op with
  | .global bytes rel =>
    let holds := match rel with | some sc => s.holdsFor g.gid sc | none => ([], [])
    (s.writeCV g.core bytes).sendPackets g (some entry) bytes holds
  | .scratch bytes => s.writeScratch g.cohort bytes
  | .ldk moves aw =>
    let (s, bytes) := moves.foldl (fun (acc : State × List WByte) m =>
      let s := acc.1.ensureCV g.core (m.1 / 64)
      let b := s.byteAt g.core .core m.1
      (s, acc.2 ++ [⟨m.2.1, b.val, b.pois, some (g.gid, m.2.2)⟩])) (s, [])
    let s := s.writeScratch g.cohort bytes
    match aw with
    | some off => s.arrive g.cohort off moves.length
    | none => s
  | .bin table adds => adds.foldl (fun s a => s.addBin g.cohort g.gid table a) s
  | .awset off target =>
    s.writeScratch g.cohort (wordBytes off target ++ wordBytes (off + 4) 0 ++ wordBytes (off + 12) 0)
  | .awadd off n => s.arrive g.cohort off n.toNat
  | .relMarker scope =>
    let h := s.holdsFor g.gid scope
    s.onGroup g.gid (fun g => { g with holdLifts := h.1 ++ g.holdLifts.filter (fun i => (s.unlifted g.gid).contains i)
                                       holdHomes := h.2 ++ g.holdHomes.filter (fun i => (s.unhomed g.gid).contains i) })
  | .teMarker => s
  | .survMarker => s
  | .trigMarker lanes => s.onGroup g.gid (fun g => { g with trig := g.trig ||| lanes })
  | .cmtd off value _ => s.writeScratch g.cohort (wordBytes off value)

/-- DRAIN (R329). -/
def execDrain (gid : Nat) (s : State) : Result :=
  match s.group? gid with
  | none => s.done
  | some g =>
    match g.sq with
    | [] => s.done
    | e :: rest =>
      if !e.committed || !s.drainable g e.op then s.done
      else ((s.setGroup { g with sq := rest }).drainOp { g with sq := rest } e.id e.op).done

/-- Two packets write a common byte (R327). -/
def Packet.meets (p q : Packet) : Bool := p.bytes.any (fun b => q.bytes.any (fun c => b.addr == c.addr))

/-- Every packet before `id` in a list meets it nowhere. -/
def firstFor (p : Packet) (l : List Packet) : Bool := (l.takeWhile (fun q => q.id != p.id)).all (fun q => !p.meets q)

/-- The packet is held by a release (R332). -/
def State.isHeld (s : State) (p : Packet) : Bool :=
  s.cfq.any (fun q => p.lifts.contains q.id || p.homes.contains q.id) || s.df.any (fun q => p.homes.contains q.id)

/-- The packets of one cluster's fabric queue. -/
def State.cfqOf (s : State) (k : Nat) : List Packet := s.cfq.filter (fun p => clusterOf p.core == k)

/-- LIFT (R329): p leaves CFQ(k) for DF, in order with the packets that share a byte with it. -/
def execLift (id : Nat) (s : State) : Result :=
  match s.cfq.find? (fun p => p.id == id) with
  | none => s.done
  | some p =>
    if s.isHeld p || !firstFor p (s.cfqOf (clusterOf p.core)) then s.done
    else
      let d := dieOf p.core
      let s := { s with cfq := s.cfq.filter (fun q => q.id != id) }
      let s := (sectorsOf p.bytes).foldl (fun s line =>
        let s := s.ensureL2 d line
        match s.copy? (.die d) line with
        | some c => s.setCopy (c.writeUnder (s.keyOf p.part) p.bytes)
        | none => s) s
      let s := s.clearReservations p.bytes none (.die d)
      { s with df := s.df ++ [p] }.done

/-- HOME (R329): p's bytes are written at DM; a protected write whose deltas do not fit PQ waits (R374). -/
def execHome (id : Nat) (s : State) : Result :=
  match s.df.find? (fun p => p.id == id) with
  | none => s.done
  | some p =>
    if !firstFor p s.df || !s.parityRoom p.part p.bytes then s.done
    else
      ({ s with df := s.df.filter (fun q => q.id != id) }.writeDM p.part p.bytes (.group p.gid p.cohort p.tid (some p.entry))).done

/-- REFRESH (R329). -/
def execRefresh (v : View) (line : Nat) (s : State) : Result :=
  match s.copy? v line with
  | none => s.done
  | some _ => (match v with | .core c => s.refreshCV c line | .die d => s.refreshL2 d line).done

/-- DROP (R329). -/
def execDrop (v : View) (line : Nat) (s : State) : Result := (s.dropCopy v line).done

/-! ### Atomic steps (R334) -/

/-- The bytes of a number, written by a lane. -/
def valueBytes (a n v : Nat) (pois : Option Tag) (writer : Option (Nat × Nat)) : List WByte :=
  (List.range n).map (fun i => ⟨a + i, BitVec.ofNat 8 (v / 2 ^ (8 * i)), pois, writer⟩)

/-- What packets that come later in coherence order write at some bytes, as far as a copy has it: what the view's own packets
write, and what a packet of another core writes that the copy held when it was last refreshed (R327). -/
def Copy.newerIn (c : Copy) (later : List Packet) (own : Packet → Bool) (bytes : List WByte) : List Packet :=
  (later.filter (fun p => own p || c.held.contains p.id)).map (fun p =>
    { p with bytes := p.bytes.filter (fun b => bytes.any (fun x => x.addr == b.addr)) })

/-- Bytes that a partition writes into the copies a view holds, where it holds them; what some packets write at the same
bytes comes later in coherence order and stays (R327). -/
def State.updateCopies (s : State) (v : View) (part : Nat) (bytes : List WByte) (later : List Packet) (own : Packet → Bool) :
    State :=
  { s with copies := s.copies.map (fun c =>
      if c.view == v then s.keep (c.writeUnder (s.keyOf part) bytes) (c.newerIn later own bytes) else c) }

/-- The value at the point of a scope. -/
def State.readPoint (s : State) (core : Nat) (scope : Scope) (pa n : Nat) : List PByte × State :=
  match scope with
  | .core =>
    let s := s.ensureCV core (pa / 64)
    ((List.range n).map (fun i => s.byteAt core .core (pa + i)), s)
  | .clu | .die =>
    let s := s.ensureL2 (dieOf core) (pa / 64)
    let key := s.keyOfCore core
    ((List.range n).map (fun i =>
      ((s.copy? (.die (dieOf core)) (pa / 64)).map (·.byte key (pa + i))).getD (s.readUnder key (pa + i))), s)
  | _ => ((List.range n).map (fun i => s.readUnder (s.keyOfCore core) (pa + i)), s)

/-- A write at the point of a scope: the copies at and inside it, and a packet outward from it (R334). -/
def State.writePoint (s : State) (g : Group) (scope : Scope) (bytes : List WByte) : State :=
  let d := dieOf g.core
  let own := s.cfq.filter (fun p => p.core == g.core)
  let all := fun (_ : Packet) => true
  match scope with
  | .core => (s.writeCV g.core bytes).sendPackets g none bytes ([], [])
  | .clu | .die =>
    let s := (s.updateCopies (.die d) g.part bytes [] all).updateCopies (.core g.core) g.part bytes own all
    let s := (s.clearReservations bytes none (.core g.core)).clearReservations bytes none (.die d)
    let (id, s) := s.fresh
    { s with df := s.df ++ [{ id := id, entry := id, core := g.core, gid := g.gid, cohort := g.cohort, tid := s.tidOf g
                              part := g.part, bytes := bytes, lifts := [], homes := [] }] }
  | _ =>
    let onDie := s.df.filter (fun p => dieOf p.core == d)
    let s := (s.updateCopies (.die d) g.part bytes onDie all).updateCopies (.core g.core) g.part bytes (onDie ++ own)
      (fun p => p.core == g.core)
    let s := (s.clearReservations bytes none (.core g.core)).clearReservations bytes none (.die d)
    s.writeDM g.part bytes (.group g.gid g.cohort (s.tidOf g) none)

/-! ### Range locks (R220, R252, R253) -/

/-- The lock meets [a, a + n), at 128-byte granularity. -/
def Lock.meets (l : Lock) (a n : Nat) : Bool :=
  decide (l.base < (a + n + 127) / 128 * 128) && decide (a / 128 * 128 < l.base + l.len)

/-- The cluster a command is queued in. -/
def Cmd.cluster (c : Cmd) : Nat := clusterOf c.core

/-- The cohorts of the issuing task on the cores that CMASK names; none for a core that does not hold exactly one (R245). Killed and
exited ones do not count (log 116). -/
def State.mcastTargets (s : State) (c : Cmd) : List (Option Nat) :=
  ((List.range 4).filter (fun j => bit c.cmask j)).map (fun j =>
    match s.cohorts.filter (fun co =>
        co.core == 4 * c.cluster + j && (s.taskOf c.part c.tid c.cohort).any (·.placed co.uid) && !co.killed && !co.exited) with
    | [co] => some co.uid
    | _ => none)

/-- The cohorts that receive a command's scratchpad bytes and its counts. -/
def State.receivers (s : State) (c : Cmd) : List Nat :=
  if !c.mcast then [c.cohort] else if c.state = .active then c.targets else (s.mcastTargets c).filterMap id

/-- The cohort whose allotment a scratchpad lock lies in: the one on its core that the command reads or writes (R252 names a core;
log 39). -/
def State.lockOwner (s : State) (cl : Cluster) (l : Lock) : Option Nat :=
  match cl.eq.find? (fun c => c.slot == l.cmd) with
  | some c => (s.receivers c ++ [c.cohort]).find? (fun u => ((s.cohort? u).map (·.core)) == some l.core)
  | none => none

/-- A thread access conflicts with a lock: a read with a write lock, a write with any. -/
def State.lockHit (s : State) (g : Group) (write scratch : Bool) (a n : Nat) : Bool :=
  let cl := s.cluster (clusterOf g.core)
  cl.rlt.any (fun l =>
    l.scratch == scratch && (write || l.write) && l.meets a n &&
    (if scratch then l.core == g.core && s.lockOwner cl l == some g.cohort else l.asid == g.ctl.asid))

/-! ### The checks of an access (R217) -/

/-- The space of an access. -/
inductive Space
  | global | scratch | ws
  deriving DecidableEq, Repr

/-- One memory operand: its lanes' addresses before translation, with the b register they come through and the offset
beyond its base. -/
structure Operand where
  space : Space
  size : Nat
  write : Bool
  /-- lane, address, offset from the b base, poison of base and offset -/
  lanes : List (Nat × Nat × Nat × Option Tag)
  base : Option BReg
  locks : Bool

/-- The lowest of some lanes with its address. -/
def Operand.addrOf (o : Operand) (lanes : List Nat) : Nat :=
  ((o.lanes.find? (fun x => lanes.contains x.1)).map (·.2.1)).getD 0

def Operand.trap (o : Operand) (c : Ctx) (cause : Nat) (lanes : List Nat) : Trap :=
  (Trap.plain cause lanes c.pc).withAddr (o.addrOf lanes) o.write

/-- The lanes of an operand that meet a condition on their address. -/
def Operand.which (o : Operand) (p : Nat → Bool) : List Nat := (o.lanes.filter (fun x => p x.2.1)).map (·.1)

/-- The translation of one lane: through the b register, or through the TLBs (R198). -/
def State.translateLane (s : State) (c : Ctx) (o : Operand) (x : Nat × Nat × Nat × Option Tag) : TransAcc × State :=
  let viaB :=
    match o.base with
    | some b => b.asid == c.g.ctl.asid && decide (x.2.2.1 + o.size ≤ b.limit.toNat) && (b.w || !o.write)
    | none => false
  match o.base, viaB with
  | some b, true => (.ok (b.frame.toNat + x.2.2.1), s)
  | _, _ =>
    let r := s.translate c.p c.g.core c.g.ctl.asid x.2.1
    (r.1.forAcc (if o.write then .write else .read), r.2)

/-- The translations of all lanes, in lane order. -/
structure TransLanes where
  st : State
  ok : List Access
  faults : List (Nat × Nat × Bool)
  bad : Bool

def State.translateLanes (s : State) (c : Ctx) (o : Operand) : TransLanes :=
  o.lanes.foldl (fun acc x =>
    let r := acc.st.translateLane c o x
    match r.1 with
    | .ok pa => { acc with st := r.2, ok := acc.ok ++ [{ lane := x.1, va := x.2.1, pa := pa }] }
    | .fault perm => { acc with st := r.2, faults := acc.faults ++ [(x.1, x.2.1, perm)] }
    | .malformed => { acc with st := r.2, bad := true }) ⟨s, [], [], false⟩

/-- PAGE_FAULT of some lanes (R201): the slices with no faulting lane form their own path at the instruction; the rest
vector, or are held while the frame is busy. A fault inside the heap window fails the task (R379). -/
def State.pageFault (s : State) (c : Ctx) (faults : List (Nat × Nat × Bool)) (write : Bool) : Result :=
  let lanes := faults.map (·.1)
  let first := faults.head?.getD (0, 0, false)
  if faults.any (fun f => c.p.inHeap f.2.1) then (s.failTask c.p.id c.co.tid 6).done
  else
    let bad := vectoring c.slices lanes
    let good := c.slices.filter (fun i => !bad.contains i)
    let g := if good.isEmpty then c.g else ((c.g.asPath good).asPath bad).endTurn
    let s' := s.setGroup g
    let t : Trap := { (Trap.plain trapPageFault lanes c.pc).withAddr first.2.1 write with perm := first.2.2 }
    s'.takeTrap { c with g := g, slices := bad, head := g.sliceAt (bad.head?.getD 0) } t

/-- The checks of R217 on one operand, in their order, and then the rest of the instruction with the translated
accesses. -/
def State.checkOperand (s : State) (c : Ctx) (o : Operand) (k : State → List Access → Result) : Result :=
  let far := o.which (fun a => decide (2 ^ 57 ≤ a))
  let odd := o.which (fun a => a % o.size != 0)
  let out := o.which (fun a => decide ((if o.write then c.scratchBelow else c.scratchSize) < a + o.size))
  let outWs := o.which (fun a => decide (c.p.wsSize < a + o.size))
  if o.lanes.any (fun x => x.2.2.2.isSome) then s.poisonKill c
  else if o.space = .global && !far.isEmpty then s.takeTrap c (o.trap c trapAddrRange far)
  else if !odd.isEmpty then s.takeTrap c (o.trap c trapMisaligned odd)
  else if o.space = .scratch && !out.isEmpty then s.takeTrap c (o.trap c trapScratchRange out)
  else if o.space = .ws && !outWs.isEmpty then s.takeTrap c (o.trap c trapWsRange outWs)
  else if (o.base.map (·.valid)).getD true = false && !o.lanes.isEmpty then
    s.takeTrap c (o.trap c trapBadBase (o.lanes.map (·.1)))
  else
    let locked := fun (accs : List Access) =>
      accs.filter (fun a => o.locks && s.lockHit c.g o.write (o.space == .scratch) a.va o.size)
    let finish := fun (s : State) (accs : List Access) =>
      let hits := (locked accs).map (·.lane)
      if !hits.isEmpty then s.takeTrap c (o.trap c trapRangeLock hits) else k s accs
    if o.space = .global then
      let r := s.translateLanes c o
      if r.bad then (s.failTask c.p.id c.co.tid 6).done
      else if !r.faults.isEmpty then r.st.pageFault c r.faults o.write
      else finish r.st r.ok
    else finish s (o.lanes.map (fun x => { lane := x.1, va := x.2.1, pa := x.2.1 }))

/-! ### Operands of format FM (R217) -/

/-- The memory operand of an FM word for some lanes; `ioff` is 0 where MOD[5:0] holds an operation. -/
def FmOperand (c : Ctx) (s : State) (w : FM) (ioff : Nat) (write locks : Bool) (lanes : List Nat) : Operand :=
  let size := w.size.bytes
  let space : Space := if w.space then .scratch else .global
  let disp := ioff * size
  let base := match w.sa with | .reg (.b n) _ => some (c.g.bReg n.toNat) | _ => none
  let addr := fun (l : Nat) =>
    let off := c.read s w.sb false l
    match base with
    | some b => (l, b.vbase.toNat + off.1.toNat + disp, off.1.toNat + disp, off.2)
    | none =>
      let b := c.uniform s w.sa
      let sum := b.1.toNat + off.1.toNat + disp
      (l, sum % 2 ^ (if w.space then 32 else 64), 0, mergePois (if w.space then (c.read s w.sa false 0).2 else b.2) off.2)
  { space := space, size := size, write := write, lanes := lanes.map addr, base := base, locks := locks }

end Sys2Proof.Machine
end

