-- ==== Sys2Proof/Machine/Engines.lean ====
section
/-!
DEFINITION. The engine domain: hulls and range locks of commands (R252 to R254, R263), the life of a command (R241),
moves at homes (R264, R336), reductions (R256, R257), peer transfers at both ends (R255, R258), ordered sets (R256,
R422), parity (R339, R374 to R376) and REBUILD's chunks (R377).
-/

namespace Sys2Proof.Machine

/-! ### Commands in their queues -/

/-- Messages put on the links (R255, R374, R377). -/
def State.links (s : State) (ms : List LinkMsg) : State := { s with linkOut := s.linkOut ++ ms }

def State.cmd? (s : State) (k slot : Nat) : Option Cmd := (s.cluster k).eq.find? (fun c => c.slot == slot)

/-- Change the command in a slot. -/
def State.onCmd (s : State) (k slot : Nat) (f : Cmd → Cmd) : State :=
  s.onCluster k (fun cl => { cl with eq := cl.eq.map (fun c => if c.slot = slot then f c else c) })

/-- Every command of the device. -/
def State.allCmds (s : State) : List Cmd := s.clusters.flatMap (fun (_, cl) => cl.eq)

/-- The command with a hold number in a cohort (R267). -/
def State.heldCmd? (s : State) (uid h : Nat) : Option Cmd :=
  s.allCmds.find? (fun c => c.cohort == uid && c.hnum == some h)

/-- An event noted for a command's issuer: for a resumed continuation's, its task (R396). -/
def State.noteCmd (s : State) (c : Cmd) (x : Chkiv) : State :=
  if c.resumed then s.noteExited c.cohort c.part c.tid x else s.noteCohort c.cohort c.part c.tid x

/-! ### Hulls (R263) -/

/-- What a command's side covers: side 0 destination, 1 source, 2 index list; space 0 global, 1 scratchpad, 2 weight
store, 3 peer memory. -/
structure Hull where
  side : Nat
  space : Nat
  base : Nat
  len : Nat
  deriving DecidableEq, Repr

def span (rows pitch len : Nat) : Nat := if rows = 0 then 0 else (rows - 1) * pitch + len

def Cmd.indexed (c : Cmd) : Bool := c.kind == .cpyg || c.kind == .cpys

/-- The bytes of a stripe unit (R373). -/
def stripeUnit : Nat := 2 ^ 17

def Cmd.hulls (c : Cmd) : List Hull :=
  if c.kind = .rebuild then [⟨0, 0, c.dst.toNat, c.len⟩, ⟨1, 0, c.src.toNat + c.fsu * stripeUnit, c.len⟩]
  else if c.rows = 0 ∨ c.len = 0 then []
  else
    [⟨0, if c.peer then 3 else c.dsp, c.dst.toNat, span (if c.kind = .cpys then c.idxmax else c.rows) c.dpitch c.len⟩,
     ⟨1, c.ssp, c.src.toNat, span (if c.kind = .cpyg then c.idxmax else c.rows) c.spitch c.len⟩] ++
    (if c.indexed then [⟨2, 1, c.idxoff, 4 * c.rows⟩] else [])

/-- The element size of a reduction type (R256). -/
def elemSize (rty : Nat) : Nat := if rty = 1 then 2 else 4

def Hull.meets (a b : Hull) : Bool :=
  a.space == b.space && decide (0 < a.len) && decide (0 < b.len) && decide (a.base < b.base + b.len) &&
  decide (b.base < a.base + a.len)

/-- The first of codes 2 to 8 that fails, in a partition and a scratchpad of some bytes with `below` of them below the
landing slots (R263). -/
def Cmd.code (c : Cmd) (p : Part) (scratch below : Nat) : Option Nat :=
  let hs := c.hulls
  let dst := hs.filter (fun h => h.side == 0)
  let others := hs.filter (fun h => h.side != 0)
  let global := fun (h : Hull) => h.space == 0 || h.space == 3
  let rows := if c.kind = .cpys then c.idxmax else c.rows
  let e := elemSize c.rty
  let odd := [c.len, c.dpitch, c.spitch, c.dst.toNat, c.src.toNat].any (fun x => x % e != 0)
  ([(2, c.aw.any (fun a => a % 16 != 0 || decide (scratch < a + 16))),
    (3, hs.any (fun h => decide ((if c.kind = .rebuild then 2 ^ 33 else 2 ^ 31) < h.len) ||
      (global h && decide (2 ^ 57 < h.base + max 1 h.len)))),
    (4, hs.any (fun h => h.space == 1 && decide ((if h.side = 0 then below else scratch) < h.base + h.len)) ||
      (c.indexed && !hs.isEmpty && c.idxoff % 4 != 0)),
    (5, hs.any (fun h => h.space == 2 && decide (p.wsSize < h.base + h.len))),
    (6, !hs.isEmpty && decide (1 < rows) && decide (c.dpitch < c.len)),
    (7, dst.any (fun d => others.any (fun o => d.meets o))),
    (8, !hs.isEmpty && ((c.indexed && c.idxmax == 0) ||
      (c.kind == .cpyr && ((c.ord && (c.nmem == 0 || decide (16 < c.nmem) || decide (c.nmem ≤ c.rank))) || odd))))
   ].find? (fun x => x.2)).map (·.1)

/-! ### Range locks (R252 to R254) -/

/-- The cores of the cluster that CMASK names. -/
def Cmd.named (c : Cmd) : List Nat := ((List.range 4).filter (fun j => bit c.cmask j)).map (fun j => 4 * c.cluster + j)

/-- A core that the command names receives nothing (R245). -/
def Cmd.missesCore (c : Cmd) : Bool := c.mcast && c.targets.length != c.named.length

/-- A range widened outward to 128-byte boundaries as a lock of a command (R253). -/
def Cmd.lockOn (c : Cmd) (seq : Nat) (core : Nat) (h : Hull) : Lock :=
  let lo := h.base / 128 * 128
  { write := h.side == 0, scratch := h.space == 1, core := core, asid := c.asid, base := lo
    len := (h.base + h.len + 127) / 128 * 128 - lo, cmd := c.slot, seq := seq }

/-- The K lowest-numbered live members other than TGT, by this device's record. -/
def PRec.sources (r : PRec) (tgt : Nat) : List Nat :=
  ((List.range (r.k + r.m)).filter (fun i => i != tgt && bit r.live i)).take r.k

/-- This device's own instance is one that the command reads: a REBUILD reads it only as a source member (R377). -/
def State.readsHere (s : State) (c : Cmd) : Bool :=
  c.kind != .rebuild ||
  (((s.part? c.part).bind (fun p => s.parityRecord? p c.pgid)).map (fun r => (r.sources c.tgt).contains r.self)).getD true

/-- The locks a command registers: one for each range, and for each core named under MCAST; none in the weight store or
in peer memory. -/
def State.locksOf (s : State) (c : Cmd) (seq : Nat) : List Lock :=
  (c.hulls.filter (fun h => decide (h.space < 2) && decide (0 < h.len) && (h.side != 1 || s.readsHere c))).flatMap (fun h =>
    if h.space = 1 && h.side == 0 && c.mcast then c.named.map (fun k => c.lockOn seq k h)
    else [c.lockOn seq c.core h])

/-- The lock table has room for a command (R240, R268). -/
def State.locksFit (s : State) (c : Cmd) : Bool :=
  decide ((s.cluster c.cluster).rlt.length + (s.locksOf c 0).length ≤ 64)

/-- A command registers its locks, behind those registered before, and becomes QUEUED. -/
def State.queueCmd (s : State) (c : Cmd) : State :=
  let cl := s.cluster c.cluster
  let c' := { c with state := .queued, order := cl.nextOrder }
  s.setCluster c.cluster
    { cl with rlt := cl.rlt ++ s.locksOf c cl.nextSeq, nextSeq := (cl.nextSeq + 1) % 2 ^ 16, nextOrder := cl.nextOrder + 1
              eq := cl.eq.map (fun x => if x.slot = c.slot then c' else x) }

/-- Two locks of a cluster meet: in the addresses of one ASID, or in the allotment of one cohort (R252; log 39). -/
def State.overlap (s : State) (cl : Cluster) (a b : Lock) : Bool :=
  a.scratch == b.scratch &&
  (if a.scratch then a.core == b.core && s.lockOwner cl a == s.lockOwner cl b else a.asid == b.asid) &&
  decide (a.base < b.base + b.len) && decide (b.base < a.base + a.len)

/-- No conflict with an entry registered earlier stands (R254); the table is in registration order. -/
def State.unlocked (s : State) (c : Cmd) : Bool :=
  let cl := s.cluster c.cluster
  cl.rlt.zipIdx.all (fun (l, i) => l.cmd != c.slot ||
    (cl.rlt.take i).all (fun e => e.cmd == c.slot || !(s.overlap cl l e && (l.write || e.write))))

/-! ### The end of a command (R241, R247, R249, R266) -/

def State.clearLocks (s : State) (c : Cmd) : State :=
  s.onCluster c.cluster (fun cl => { cl with rlt := cl.rlt.filter (fun l => l.cmd != c.slot) })

/-- Arrive and Fail on the command's arrival word, in each receiving cohort (R245, R247). -/
def State.cmdArrive (s : State) (c : Cmd) (n : Nat) : State :=
  match c.aw with
  | some off => (s.receivers c).foldl (fun s u => s.arrive u off n) s
  | none => s
def State.cmdFail (s : State) (c : Cmd) (f : FailKind) : State :=
  match c.aw with
  | some off => (s.receivers c).foldl (fun s u => s.failWord u off f) s
  | none => s

/-- The command leaves its queue: the decrement of NOTIFY, and after it CPYH's interrupt (R249, R266). -/
def State.retireCmd (s : State) (c : Cmd) : State :=
  let s := s.clearLocks c
  let s := s.onCluster c.cluster (fun cl => { cl with eq := cl.eq.filter (fun x => x.slot != c.slot) })
  let vec := if c.kind = .cpyh then some c.vec else none
  if c.notify = 0 then (match vec with | some v => s.sendMsi c.part v | none => s)
  else s.sendDecrementThen c.part c.ntid vec

/-- An ERR end: locks cleared, Fail, notify (R241, R247, R417). -/
def State.endErr (s : State) (c : Cmd) (f : FailKind) : State := ((s.clearLocks c).cmdFail c f).retireCmd c

/-- A running command is to end with ERR; its first reason stands. -/
def State.failCmd (s : State) (c : Cmd) (f : FailKind) : State :=
  s.onCmd c.cluster c.slot (fun x => if x.uid = c.uid && x.err.isNone then { x with err := some f } else x)

/-- An engine-side translation fault: a record, ENGFLT, and Fail(NACK) to come; a malformed entry fails the issuing task
too, where it still stands (R193, R264). -/
def State.engineFault (s : State) (c : Cmd) (addr : Nat) (malformed : Bool) : State :=
  let s := s.logOnly (dieOf c.core) 0x0B 1 c.part c.tid 0 addr
  let s := (s.noteCmd c { Chkiv.clear with engflt := true }).failCmd c .nack
  if malformed && (s.taskOf c.part c.tid c.cohort).isSome then s.failTask c.part c.tid 6 else s

/-- A peer refused, or did not answer: REMOTE, the initiator's own record, and Fail (R258, R401). -/
def State.remoteFault (s : State) (c : Cmd) (f : FailKind) : State :=
  let type : BitVec 8 := match f with | .nack => 0x09 | .tout => 0x08
  let s := s.logOnly (dieOf c.core) type 4 c.part c.tid (if c.peer then Config.portOf c.prank else 0) c.dst.toNat
  (s.noteCmd c { Chkiv.clear with remote := true }).failCmd c f

/-- The issuing cohort has exited, the partition is being destroyed, or a kill has left a HELD command that nothing can
release; a kill leaves a QUEUED one to run (R240, R241). -/
def State.issuerGone (s : State) (c : Cmd) : Bool :=
  s.leaving c.part || c.orphan ||
  (c.state == .held && ((s.cohort? c.cohort).map (·.killed)).getD true)

/-- No chunk of the command is still to be performed, acknowledged or counted (R249). -/
def Cmd.settled (c : Cmd) : Bool := c.done.isEmpty && c.sent.isEmpty && c.waits.isEmpty

/-- EEND (R241): the end of a command whose last byte is performed, that has failed, or whose issuer is gone (log 90). A multicast
that missed a named core ends with ERR (R245), and the kind of its Fail, which no rule names, is NACK: DESIGN CHOICE (log 90). -/
def execEend (k slot : Nat) (s : State) : Result :=
  match s.cmd? k slot with
  | none => s.done
  | some c =>
    match c.state, c.err with
    | .active, some f => if c.settled then (s.endErr c f).done else s.done
    | .active, none =>
      if c.moved = c.len * c.rows && c.settled then (if c.missesCore then s.endErr c .nack else s.retireCmd c).done
      else s.done
    | _, _ => if s.issuerGone c then (s.endErr c .nack).done else s.done

/-! ### Activation (R241, R242, R254, R264) -/

/-- The oldest QUEUED command of its cohort in its cluster. -/
def Cluster.isHead (cl : Cluster) (c : Cmd) : Bool :=
  cl.eq.all (fun x => !(x.cohort == c.cohort && x.state == .queued && decide (x.order < c.order)))

/-- The index list at its home. -/
def State.indexList (s : State) (c : Cmd) : List Nat :=
  match s.cohort? c.cohort with
  | some co => (List.range c.rows).map (fun i => (co.scratchWord (c.idxoff + 4 * i)).toNat)
  | none => []

/-- EACTIVATE (R241): the command becomes ACTIVE and reads its index list (R264). The cohorts that a multicast writes to are those
that R245 names at this step, without the killed and the exited ones; R245 names no time: DESIGN CHOICE (log 116). -/
def execActivate (k slot : Nat) (s : State) : Result :=
  match s.cmd? k slot with
  | none => s.done
  | some c =>
    if c.state != .queued || s.issuerGone c || !(s.cluster k).isHead c || !s.unlocked c then s.done
    else
      let idx := if c.indexed && c.len != 0 then s.indexList c else []
      let bad := idx.any (fun i => decide (c.idxmax ≤ i))
      let to_ := (s.mcastTargets c).filterMap id
      (s.onCmd k slot (fun c =>
        { c with state := .active, idx := idx, targets := if c.mcast then to_ else []
                 err := if bad then some .nack else c.err })).done

/-! ### Chunks (R52, R247, R264) -/

/-- Where row i of a command goes, and where it comes from (R264). -/
def Cmd.rowDst (c : Cmd) (i : Nat) : Nat := c.dst.toNat + (if c.kind = .cpys then c.idx.getD i 0 else i) * c.dpitch
def Cmd.rowSrc (c : Cmd) (i : Nat) : Nat := c.src.toNat + (if c.kind = .cpyg then c.idx.getD i 0 else i) * c.spitch

/-- The destination and source addresses of the next byte. -/
def Cmd.nextAddr (c : Cmd) : Nat × Nat :=
  let i := c.moved / c.len
  (c.rowDst i + c.moved % c.len, c.rowSrc i + c.moved % c.len)

/-- The bytes of the next chunk: at most the rest of the row and of the 4 KiB of the byte stream (R52), ending there or at a
sector boundary of the destination (log 16). -/
def Cmd.chunkSize (c : Cmd) (bytes : Nat) : Nat :=
  let d := c.nextAddr.1
  let left := min (c.len - c.moved % c.len) (4096 - c.moved % 4096)
  let want := min (max bytes 1) left
  if want = left then left
  else if d < (d + want) / 64 * 64 then (d + want) / 64 * 64 - d
  else min left (64 - d % 64)

/-- A translation by an engine. -/
def State.engXlat (s : State) (p : Part) (asid : BitVec 8) (va : Nat) (kind : AccKind) : TransAcc :=
  (s.translateWalk p asid va).forAcc kind

/-- The pieces of [d, d + n), one for each 64-byte sector: offset and length. -/
def sectorPieces (d n : Nat) : List (Nat × Nat) :=
  if n = 0 then []
  else (List.range ((d + n - 1) / 64 - d / 64 + 1)).map (fun i =>
    let lo := max d (64 * (d / 64 + i))
    (lo - d, min (d + n) (64 * (d / 64 + i) + 64) - lo))

/-- The rows with bytes in a sector of the destination, ascending. -/
def Cmd.rowsIn (c : Cmd) (sec : Nat) : List Nat :=
  (List.range c.rows).filter (fun i => decide (c.rowDst i < 64 * sec + 64) && decide (64 * sec < c.rowDst i + c.len))

/-- The byte of the stream that reaches a sector of the destination first. -/
def Cmd.firstIn (c : Cmd) (sec : Nat) : Nat :=
  match (c.rowsIn sec).head? with
  | some i => i * c.len + (64 * sec - c.rowDst i)
  | none => 0

/-- The bytes of a sector that a command writes, each with the source address of the last row that has it (R264). -/
def Cmd.sectorMoves (c : Cmd) (sec : Nat) : List (Nat × Nat) :=
  let rows := (c.rowsIn sec).reverse
  (List.range 64).filterMap (fun o =>
    let a := 64 * sec + o
    (rows.find? (fun i => decide (c.rowDst i ≤ a) && decide (a < c.rowDst i + c.len))).map (fun i =>
      (a, c.rowSrc i + (a - c.rowDst i))))

/-- The sectors of this device that a chunk of n bytes writes: those it reaches first. Rows that share a sector write it in one
step, so that no other cluster's bytes come between them (R254). -/
def Cmd.chunkSectors (c : Cmd) (n : Nat) : List Nat :=
  let d := c.nextAddr.1
  ((sectorPieces d n).map (fun x => (d + x.1) / 64)).filter (fun sec => decide (c.moved ≤ c.firstIn sec))

/-- What a chunk writes: destination and source address of each byte. -/
def Cmd.chunkMoves (c : Cmd) (n : Nat) : List (Nat × Nat) := (c.chunkSectors n).flatMap c.sectorMoves

/-- Bytes in address order as runs without a gap. -/
def byteRuns : List (Nat × PByte) → List (Nat × List PByte)
  | [] => []
  | (a, b) :: rest =>
    match byteRuns rest with
    | (a', bs) :: more => if a' = a + 1 then (a, b :: bs) :: more else (a, [b]) :: (a', bs) :: more
    | [] => [(a, [b])]

/-- A source byte at its home, if it translates. -/
def State.sourceByte (s : State) (p : Part) (c : Cmd) (a : Nat) : Option PByte :=
  if c.ssp = 1 then some (((s.cohort? c.cohort).map (·.readScratch a)).getD ⟨0, none⟩)
  else
    match s.engXlat p c.asid a .read with
    | .ok pa => some (s.readAs p.id pa)
    | _ => none

/-- What a chunk reads: for each destination sector its offset and its bytes, if they all translate. -/
def State.gather (s : State) (p : Part) (c : Cmd) (d src n : Nat) : List (Nat × Option (List PByte)) :=
  (sectorPieces d n).map (fun (off, k) => (off, (List.range k).mapM (fun i => s.sourceByte p c (src + off + i))))

/-- What a chunk reads to write its sectors: for each its bytes, if they all translate. -/
def State.gatherSectors (s : State) (p : Part) (c : Cmd) (n : Nat) : List (Option (List (Nat × PByte))) :=
  (c.chunkSectors n).map (fun sec => (c.sectorMoves sec).mapM (fun x => (s.sourceByte p c x.2).map (fun b => (x.1, b))))

/-- Some source address has a malformed entry. -/
def State.sourceMalformed (s : State) (p : Part) (c : Cmd) (srcs : List Nat) : Bool :=
  c.ssp != 1 && srcs.any (fun a => s.engXlat p c.asid a .read == .malformed)

/-! ### Reductions (R256, R257) -/

def reduceValue (rty a b : Nat) : Nat :=
  let m : FMods := ⟨.rne, false, false, false, false, false⟩
  if rty = 0 then fAdd fmtF32 m 0 a b else if rty = 1 then fAdd fmtBF16 m 0 a b else (a + b) % 2 ^ 32

/-- Destination bytes combined with source bytes, element by element. -/
def reduceBytes (rty : Nat) (old new : List PByte) : List PByte :=
  let e := elemSize rty
  (List.range (new.length / e)).flatMap (fun i =>
    let a := (old.drop (e * i)).take e
    let b := (new.drop (e * i)).take e
    let v := reduceValue rty (numOfBytes a) (numOfBytes b)
    let t := mergePois (poisOfBytes a) (poisOfBytes b)
    (List.range e).map (fun j => ⟨BitVec.ofNat 8 (v / 2 ^ (8 * j)), t⟩))

/-! ### Writes at homes (R336) -/

/-- Where an engine writes: global memory of an ASID, a cohort's scratchpad, or the weight store. -/
inductive Dest
  | global (asid : BitVec 8)
  | scratch (uid : Nat)
  | ws
  deriving DecidableEq, Repr

/-- What writing pieces did. -/
structure Put where
  st : State
  fault : Option Nat
  malformed : Bool

/-- Bytes with their poison from an address on, written by no lane. -/
def wbytesAt (a : Nat) (bs : List PByte) : List WByte := bs.zipIdx.map (fun (b, i) => ⟨a + i, b.val, b.pois, none⟩)

/-- One piece, within a sector, written or combined at its home. -/
def Put.piece (r : Put) (p : Part) (dest : Dest) (red : Option Nat) (src : DeltaSource) (a : Nat) (bs : List PByte) : Put :=
  let final := fun (old : List PByte) => match red with | some rty => reduceBytes rty old bs | none => bs
  match dest with
  | .scratch uid =>
    let old := ((r.st.cohort? uid).map (fun co => co.readScratchBytes a bs.length)).getD []
    { r with st := r.st.writeScratch uid (wbytesAt a (final old)) }
  | .ws => { r with st := r.st.writeWs ((bs.zipIdx).map (fun (b, i) => ⟨p.wsByte (a + i), b.val, b.pois, none⟩)) }
  | .global asid =>
    match r.st.engXlat p asid a .write with
    | .ok pa => { r with st := r.st.writeDM p.id (wbytesAt pa (final (r.st.readBytesAs p.id pa bs.length))) src }
    | .fault _ => { r with fault := some (r.fault.getD a) }
    | .malformed => { r with fault := some (r.fault.getD a), malformed := true }

/-- The pieces of a chunk at d, in order. -/
def State.putPieces (s : State) (p : Part) (dest : Dest) (red : Option Nat) (src : DeltaSource) (d : Nat)
    (pieces : List (Nat × List PByte)) : Put :=
  pieces.foldl (fun r x => r.piece p dest red src (d + x.1) x.2) ⟨s, none, false⟩

/-- The deltas that writing some bytes would form have room in PQ (R374). -/
def State.putRoom (s : State) (p : Part) (addrs : List Nat) (dest : Dest) : Bool :=
  match dest with
  | .global asid =>
    p.prot.isEmpty || s.parityRoom p.id (addrs.filterMap (fun a =>
      match s.engXlat p asid a .write with
      | .ok pa => some (⟨pa, 0, none, none⟩ : WByte)
      | _ => none))
  | _ => true

/-- The addresses of [d, d + n). -/
def addrRange (d n : Nat) : List Nat := (List.range n).map (d + ·)

/-! ### Ordered sets (R256, R422) -/

def State.set? (s : State) (num : Nat) : Option RSet := s.rsets.find? (fun r => r.num == num)

/-- Join or open the set that an ordered chunk names; none when its count of members disagrees. -/
def State.joinSet (s : State) (part : Nat) (space : Option Nat) (setId members rank total : Nat) : Option (Nat × State) :=
  match s.rsets.find? (fun r => r.part == part && r.space == space && r.setId == setId && !r.freed) with
  | some r =>
    if r.members != members then none
    else
      some (r.num, { s with rsets := s.rsets.map (fun x =>
        if x.num = r.num && !(x.totals.any (fun t => t.1 == rank)) then { x with totals := x.totals ++ [(rank, total)] } else x) })
  | none =>
    let (num, s) := s.fresh
    some (num, { s with rsets := s.rsets ++
      [{ num := num, part := part, space := space, setId := setId, members := members, totals := [(rank, total)], applied := [],
         gone := [], freed := false }] })

/-- Ranges of one rank cover [a, a + n). -/
def covered (rs : List (Nat × Nat × Nat)) (rank a n : Nat) : Bool :=
  (List.range n).all (fun i => rs.any (fun (r, b, len) => r == rank && decide (b ≤ a + i) && decide (a + i < b + len)))

/-- Every member of lower rank has applied its chunk there, or it timed out. -/
def RSet.turnOf (r : RSet) (rank a n : Nat) : Bool :=
  (List.range rank).all (fun k => covered (r.applied ++ r.gone) k a n)

/-- All members have applied all their chunks. -/
def RSet.complete (r : RSet) : Bool :=
  (List.range r.members).all (fun k =>
    match r.totals.find? (fun t => t.1 == k) with
    | some (_, total) => decide (total ≤ ((r.applied.filter (fun x => x.1 == k)).map (·.2.2)).sum)
    | none => false)

/-- Sets that are complete, or that a timeout has ended and no received chunk is left of, go. -/
def State.sweepSets (s : State) : State :=
  { s with rsets := s.rsets.filter (fun r => !(r.complete || (r.freed && !s.opens.any (fun o => o.set == some r.num)))) }

def State.markSet (s : State) (num : Option Nat) (f : RSet → RSet) : State :=
  { s with rsets := s.rsets.map (fun r => if some r.num = num then f r else r) }

/-! ### Chunks at a destination controller here -/

def chunkRty? : ChunkKind → Option Nat
  | .reduce t => some t
  | .ordered t _ _ _ _ => some t
  | _ => none

def chunkRank : ChunkKind → Nat
  | .ordered _ _ _ r _ => r
  | _ => 0

def OpenChunk.dest (o : OpenChunk) : Dest := match o.space with | some u => .scratch u | none => .global o.asid
def OpenChunk.source (o : OpenChunk) : DeltaSource :=
  match o.origin with | some (u, n) => .command u n | none => .peer o.id

/-- The received byte at an offset. -/
def OpenChunk.byte? (o : OpenChunk) (off : Nat) : Option PByte := (o.got.find? (fun g => g.1 == off)).map (·.2)
/-- A piece of the chunk, once all its bytes are here. -/
def OpenChunk.piece? (o : OpenChunk) (x : Nat × Nat) : Option (List PByte) := (List.range x.2).mapM (fun i => o.byte? (x.1 + i))
def OpenChunk.full (o : OpenChunk) : Bool := (List.range o.len).all (fun i => (o.byte? i).isSome)

/-- The pieces that are complete, with their bytes. -/
def OpenChunk.pieces (o : OpenChunk) : List (Nat × List PByte) :=
  (sectorPieces o.va o.len).filterMap (fun x => (o.piece? x).map (fun bs => (x.1, bs)))

def State.dropOpen (s : State) (id : Nat) : State := { s with opens := s.opens.filter (fun o => o.id != id) }
def State.onOpen (s : State) (id : Nat) (f : OpenChunk → OpenChunk) : State :=
  { s with opens := s.opens.map (fun o => if o.id = id then f o else o) }

/-- A delta that a chunk's write formed is still in PQ (R339). -/
def State.deltasOf (s : State) (src : DeltaSource) : Bool := s.pq.any (fun d => d.source == src)

/-- The command that sent an ordered chunk of this device. -/
def State.originCmd? (s : State) (o : OpenChunk) : Option Cmd :=
  match o.origin with
  | some (u, _) => s.allCmds.find? (fun c => c.uid == u)
  | none => none

/-- An open chunk is performed: a peer's is acknowledged once its deltas are, or refused when a sector failed; this
device's own goes back to its command (R258, R264, R339). -/
def State.closeChunk (s : State) (id : Nat) : State :=
  match s.opens.find? (fun o => o.id == id) with
  | none => s
  | some o =>
    match o.origin with
    | none =>
      if o.faulted then (s.dropOpen id).links [.nack o.num]
      else if s.deltasOf o.source then s.onOpen id (fun o => { o with applied := true })
      else (s.dropOpen id).links [.ack o.num]
    | some (_, num) =>
      let t := s.dropOpen id
      match s.originCmd? o with
      | none => t
      | some c =>
        let t := t.onCmd c.cluster c.slot (fun c =>
          { c with waits := c.waits.filter (fun w => w.1 != num), done := c.done ++ [(num, o.len)] })
        if o.faulted then t.engineFault c o.va false else t

/-- Write or combine the pieces of an open chunk; a failing sector is left untouched and logged at the target. -/
def State.applyPieces (s : State) (o : OpenChunk) (pieces : List (Nat × List PByte)) : State :=
  match s.part? o.part with
  | none => s
  | some p =>
    let r := s.putPieces p o.dest (chunkRty? o.kind) o.source o.va pieces
    if r.fault.isNone then r.st
    else
      let t := r.st.onOpen o.id (fun o => { o with faulted := true })
      if o.faulted || o.origin.isSome then t else t.logOnly p.homeDie 0x07 4 p.id 0 o.port (r.fault.getD 0)

/-- The answer to a peer read of REBUILD reaches its command (R377). -/
def State.takeReply (s : State) (k slot member : Nat) (data : List PByte) : State :=
  s.onCmd k slot (fun c =>
    if c.kind = .rebuild && c.readsUs.isSome then { c with replies := c.replies ++ [(member, data)] } else c)

/-- A chunk opens: an ordered one joins its set, and one that disagrees with it is refused. -/
def State.openChunk (s : State) (x : PeerChunk) (p : Part) : Option State :=
  let (id, s) := s.fresh
  let o : OpenChunk :=
    { id := id, num := x.id, port := x.port, origin := none, part := p.id, asid := p.firstAsid, space := none, va := x.va.toNat, len := x.len, kind := x.kind
      got := [], set := none, openedUs := s.refUs, faulted := false, applied := false }
  match x.kind with
  | .ordered _ setId members rank total =>
    match s.joinSet p.id none setId members rank total with
    | some (num, s) => some { s with opens := s.opens ++ [{ o with set := some num }] }
    | none => none
  | _ => some { s with opens := s.opens ++ [o] }

/-- Bytes of an open chunk arrive: a plain write's complete sectors are written at once, an unordered reduction is
applied when it is complete, and an ordered one is held (R255, R256). -/
def State.receiveBytes (s : State) (x : PeerChunk) : State :=
  match s.opens.find? (fun o => o.num == x.id && o.origin.isNone) with
  | none => s
  | some o =>
    let new := x.data.zipIdx.map (fun (b, i) => (x.off + i, b))
    let o' := { o with got := o.got ++ new.filter (fun g => (o.byte? g.1).isNone) }
    let s := s.onOpen o.id (fun _ => o')
    match x.kind with
    | .write =>
      let s := s.applyPieces o' (o'.pieces.filter (fun q => (o.piece? (q.1, q.2.length)).isNone))
      if o'.full then s.closeChunk o.id else s
    | .reduce _ => if o'.full then (s.applyPieces o' o'.pieces).closeChunk o.id else s
    | _ => s

/-- PEER_CHUNK_RECEIVE (R255, R258, R401). A chunk for a partition that does not exist, or that disagrees with its set, is
refused with a record (log 92); one whose deltas find no room in PQ is not taken yet. -/
def execPeerChunkReceive (x : PeerChunk) (s : State) : Result :=
  match x.kind with
  | .readReply k slot member => (s.takeReply k slot member x.data).done
  | _ =>
    match s.part? x.part with
    | none => ((s.logOnly 0 0x07 4 0xFF 0 x.port x.va.toNat).links [.nack x.id]).done
    | some p =>
      if !s.putRoom p (addrRange x.va.toNat x.len) (.global p.firstAsid) then s.done
      else if s.opens.any (fun o => o.num == x.id && o.origin.isNone) then (s.receiveBytes x).done
      else
        match s.openChunk x p with
        | some s => (s.receiveBytes x).done
        | none => ((s.logOnly p.homeDie 0x07 4 p.id 0 x.port x.va.toNat).links [.nack x.id]).done

/-- REDUCE_APPLY (R256): an ordered chunk, once the members of lower rank have applied theirs: a peer's when it is complete,
this device's own with the sectors that translated (R264). -/
def execReduceApply (id : Nat) (s : State) : Result :=
  match s.opens.find? (fun o => o.id == id) with
  | none => s.done
  | some o =>
    match o.set.bind s.set? with
    | none => s.done
    | some r =>
      let room := match s.part? o.part with | some p => s.putRoom p (addrRange o.va o.len) o.dest | none => true
      if !(o.full || o.origin.isSome) || o.applied || !r.turnOf (chunkRank o.kind) o.va o.len || !room then s.done
      else
        let s := s.applyPieces o o.pieces
        let s := s.markSet o.set (fun r => { r with applied := r.applied ++ [(chunkRank o.kind, o.va, o.len)] })
        ((s.closeChunk id).sweepSets).done

/-- Poison a run of sectors that translate, with a tag. -/
def State.poisonRun (s : State) (p : Part) (dest : Dest) (a : Nat) (tag : Tag) : State :=
  match dest with
  | .scratch uid => s.onCohort uid (fun co => { co with scratchPois := SMap.put none co.scratchPois (a / 64) (some tag) })
  | .ws => s
  | .global asid =>
    match s.engXlat p asid a .write with
    | .ok pa => { s with memPois := SMap.put none s.memPois (pa / 64) (some tag) }
    | _ => s

/-- TARGET_CHUNK_TIMEOUT (R258): the sectors not yet written are poisoned with the record's tag and the chunk is
refused; an ordered one contributes nothing and frees its set's id (R422). -/
def execTargetChunkTimeout (id : Nat) (s : State) : Result :=
  match s.opens.find? (fun o => o.id == id) with
  | none => s.done
  | some o =>
    match s.part? o.part with
    | none => s.done
    | some p =>
      if o.applied || s.refUs < o.openedUs + p.ctl.peerto then s.done
      else
        let (tag, s) := s.logErr p.homeDie 0x07 4 (BitVec.ofNat 8 p.id) 0 o.port o.va
        let left := (sectorPieces o.va o.len).filter (fun x => !(o.kind == .write && (o.piece? x).isSome))
        let s := left.foldl (fun s x => s.poisonRun p o.dest (o.va + x.1) tag) s
        let s := s.markSet o.set (fun r => { r with gone := r.gone ++ [(chunkRank o.kind, o.va, o.len)], freed := true })
        let s :=
          match o.origin, s.originCmd? o with
          | some (_, num), some c =>
            (s.remoteFault c .nack).onCmd c.cluster c.slot (fun c => { c with waits := c.waits.filter (fun w => w.1 != num) })
          | some _, none => s
          | none, _ => s.links [.nack o.num]
        ((s.dropOpen id).sweepSets).done

/-! ### Move (R264, R336) -/

def Cmd.dests (s : State) (c : Cmd) : List Dest :=
  if c.dsp = 2 then [.ws] else if c.dsp = 1 then (s.receivers c).map .scratch else [.global c.asid]

/-- The reduction type of a CPYR. -/
def Cmd.red (c : Cmd) : Option Nat := if c.kind = .cpyr then some c.rty else none

def Cmd.chunkKind (c : Cmd) : ChunkKind :=
  if c.kind != .cpyr then .write
  else if c.ord then .ordered c.rty c.setId c.nmem c.rank (c.len * c.rows)
  else .reduce c.rty

/-- The command after a chunk of n bytes has gone. -/
def Cmd.stepped (c : Cmd) (n : Nat) : Cmd := { c with moved := c.moved + n, chunks := c.chunks + 1, asked := 0, pieces := 0 }

/-- A chunk put on a link: whole where the source translates; else the sectors that do, each acknowledged by itself, and the
command fails. -/
def State.sendChunk (s : State) (c : Cmd) (d src n : Nat) (parts : List (Nat × Option (List PByte))) (malformed : Bool) : State :=
  let port := Config.portOf c.prank
  let whole := (parts.filterMap (fun x => x.2)).flatten
  if parts.all (fun x => x.2.isSome) then
    let s := s.links [.chunk port c.prank c.chunks d c.chunkKind whole]
    s.onCmd c.cluster c.slot (fun x => { x.stepped n with sent := x.sent ++ [⟨c.chunks, n, s.refUs⟩] })
  else
    let good := (parts.filterMap (fun x => x.2.map (fun bs => (x.1, bs)))).zipIdx
    let msgs := good.map (fun (x, i) => LinkMsg.chunk port c.prank (c.chunks + i) (d + x.1) c.chunkKind x.2)
    let sent := good.map (fun (x, i) => (⟨c.chunks + i, x.2.length, s.refUs⟩ : SentChunk))
    ((s.links msgs).onCmd c.cluster c.slot (fun x =>
      { x.stepped n with chunks := x.chunks + good.length, sent := x.sent ++ sent })).engineFault c src malformed

/-- An ordered chunk's bytes by offset go to the destination controller of this device (R256). -/
def State.holdChunk (s : State) (c : Cmd) (d n : Nat) (bytes : List (Nat × PByte)) : State :=
  let space := if c.dsp = 1 then some c.cohort else none
  match s.joinSet c.part space c.setId c.nmem c.rank (c.len * c.rows) with
  | none => (s.onCmd c.cluster c.slot (fun x => x.stepped n)).failCmd c .nack
  | some (num, s) =>
    let (id, s) := s.fresh
    let o : OpenChunk :=
      { id := id, num := c.chunks, port := 0, origin := some (c.uid, c.chunks), part := c.part, asid := c.asid, space := space, va := d, len := n
        kind := c.chunkKind, got := bytes, set := some num, openedUs := s.refUs
        faulted := false, applied := false }
    let s := { s with opens := s.opens ++ [o] }
    s.onCmd c.cluster c.slot (fun x =>
      { x.stepped n with waits := x.waits ++ [(c.chunks, n)] })

/-- A chunk of a peer command or of an ordered reduction goes to its destination controller. -/
def State.passChunk (s : State) (p : Part) (c : Cmd) (n : Nat) : State :=
  let d := c.nextAddr.1
  let src := c.nextAddr.2
  let parts := s.gather p c d src n
  let bad := s.sourceMalformed p c (addrRange src n)
  if c.peer then s.sendChunk c d src n parts bad
  else
    let good := parts.filterMap (fun x => x.2.map (fun bs => (x.1, bs)))
    let t := s.holdChunk c d n (good.flatMap (fun x => x.2.zipIdx.map (fun (b, i) => (x.1 + i, b))))
    if parts.any (fun x => x.2.isNone) then t.engineFault c src bad else t

/-- One chunk moves: every sector that translates is written, and a fault then ends the command (R264). -/
def State.moveChunk (s : State) (p : Part) (c : Cmd) (n : Nat) : State :=
  if c.peer || c.ord then s.passChunk p c n
  else
    let sectors := s.gatherSectors p c n
    let good := (sectors.filterMap id).flatMap byteRuns
    let r := (c.dests s).foldl (fun (r : Put) dest =>
      let q := r.st.putPieces p dest c.red (.command c.uid c.chunks) 0 good
      ⟨q.st, r.fault.or q.fault, r.malformed || q.malformed⟩) ⟨s, none, false⟩
    let t := r.st.onCmd c.cluster c.slot (fun x => { x.stepped n with done := x.done ++ [(c.chunks, n)] })
    if sectors.any (·.isNone) then t.engineFault c c.nextAddr.2 (s.sourceMalformed p c ((c.chunkMoves n).map (·.2)))
    else
      match r.fault with
      | some a => t.engineFault c a r.malformed
      | none => t

/-- The addresses that the next chunk writes in this step. -/
def Cmd.putAddrs (c : Cmd) (n : Nat) : List Nat :=
  if c.kind = .rebuild then addrRange (c.dst.toNat + c.moved) n
  else if c.peer || c.ord then []
  else (c.chunkMoves n).map (·.1)

/-- The buckets that a chunk passes: the link of a peer, or the channel group of each global side (R52, log 16). -/
def State.bucketsOf (s : State) (p : Part) (c : Cmd) : List BucketId :=
  let side := fun (global : Bool) (a : Nat) (k : AccKind) =>
    if global then
      match s.engXlat p c.asid a k with
      | .ok pa => [channelGroup pa]
      | _ => []
    else []
  side (c.ssp == 0) c.nextAddr.2 .read ++
  (if c.peer then [.link (Config.portOf c.prank % 18)] else side (c.dsp == 0) c.nextAddr.1 .write)

/-- A chunk of n bytes asks for its tokens at some buckets (R52). -/
def State.askBuckets (s : State) (c : Cmd) (ids : List BucketId) (n : Nat) : State :=
  (ids.foldl (fun s id => s.askBucket c.part id (.command c.cluster c.uid) n) s).onCmd c.cluster c.slot (fun c =>
    { c with asked := n, pieces := ids.length })

/-! ### REBUILD's chunks (R377) -/

/-- The factor of data byte j in code byte i (R373). -/
def codeFactor (i j : Nat) : Nat := if i = 0 then 1 else gfPow2 j

def gfInv (x : Nat) : Nat := ((List.range 256).find? (fun y => gfMul x y == 1)).getD 0

/-- Member t's byte of the vector that agrees with the K bytes known, by member (R373): at most two data members are
unknown, since M is at most 2. -/
def solveMember (k : Nat) (known : List (Nat × Nat)) (t : Nat) : Nat :=
  let val := fun (j : Nat) => (known.find? (fun x => x.1 == j)).map (·.2)
  let data := List.range k
  let unknown := data.filter (fun j => (val j).isNone)
  let part := fun (i : Nat) => data.foldl (fun acc j => acc ^^^ gfMul (codeFactor i j) ((val j).getD 0)) 0
  let rest := fun (i : Nat) => (val (k + i)).getD 0 ^^^ part i
  let solved : List (Nat × Nat) :=
    match unknown with
    | [u] =>
      let i := if (val k).isSome then 0 else 1
      [(u, gfMul (rest i) (gfInv (codeFactor i u)))]
    | [u, v] =>
      let y := gfMul (rest 1 ^^^ gfMul (gfPow2 u) (rest 0)) (gfInv (gfPow2 u ^^^ gfPow2 v))
      [(u, rest 0 ^^^ y), (v, y)]
    | _ => []
  let full := fun (j : Nat) => (val j).getD (((solved.find? (fun x => x.1 == j)).map (·.2)).getD 0)
  if t < k then full t else data.foldl (fun acc j => acc ^^^ gfMul (codeFactor (t - k) j) (full j)) 0

/-- The buckets that a REBUILD chunk passes: the channel groups of its own source and its destination, and the link of each
peer it reads (R52, R242). -/
def State.rebuildBuckets (s : State) (p : Part) (c : Cmd) (r : PRec) : List BucketId :=
  let srcs := r.sources c.tgt
  let side := fun (a : Nat) (k : AccKind) => match s.engXlat p c.asid a k with | .ok pa => [channelGroup pa] | _ => []
  (if srcs.contains r.self then side (c.src.toNat + c.fsu * stripeUnit + c.moved) .read else []) ++
  (srcs.filter (· != r.self)).map (fun m => .link (Config.portOf (r.first + m * r.stride) % 18)) ++
  side (c.dst.toNat + c.moved) .write

/-- One 4 KiB chunk: its peer reads go out to the members that the record names as sources then, and once every one of them has
answered the bytes are solved and written, whatever the record says by that time. -/
def State.moveRebuild (s : State) (p : Part) (c : Cmd) : State :=
  match s.parityRecord? p c.pgid with
  | none => s.failCmd c .nack
  | some r =>
    let srcs := if c.readsUs.isSome then c.srcs else r.sources c.tgt
    let va := c.src.toNat + c.fsu * stripeUnit + c.moved
    let d := c.dst.toNat + c.moved
    let remote := srcs.filter (· != r.self)
    if srcs.length < r.k then s.failCmd c .nack
    else
      match c.readsUs with
      | none =>
        (s.links (remote.map (fun m => .readReq c.cluster c.slot (r.first + m * r.stride) va 4096))).onCmd
          c.cluster c.slot (fun x => { x with readsUs := some s.refUs, replies := [], srcs := srcs })
      | some _ =>
        if !remote.all (fun m => c.replies.any (fun x => x.1 == m)) then s
        else
          let own := s.gather p { c with ssp := 0 } d va 4096
          if srcs.contains r.self && own.any (fun x => x.2.isNone) then s.engineFault c va false
          else
            let bytes := fun (m : Nat) =>
              if m = r.self then (own.filterMap (·.2)).flatten else ((c.replies.find? (fun x => x.1 == m)).map (·.2)).getD []
            let cols := srcs.map (fun m => (m, bytes m))
            let out := (List.range 4096).map (fun i =>
              let at_ := cols.map (fun (m, bs) => (m, bs.getD i ⟨0, none⟩))
              (⟨BitVec.ofNat 8 (solveMember r.k (at_.map (fun (m, b) => (m, b.val.toNat))) c.tgt),
                mergeAll (at_.map (fun x => x.2.pois))⟩ : PByte))
            let pieces := (sectorPieces d 4096).map (fun x => (x.1, (out.drop x.1).take x.2))
            let q := s.putPieces p (.global c.asid) none (.command c.uid c.chunks) d pieces
            let t := q.st.onCmd c.cluster c.slot (fun x =>
              { x.stepped 4096 with done := x.done ++ [(c.chunks, 4096)], readsUs := none, replies := [], srcs := [] })
            match q.fault with
            | some a => t.engineFault c a q.malformed
            | none => t

def execMove (k slot bytes : Nat) (s : State) : Result :=
  match s.cmd? k slot with
  | none => s.done
  | some c =>
    match s.part? c.part with
    | none => s.done
    | some p =>
      if c.state != .active || c.err.isSome || c.len * c.rows ≤ c.moved then s.done
      else
        let n := if c.asked != 0 then c.asked else if c.kind = .rebuild then 4096 else c.chunkSize bytes
        let ids :=
          if c.kind = .rebuild then ((s.parityRecord? p c.pgid).map (s.rebuildBuckets p c)).getD [] else s.bucketsOf p c
        if c.asked = 0 && !ids.isEmpty then (s.askBuckets c ids n).done
        else if 0 < c.pieces || !(c.dests s).all (s.putRoom p (c.putAddrs n)) then s.done
        else (if c.kind = .rebuild then s.moveRebuild p c else s.moveChunk p c n).done

/-- A delta leaves PQ: PEND follows, and a peer chunk that waited for it is acknowledged. -/
def State.dropDelta (s : State) (d : Delta) : State :=
  let s := { s with pq := s.pq.filter (fun x => x.id != d.id) }
  let s := match s.part? d.part with | some p => s.refreshPend p d.pgid | none => s
  match d.source with
  | .peer id => if s.opens.any (fun o => o.id == id && o.applied) then s.closeChunk id else s
  | _ => s

/-- A piece has left its bucket: a command's or a pushed tile's next step may come, and a delta or an answer is on its link.
A delta to a member that is live no more is sent nowhere (R376). -/
def State.pieceLeft (s : State) : Transfer → State
  | .command k uid => s.onCluster k (fun cl =>
      { cl with eq := cl.eq.map (fun c => if c.uid = uid then { c with pieces := c.pieces - 1 } else c) })
  | .delta id =>
    match s.pq.find? (fun d => d.id == id) with
    | none => s
    | some d =>
      if !s.deltaLive d then s.dropDelta d
      else ({ s with pq := s.pq.map (fun x => if x.id = id then { x with sent := true, sentUs := s.refUs } else x) } : State).links
        [.delta d.id d.pgid d.member d.va d.bytes d.pois]
  | .push uid => s.onCohort uid (fun co =>
      { co with seq := { co.seq with walk := co.seq.walk.map (fun w => { w with pieces := w.pieces.map (· - 1) }) } })
  | .reply va data => s.links [.readReply va data]

/-- A bucket of a link port under LINKU 0 sends nothing, whatever tokens it holds (R52). -/
def Part.mutes (p : Part) : BucketId → Bool
  | .link _ => p.totals.linku == 0
  | .memory _ => false

/-- BUCKET_PIECE_LEAVE (R52): the oldest piece at a bucket leaves when the bucket holds its bytes in tokens. -/
def execBucketPieceLeave (part : Nat) (id : BucketId) (s : State) : Result :=
  match s.part? part with
  | none => s.done
  | some p =>
    match (p.buckets.find? (fun b => b.1 == id)).map (·.2) with
    | none => s.done
    | some b =>
      match b.pieces with
      | [] => s.done
      | (t, n) :: rest =>
        if p.mutes id || decide (b.tokens < 11 * n) then s.done
        else
          ((s.setPart (p.onBucket id (fun b => { b with tokens := b.tokens - 11 * n, pieces := rest }))).pieceLeft t).done

/-- EARRIVE (R247, R417): one performed chunk counts into the arrival word; the last one clears the locks first. A peer
chunk's step is its acknowledgement. A command that is to end with ERR counts nothing more. -/
def execEarrive (k slot chunk : Nat) (s : State) : Result :=
  match s.cmd? k slot with
  | none => s.done
  | some c =>
    let doneBytes := (c.done.find? (fun x => x.1 == chunk)).map (·.2)
    let sentBytes := (c.sent.find? (fun x => x.num == chunk)).map (·.bytes)
    match doneBytes.or sentBytes with
    | none => s.done
    | some n =>
      if c.state != .active || s.deltasOf (.command c.uid chunk) then s.done
      else
        let c' := { c with done := c.done.filter (fun x => x.1 != chunk), sent := c.sent.filter (fun x => x.num != chunk) }
        let s := s.onCmd k slot (fun _ => c')
        if c.err.isSome then s.done
        else
          let s := if c.moved = c.len * c.rows && c'.settled then s.clearLocks c else s
          (s.cmdArrive c n).done

/-! ### Refusals and timeouts at the initiator (R258, R377) -/

def execPeerNackReceive (k slot chunk : Nat) (s : State) : Result :=
  match s.cmd? k slot with
  | none => s.done
  | some c =>
    if c.state = .active && c.sent.any (fun x => x.num == chunk) then
      let s := s.onCmd k slot (fun c => { c with sent := c.sent.filter (fun x => x.num != chunk) })
      (if c.err.isNone then s.remoteFault c .nack else s).done
    else s.done

/-- The first source member of a REBUILD's chunk on another device that has not answered. -/
def State.silent (s : State) (p : Part) (c : Cmd) : Option (PRec × Nat) :=
  match s.parityRecord? p c.pgid with
  | some r => (c.srcs.find? (fun m => m != r.self && !c.replies.any (fun x => x.1 == m))).map (fun m => (r, m))
  | none => none

/-- REBUILD's unwritten destination sectors are poisoned with the link record's tag (R377). -/
def State.rebuildTimeout (s : State) (p : Part) (c : Cmd) : State :=
  let port := ((s.silent p c).map (fun (r, m) => Config.portOf (r.first + m * r.stride))).getD 0
  let (tag, s) := s.logErr (dieOf c.core) 0x08 4 (BitVec.ofNat 8 c.part) c.tid port c.dst.toNat
  let d := c.dst.toNat + c.moved
  let s := (sectorPieces d (c.len - c.moved)).foldl (fun s x => s.poisonRun p (.global c.asid) (d + x.1) tag) s
  (s.noteCmd c { Chkiv.clear with remote := true }).failCmd c .tout

def execAckTimeout (k slot : Nat) (s : State) : Result :=
  match s.cmd? k slot with
  | none => s.done
  | some c =>
    match s.part? c.part with
    | none => s.done
    | some p =>
      let late := fun (t : Nat) => decide (t + p.ctl.peerto ≤ s.refUs)
      if c.state != .active then s.done
      else if c.sent.any (fun x => late x.sentUs) then
        let s := s.onCmd k slot (fun c => { c with sent := c.sent.filter (fun x => !late x.sentUs) })
        (if c.err.isNone then s.remoteFault c .tout else s).done
      else
        match c.readsUs with
        | some t => if c.err.isNone && late t && (s.silent p c).isSome then (s.rebuildTimeout p c).done else s.done
        | none => s.done

/-! ### Parity (R339, R374 to R377) -/

/-- The virtual address that a delta or a read names, under the partition's first ASID. -/
def State.instancePa (s : State) (p : Part) (va : Nat) : Option Nat :=
  match s.engXlat p p.firstAsid va .read with
  | .ok pa => some pa
  | _ => none

/-- PARITY_DELTA_APPLY (R374): this device, as the holder, XORs a delta into its code bytes and acknowledges. -/
def execParityDeltaApply (x : PeerDelta) (s : State) : Result :=
  match s.part? x.part with
  | none => s.done
  | some p =>
    match s.instancePa p x.va.toNat with
    | none => s.done
    | some pa =>
      let old := s.readBytesAs p.id pa x.delta.length
      let t := mergePois (poisOfBytes old) x.pois
      let new := (old.zip x.delta).map (fun (o, d) => (⟨o.val ^^^ d, t⟩ : PByte))
      let s := s.writeDM p.id (wbytesAt pa new) .device
      (s.links [.deltaAck x.pgid x.va.toNat]).done

/-- PARITY_ACK (R339). -/
def execParityAck (id : Nat) (s : State) : Result :=
  match s.pq.find? (fun d => d.id == id) with
  | none => s.done
  | some d => if d.sent then (s.dropDelta d).done else s.done

/-- A member's LIVE bit cleared in this device's record, with STATE (R375, R376). -/
def State.loseMember (s : State) (p : Part) (pgid : BitVec 16) (member : Nat) : State :=
  match s.parityRecord? p pgid with
  | none => s
  | some r =>
    let live := r.live &&& ~~~(1#16 <<< member)
    let lost := ((List.range (r.k + r.m)).filter (fun i => !bit live i)).length
    let state := if lost = 0 then 0 else if lost ≤ r.m then 1 else 2
    let w := s.readWordAs p.id r.at_
    let mask : Word64 := BitVec.ofNat 64 (0x3FFFF * 2 ^ 20)
    s.writeHome p.id (deviceBytes r.at_ [(w &&& ~~~mask) ||| BitVec.ofNat 64 (state * 2 ^ 36 + live.toNat * 2 ^ 20)])

/-- An event of a group that has ended: the task's where the group was a resumed continuation, else its cohort's (R396). -/
def State.noteEnded (s : State) (gid uid part tid : Nat) (x : Chkiv) : State :=
  if ((s.task? part tid).map (·.contGids.contains gid)).getD false then s.noteTask part tid x else s.noteCohort uid part tid x

/-- REMOTE in the CHKIV of a delta's writer, or of its task once the writer is gone (R339, R396). -/
def State.noteWriter (s : State) (d : Delta) : State :=
  let x := { Chkiv.clear with remote := true }
  match d.source with
  | .group gid uid tid _ =>
    match s.group? gid with
    | some g => s.noteGroup g x
    | none => s.noteEnded gid uid d.part tid x
  | .command uid _ =>
    match s.allCmds.find? (fun c => c.uid == uid) with
    | some c => s.noteCmd c x
    | none => s
  | .stream uid tid => s.noteCohort uid d.part tid x
  | .peer _ | .device => s

/-- PARITY_DROP (R339): a delta that is not acknowledged within PEERTO. -/
def execParityDrop (id : Nat) (s : State) : Result :=
  match s.pq.find? (fun d => d.id == id) with
  | none => s.done
  | some d =>
    match s.part? d.part with
    | none => (s.dropDelta d).done
    | some p =>
      if !d.sent || s.refUs < d.sentUs + p.ctl.peerto then s.done
      else
        let s := s.loseMember p d.pgid d.member
        let s := s.logOnly p.homeDie 0x0A 3 p.id 0 d.member d.va
        ((s.noteWriter d).dropDelta d).done

/-- A run of bytes in pieces of at most 4 KiB from its first byte on, each with its address (R52). -/
def piecesOf (va : Nat) (bs : List PByte) : List (Nat × List PByte) :=
  (List.range ((bs.length + 4095) / 4096)).map (fun i => (va + 4096 * i, (bs.drop (4096 * i)).take 4096))

/-- PEER_READ (R377): this device, as a source member, answers with its bytes at DM, over the partition's link bucket in pieces
of at most 4 KiB (R52). -/
def execPeerRead (req : PeerReadReq) (s : State) : Result :=
  match s.part? req.part with
  | none => s.done
  | some p =>
    match (List.range req.len).mapM (fun i => s.instancePa p (req.va.toNat + i)) with
    | some pas =>
      let bs := pas.map (s.readAs p.id)
      let s := s.chargeRead p.id (pas.headD 0) req.len
      ((piecesOf req.va.toNat bs).foldl (fun s x =>
        s.askBucket p.id (.link (req.port % 18)) (.reply x.1 x.2) x.2.length) s).done
    | none => s.done

end Sys2Proof.Machine
end

