-- ==== Sys2Proof/Machine/EngineInstr.lean ====
section
/-!
DEFINITION. Copy, binning and arrival-word instructions (R259 to R274), and the issue of engine commands (R240), which
REBUILD shares.
-/

namespace Sys2Proof.Machine

/-! ### Building a command (R259, R260, R377) -/

/-- The registers a command reads: the completion register, two addresses and four shape registers. -/
structure CmdRegs where
  comp : Word64
  dst : Word64
  src : Word64
  h0 : Word64
  h1 : Word64
  h2 : Word64
  h3 : Word64
  pois : Option Tag

/-- DST ZERO stands for no arrival word. -/
def Ctx.cmdRegs (c : Ctx) (s : State) (w : FX) : CmdRegs :=
  let comp : Read := match w.dst with | .s _ => c.uniform s (.reg w.dst false) | _ => (0xFFFFFFFF00000000, none)
  let d := c.uniform s w.sa
  let a := c.uniform s w.sb
  let h := fun i => c.uniformAt w.sc i
  { comp := comp.1, dst := d.1, src := a.1, h0 := (h 0).1, h1 := (h 1).1, h2 := (h 2).1, h3 := (h 3).1
    pois := mergeAll [comp.2, d.2, a.2, (h 0).2, (h 1).2, (h 2).2, (h 3).2] }

def hi32 (x : Word64) : Nat := (bits x 32 32).toNat
def lo32 (x : Word64) : Nat := (bits x 0 32).toNat

/-- AWOFF, which NOTIFY 2 ignores (R259). -/
def CmdRegs.aw (r : CmdRegs) (notify : Nat) : Option Nat :=
  if notify = 2 ∨ hi32 r.comp = 0xFFFFFFFF then none else some (hi32 r.comp)

/-- What every command takes from its word, its registers and its issuer. -/
def Ctx.cmdBase (c : Ctx) (w : FX) (kind : CmdKind) (r : CmdRegs) : Cmd :=
  { uid := 0, slot := 0, order := 0, state := .held, kind := kind, part := c.p.id, tid := c.co.tid, cohort := c.co.uid, core := c.g.core
    gid := c.g.gid, orphan := false, resumed := c.g.cont.isSome, asid := c.g.ctl.asid, dsp := 0, ssp := 0, rty := 0, ord := false
    mcast := false, peer := false, notify := w.notify.toNat, vec := 0, aw := r.aw w.notify.toNat
    ntid := (bits r.comp 12 20).toNat, dst := r.dst, src := r.src, len := hi32 r.h0, rows := lo32 r.h0
    dpitch := hi32 r.h1, spitch := lo32 r.h1, idxoff := 0, idxmax := 0, setId := 0, nmem := 0, rank := 0, prank := 0
    hnum := none, cmask := 0, pgid := 0, tgt := 0, fsu := 0, idx := [], moved := 0, chunks := 0, asked := 0, pieces := 0
    done := [], sent := [], waits := [], readsUs := none, replies := [], srcs := [], err := none, poisonedCount := false
    targets := [] }

/-- A copy command (R260, R261). -/
def Ctx.copyCmd (c : Ctx) (w : FX) (kind : CmdKind) (r : CmdRegs) : Cmd :=
  let indexed := kind == .cpyg || kind == .cpys
  let ord := kind == .cpyr && w.ord
  { c.cmdBase w kind r with
    dsp := w.dsp, ssp := w.ssp, rty := if kind = .cpyr then w.rty else 0, ord := ord, mcast := w.mcast, peer := w.peer
    vec := if kind = .cpyh then w.vec else 0
    idxoff := if indexed then hi32 r.h2 else 0, idxmax := if indexed then lo32 r.h2 else 0
    setId := if ord then (bits r.h2 16 16).toNat else 0, nmem := if ord then (bits r.h2 8 8).toNat else 0
    rank := if ord then (bits r.h2 0 4).toNat else 0, prank := (bits r.h3 32 13).toNat
    hnum := if w.hold then some (bits r.h3 8 5).toNat else none, cmask := bits r.h3 0 4 }

/-- Code 1 of R263 for a copy command: a reserved bit, or a field that must be zero. -/
def copyCode1 (w : FX) (kind : CmdKind) (r : CmdRegs) : Bool :=
  let indexed := kind == .cpyg || kind == .cpys
  let ord := kind == .cpyr && w.ord
  (w.dst.isS && bits r.comp 0 12 != 0) || bits r.h3 45 19 != 0 || bits r.h3 13 19 != 0 || bits r.h3 4 4 != 0 ||
  (!w.peer && bits r.h3 32 13 != 0) || (!w.hold && bits r.h3 8 5 != 0) || (!w.mcast && bits r.h3 0 4 != 0) ||
  (!indexed && bits r.h2 32 32 != 0) || (ord && bits r.h2 4 4 != 0) || (!indexed && !ord && bits r.h2 0 32 != 0)

/-- REBUILD (R377): one row of NSU stripe units. -/
def Ctx.rebuildCmd (c : Ctx) (w : FX) (r : CmdRegs) : Cmd :=
  { c.cmdBase w .rebuild r with
    len := hi32 r.h0 * stripeUnit, rows := 1, dpitch := 0, spitch := 0, pgid := bits r.h1 48 16
    tgt := (bits r.h1 44 4).toNat, fsu := lo32 r.h0 }

def rebuildCode1 (w : FX) (r : CmdRegs) : Bool :=
  (w.dst.isS && bits r.comp 0 12 != 0) || bits r.h1 0 44 != 0 || r.h2 != 0 || r.h3 != 0
/-- Code 15 of R377. -/
def rebuildCode15 (r : CmdRegs) : Bool :=
  hi32 r.h0 == 0 || decide (65536 < hi32 r.h0) || r.dst.toNat % 64 != 0 || r.src.toNat % stripeUnit != 0

/-- Codes 12 to 14 of R377. -/
def State.parityCode (s : State) (p : Part) (c : Cmd) : Option Nat :=
  match s.parityRecord? p c.pgid with
  | none => some 12
  | some r =>
    if r.k + r.m ≤ c.tgt || bit r.live c.tgt then some 13
    else if (r.sources c.tgt).length < r.k then some 14
    else none

/-- A command of the cohort that has issued and waits to enter its queue holds this number (R267). -/
def State.holdWaits (s : State) (uid h : Nat) : Bool :=
  s.groups.any (fun g => g.slices.any (fun x =>
    match x.wait with | .command d => d.cohort == uid && d.hnum == some h | _ => false))

/-- Code 9 of R263 (R267). -/
def State.holdCode (s : State) (c : Cmd) : Bool :=
  (match c.hnum with | some h => (s.heldCmd? c.cohort h).isSome || s.holdWaits c.cohort h | none => false) ||
  (c.mcast && c.cmask == 0)

/-- The first code of R263 or R377 that a new command fails. -/
def State.issueCode (s : State) (c : Ctx) (code1 code15 : Bool) (cmd : Cmd) : Option Nat :=
  if code1 then some 1
  else if code15 then some 15
  else
    match cmd.code c.p c.scratchSize c.scratchBelow with
    | some k => some k
    | none => if cmd.kind = .rebuild then s.parityCode c.p cmd else if s.holdCode cmd then some 9 else none

/-! ### Issue (R240, R262) -/

/-- A TE marker that the group has committed and that has not drained stands ahead (R237, R338). -/
def Group.teAhead (g : Group) : Bool :=
  g.sq.any (fun e => e.committed && (match e.op with | .teMarker => true | _ => false))

/-- The lowest free slot of an engine queue. -/
def Cluster.freeSlot (cl : Cluster) : Option Nat := (List.range 64).find? (fun i => cl.eq.all (fun c => c.slot != i))

/-- Steps 2 to 4 of R240; none while the path waits. -/
def State.enterQueue (s : State) (c : Ctx) (cmd : Cmd) : Option State :=
  match (s.cluster (clusterOf c.g.core)).freeSlot with
  | none => none
  | some slot =>
    let cmd := { cmd with slot := slot, uid := s.nextUid }
    if c.g.teAhead || (cmd.hnum.isNone && !s.locksFit cmd) then none
    else
      let s := (s.fresh).2
      let s := s.onCluster cmd.cluster (fun cl => { cl with eq := cl.eq ++ [cmd] })
      some (if cmd.hnum.isSome then s else s.queueCmd cmd)

/-- The registers of a command, in the order R163 visits them. -/
def cmdNeed (w : FX) (legal : Bool) : Need :=
  ⟨legal, true, w.guard, [], [(.reg w.dst false, 1), (w.sa, 1), (w.sb, 1), (w.sc, 4)]⟩

/-- The issue of an engine command. -/
def State.issueCmd (s : State) (w : FX) (opc : Nat) (legal : Bool) (build : Ctx → CmdRegs → Cmd) (code1 code15 : CmdRegs → Bool) :
    Result :=
  s.issue (fun c =>
    match c.head.wait with
    | .command cmd =>
      match s.enterQueue c cmd with
      | some s => s.finish c opc w.words
      | none => s.wait
    | _ => s.gate c (cmdNeed w legal) (fun lanes =>
        let r := c.cmdRegs s w
        let cmd := build c r
        if lanes.isEmpty then s.finish c opc w.words
        else if c.sec = 3 then s.trapAll c trapLoopState
        else if r.pois.isSome then s.poisonKill c
        else
          match s.issueCode c (code1 r) (code15 r) cmd with
          | some k => s.trapCode c trapEngineOp k
          | none =>
            let g := c.committed opc w.words
            let s := s.setGroup (g.mapSlices c.slices (fun _ x => { x with wait := .command cmd }))
            match s.enterQueue { c with g := g } cmd with
            | some s => s.finish c opc w.words
            | none => s.done))

def State.issueCopy (s : State) (w : FX) (opc : Nat) (legal : Bool) (kind : CmdKind) : Result :=
  s.issueCmd w opc legal (fun c r => c.copyCmd w kind r) (copyCode1 w kind) (fun _ => false)

def execCpy (w : FX) (s : State) : Result := s.issueCopy w 0x1C0 w.legalCpy .cpy
def execCpyg (w : FX) (s : State) : Result := s.issueCopy w 0x1C1 w.legalCpyg .cpyg
def execCpys (w : FX) (s : State) : Result := s.issueCopy w 0x1C2 w.legalCpys .cpys
def execCpyr (w : FX) (s : State) : Result := s.issueCopy w 0x1C3 w.legalCpyr .cpyr
def execCpyh (w : FX) (s : State) : Result := s.issueCopy w 0x1C4 w.legalCpyh .cpyh
def execRebuild (w : FX) (s : State) : Result :=
  s.issueCmd w 0x287 w.legalRebuild (fun c r => c.rebuildCmd w r) (rebuildCode1 w) rebuildCode15

/-! ### CREL and BPATCH (R267 to R270) -/

/-- No earlier BPATCH or CREL of the group still waits. -/
def Group.patchTurn (g : Group) (order : Nat) : Bool :=
  g.slices.all (fun x => match x.wait with | .patch o _ _ => decide (order ≤ o) | _ => true)

/-- The bytes of scratchpad that a command may use when it is checked again: none for a resumed continuation's. -/
def State.cmdScratch (s : State) (c : Cmd) : Nat × Nat :=
  if c.resumed then (0, 0) else ((s.cohort? c.cohort).map (fun co => (co.allotted, co.belowLanding))).getD (0, 0)

/-- CREL's releases in ascending number, until one lacks room in the lock table: the state, and the number it stopped at
(R268). -/
def State.releaseHeld (s : State) (p : Part) (uid : Nat) (mask : Nat) : State × Option Nat :=
  (List.range 32).foldl (fun (acc : State × Option Nat) h =>
    let s := acc.1
    if acc.2.isSome || !mask.testBit h then acc
    else
      match s.heldCmd? uid h with
      | none => acc
      | some cmd =>
        let room := s.cmdScratch cmd
        if cmd.state != .held then acc
        else if cmd.poisonedCount || (cmd.code p room.1 room.2).isSome then (s.endErr cmd .nack, none)
        else if !s.locksFit cmd then (s, some h)
        else (s.queueCmd cmd, none)) (s, none)

/-- CREL's step in the engine queue; `first` says that its commit is in this step. A number that it has passed is not looked
at again. -/
def State.tryCrel (s : State) (c : Ctx) (w : FX) (order : Nat) (val : Word64) (first : Bool) : Result :=
  let waits := if first then s.done else s.wait
  if c.g.teAhead || !c.g.patchTurn order then waits
  else
    let r := s.releaseHeld c.p c.co.uid (lo32 val)
    match r.2 with
    | none => r.1.finish c 0x1C5 w.words
    | some h =>
      let left := lo32 val / 2 ^ h * 2 ^ h
      if left = lo32 val then waits else (r.1.setWait c (.patch order (BitVec.ofNat 64 left) [])).done

def execCrel (w : FX) (s : State) : Result :=
  s.issue (fun c =>
    match c.head.wait with
    | .patch order val _ => s.tryCrel c w order val false
    | _ =>
      let fits := c.unread w.guard || c.operandFits s w.sa (fun v => hi32 v != 0)
      let n : Need := ⟨w.legalCrel && fits, true, w.guard, [], [(w.sa, 1)]⟩
      s.gate c n (fun lanes =>
        let v := c.uniform s w.sa
        if lanes.isEmpty then s.finish c 0x1C5 w.words
        else if c.sec = 3 then s.trapAll c trapLoopState
        else if v.2.isSome then s.poisonKill c
        else
          let (order, s) := s.fresh
          let g := (c.committed 0x1C5 w.words).mapSlices c.slices (fun _ x => { x with wait := .patch order v.1 [] })
          (s.setGroup g).tryCrel { c with g := g } w order v.1 true))

/-- BPATCH's fields (R269). -/
structure Patch where
  ctoff : Nat
  b0 : Nat
  h0 : Nat
  n : Nat

def Patch.ofWord (v : Word64) : Patch :=
  ⟨hi32 v, (bits v 16 10).toNat, (bits v 8 5).toNat, (bits v 0 6).toNat⟩

/-- The bits of BPATCH's operand that must be zero. -/
def patchReserved (v : Word64) : Bool := bits v 26 6 != 0 || bits v 13 3 != 0 || bits v 6 2 != 0

/-- A held command patched with its count and the sum of the counts before it. -/
def Cmd.patched (c : Cmd) (pfx : Bool) (count pre : Nat) (poisoned : Bool) : Cmd :=
  let c := { c with rows := count, poisonedCount := c.poisonedCount || poisoned }
  if !pfx then c
  else
    let c := if c.kind = .cpys then { c with src := c.src + BitVec.ofNat 64 (pre * c.spitch) }
             else { c with dst := c.dst + BitVec.ofNat 64 (pre * c.dpitch) }
    if c.indexed then { c with idxoff := c.idxoff + 4 * pre } else c

/-- BPATCH's step (R269). -/
def State.patchAll (s : State) (c : Ctx) (x : Patch) (pfx : Bool) : State :=
  ((List.range x.n).foldl (fun (acc : State × Nat) j =>
    let s := acc.1
    let bs := ((s.cohort? c.co.uid).map (fun co => co.readScratchBytes (x.ctoff + 4 * (x.b0 + j)) 4)).getD []
    let count := numOfBytes bs
    let s :=
      match s.heldCmd? c.co.uid (x.h0 + j) with
      | none => s
      | some h =>
        if h.state != .held then s.cmdFail h .nack
        else
          let s := s.onCmd h.cluster h.slot (fun y => y.patched pfx count acc.2 (poisOfBytes bs).isSome)
          s.notePois c.g (poisOfBytes bs)
    (s, acc.2 + count)) (s, 0)).1

def State.tryBpatch (s : State) (c : Ctx) (w : FX) (order : Nat) (val : Word64) (entries : List Nat) (first : Bool) : Result :=
  if c.g.sq.any (fun e => entries.contains e.id) || !c.g.patchTurn order then (if first then s.done else s.wait)
  else (s.patchAll c (Patch.ofWord val) (bit w.cmd 8)).finish c 0x1C7 w.words

def execBpatch (w : FX) (s : State) : Result :=
  s.issue (fun c =>
    match c.head.wait with
    | .patch order val entries => s.tryBpatch c w order val entries false
    | _ =>
      let fits := c.unread w.guard || c.operandFits s w.sa patchReserved
      let n : Need := ⟨w.legalBpatch && fits, true, w.guard, [], [(w.sa, 1)]⟩
      s.gate c n (fun lanes =>
        let v := c.uniform s w.sa
        let x := Patch.ofWord v.1
        let table := x.ctoff + 4 * x.b0
        let at_ := fun (cause a : Nat) => s.takeTrap c ((Trap.plain cause c.active c.pc).withAddr a false)
        if lanes.isEmpty then s.finish c 0x1C7 w.words
        else if c.sec = 3 then s.trapAll c trapLoopState
        else if v.2.isSome then s.poisonKill c
        else if x.n = 0 || 1024 < x.b0 + x.n || 32 < x.h0 + x.n then s.trapCode c trapEngineOp 10
        else if x.ctoff % 16 != 0 then at_ trapMisaligned x.ctoff
        else if c.scratchSize < table + 4 * x.n then at_ trapScratchRange table
        else
          let (order, s) := s.fresh
          let g := c.committed 0x1C7 w.words
          let entries := g.sq.map (·.id)
          let g := g.mapSlices c.slices (fun _ x => { x with wait := .patch order v.1 entries })
          (s.setGroup g).tryBpatch { c with g := g } w order v.1 entries true))

/-! ### BIN (R250, R271) -/

/-- The one place that a BIN takes in the queue, its lanes by iteration (log 20). -/
def Ctx.binBeat (c : Ctx) (table : Nat) (adds : List (Nat × Word32 × Option Tag × Nat)) : Beat :=
  (c.byIter (adds.map (·.2.2.2))).map (fun (it, ls) => (it, .bin table (adds.filter (fun a => ls.contains a.2.2.2))))

/-- BIN; the whole table meets the range locks, which TADDR names by its offset. -/
def execBin (w : F3) (s : State) : Result :=
  s.issue (fun c =>
    let n : Need := ⟨w.legalBin, true, w.guard, [], [(w.sa, 1), (w.sb, 1), (w.sc, 1)]⟩
    s.gate c n (fun lanes =>
      let t := c.uniform s w.sa
      let table := t.1.toNat
      let bin := fun (l : Nat) => c.read s w.sb false l
      let amount := fun (l : Nat) => if w.sc.isZero then (1, none) else c.read s w.sc false l
      let excess := lanes.filter (fun l => decide (1024 ≤ (bin l).1.toNat))
      let at_ := fun (cause : Nat) => s.takeTrap c ((Trap.plain cause lanes c.pc).withAddr table true)
      if lanes.isEmpty then s.finish c 0x1C6 w.words
      else if t.2.isSome || lanes.any (fun l => (bin l).2.isSome) then s.poisonKill c
      else if table % 16 != 0 then at_ trapMisaligned
      else if c.scratchBelow < table + 4096 then at_ trapScratchRange
      else if !excess.isEmpty then s.takeTrap c ((Trap.plain trapEngineOp excess c.pc).withCode 11)
      else if s.lockHit c.g true true table 4096 then at_ trapRangeLock
      else
        let beat := c.binBeat table (lanes.map (fun l => ((bin l).1.toNat, (amount l).1.setWidth 32, (amount l).2, l)))
        s.withRoom c lanes 1 (fun s =>
          ((s.enqueue c.g.gid false [beat]).notePois c.g (mergeAll (lanes.map (fun l => (amount l).2)))).finish c 0x1C6 w.words)))

/-! ### Arrival words (R272, R273) -/

/-- The checks of an arrival word's offset. -/
def State.checkAw (s : State) (c : Ctx) (off : Nat) (write : Bool) (k : Result) : Result :=
  let at_ := fun (cause : Nat) => s.takeTrap c ((Trap.plain cause c.active c.pc).withAddr off write)
  if off % 16 != 0 then at_ trapMisaligned
  else if c.scratchBelow < off + 16 then at_ trapScratchRange
  else k

/-- The entry of AWSET or AWADD placed once there is room; a lock that was made while it waited traps it (R337). -/
def State.placeAw (s : State) (c : Ctx) (opc words off : Nat) (it : Option Word32) (op : EntryOp) (first : Bool) : Result :=
  if s.lockHit c.g true true off 16 then
    s.takeTrap c ((Trap.plain trapRangeLock c.active c.pc).withAddr off true)
  else if 64 < c.g.sqCount + 1 then (if first then s.done else s.wait)
  else (s.enqueue c.g.gid true [[(it, op)]]).finish c opc words

/-- AWSET and AWADD: side-effecting, one committed entry; in a retire section the entry takes the turn of the lowest
acting lane's iteration. -/
def State.awOp (s : State) (w : F3) (opc : Nat) (op : Nat → Word32 → EntryOp) : Result :=
  s.issue (fun c =>
    let place := fun (s : State) (c : Ctx) (off val : Word64) (it : Option Word32) (first : Bool) =>
      s.placeAw c opc w.words off.toNat it (op off.toNat (val.setWidth 32)) first
    match c.head.wait with
    | .held [off, val] _ _ _ => place s c off val none false
    | .held [off, val, it] _ _ _ => place s c off val (some (it.setWidth 32)) false
    | _ =>
      let n : Need := ⟨w.legalAwset, true, w.guard, [], [(w.sa, 1), (w.sb, 1)]⟩
      s.gate c n (fun lanes =>
        let off := c.uniform s w.sa
        let val := c.read s w.sb false 0
        let it := c.retireIter (lanes.head?.getD 0)
        if lanes.isEmpty then s.finish c opc w.words
        else if off.2.isSome || val.2.isSome then s.poisonKill c
        else
          s.checkAw c off.1.toNat true
            (if s.lockHit c.g true true off.1.toNat 16 then
              s.takeTrap c ((Trap.plain trapRangeLock c.active c.pc).withAddr off.1.toNat true)
            else if it.isSome && 64 < placesOf (c.g.sq.filter (fun e => e.iter.isSome && !e.committed)) + 1 then
              s.trapAll c trapRegionOverflow
            else
              let vals := [off.1, val.1] ++ (match it with | some i => [i.setWidth 64] | none => [])
              let g := (c.committed opc w.words).mapSlices c.slices (fun _ x => { x with wait := .held vals [] [] none })
              place (s.setGroup g) { c with g := g } off.1 val.1 it true)))

def execAwset (w : F3) (s : State) : Result := s.awOp w 0x1C8 (fun off v => .awset off v)
def execAwadd (w : F3) (s : State) : Result := s.awOp w 0x1C9 (fun off v => .awadd off v)

/-- AWWAIT and AWGEN read the word at its home; `need` is the generation that must have passed. -/
def State.awRead (s : State) (w : F3) (opc : Nat) (waits : Bool) (legal : Bool) : Result :=
  s.issue (fun c =>
    let n : Need := ⟨legal, true, w.guard, [(w.dst, 1)], [(w.sa, 1), (w.sb, 1)]⟩
    s.gate c n (fun lanes =>
      let off := c.uniform s w.sa
      let gen := c.read s w.sb false 0
      if lanes.isEmpty then s.finish c opc w.words
      else if off.2.isSome || gen.2.isSome then s.poisonKill c
      else
        s.checkAw c off.1.toNat false
          (if waits && c.co.scratchWord (off.1.toNat + 8) == gen.1.setWidth 32 then s.wait
          else
            let s := if waits then s.acquire c.g.core .dev else s
            (s.onGroup c.g.gid (fun g => g.writeS c.handler w.dst (c.co.awStatus off.1.toNat, none))).finish c opc w.words)))

def execAwwait (w : F3) (s : State) : Result := s.awRead w 0x1CA true w.legalAwwait
def execAwgen (w : F3) (s : State) : Result := s.awRead w 0x1CB false w.legalAwgen

end Sys2Proof.Machine
end

