-- ==== Sys2Proof/Machine/LaneFloat.lean ====
section
/-!
DEFINITION. Floating-point, packed-half, conversion and quantisation instructions (R180 to R189).
-/

namespace Sys2Proof.Machine

/-! ### FP32 (R180 to R185) -/

/-- A lane function on F32 encodings with the lane's random word. -/
def f32Fn (c : Ctx) (op : Nat → Nat → Nat → Nat → Nat) : LaneFn :=
  fun l x y z => BitVec.ofNat 64 (op (c.random l 0) x.toNat y.toNat z.toNat)

def execFadd (w : F3) (s : State) : Result :=
  s.lane (laneF3 w 0x0C0 w.legalFadd) (fun c => f32Fn c (fun r x y _ => fAdd fmtF32 (fmodsF3 w) r x y))
def execFaddI (w : FI) (s : State) : Result :=
  s.lane (laneFI w 0x0E0 w.legalFadd) (fun c => f32Fn c (fun r x y _ => fAdd fmtF32 (fmodsFI w) r x y))
def execFmul (w : F3) (s : State) : Result :=
  s.lane (laneF3 w 0x0C1 w.legalFadd) (fun c => f32Fn c (fun r x y _ => fMul fmtF32 (fmodsF3 w) r x y))
def execFmulI (w : FI) (s : State) : Result :=
  s.lane (laneFI w 0x0E1 w.legalFadd) (fun c => f32Fn c (fun r x y _ => fMul fmtF32 (fmodsFI w) r x y))
def execFfma (w : F3) (s : State) : Result :=
  s.lane (laneF3 w 0x0C2 w.legalFfma) (fun c => f32Fn c (fun r x y z => fFma fmtF32 (fmodsF3 w) r x y z))

/-- FMNX on encodings (R181). -/
def fmnxOp (m : FMods) (sub : BitVec 3) : LaneFn :=
  fun _ a b _ =>
    BitVec.ofNat 64 (minMaxF32 (sub != 0) (floatIn fmtF32 m.negA m.ftz a.toNat) (floatIn fmtF32 m.negB m.ftz b.toNat))

def execFmnx (w : F3) (s : State) : Result :=
  s.lane (laneF3 w 0x0C3 w.legalFmnx) (fun _ => fmnxOp (fmodsF3 w) w.sub)
def execFmnxI (w : FI) (s : State) : Result :=
  s.lane (laneFI w 0x0E3 w.legalFmnx) (fun _ => fmnxOp (fmodsFI w) w.sub)

/-- FCMP on encodings (R182). -/
def fcmpOp (m : FMods) (sub : BitVec 3) : LaneFn :=
  fun _ a b _ => boolWord (condFloat sub (floatVal fmtF32 m.negA m.ftz a.toNat) (floatVal fmtF32 m.negB m.ftz b.toNat))

def execFcmp (w : F3) (s : State) : Result :=
  s.lane (laneF3 w 0x0C4 w.legalFcmp) (fun _ => fcmpOp (fmodsF3 w) w.sub)
def execFcmpI (w : FI) (s : State) : Result :=
  s.lane (laneFI w 0x0E4 w.legalFcmp) (fun _ => fcmpOp (fmodsFI w) w.sub)

/-- FSFU flips the sign of a first (R183). -/
def execFsfu (w : F3) (s : State) : Result :=
  s.laneFill (laneF3 w 0x0C5 w.legalFsfu) (fun _ _ a _ _ =>
    (fsfuValue w.sub.toNat w.ftz (BitVec.ofNat 32 (floatIn fmtF32 w.negA false a.toNat))).setWidth 64)

/-- FCLASS reads the raw encoding: a[15:0] for the half formats (R185). -/
def execFclass (w : F3) (s : State) : Result :=
  s.lane (laneF3 w 0x0C6 w.legalFclass) (fun _ _ a _ _ => BitVec.ofNat 64 (classOf (fmtOf w.ty) a.toNat))

/-! ### Packed halves (R186) -/

def execHfma2 (w : F3) (s : State) : Result :=
  s.lane (laneF3 w 0x100 w.legalHfma2) (fun c l a b d =>
    packed (fun e x y z => fFma (fmtOf w.ty) (fmodsF3 w) (c.random l e) x y z) a b d)
def execHadd2 (w : F3) (s : State) : Result :=
  s.lane (laneF3 w 0x101 w.legalHadd2) (fun c l a b d =>
    packed (fun e x y _ => fAdd (fmtOf w.ty) (fmodsF3 w) (c.random l e) x y) a b d)
def execHmul2 (w : F3) (s : State) : Result :=
  s.lane (laneF3 w 0x102 w.legalHadd2) (fun c l a b d =>
    packed (fun e x y _ => fMul (fmtOf w.ty) (fmodsF3 w) (c.random l e) x y) a b d)

/-! ### CVT (R187) -/

/-- The source format of a CVT word. -/
def cvtFrom (w : F3) : Ty := Ty.ofCode (w.sb.typeCode.getD 0)

/-- A converted element as a 32-bit word (or 64 bits), narrow signed integers sign-extended (R187). -/
def cvtOp (from_ into : Ty) (rnd : Rnd) (sat ftz : Bool) (k : Nat) (r : Nat) (a : Word64) : Word64 :=
  let x := a.toNat / 2 ^ (from_.width * k) % 2 ^ from_.width
  if into.isFloat then
    let v := if from_.isFloat then (if ftz then (typeValue from_ x).flush (fmtOf from_) else typeValue from_ x)
             else typeValue from_ x
    BitVec.ofNat 64 ((fmtOf into).round rnd sat ftz r v)
  else if from_.isFloat then
    let v := if ftz then (typeValue from_ x).flush (fmtOf from_) else typeValue from_ x
    BitVec.ofInt 64 (toIntFmt rnd r into.signed into.width v)
  else intResult into sat (readInt from_.signed from_.width x)

def execCvt (w : F3) (s : State) : Result :=
  let from_ := cvtFrom w
  let o : LaneOp := { laneF3 w 0x103 w.legalCvt with aWide := from_.wide, b := .reg .zero false, bWide := false }
  s.lane o (fun c l a _ _ => cvtOp from_ w.ty w.rnd w.sat w.ftz w.sub.toNat (c.random l 0) a)

/-! ### QCVT (R188, R189) -/

/-- The block format of a QCVT word: a float format with its FMAX and eF, or an integer range with Q and a sign. -/
inductive QFmt
  | float (f : FFmt) (fmax eF : Nat)
  | int (signed : Bool) (q : Nat)
  deriving DecidableEq, Repr

def qFmt (t : Ty) (block : BitVec 3) : QFmt :=
  if block = 0 then
    match t with
    | .e4m3 => .float fmtE4M3 448 8
    | .e5m2 => .float fmtE5M2 57344 15
    | _ => .float fmtE2M1 6 2
  else
    match t with
    | .i8 => .int true 127
    | .i4 => .int true 7
    | .n8 => .int false 255
    | _ => .int false 15

/-- The larger magnitude of finite values. -/
def maxAbs (xs : List FV) : FV := xs.foldl (fun m x => if m.lt x.abs then x.abs else m) (.fin false 0 1)
def minOf (xs : List FV) : FV := xs.foldl (fun m x => if x.lt m then x else m) (.fin false 0 1)
def maxOf (xs : List FV) : FV := xs.foldl (fun m x => if m.lt x then x else m) (.fin false 0 1)

/-- floor(log2 x) of a positive finite value, else 0. -/
def log2Of : FV → Int
  | .fin _ n d => if n = 0 then 0 else floorLog2 n d
  | _ => 0

def pow2 (k : Int) : FV := let p := scaled 1 k; .fin false p.1 p.2

/-- A value rounded to a float format's precision before Over (R150): the rounded value itself, with no largest
finite. -/
def roundUnbounded (f : FFmt) (mode : Rnd) (r : Nat) : FV → FV
  | .fin s n d =>
    if n = 0 then .fin s 0 1
    else
      let k : Int := max (floorLog2 n d) (1 - (f.bias : Int)) - f.frac
      let p := divPow2 n d k
      let q := if roundUp mode s r p.1 p.2.1 p.2.2 then p.1 + 1 else p.1
      let v := scaled q k
      .fin s v.1 v.2
  | x => x

/-- An F16 scale, as R188 rounds it: RNE with saturation. -/
def scaleF16 (v : FV) : FV := fmtF16.decode (fmtF16.round .rne true false 0 v)

/-- A block's result: the code of each lane, the scale word, and whether a value saturated. -/
structure QBlock where
  codes : List Nat
  scale : Word32
  qsat : Bool
  deriving DecidableEq, Repr

/-- Block float with exponent k: raise while some value overflows and fewer than three raise steps have run. -/
def qFloat (f : FFmt) (fmax : Nat) (mode : Rnd) (xs : List (FV × Nat)) : Nat → Int → QBlock
  | fuel, k =>
    let ys := xs.map (fun (x, r) => roundUnbounded f mode r (FV.div x (pow2 k)))
    let bad := ys.any (fun y => FV.lt (.fin false fmax 1) y.abs)
    match fuel with
    | fuel + 1 =>
      if bad then qFloat f fmax mode xs fuel (min (k + 1) 127)
      else ⟨ys.map (fun y => f.round .rne true false 0 y), BitVec.ofNat 32 (fmtF32.rne (pow2 k)), false⟩
    | 0 => ⟨ys.map (fun y => f.round .rne true false 0 y), BitVec.ofNat 32 (fmtF32.rne (pow2 k)), bad⟩

/-- The zero point of an unsigned block at scale sc (R188). -/
def qZero (signed : Bool) (q : Nat) (lo sc : FV) : Int :=
  if signed then 0 else clampInt 0 q (roundInt .rne 0 (FV.div lo.neg sc))

/-- Block integer with scale sc. -/
def qInt (signed : Bool) (q : Nat) (mode : Rnd) (lo : FV) (width : Nat) (xs : List (FV × Nat)) : Nat → FV → QBlock
  | fuel, sc =>
    let z := qZero signed q lo sc
    let ys := xs.map (fun (x, r) => roundInt mode r (FV.div x sc) + z)
    let low : Int := if signed then -(q : Int) - 1 else 0
    let bad := ys.any (fun y => decide (y < low) || decide ((q : Int) < y))
    let out : QBlock := ⟨ys.map (fun y => wrapBits width (clampInt low q y)),
                BitVec.ofNat 32 (wrapBits 8 z * 2 ^ 16 + fmtF16.rne sc), bad⟩
    match fuel with
    | fuel + 1 => if bad then qInt signed q mode lo width xs fuel (scaleF16 (FV.mul (.fin false 2 1) sc)) else out
    | 0 => out

/-- The block of participating values with their random words (R188). R188 gives z by a division by s before it sets an s that
rounded to 0 to 2^-24; z is computed with that s: DESIGN CHOICE (log 114). -/
def quantise (fmt : QFmt) (width : Nat) (mode : Rnd) (xs : List (FV × Nat)) : QBlock :=
  let vs := xs.map (·.1)
  if vs.any (fun x => x.isNan || x.isInf) then
    ⟨xs.map (fun _ => 0), match fmt with | .float _ _ _ => 0x7FC00000 | .int _ _ => 0x00007E00, true⟩
  else
    match fmt with
    | .float f fmax eF =>
      let m := maxAbs vs
      let k : Int := if m.isZero then 0 else clampInt (-126) 127 (log2Of m - eF)
      qFloat f fmax mode xs 3 k
    | .int signed q =>
      let lo := minOf vs
      let span := if signed then maxAbs vs else FV.add .rne (maxOf vs) lo.neg
      let s0 := scaleF16 (FV.div span (.fin false q 1))
      let sc := if span.isZero then .fin false 1 1 else if s0.isZero then pow2 (-24) else s0
      qInt signed q mode lo width xs 3 sc

/-- One block of 32 lanes: the writes of its participating lanes, and QSAT. -/
def qBlock (c : Ctx) (s : State) (w : F3) (ls : List Nat) : List RegWrite × Option Tag × Bool :=
  let reads := ls.map (fun l => c.read s w.sa false l)
  let t := mergeAll (reads.map (·.2))
  let q := quantise (qFmt w.ty w.sub) w.ty.width w.rnd
    ((reads.map (·.1)).zip ls |>.map (fun (x, l) => (fmtF32.decode x.toNat, c.random l 0)))
  let d := match w.dst with | .v n => n.toNat | _ => 0
  ((ls.zip q.codes).flatMap (fun (l, code) =>
      [.v d l ⟨BitVec.ofNat 32 code, t⟩, .v (d + 1) l ⟨q.scale, t⟩]), t, q.qsat && !ls.isEmpty)

def execQcvt (w : F3) (s : State) : Result :=
  s.issue (fun c =>
    let n : Need := ⟨w.legalQcvt, false, w.guard, [(w.dst, 2)], [(w.sa, 1)]⟩
    s.gate c n (fun lanes =>
      let blocks := (List.range 4).map (fun j => qBlock c s w (lanes.filter (fun l => l / 32 == j)))
      let writes := blocks.flatMap (·.1)
      let s1 := if lanes.isEmpty then s else s.beginFill c.g.gid (vRegsOf w.dst 2) [] writes .ready false
      let note : Chkiv := { Chkiv.ofPois (mergeAll (blocks.map (·.2.1))) with qsat := blocks.any (·.2.2) }
      ((s1.noteGroup c.g note)).finish c 0x104 w.words))

end Sys2Proof.Machine
end

