-- ==== Sys2Proof/Machine/Tiles.lean ====
section
/-!
DEFINITION. The data of the matrix engine: tiles and staging slots (R276 to R278), k-steps and scaled k-steps (R156,
R275, R288, R289), the tile operations (R311, R312), tile descriptors (R285) and the bytes they name (R286, R307,
R316).
-/

namespace Sys2Proof.Machine

/-! ### Formats (R71, R275) -/

/-- FMT as a TYPE. -/
def ftTy (fmt : BitVec 4) : Ty :=
  match fmt.toNat with
  | 0 => .f32 | 1 => .bf16 | 2 => .f16 | 3 => .e4m3 | 4 => .e5m2 | 5 => .e2m1 | 6 => .i8 | 7 => .i4 | 8 => .n8 | 9 => .n4
  | _ => .i32

/-- The format of an operand: its element TYPE, whether it is block-scaled, and BGRP. -/
structure KFmt where
  ty : Ty
  blk : Bool
  bgrp : Nat
  deriving DecidableEq, Repr

/-- The depth d of R275: 256 bits to a row. -/
def KFmt.depth (k : KFmt) : Nat := 256 / k.ty.width
/-- Block floats and block integers (R148, R149). -/
def KFmt.blockInt (k : KFmt) : Bool := k.blk && !k.ty.isFloat
/-- The scale words of one row for one step (R277). -/
def KFmt.words (k : KFmt) : Nat := if k.blk && k.depth == 64 && (k.ty.isFloat || k.bgrp == 0) then 2 else 1

def kfmtOf (w : FT) : KFmt := ⟨ftTy w.fmt, w.blk, w.bgrp.toNat⟩

/-! ### Tiles -/

/-- The 1,024 elements of a tile, by 32·row + column. -/
abbrev Mat := SMap PWord

def matAt (m : Mat) (k : Nat) : PWord := SMap.get PWord.zero m k
def matOf (f : Nat → PWord) : Mat := ((List.range 1024).map (fun k => (k, f k))).filter (fun e => e.2 != PWord.zero)

/-- The Merge of the poison of a tile's elements. -/
def matPois (m : Mat) : Option Tag := mergeAll (m.map (·.2.pois))

def Cohort.tile (c : Cohort) (t : Nat) : Mat :=
  (c.tiles.filter (fun e => e.1 / 1024 == t)).map (fun e => (e.1 % 1024, e.2))
def Cohort.setTile (c : Cohort) (t : Nat) (m : Mat) : Cohort :=
  { c with tiles := c.tiles.filter (fun e => decide (e.1 / 1024 < t)) ++ m.map (fun e => (e.1 + 1024 * t, e.2)) ++
                    c.tiles.filter (fun e => decide (t < e.1 / 1024)) }

def Cohort.maskOf (c : Cohort) (t : Nat) : BitVec 16 := SMap.get 0 c.tileMask t
def Cohort.depthOf (c : Cohort) (t : Nat) : Nat := SMap.get 0 c.tileDepth t
def Cohort.setMask (c : Cohort) (t : Nat) (m : BitVec 16) (d : Nat) : Cohort :=
  { c with tileMask := SMap.put 0 c.tileMask t m, tileDepth := SMap.put 0 c.tileDepth t d }

/-! ### Staging slots (R276, R277) -/

def Cohort.slotOf (c : Cohort) (n : Nat) : StageSlot := SMap.get StageSlot.zero c.stage n
def Cohort.setSlot (c : Cohort) (n : Nat) (x : StageSlot) : Cohort := { c with stage := SMap.put StageSlot.zero c.stage n x }

/-- The elements and scales of a slot replaced. -/
def StageSlot.fill (x : StageSlot) (elems scales : List PByte) : StageSlot := { x with elems := elems, scales := scales }

/-- The 32 bytes of row or column r, as a number with their poison. -/
def StageSlot.row (x : StageSlot) (r : Nat) : Nat × Option Tag :=
  let bs := (List.range 32).map (fun b => x.elems.getD (32 * r + b) default)
  (numOfBytes bs, poisOfBytes bs)

/-- Scale word w of row or column r. -/
def StageSlot.scale (x : StageSlot) (r w : Nat) : Nat × Option Tag :=
  let bs := (List.range 4).map (fun b => x.scales.getD (8 * r + 4 * w + b) default)
  (numOfBytes bs, poisOfBytes bs)

/-- Rows of codes packed into a slot's bytes; each sector takes the Merge of the codes in it. -/
def packRows (width : Nat) (rows : List (List (Nat × Option Tag))) : List PByte :=
  let pois := fun (r : Nat) => mergeAll (((rows.getD (r / 2 * 2) []) ++ rows.getD (r / 2 * 2 + 1) []).map (·.2))
  rows.zipIdx.flatMap (fun (es, r) =>
    let n := (es.zipIdx.map (fun (c, e) => c.1 % 2 ^ width * 2 ^ (width * e))).sum
    (List.range 32).map (fun b => (⟨BitVec.ofNat 8 (n / 2 ^ (8 * b)), pois r⟩ : PByte)))

/-- The scale words of 32 rows packed into a slot's scale area; each sector takes the Merge of the words in it. -/
def packScales (ws : List (List (Nat × Option Tag))) : List PByte :=
  let pois := fun (r : Nat) => mergeAll (((List.range 8).flatMap (fun i => ws.getD (r / 8 * 8 + i) [])).map (·.2))
  ws.zipIdx.flatMap (fun (x, r) =>
    (List.range 8).map (fun b => (⟨BitVec.ofNat 8 ((x.getD (b / 4) (0, none)).1 / 2 ^ (8 * (b % 4))), pois r⟩ : PByte)))

/-- Every scale word F32 1.0, clean (R312). -/
def unitScales : List PByte := packScales (List.replicate 32 [(0x3F800000, none), (0x3F800000, none)])

/-! ### K-steps -/

/-- One row of an operand as a step reads it. -/
structure KRow where
  codes : List Nat
  pois : Option Tag
  scales : List (Nat × Option Tag)
  deriving DecidableEq, Repr

def StageSlot.krow (x : StageSlot) (k : KFmt) (r : Nat) : KRow :=
  let n := x.row r
  { codes := (List.range k.depth).map (fun e => n.1 / 2 ^ (k.ty.width * e) % 2 ^ k.ty.width), pois := n.2
    scales := (List.range k.words).map (fun w => x.scale r w) }

/-- The zero point of a scale record, read by the element's signedness (R148). -/
def zeroPoint (k : KFmt) (record : Nat) : Int := if k.blockInt then readInt k.ty.signed 8 (record / 2 ^ 16) else 0

/-- The scale a word holds: F32, or the F16 of a record. -/
def scaleValue (k : KFmt) (word : Nat) : FV := if k.blockInt then fmtF16.decode word else fmtF32.decode word

/-- The partial sum of part h of a step (R156, R288): an exact integer, or an F32. -/
def partialInt (k : KFmt) (a b : KRow) (h : Nat) : Int :=
  let n := k.depth / k.words
  let za := zeroPoint k (a.scales.getD h (0, none)).1
  let zb := zeroPoint k (b.scales.getD h (0, none)).1
  let q := fun (x : Nat) => readInt k.ty.signed k.ty.width x
  (((a.codes.drop (n * h)).take n).zip ((b.codes.drop (n * h)).take n)).foldl
    (fun s (x, y) => s + (q x - za) * (q y - zb)) 0
def partialFloat (k : KFmt) (a b : KRow) (h : Nat) : Nat :=
  let n := k.depth / k.words
  let v := fun (x : Nat) => (fmtOf k.ty).decode x
  fmtF32.rne (FV.sum ((((a.codes.drop (n * h)).take n).zip ((b.codes.drop (n * h)).take n)).map
    (fun (x, y) => FV.mul (v x) (v y))))

/-- The partial sum as a value. -/
def partialValue (k : KFmt) (a b : KRow) (h : Nat) : FV :=
  if k.ty.isFloat then fmtF32.decode (partialFloat k a b h) else FV.ofInt (partialInt k a b h)

/-- One output element after a step (R156; with scales, R289). -/
def kElem (scaled : Bool) (k : KFmt) (a b : KRow) (acc : Nat) : Nat :=
  (List.range k.words).foldl (fun acc h =>
    if scaled then
      let s := FV.mul (scaleValue k (a.scales.getD h (0, none)).1) (scaleValue k (b.scales.getD h (0, none)).1)
      fmtF32.rne (FV.add .rne (fmtF32.decode acc) (FV.mul (partialValue k a b h) s))
    else if k.ty.isFloat then fmtF32.rne (FV.add .rne (fmtF32.decode acc) (fmtF32.decode (partialFloat k a b h)))
    else wrapBits 32 ((acc : Int) + partialInt k a b h)) acc

/-- The poison a row brings to its outputs: its elements', and its scales' where the step computes with them. -/
def KRow.tag (scaled : Bool) (k : KFmt) (r : KRow) : Option Tag :=
  mergePois r.pois (if scaled || k.blockInt then mergeAll (r.scales.map (·.2)) else none)

/-- A k-step into a tile, with A and B from two slots. -/
def kStep (scaled : Bool) (k : KFmt) (a b : StageSlot) (acc : Mat) : Mat :=
  let ra := (List.range 32).map (a.krow k)
  let rb := (List.range 32).map (b.krow k)
  matOf (fun e =>
    let x := ra.getD (e / 32) ⟨[], none, []⟩
    let y := rb.getD (e % 32) ⟨[], none, []⟩
    let old := matAt acc e
    ⟨BitVec.ofNat 32 (kElem scaled k x y old.val.toNat), mergePois old.pois (mergePois (x.tag scaled k) (y.tag scaled k))⟩)

/-- A scale record of the operand has its reserved bits set (R148). -/
def StageSlot.badRecord (x : StageSlot) (k : KFmt) : Bool :=
  k.blockInt && (List.range 32).any (fun r => (List.range k.words).any (fun w =>
    decide (2 ^ 24 ≤ (x.scale r w).1)))

/-! ### Tile operations (R297, R311, R312) -/

/-- The sum ⊕ of R297 on each element. -/
def matAdd (int : Bool) (x y : Mat) : Mat :=
  matOf (fun e =>
    let a := matAt x e
    let b := matAt y e
    let v := if int then a.val + b.val
             else BitVec.ofNat 32 (fmtF32.rne (FV.add .rne (fmtF32.decode a.val.toNat) (fmtF32.decode b.val.toNat)))
    ⟨v, mergePois a.pois b.pois⟩)

/-- MSCL's product with its factor field (R311). -/
def matScale (int : Bool) (f : BitVec 18) (x : Mat) : Mat :=
  matOf (fun e =>
    let a := matAt x e
    let v := if int then a.val * f.signExtend 32
             else BitVec.ofNat 32 (fmtF32.rne (FV.mul (fmtF32.decode a.val.toNat) (fmtF32.decode (f.toNat * 2 ^ 14))))
    ⟨v, a.pois⟩)

/-- The random word of R152 for a stream word at pc. -/
def Cohort.tileRandom (c : Cohort) (pc : Addr) (rsalt : Word32) (row col tile : Nat) : Nat :=
  rsdWord c.seed (BitVec.ofNat 64 (c.cx.toNat + 2 ^ 16 * c.cy.toNat + 2 ^ 32 * c.cz.toNat + 2 ^ 40 * 0xF))
    (pc.setWidth 64) (BitVec.ofNat 64 (row + 2 ^ 8 * col + 2 ^ 16 * tile)) (rsalt.setWidth 64)

/-- A tile element, read as F32 or as I32 under SRCI, converted to a plain format (R312, R316). -/
def convElem (srci : Bool) (ty : Ty) (rnd : Rnd) (sat : Bool) (r : Nat) (x : Word32) : Nat :=
  if ty == .f32 || ty == .i32 then x.toNat
  else (cvtOp (if srci then .i32 else .f32) ty rnd sat false 0 r (x.setWidth 64)).toNat % 2 ^ ty.width

/-- RND codes of a stream word (R63). -/
def rndOf (n : Nat) : Rnd := match n with | 0 => .rne | 1 => .rtz | 2 => .rdn | 3 => .rup | _ => .rsd

/-- MCVT (R312): the fragment that a tile's elements make; `pc` and `rsalt` are the word's coordinates under RSD. -/
def Cohort.convert (c : Cohort) (w : FT) (pc : Addr) (rsalt : Word32) (x : Mat) (slot : StageSlot) : StageSlot :=
  let ty := ftTy w.fmt
  let rows := (List.range 32).map (fun m => (List.range (256 / ty.width)).map (fun e =>
    let idx := 16 * b2n (bit w.ops 7) + e
    if idx < 32 then
      let row := if bit w.ops 8 then idx else m
      let col := if bit w.ops 8 then m else idx
      let v := matAt x (32 * row + col)
      let r := if w.mcvtRnd = 4 then c.tileRandom pc rsalt row col w.tile.toNat else 0
      (convElem (bit w.ops 6) ty (rndOf w.mcvtRnd) (bit w.ops 11) r v.val, v.pois)
    else (0, none)))
  slot.fill (packRows ty.width rows) unitScales

/-! ### Tile descriptors (R285) -/

/-- A descriptor's fields. -/
structure TDesc where
  spc : Nat
  base : Nat
  pitch : Nat
  rows : Nat
  cols : Nat
  sspc : Nat
  sbase : Nat
  spitch : Nat
  fmt : BitVec 4
  blk : Bool
  bgrp : BitVec 2
  krow : Bool
  deriving DecidableEq, Repr

def Desc.fields (d : Desc) : TDesc :=
  { spc := (bits d.w0 62 2).toNat, base := (bits d.w0 0 57).toNat, pitch := (bits d.w1 32 32).toNat
    rows := (bits d.w1 16 16).toNat, cols := (bits d.w1 0 16).toNat, sspc := (bits d.w2 62 2).toNat
    sbase := (bits d.w2 0 57).toNat, spitch := (bits d.w3 32 32).toNat, fmt := bits d.w3 28 4, blk := bit d.w3 27
    bgrp := bits d.w3 25 2, krow := bit d.w3 24 }

/-- The checks of R285 on a clean descriptor. -/
def Desc.legal (d : Desc) : Bool :=
  let t := d.fields
  bits d.w0 57 5 == 0 && bits d.w2 57 5 == 0 && bits d.w3 0 24 == 0 && decide (t.spc ≤ 1) && decide (t.sspc ≤ 1) &&
  decide (1 ≤ t.rows) && decide (1 ≤ t.cols) && FT.formatOk t.fmt t.blk t.bgrp &&
  decide ((t.cols * (ftTy t.fmt).width + 7) / 8 ≤ t.pitch)

def TDesc.kfmt (t : TDesc) : KFmt := ⟨ftTy t.fmt, t.blk, t.bgrp.toNat⟩

/-- Element (row, col): its byte address and the bit it starts at. -/
def TDesc.elemAt (t : TDesc) (row col : Nat) : Nat × Nat :=
  let b := col * t.kfmt.ty.width
  (t.base + row * t.pitch + b / 8, b % 8)
def TDesc.inside (t : TDesc) (row col : Nat) : Bool := decide (row < t.rows) && decide (col < t.cols)

/-- Outer index o and k index k as row and column (R307). -/
def TDesc.place (t : TDesc) (o k : Nat) : Nat × Nat := if t.krow then (k, o) else (o, k)

/-- The plain format has no scales where SBASE is 0 (R285; log 32). -/
def TDesc.hasScales (t : TDesc) : Bool := t.blk || t.sbase != 0

/-- The scale word w of outer index o for k-step ks: its address, or none where its elements lie outside (R277, R286). -/
def TDesc.scaleAt (t : TDesc) (o ks w : Nat) : Option Nat :=
  let d := t.kfmt.depth
  let k := d * ks + 32 * w
  let group := if t.kfmt.blockInt then 32 * 2 ^ t.bgrp.toNat else 32
  let block := if t.blk then k / group else 0
  let p := t.place o k
  if t.inside p.1 p.2 then some (t.sbase + o * t.spitch + 4 * block) else none

/-- The scale word that stands for elements outside the tensor: 1.0 (R286). -/
def TDesc.unitScale (t : TDesc) : Nat := if t.kfmt.blockInt then 0x3C00 else 0x3F800000

/-! ### Bytes that a stream names -/

/-- The pages of some virtual addresses, each translated once for a stream; none when one does not translate or its page
refuses the access (R281). -/
def State.mapPages (s : State) (p : Part) (co : Cohort) (kind : AccKind) (vas : List Nat) :
    Option (List (Nat × Nat)) × State :=
  let pages := vas.foldl (fun acc va => if acc.contains (va / 2 ^ 17) then acc else acc ++ [va / 2 ^ 17]) []
  pages.foldl (fun acc page =>
    match acc.1 with
    | none => acc
    | some m =>
      if 2 ^ 40 ≤ page then (none, acc.2)
      else
        let r := acc.2.translate p co.core (acc.2.streamAsid co) (page * 2 ^ 17)
        match r.1.forAcc kind with
        | .ok pa => (some (m ++ [(page, pa)]), r.2)
        | _ => (none, r.2)) (some [], s)

/-- The physical address of a virtual one in mapped pages. -/
def mappedAt (m : List (Nat × Nat)) (va : Nat) : Nat :=
  ((m.find? (fun e => e.1 == va / 2 ^ 17)).map (·.2)).getD 0 + va % 2 ^ 17

/-- A byte of a tensor: of global memory at its home, or of the weight store (R336). -/
def State.tensorByte (s : State) (p : Part) (m : List (Nat × Nat)) (spc a : Nat) : PByte :=
  if spc = 0 then s.readAs p.id (mappedAt m a) else s.readWs p a

/-- The tokens that a fetch of global bytes takes, sector by sector (R52). -/
def State.chargeFetch (s : State) (p : Part) (m : List (Nat × Nat)) (vas : List Nat) : State :=
  let pas := vas.map (mappedAt m)
  let secs := pas.foldl (fun acc a => if acc.contains (a / 64) then acc else acc ++ [a / 64]) []
  secs.foldl (fun s sec => s.chargeRead p.id (64 * sec) (pas.filter (fun a => a / 64 == sec)).length) s

/-- Some bytes of a tensor that must be readable: global addresses are mapped and weight-store offsets lie in the
partition's space; none is a page fault of the stream (log 33). -/
def State.readable (s : State) (p : Part) (co : Cohort) (as : List (Nat × Nat)) : Option (List (Nat × Nat)) × State :=
  if as.any (fun a => a.1 != 0 && decide (p.wsSize ≤ a.2)) then (none, s)
  else s.mapPages p co .read ((as.filter (fun a => a.1 == 0)).map (·.2))

/-- The fragment of a descriptor at outer block ob and k-step ks (R277, R286, R307): its element bytes and its scale
area; none is a page fault. In a pull-mode partition the fetch takes tokens (R52). -/
def State.fragment (s : State) (p : Part) (co : Cohort) (t : TDesc) (ob ks : Nat) :
    Option (List PByte × List PByte) × State :=
  let k := t.kfmt
  let width := k.ty.width
  let elem := fun (m e : Nat) =>
    let q := t.place (32 * ob + m) (k.depth * ks + e)
    if t.inside q.1 q.2 then some (t.elemAt q.1 q.2) else none
  let cells := (List.range 32).map (fun m => (List.range k.depth).map (elem m))
  let scs := (List.range 32).map (fun m => (List.range k.words).map (fun w => t.scaleAt (32 * ob + m) ks w))
  let size := (width + 7) / 8
  let es := cells.flatten.flatMap (fun c => match c with
    | some (a, _) => (List.range size).map (fun i => (t.spc, a + i))
    | none => [])
  let ss := if t.hasScales then scs.flatten.flatMap (fun c => match c with
    | some a => (List.range 4).map (fun i => (t.sspc, a + i))
    | none => []) else []
  match s.readable p co (es ++ ss) with
  | (none, s) => (none, s)
  | (some m, s) =>
    let rows := cells.map (fun r => r.map (fun c =>
      match c with
      | some (a, sh) =>
        let bs := (List.range size).map (fun i => s.tensorByte p m t.spc (a + i))
        (numOfBytes bs / 2 ^ sh % 2 ^ width, poisOfBytes bs)
      | none => (0, none)))
    let scales := scs.map (fun r => r.map (fun c =>
      if !t.hasScales then (0, none)
      else
        match c with
        | some a =>
          let bs := (List.range 4).map (fun i => s.tensorByte p m t.sspc (a + i))
          (numOfBytes bs, poisOfBytes bs)
        | none => (t.unitScale, none)))
    (some (packRows width rows, packScales scales),
      if p.totals.push then s else s.chargeFetch p m (((es ++ ss).filter (fun a => a.1 == 0)).map (·.2)))

end Sys2Proof.Machine
end

