-- ==== Sys2Proof/Machine/TileStream.lean ====
section
/-!
DEFINITION. The cohort sequencer's words and the matrix engine's steps: stops (R281), lineages (R294 to R301, R313 to
R315), k-steps and tile operations (R310 to R312), descriptors and operand loads (R304 to R309), stores (R316),
barriers, loops, priority and the end (R317 to R319), the choice among streams (R291, R292), early fetches (R280),
landing slots (R244), multicast (R287) and replay (R297, R298).
-/

namespace Sys2Proof.Machine

/-! ### The issuing stream -/

/-- The cohort whose stream issues, with its partition. -/
structure SCtx where
  co : Cohort
  p : Part

def State.stream? (s : State) : Option SCtx :=
  match s.cur with
  | .stream uid =>
    match s.cohort? uid with
    | none => none
    | some co => (s.part? co.part).map (fun p => ⟨co, p⟩)
  | _ => none

/-- The meaning of a stream word given for its stream; with no issuing stream there is none. -/
def State.stream (s : State) (k : SCtx → Result) : Result :=
  match s.stream? with
  | some c => k c
  | none => .fault .noIssuer

namespace SCtx

def uid (c : SCtx) : Nat := c.co.uid
def pc (c : SCtx) : Addr := c.co.seq.pc
/-- A tile, slot or descriptor name lies within the cohort's counts (R278). -/
def tileOk (c : SCtx) (t : Nat) : Bool := decide (t < c.co.atiles)
def slotOk (c : SCtx) (n : Nat) : Bool := decide (n < c.co.stsl)

end SCtx

/-- The code of a LINEAGE stop, which is no trap code (R281). -/
def stopLineage : Nat := 0x1B

/-- The sequencer stops at the word (R281). -/
def State.seqStop (s : State) (c : SCtx) (cause : Nat) : Result :=
  (s.requestKill c.uid (killStop cause c.pc.toNat)).done

/-- A poisoned descriptor kills the cohort at its first use, and the task with it (R281). -/
def State.seqPoison (s : State) (c : SCtx) : Result :=
  (s.requestKill c.uid { killPoison c.pc.toNat with relaunch := false }).done

/-- A change of the sequencer. -/
def State.onSeq (s : State) (uid : Nat) (f : Sequencer → Sequencer) : State :=
  s.onCohort uid (fun co => { co with seq := f co.seq })

/-- The stream goes on at an address. -/
def State.seqAt (s : State) (c : SCtx) (pc : Addr) : Result :=
  (s.onSeq c.uid (fun q => { q with pc := pc })).done

/-- The word has issued; the stream goes on at the next. -/
def State.seqNext (s : State) (c : SCtx) : Result := s.seqAt c (c.pc + 8)

/-- Poison that a word reads as data (R160). -/
def State.seqNote (s : State) (c : SCtx) (t : Option Tag) : State :=
  if t.isSome then s.noteCohort c.uid c.co.part c.co.tid (Chkiv.ofPois t) else s

/-! ### Lineages (R294 to R296) -/

def Core.lineage (c : Core) (l : Nat) : Lineage := SMap.get Lineage.clear c.lineages l
def Core.setLineage (c : Core) (l : Nat) (x : Lineage) : Core := { c with lineages := SMap.put Lineage.clear c.lineages l x }

/-- The lineages of a cohort in a state, as a mask. -/
def Core.linMask (c : Core) (uid : Nat) (st : LinState) : BitVec 16 :=
  BitVec.ofNat 16 (((List.range 16).filter (fun l => (c.lineage l).state == st && (c.lineage l).owner == uid)).map
    (fun l => 2 ^ l)).sum

/-- The lineage of the cohort that is OPEN on a tile as its source. -/
def Core.openOn (c : Core) (uid tile : Nat) : Option Nat :=
  (List.range 16).find? (fun l =>
    (c.lineage l).state == .open && (c.lineage l).owner == uid && (c.lineage l).src == tile)

/-- The lineages a mask names. -/
def maskList (m : BitVec 16) : List Nat := (List.range 16).filter (fun l => bit m l)

/-- The depth a derived instruction gives its destination (R315). -/
def newDepth (own : Nat) (operands : List Nat) : Nat := operands.foldl (fun d x => max d (x + 1)) own

/-- A derived instruction recorded in every lineage of its mask, which is its destination's new one (R296); `a` and `b` are its
operands' masks, and an operand with a mask is a derived one in each of those lineages. -/
def State.derive (s : State) (c : SCtx) (m a b : BitVec 16) (op : DerivedOp) (w : FT) (kept : StageSlot)
    (rsalt : Word32) : State :=
  s.onCore c.co.core (fun k => (maskList m).foldl (fun k l =>
    let x := k.lineage l
    k.setLineage l { x with derived := x.derived ++ [{ op := op, word := w, pc := c.pc, aDerived := a != 0
                                                       bDerived := b != 0, kept := kept, rsalt := rsalt }] }) k)

/-- RSALT of the cohort's group 0, and after its end the last it held (R152; log 31). -/
def State.rsalt0 (s : State) (co : Cohort) : Word32 :=
  match s.groupZero? co.uid with
  | some g => g.ctl.rsalt
  | none => co.rsalt0

/-! ### Words that need the engine (R279, R291, R298) -/

/-- What an engine word touches: its tiles, the slots it reads, and the slots it writes. -/
structure Touch where
  tiles : List Nat
  reads : List Nat
  writes : List Nat

/-- The tiles and slots of a word that needs the engine; none for another word. -/
def engineTouch : Instr → Option Touch
  | .mmul w => some ⟨[w.tile.toNat], [w.op1.toNat, w.op2.toNat], []⟩
  | .msca w => some ⟨[w.tile.toNat], [w.op1.toNat, w.op2.toNat], []⟩
  | .mzero w => some ⟨[w.tile.toNat], [], []⟩
  | .madd w => some ⟨[w.tile.toNat, (bits w.ops 0 6).toNat], [], []⟩
  | .mscl w => some ⟨[w.tile.toNat, (bits w.ops 0 6).toNat], [], []⟩
  | .mcvt w => some ⟨[w.tile.toNat], [], [w.op1.toNat]⟩
  | .mpub w => some ⟨[w.tile.toNat], [], []⟩
  | _ => none

/-- A slot whose delivery is outstanding is not filled yet (R279, R287, R308). -/
def Sequencer.awaits (q : Sequencer) (slot : Nat) : Bool :=
  q.recvs.any (fun r => r.2 == slot) || (match q.send with | some m => m.slot == slot | none => false)

/-- The objects hold a lineage that has issued its END and not closed, or a slot is not filled yet: the word waits
(R279, R298, R314). -/
def Core.blocks (k : Core) (co : Cohort) (t : Touch) : Bool :=
  let e := k.linMask co.uid .ending
  t.tiles.any (fun x => co.maskOf x &&& e != 0) ||
  t.reads.any (fun x => (co.slotOf x).mask &&& e != 0 || co.seq.awaits x) ||
  t.writes.any (fun x => ((co.slotOf x).mask ||| (co.slotOf x).pins) &&& e != 0 || co.seq.awaits x)

/-- The tile is the source of a lineage of the cohort that has not closed. -/
def Core.isSource (c : Core) (uid tile : Nat) : Bool :=
  (List.range 16).any (fun l => (c.lineage l).state != .closed && (c.lineage l).owner == uid && (c.lineage l).src == tile)

/-- A request has all its operands: it waits for no tile (R300). -/
def LmmReq.ready (q : LmmReq) : Bool := q.tile.isNone

/-- An engine word: an illegal word or name stops the stream; it waits for its objects, then for the engine, which a
queued LMM takes first (R293). -/
def State.engineWord (s : State) (c : SCtx) (legal : Bool) (t : Touch) (k : Core → Result) : Result :=
  let core := s.core c.co.core
  if !legal || t.tiles.any (fun x => !c.tileOk x) || (t.reads ++ t.writes).any (fun x => !c.slotOk x) then
    s.seqStop c trapIllegal
  else if core.blocks c.co t || core.lmmQueue.any LmmReq.ready || core.engine != some c.uid then s.wait
  else k core

/-! ### K-steps (R295, R310) -/

/-- The k-step goes to the tail of the lineage open on its tile, and END closes the lineage. -/
def State.tailStep (s : State) (c : SCtx) (w : FT) (scaled : Bool) (core : Core) (l : Nat) (a b : StageSlot) : Result :=
  let x := core.lineage l
  let k := kfmtOf w
  let t := kStep scaled k a b x.tail
  let x := { x with tail := t, tailInt := !scaled && !k.ty.isFloat }
  let ends := bit w.ops 28
  let seq := ((List.range 16).map (fun i => (core.lineage i).endSeq)).foldl max 0 + 1
  let x := if ends then { x with corrections := x.corrections ++ [t], tail := [], state := .ending, endSeq := seq } else x
  let s := s.setCore c.co.core (core.setLineage l x)
  let s := if ends then s.onSeq c.uid (fun q => { q with endedAt := if q.endedAt.contains c.pc then q.endedAt else q.endedAt ++ [c.pc] })
           else s
  (s.seqNote c (matPois t)).seqNext c

/-- The k-step adds to its tile; a derived one marks it. -/
def State.plainStep (s : State) (c : SCtx) (w : FT) (scaled : Bool) (a b : StageSlot) : Result :=
  let tile := w.tile.toNat
  let m := a.mask ||| b.mask
  let d := if m = 0 then c.co.depthOf tile
           else newDepth (c.co.depthOf tile) ((if a.mask != 0 then [a.depth] else []) ++ (if b.mask != 0 then [b.depth] else []))
  if m != 0 && decide (4 < d) then s.seqStop c stopLineage
  else
    let t := kStep scaled (kfmtOf w) a b (c.co.tile tile)
    let s := s.onCohort c.uid (fun co =>
      let all := co.maskOf tile ||| m
      let co := (co.setTile tile t).setMask tile all d
      let pin := fun (co : Cohort) (n : Nat) =>
        let x := co.slotOf n
        if m != 0 && x.mask == 0 then co.setSlot n { x with pins := x.pins ||| all } else co
      pin (pin co w.op1.toNat) w.op2.toNat)
    let s := if m = 0 then s
             else s.derive c (c.co.maskOf tile ||| m) a.mask b.mask (if scaled then .msca else .mmul) w (if a.mask = 0 then a else b) 0
    (s.seqNote c (matPois t)).seqNext c

/-- MMUL, and with scales MSCA. -/
def State.kWord (s : State) (w : FT) (scaled : Bool) : Result :=
  s.stream (fun c => s.engineWord c w.legalMmul ⟨[w.tile.toNat], [w.op1.toNat, w.op2.toNat], []⟩ (fun core =>
    let a := c.co.slotOf w.op1.toNat
    let b := c.co.slotOf w.op2.toNat
    let src := core.openOn c.uid w.tile.toNat
    let ends := bit w.ops 28
    if a.badRecord (kfmtOf w) || b.badRecord (kfmtOf w) then s.seqStop c trapIllegal
    else if a.mask != 0 && b.mask != 0 then s.seqStop c stopLineage
    else if ends && src != some w.lin.toNat && !(src.isNone && c.co.seq.endedAt.contains c.pc) then
      s.seqStop c stopLineage
    else
      match src with
      | some l =>
        if a.mask ||| b.mask != 0 then s.seqStop c stopLineage else s.tailStep c w scaled core l a b
      | none => s.plainStep c w scaled a b))

def execMmul (w : FT) (s : State) : Result := s.kWord w false
def execMsca (w : FT) (s : State) : Result := s.kWord w true

/-! ### Tile operations (R311, R312, R314) -/

/-- MZERO overwrites: the source of an open or ending lineage, and any other tile of an open one, stops the stream (R301,
R314). -/
def execMzero (w : FT) (s : State) : Result :=
  s.stream (fun c =>
    if w.legalMzero && c.tileOk w.tile.toNat && (s.core c.co.core).isSource c.uid w.tile.toNat then s.seqStop c stopLineage
    else s.engineWord c w.legalMzero ⟨[w.tile.toNat], [], []⟩ (fun _ =>
      if c.co.maskOf w.tile.toNat != 0 then s.seqStop c stopLineage
      else (s.onCohort c.uid (fun co => co.setTile w.tile.toNat [])).seqNext c))

/-- The X field of MADD and MSCL. -/
def addX (w : FT) : Nat := (bits w.ops 0 6).toNat

def execMadd (w : FT) (s : State) : Result :=
  s.stream (fun c => s.engineWord c w.legalMadd ⟨[w.tile.toNat, (addX w)], [], []⟩ (fun core =>
    let t := w.tile.toNat
    let mt := c.co.maskOf t
    let mx := c.co.maskOf (addX w)
    let m := mt ||| mx
    let d := newDepth (c.co.depthOf t) ((if mt != 0 then [c.co.depthOf t] else []) ++ (if mx != 0 then [c.co.depthOf (addX w)] else []))
    if (core.openOn c.uid t).isSome || (m != 0 && decide (4 < d)) then s.seqStop c stopLineage
    else
      let x := c.co.tile (addX w)
      let r := matAdd (w.fmt != 0) (c.co.tile t) x
      let s := s.onCohort c.uid (fun co => (co.setTile t r).setMask t m (if m = 0 then 0 else d))
      let s := if m = 0 then s else s.derive c m mt mx .madd w StageSlot.zero 0
      (s.seqNote c (matPois r)).seqNext c))

/-- MSCL overwrites its tile, derived or not (R314). -/
def execMscl (w : FT) (s : State) : Result :=
  s.stream (fun c => s.engineWord c w.legalMscl ⟨[w.tile.toNat, (addX w)], [], []⟩ (fun _ =>
    let t := w.tile.toNat
    let m := c.co.maskOf (addX w)
    let d := newDepth (c.co.depthOf t) (if m != 0 then [c.co.depthOf (addX w)] else [])
    if c.co.maskOf t != 0 || (m != 0 && decide (4 < d)) then s.seqStop c stopLineage
    else
      let r := matScale (w.fmt != 0) (bits w.ops 11 18) (c.co.tile (addX w))
      let s := s.onCohort c.uid (fun co => (co.setTile t r).setMask t m (if m = 0 then 0 else d))
      let s := if m = 0 then s else s.derive c m m 0 .mscl w StageSlot.zero 0
      (s.seqNote c (matPois r)).seqNext c))

def execMcvt (w : FT) (s : State) : Result :=
  s.stream (fun c => s.engineWord c w.legalMcvt ⟨[w.tile.toNat], [], [w.op1.toNat]⟩ (fun _ =>
    let m := c.co.maskOf w.tile.toNat
    let x := c.co.slotOf w.op1.toNat
    let d := newDepth x.depth (if m != 0 then [c.co.depthOf w.tile.toNat] else [])
    if (m = 0 && x.mask ||| x.pins != 0) || (m != 0 && decide (4 < d)) then s.seqStop c stopLineage
    else
      let rsalt := s.rsalt0 c.co
      let y := c.co.convert w c.pc rsalt (c.co.tile w.tile.toNat) x
      let s := s.onCohort c.uid (fun co => co.setSlot w.op1.toNat { y with mask := x.mask ||| m, depth := if m = 0 then 0 else d })
      let s := if m = 0 then s else s.derive c (x.mask ||| m) m 0 .mcvt w StageSlot.zero rsalt
      (s.seqNote c (mergeAll (y.elems.map (·.pois)))).seqNext c))

/-! ### Publication (R295, R300, R313) -/

def execMpub (w : FT) (s : State) : Result :=
  s.stream (fun c =>
    let t := w.tile.toNat
    let l := w.lin.toNat
    let x := (s.core c.co.core).lineage l
    let held := x.state != .closed
    if !w.legalMpub || !c.tileOk t then s.seqStop c trapIllegal
    else if held && x.owner != c.uid then s.wait
    else if held && x.src != t then s.seqStop c stopLineage
    else s.engineWord c w.legalMpub ⟨[t], [], []⟩ (fun core =>
      if x.state = .open then
        (s.setCore c.co.core (core.setLineage l { x with corrections := x.corrections ++ [x.tail], tail := [] })).seqNext c
      else if c.co.maskOf t != 0 then s.seqStop c stopLineage
      else
        let s := s.setCore c.co.core (core.setLineage l { Lineage.clear with state := .open, owner := c.uid, src := t })
        (s.onCohort c.uid (fun co => co.setMask t (1#16 <<< l) 0)).seqNext c))

/-- MSETTLE waits until its lineage is CLOSED. -/
def execMsettle (w : FT) (s : State) : Result :=
  s.stream (fun c =>
    if !w.legalMsettle then s.seqStop c trapIllegal
    else if ((s.core c.co.core).lineage w.lin.toNat).state = .closed then s.seqNext c
    else s.wait)

/-! ### Descriptors (R304) -/

def execMdesc (w : FT) (s : State) : Result :=
  s.stream (fun c =>
    let off := (bits w.ops 0 21).toNat
    if !w.legalMdesc then s.seqStop c trapIllegal
    else if c.co.allotted < off + 32 then s.seqStop c trapScratchRange
    else
      let bs := c.co.readScratchBytes off 32
      let word := fun (i : Nat) => word64OfBytes (((bs.drop (8 * i)).take 8).map (·.val))
      let d : Desc := ⟨word 0, word 1, word 2, word 3, poisOfBytes bs⟩
      if d.pois.isNone && !d.legal then s.seqStop c trapIllegal
      else (s.onCohort c.uid (fun co => { co with desc := SMap.put none co.desc w.op1.toNat (some d) })).seqNext c)

def Cohort.descOf (c : Cohort) (n : Nat) : Option Desc := SMap.get none c.desc n

/-! ### Operand loads (R305 to R309) -/

/-- The cohorts of the task on core `n` of the cohort's cluster. -/
def State.mates (s : State) (co : Cohort) (n : Nat) : List Cohort :=
  s.cohorts.filter (fun x => (s.taskOf co.part co.tid co.uid).any (·.placed x.uid) && x.core == 4 * clusterOf co.core + n &&
    !x.killed && !x.exited)

/-- The outer block and k index of a descriptor MLD, with INC's steps (R305). -/
def mldBlock (w : FT) (q : Sequencer) : Nat × Nat :=
  let inc := (bits w.ops 25 2).toNat
  let ob := (bits w.ops 12 6).toNat
  let ks := (bits w.ops 0 12).toNat
  (ob + (if inc = 2 then q.lc0 else if inc = 3 then q.lc1 else 0), ks + (if inc = 1 ∨ inc = 3 then q.lc0 else 0))

/-- The bytes that a scratchpad MLD takes: their offset and count (R305, R306). -/
def mldSpan (w : FT) (q : Sequencer) : Nat × Nat :=
  let n := if bit w.ops 26 then 1280 else 1024
  ((bits w.ops 0 15).toNat * 64 + (if bit w.ops 25 then q.lc0 * n else 0), n)

/-- What an MLD's operand read comes to. -/
inductive Operands
  | ok (elems scales : List PByte)
  | stop (cause : Nat)
  | poisoned
  deriving DecidableEq, Repr

/-- The operand of an MLD of SRC 0, 1 or 3 read at its homes. -/
def State.readOperand (s : State) (c : SCtx) (w : FT) : Operands × State :=
  if w.mldSrc = 1 then
    match c.co.descOf w.op2.toNat with
    | none => (.stop trapIllegal, s)
    | some d =>
      let t := d.fields
      if d.pois.isSome then (.poisoned, s)
      else if (c.p.totals.push && c.co.lslot == 0) || FT.depthOf t.fmt.toNat == 0 then (.stop trapIllegal, s)
      else
        let b := mldBlock w c.co.seq
        match s.fragment c.p c.co t b.1 b.2 with
        | (none, s) => (.stop trapPageFault, s)
        | (some r, s) => (.ok r.1 r.2, s)
  else
    let from_ := if w.mldSrc = 3 then s.mates c.co (bits w.ops 16 2).toNat else [c.co]
    match from_ with
    | [x] =>
      let r := mldSpan w c.co.seq
      if x.belowLanding < r.1 + r.2 then (.stop trapScratchRange, s)
      else
        let bs := x.readScratchBytes r.1 r.2
        (.ok (bs.take 1024) (bs.drop 1024), s)
    | _ => (.stop trapEngineOp, s)

/-- The cores an MLD's mask names, the issuer's own among them. -/
def mldCores (w : FT) : List Nat := (List.range 4).filter (fun i => bit (bits w.ops 21 4) i)

/-- The word names descriptor bytes that a walk brings through the landing slots (R286). -/
def SCtx.walks (c : SCtx) (w : FT) : Bool := c.p.totals.push && w.mldSrc == 1

/-- The first byte of landing slot n in the allotment (R209). -/
def Cohort.landingBase (c : Cohort) (n : Nat) : Nat := c.belowLanding + 32 * 1024 * n

/-- The fragment of a walk that has been pushed, read from landing slot 0 (log 34). -/
def Cohort.landed (c : Cohort) : List PByte × List PByte :=
  let b := c.landingBase 0
  (c.readScratchBytes b 1024, c.readScratchBytes (b + 1024) 256)

/-- An MLD with its fragment: its own slot is filled, or a multicast send stands until its receivers have issued. -/
def State.fillOperand (s : State) (c : SCtx) (w : FT) (elems scales : List PByte) : Result :=
  let slot := w.op1.toNat
  let s := s.onSeq c.uid (fun q => { q with early := q.early.filter (fun e => e.1 != c.pc) })
  if (mldCores w).isEmpty then
    (s.onCohort c.uid (fun co => co.setSlot slot ((co.slotOf slot).fill elems scales))).seqNext c
  else
    (s.onSeq c.uid (fun q => { q with send := some ⟨slot, (bits w.ops 18 3).toNat, (mldCores w), elems, scales⟩ })).seqNext c

/-- A walk's fragment, once it has landed, goes into the slot and the landing slot is free (R244, R286). -/
def State.takeLanded (s : State) (c : SCtx) (w : FT) : Result :=
  let r := c.co.landed
  (s.onCohort c.uid (fun co =>
    let co := { co with seq := { co.seq with walk := none } }
    { co with landing := SMap.put Landing.free co.landing 0 .free })).fillOperand c w r.1 r.2

/-- A walk request (R243, R286): it names no arrival word (log 91). Its tile comes through the bucket of the channel group
that holds the descriptor's base, as one piece (R244, R52); a tensor in the weight store passes none. -/
def State.startWalk (s : State) (c : SCtx) (w : FT) (word : Addr) (elems scales : List PByte) : State :=
  let base := match c.co.descOf w.op2.toNat with
    | some d => if d.fields.spc = 0 then some d.fields.base else none
    | none => none
  let walk := fun (n : Nat) => ({ word := word, elems := elems, scales := scales, pushed := false, aw := none, pieces := some n } : Walk)
  match base.map (fun va => s.translateWalk c.p (s.streamAsid c.co) va) with
  | some (.ok pa _ _) =>
    (s.onSeq c.uid (fun q => { q with walk := some (walk 1) })).askBucket c.p.id (channelGroup pa) (.push c.uid)
      (elems.length + scales.length)
  | _ => s.onSeq c.uid (fun q => { q with walk := some (walk 0) })

/-- An MLD that sends or fills its own slot. -/
def State.loadOperand (s : State) (c : SCtx) (w : FT) : Result :=
  let start := fun (s : State) (e sc : List PByte) =>
    if c.walks w then (s.startWalk c w c.pc e sc).done else s.fillOperand c w e sc
  match if c.walks w then c.co.seq.walk else none with
  | some k =>
    if k.word = c.pc then (if k.pushed then s.takeLanded c w else s.wait)
    else s.wait
  | none =>
    match c.co.seq.early.find? (fun e => e.1 == c.pc) with
    | some e => start s e.2.1 e.2.2
    | none =>
      match s.readOperand c w with
      | (.stop cause, s) => s.seqStop c cause
      | (.poisoned, s) => s.seqPoison c
      | (.ok e sc, s) => start s e sc

/-- MLD: its names, the lineage of its slot (R314), its cores (R308), and then a receive or a load. -/
def execMld (w : FT) (s : State) : Result :=
  s.stream (fun c =>
    let core := s.core c.co.core
    let x := c.co.slotOf w.op1.toNat
    let live := (x.mask ||| x.pins) &&& core.linMask c.uid .open
    let own := coreInCluster c.co.core
    let tag := (bits w.ops 18 3).toNat
    if !w.legalMld || !c.slotOk w.op1.toNat then s.seqStop c trapIllegal
    else if w.mldSrc != 2 && !(mldCores w).isEmpty && !(mldCores w).contains own then s.seqStop c trapIllegal
    else if live != 0 then s.seqStop c stopLineage
    else if core.blocks c.co ⟨[], [], [w.op1.toNat]⟩ then s.wait
    else if w.mldSrc = 2 then
      if c.co.seq.recvs.any (fun r => r.1 == tag) then s.wait
      else (s.onSeq c.uid (fun q => { q with recvs := q.recvs ++ [(tag, w.op1.toNat)] })).seqNext c
    else if (mldCores w).any (fun n => n != own && (s.mates c.co n).length != 1) ||
            (!(mldCores w).isEmpty && (s.mates c.co own).length != 1) then s.seqStop c trapEngineOp
    else if !(mldCores w).isEmpty && c.co.seq.send.isSome then s.wait
    else s.loadOperand c w)

/-! ### Stores (R290, R316) -/

/-- The bytes of 32 codes packed from a bit offset of a first byte, over the bits that stand there already. -/
def packCodes (width : Nat) (codes : List (Nat × Option Tag)) (old : Nat → PByte) (first : Nat) : List (Nat × PByte) :=
  let n := (codes.length * width + first + 7) / 8
  (List.range n).map (fun b =>
    let o := old b
    let hit := fun (e : Nat) => decide (first + width * e < 8 * b + 8) && decide (8 * b < first + width * (e + 1))
    let v := (List.range 8).foldl (fun v i =>
      let p := 8 * b + i
      let keep := decide (p < first) || decide (first + width * codes.length ≤ p)
      let set := if keep then bit o.val i
                 else ((codes.getD ((p - first) / width) (0, none)).1).testBit ((p - first) % width)
      if set then v + 2 ^ i else v) 0
    let t := mergeAll (codes.zipIdx.map (fun (x, e) => if hit e then x.2 else none))
    (b, ⟨BitVec.ofNat 8 v, t⟩))

/-- A row of a tile as it is stored: its codes, and for a block format its scale word with its poison. -/
structure StoredRow where
  codes : List (Nat × Option Tag)
  scale : Option (Nat × Option Tag)
  qsat : Bool

/-- Row i of an MST: converted element by element, or quantised as one block (R290). -/
def Cohort.storeRow (c : Cohort) (w : FT) (pc : Addr) (rsalt : Word32) (x : Mat) (i : Nat) : StoredRow :=
  let ty := ftTy w.fmt
  let el := fun (j : Nat) => matAt x (32 * i + j)
  let r := fun (j : Nat) => if w.mstRnd = 4 then c.tileRandom pc rsalt i j w.tile.toNat else 0
  if w.blk then
    let v := fun (j : Nat) => if bit w.ops 20 then FV.ofInt (el j).val.toInt else fmtF32.decode (el j).val.toNat
    let q := quantise (qFmt ty (if ty.isFloat then 0 else 1)) ty.width (rndOf w.mstRnd) ((List.range 32).map (fun j => (v j, r j)))
    let t := mergeAll ((List.range 32).map (fun j => (el j).pois))
    ⟨q.codes.map (fun n => (n, t)), some (q.scale.toNat, t), q.qsat⟩
  else
    ⟨(List.range 32).map (fun j => (convElem (bit w.ops 20) ty (rndOf w.mstRnd) (bit w.ops 21) (r j) (el j).val, (el j).pois)),
     none, false⟩

/-- The event an MST notes: poison it read, and a saturated block (R160, R290). -/
def storeNote (x : Mat) (rows : List StoredRow) : Chkiv :=
  { Chkiv.ofPois (matPois x) with qsat := rows.any (·.qsat) }

/-- The scratchpad offset of a DK 0 store (R316). -/
def mstOffset (w : FT) : Nat :=
  64 * ((bits w.ops 12 6).toNat * 2 ^ 9 + b2n (bit w.ops 11) * 2 ^ 8 + (bits w.ops 0 8).toNat)

def State.storeScratch (s : State) (c : SCtx) (w : FT) (rows : List StoredRow) (note : Chkiv) : Result :=
  let width := (ftTy w.fmt).width
  let off := mstOffset w
  let size := 128 * width
  if c.co.belowLanding < off + size + (if w.blk then 128 else 0) then s.seqStop c trapScratchRange
  else
    let data := rows.zipIdx.flatMap (fun (r, i) =>
      (packCodes width r.codes (fun _ => ⟨0, none⟩) 0).map (fun (b, x) =>
        (⟨off + 4 * width * i + b, x.val, x.pois, none⟩ : WByte)))
    let scs := rows.zipIdx.flatMap (fun (r, i) => match r.scale with
      | some (v, t) => (wordBytes (off + size + 4 * i) (BitVec.ofNat 32 v)).map (fun b => { b with pois := t })
      | none => [])
    ((s.writeScratch c.uid (data ++ scs)).noteCohort c.uid c.co.part c.co.tid note).seqNext c

/-- The row and column blocks of a DK 1 store, with INC's steps. -/
def mstBlock (w : FT) (q : Sequencer) : Nat × Nat :=
  let inc := (bits w.ops 25 2).toNat
  let rb := (bits w.ops 12 6).toNat
  let cb := (bits w.ops 0 11).toNat
  (rb + (if inc = 2 then q.lc0 else if inc = 3 then q.lc1 else 0), cb + (if inc = 1 ∨ inc = 3 then q.lc0 else 0))

def State.storeTensor (s : State) (c : SCtx) (w : FT) (t : TDesc) (rows : List StoredRow) (note : Chkiv) : Result :=
  let width := (ftTy w.fmt).width
  let b := mstBlock w c.co.seq
  let n := min 32 (t.cols - 32 * b.2)
  let col := 32 * b.2
  let kept := (rows.zipIdx).filter (fun (_, i) => decide (32 * b.1 + i < t.rows) && decide (0 < n))
  let at_ := fun (i : Nat) =>
    let bitOff := col * width
    (t.base + (32 * b.1 + i) * t.pitch + bitOff / 8, bitOff % 8)
  let scaleAddr := fun (i : Nat) => t.sbase + (32 * b.1 + i) * t.spitch + 4 * b.2
  let vas := kept.flatMap (fun (r, i) =>
    (List.range ((n * width + 7) / 8)).map (fun k => (at_ i).1 + k) ++
    (if r.scale.isSome then (List.range 4).map (fun k => scaleAddr i + k) else []))
  if (t.spc != 0 || (w.blk && t.sspc != 0)) && !kept.isEmpty then s.seqStop c trapPageFault
  else
    match s.mapPages c.p c.co .write vas with
    | (none, s) => s.seqStop c trapPageFault
    | (some m, s) =>
      let bytes := kept.flatMap (fun (r, i) =>
        let a := at_ i
        (packCodes width (r.codes.take n) (fun k => s.readAs c.p.id (mappedAt m (a.1 + k))) a.2).map (fun (k, x) =>
          (⟨mappedAt m (a.1 + k), x.val, x.pois, none⟩ : WByte)) ++
        (match r.scale with
          | some (v, p) => (wordBytes 0 (BitVec.ofNat 32 v)).map (fun y =>
              (⟨mappedAt m (scaleAddr i + y.addr), y.val, p, none⟩ : WByte))
          | none => []))
      if !s.parityRoom c.p.id bytes then s.wait
      else ((s.writeDM c.p.id bytes (.stream c.uid c.co.tid)).noteCohort c.uid c.co.part c.co.tid note).seqNext c

def execMst (w : FT) (s : State) : Result :=
  s.stream (fun c =>
    let t := w.tile.toNat
    if !w.legalMst || !c.tileOk t then s.seqStop c trapIllegal
    else if c.co.maskOf t != 0 then s.wait
    else
      let x := c.co.tile t
      let rows := (List.range 32).map (c.co.storeRow w c.pc (s.rsalt0 c.co) x)
      if w.mstKind = 0 then s.storeScratch c w rows (storeNote x rows)
      else
        match c.co.descOf w.op2.toNat with
        | none => s.seqStop c trapIllegal
        | some d => if d.pois.isSome then s.seqPoison c else s.storeTensor c w d.fields rows (storeNote x rows))

/-! ### Barriers, loops, priority and the end (R317 to R319) -/

/-- Every earlier word of the stream has completed (R282, R283). -/
def Sequencer.settledWords (q : Sequencer) : Bool := q.recvs.isEmpty && q.send.isNone && q.walk.isNone

/-- The sequencer's own arrival (R317). -/
def Barrier.seqArrive (b : Barrier) (count : Nat) : Barrier × Bool :=
  Barrier.arrive { b with seqLast := b.phase, seqSeen := true } count

/-- An arrival at barrier n: the count agrees with the phase's, and the groups that the phase releases see the stream's
writes as after XFENCE.ET (R283). -/
def State.seqArriveAt (s : State) (c : SCtx) (n count : Nat) (waits : Bool) : Result :=
  let r := (c.co.barrier n).seqArrive count
  let s := (s.acquire c.co.core .dev).onCohort c.uid (fun co => co.setBarrier n r.1)
  let s := if r.2 then s.completePhase c.uid n else s
  if waits && !r.2 then (s.onSeq c.uid (fun q => { q with bar := some (n, false) })).done else s.seqNext c

def execMbar (w : FT) (s : State) : Result :=
  s.stream (fun c =>
    let n := (bits w.ops 0 4).toNat
    let mode := (bits w.ops 8 2).toNat
    let count := let k := (bits w.ops 16 5).toNat; if k = 0 then c.co.ngm1 + 2 else k
    let b := c.co.barrier n
    if !w.legalMbar then s.seqStop c trapIllegal
    else
      match c.co.seq.bar with
      | some (_, true) => (s.onSeq c.uid (fun q => { q with bar := none })).seqNext c
      | some (_, false) => s.wait
      | none =>
        if mode = 2 then
          if b.seqSeen && b.phase != b.seqLast then s.seqNext c
          else (s.onSeq c.uid (fun q => { q with bar := some (n, false) })).done
        else if !c.co.seq.settledWords then s.wait
        else if b.cnt != 0 && b.cnt != count then s.seqStop c trapIllegal
        else s.seqArriveAt c n count (mode == 0))

def execMloop (w : FT) (s : State) : Result :=
  s.stream (fun c =>
    let cnt := (bits w.ops 14 14).toNat
    let back := 8 * (bits w.ops 0 14).toNat
    let one := bit w.ops 28
    let q := c.co.seq
    let lc := if one then q.lc1 else q.lc0
    let owner := if one then q.own1 else q.own0
    let set := fun (v : Nat) (o : Option Addr) (q : Sequencer) =>
      if one then { q with lc1 := v, own1 := o } else { q with lc0 := v, own0 := o }
    if !w.legalMloop || decide (c.pc.toNat < q.strm.toNat + back) then s.seqStop c trapIllegal
    else if owner.isSome && owner != some c.pc then s.seqStop c trapIllegal
    else if lc + 1 < cnt then (s.onSeq c.uid (set (lc + 1) (some c.pc))).seqAt c (c.pc - BitVec.ofNat 57 back)
    else (s.onSeq c.uid (set 0 none)).seqNext c)

def execMpri (w : FT) (s : State) : Result :=
  s.stream (fun c =>
    if !w.legalMpri then s.seqStop c trapIllegal
    else (s.onSeq c.uid (fun q => { q with mxpri := (bits w.ops 0 3).toNat })).seqNext c)

def execMend (w : FT) (s : State) : Result :=
  s.stream (fun c =>
    let core := s.core c.co.core
    if !w.legalMend then s.seqStop c trapIllegal
    else if core.linMask c.uid .open != 0 then s.seqStop c stopLineage
    else if core.linMask c.uid .ending != 0 || !c.co.seq.settledWords then s.wait
    else
      let s := s.onCore c.co.core (fun k => if k.engine = some c.uid then { k with engine := none } else k)
      (s.onSeq c.uid (fun q => { q with active := false, ended := true })).done)

/-- A stream word that is none: a word that does not translate stops the stream with PAGE_FAULT, and a reserved MOPC
with ILLEGAL_OP (R73, R281). -/
def execMalformedFtWord (_ : Word64) (s : State) : Result :=
  s.stream (fun c =>
    match (s.streamWord c.p c.co c.pc).1 with
    | none => s.seqStop c trapPageFault
    | some _ => s.seqStop c trapIllegal)

/-! ### The choice among streams (R291, R292) -/

/-- The next word of a running stream. -/
def State.peek (s : State) (co : Cohort) : Option Instr :=
  match s.part? co.part with
  | none => none
  | some p => ((s.streamWord p co co.seq.pc).1).bind (fun w => decodeFT w.1)

/-- The stream's next word needs the engine and can issue. -/
def State.streamReady (s : State) (co : Cohort) : Bool :=
  co.seq.active && !co.seq.ended && co.kill.isNone && !co.killed &&
  match s.peek co with
  | none => false
  | some i =>
    match engineTouch i with
    | none => false
    | some t =>
      !(s.core co.core).blocks co t &&
      (match i with
        | .mpub w =>
          let x := (s.core co.core).lineage w.lin.toNat
          x.state == .closed || x.owner == co.uid
        | _ => true)

/-- The effective priority of a waiting stream (R291). -/
def State.streamPrio (s : State) (co : Cohort) : Nat :=
  match co.seq.waitSince with
  | some t => min 7 (co.seq.mxpri + (s.cycle - t) / 2048)
  | none => co.seq.mxpri

/-- The ready streams of a core but one. -/
def State.readyStreams (s : State) (core : Nat) (but : Option Nat) : List Cohort :=
  s.cohorts.filter (fun co => co.core == core && some co.uid != but && s.streamReady co)

/-- The stream R291 takes among ready ones: the highest effective priority, then the longer wait, then the lower slot. -/
def State.bestStream (s : State) (cos : List Cohort) : Option Cohort :=
  cos.foldl (fun best co =>
    match best with
    | none => some co
    | some b =>
      let wait := fun (x : Cohort) => match x.seq.waitSince with | some t => s.cycle - t | none => 0
      if s.streamPrio b < s.streamPrio co ||
         (s.streamPrio b == s.streamPrio co && (decide (wait b < wait co) || (wait b == wait co && decide (co.slot < b.slot))))
      then some co else best) none

/-- The engine goes to a stream; the one it leaves waits from now on, if it is ready (R291). -/
def State.giveEngine (s : State) (core : Nat) (co : Cohort) : State :=
  let s := match (s.core core).engine.bind s.cohort? with
    | some old => s.onSeq old.uid (fun q => { q with waitSince := if s.streamReady old then some s.cycle else none })
    | none => s
  let s := s.onCore core (fun k => { k with engine := some co.uid, contested := none })
  s.onSeq co.uid (fun q => { q with waitSince := none })

/-- The running stream, if it is ready. -/
def State.running? (s : State) (core : Nat) : Option Cohort :=
  match (s.core core).engine with
  | none => none
  | some u => (s.cohort? u).filter (fun co => s.streamReady co)

/-- ENGINE_HANDOVER (R291): no ready stream holds the engine, and a ready one takes it. -/
def execEngineHandover (core : Nat) (s : State) : Result :=
  match s.running? core with
  | some _ => s.done
  | none =>
    match s.bestStream (s.readyStreams core (s.core core).engine) with
    | some co => (s.giveEngine core co).done
    | none => s.done

/-- Since when the running stream has held the engine while some other one was ready (R292). -/
def State.contestedSince (s : State) (core : Nat) : Nat := (s.core core).contested.getD s.cycle

/-- What each stream's and each engine's clock takes down before time passes: which streams wait ready, and which engines are held
while one does (R291, R292; log 93). -/
def State.noteStreams (s : State) : State :=
  let waits := fun (co : Cohort) => (s.core co.core).engine != some co.uid && s.streamReady co
  let t := { s with cohorts := s.cohorts.map (fun co =>
    { co with seq := { co.seq with waitSince := if waits co then some (co.seq.waitSince.getD s.cycle) else none } }) }
  (s.cohorts.map (·.core)).foldl (fun t n => t.onCore n (fun k =>
    { k with contested := if k.engine.isSome && s.cohorts.any (fun co => co.core == n && waits co) then some (k.contested.getD s.cycle)
                          else none })) t

/-- STREAM_OVERTAKE (R292). -/
def execStreamOvertake (core : Nat) (s : State) : Result :=
  match s.running? core, s.bestStream (s.readyStreams core (s.core core).engine) with
  | some run, some co =>
    if run.seq.mxpri + 2 ≤ s.streamPrio co || 32768 ≤ s.cycle - s.contestedSince core then
      (s.giveEngine core co).done
    else s.done
  | _, _ => s.done

/-! ### Early fetches (R280, R309) -/

/-- What the fetcher has passed on its way to an MLD: k-steps, slots read or written, descriptors loaded. In push mode
it passes no MLD that needs a walk of its own. -/
structure Passed where
  push : Bool
  ksteps : Nat
  slots : List Nat
  descs : List Nat

/-- The words that an early fetch may pass: none where it may not go past the word. -/
def Passed.past (a : Passed) : Instr → Option Passed
  | .mmul w => if 2 ≤ a.ksteps then none else some { a with ksteps := a.ksteps + 1, slots := w.op1.toNat :: w.op2.toNat :: a.slots }
  | .msca w => if 2 ≤ a.ksteps then none else some { a with ksteps := a.ksteps + 1, slots := w.op1.toNat :: w.op2.toNat :: a.slots }
  | .mcvt w => some { a with slots := w.op1.toNat :: a.slots }
  | .mld w => if a.push && w.mldSrc == 1 then none else some { a with slots := w.op1.toNat :: a.slots }
  | .mdesc w => some { a with descs := w.op1.toNat :: a.descs }
  | .mzero _ | .madd _ | .mscl _ | .mpub _ | .mpri _ => some a
  | _ => none

/-- The first MLD from pc on that may be fetched early and has not been. -/
def State.earlyWord (s : State) (c : SCtx) : Nat → Addr → Passed → Option (Addr × FT)
  | 0, _, _ => none
  | fuel + 1, pc, a =>
    match ((s.streamWord c.p c.co pc).1).bind (fun w => decodeFT w.1) with
    | none => none
    | some i =>
      let here :=
        match i with
        | .mld w =>
          let x := c.co.slotOf w.op1.toNat
          if w.legalMld && c.slotOk w.op1.toNat && w.mldSrc != 2 && (mldCores w).isEmpty && !a.slots.contains w.op1.toNat &&
             !(w.mldSrc == 1 && a.descs.contains w.op2.toNat) && x.mask ||| x.pins == 0 && !c.co.seq.awaits w.op1.toNat &&
             !c.co.seq.early.any (fun e => e.1 == pc) then some (pc, w) else none
        | _ => none
      match here with
      | some r => some r
      | none =>
        match a.past i with
        | some a => s.earlyWord c fuel (pc + 8) a
        | none => none

/-- OPERAND_FETCH (R280): the fetcher reads the operand of an MLD before it issues; in a push-mode partition it starts
the walk (R286). A read that would stop the stream is left to the word itself. -/
def execOperandFetch (uid : Nat) (s : State) : Result :=
  match ({ s with cur := .stream uid }).stream? with
  | none => s.done
  | some c =>
    if !c.co.seq.active || c.co.kill.isSome || c.co.killed then s.done
    else
      match s.earlyWord c 64 c.pc ⟨c.p.totals.push, 0, [], []⟩ with
      | none => s.done
      | some (pc, w) =>
        match s.readOperand c w with
        | (.ok e sc, s) =>
          if c.walks w then
            if c.co.seq.walk.isSome then s.done
            else (s.startWalk c w pc e sc).done
          else (s.onSeq uid (fun q => { q with early := q.early ++ [(pc, e, sc)] })).done
        | (_, s) => s.done

/-! ### Landing slots (R244) -/

def Cohort.landingOf (c : Cohort) (n : Nat) : Landing := SMap.get Landing.free c.landing n

/-- LANDING_PERMIT_GRANT: the lowest FREE slot of a walking cohort becomes GRANTED. -/
def execLandingPermitGrant (uid : Nat) (s : State) : Result :=
  match s.cohort? uid with
  | none => s.done
  | some co =>
    if co.seq.walk.isNone || co.killed then s.done
    else
      match (List.range co.lslot).find? (fun n => co.landingOf n == .free) with
      | none => s.done
      | some n => (s.setCohort { co with landing := SMap.put Landing.free co.landing n .granted }).done

/-- TILE_PUSH: the walk's tile, once its piece has left the bucket, goes into landing slot 0, and the slot is FULL; its bytes
count into the walk's arrival word, where the walk names one (R244, R247). -/
def execTilePush (uid : Nat) (s : State) : Result :=
  match s.cohort? uid with
  | none => s.done
  | some co =>
    match co.seq.walk with
    | none => s.done
    | some k =>
      if k.pushed || co.landingOf 0 != .granted || co.killed || k.pieces != some 0 then s.done
      else
        let at_ := fun (b : Nat) (l : List PByte) =>
          (l.zipIdx.map (fun (x, i) => ⟨b + i, x.val, x.pois, none⟩) : List WByte)
        let b := co.landingBase 0
        let s := s.writeScratch uid (at_ b k.elems ++ at_ (b + 1024) k.scales)
        let s := match k.aw with
          | some off => s.arrive uid off (k.elems.length + k.scales.length)
          | none => s
        (s.onCohort uid (fun co =>
          { co with landing := SMap.put Landing.free co.landing 0 .full
                    seq := { co.seq with walk := some { k with pushed := true } } })).done

/-! ### Multicast (R287) -/

/-- MULTICAST_DELIVERY: every named stream has issued its receive; the fragment goes into the slot of each, the issuer's
included. A named core without one cohort of the task by now holds the send (log 94). -/
def execMulticastDelivery (uid : Nat) (s : State) : Result :=
  match s.cohort? uid with
  | none => s.done
  | some co =>
    match co.seq.send with
    | none => s.done
    | some m =>
      let own := coreInCluster co.core
      let named := (m.cores.filter (· != own)).map (fun n => s.mates co n)
      let others := named.flatten
      if co.killed || named.any (fun l => l.length != 1) || others.any (fun x => !x.seq.recvs.contains (m.tag, m.slot)) then s.done
      else
        let put := fun (co : Cohort) => co.setSlot m.slot ((co.slotOf m.slot).fill m.elems m.scales)
        let s := others.foldl (fun s x => s.onCohort x.uid (fun co =>
          let co := put co
          { co with seq := { co.seq with recvs := co.seq.recvs.filter (· != (m.tag, m.slot)) } })) s
        (s.onCohort uid (fun co =>
          let co := put co
          { co with seq := { co.seq with send := none } })).done

/-! ### Replay (R297, R298) -/

/-- The pieces of one correction formed so far, by tile and by slot. -/
structure Pieces where
  tiles : List (Nat × Mat)
  slots : List (Nat × StageSlot)

def Pieces.tile (p : Pieces) (t : Nat) : Mat := ((p.tiles.find? (fun e => e.1 == t)).map (·.2)).getD []
def Pieces.slot (p : Pieces) (n : Nat) : StageSlot := ((p.slots.find? (fun e => e.1 == n)).map (·.2)).getD StageSlot.zero
def Pieces.putTile (p : Pieces) (t : Nat) (m : Mat) : Pieces :=
  { p with tiles := p.tiles.filter (fun e => e.1 != t) ++ [(t, m)] }
def Pieces.putSlot (p : Pieces) (n : Nat) (x : StageSlot) : Pieces :=
  { p with slots := p.slots.filter (fun e => e.1 != n) ++ [(n, x)] }

/-- A derived instruction's results read as I32 (R310, R311). -/
def Derived.int (d : Derived) : Bool :=
  match d.op with
  | .mmul => !(ftTy d.word.fmt).isFloat
  | .madd | .mscl => d.word.fmt != 0
  | _ => false

/-- The piece that a derived instruction adds to a correction (R297). -/
def Cohort.replayOne (co : Cohort) (p : Pieces) (d : Derived) : Pieces :=
  let w := d.word
  let t := w.tile.toNat
  let step := fun (scaled : Bool) =>
    let a := if d.aDerived then p.slot w.op1.toNat else d.kept
    let b := if d.bDerived then p.slot w.op2.toNat else d.kept
    let x := kStep scaled (kfmtOf w) a b []
    p.putTile t (if p.tiles.any (fun e => e.1 == t) then matAdd d.int (p.tile t) x else x)
  match d.op with
  | .mmul => step false
  | .msca => step true
  | .madd => p.putTile t (matAdd d.int (if d.aDerived then p.tile t else []) (if d.bDerived then p.tile (addX w) else []))
  | .mscl => p.putTile t (matScale d.int (bits w.ops 11 18) (p.tile (addX w)))
  | .mcvt => p.putSlot w.op1.toNat (co.convert w d.pc d.rsalt (p.tile t) StageSlot.zero)

/-- The pieces of one correction of a lineage. -/
def Cohort.piecesOf (co : Cohort) (x : Lineage) (corr : Mat) : Pieces :=
  x.derived.foldl co.replayOne ⟨[(x.src, corr)], []⟩

/-- The fold of a tile is I32 or F32 by what last wrote it (log 35). -/
def Lineage.foldInt (x : Lineage) (t : Nat) : Bool :=
  if t = x.src then x.tailInt
  else
    match (x.derived.filter (fun d => d.op != .mcvt && d.word.tile.toNat == t)).getLast? with
    | some d => d.int
    | none => false

/-- The lineage leaves every mask, and what it pinned is released. -/
def Cohort.leaveLineage (co : Cohort) (l : Nat) : Cohort :=
  let m : BitVec 16 := ~~~(1#16 <<< l)
  let co := (List.range 64).foldl (fun co t =>
    let k := co.maskOf t &&& m
    co.setMask t k (if k = 0 then 0 else co.depthOf t)) co
  (List.range 32).foldl (fun co n =>
    let x := co.slotOf n
    let k := x.mask &&& m
    co.setSlot n { x with mask := k, pins := x.pins &&& m, depth := if k = 0 then 0 else x.depth }) co

/-! ### Reads that wait for a settled tile (R284, R300) -/

/-- What an MRD's fill brings from a tile. -/
def mrdWrites (m : Mat) (part : Nat) (lanes : BitVec 128) (reg : Nat) : List RegWrite :=
  ((List.range 128).filter (fun l => bit lanes l)).map (fun l => .v reg l (matAt m (128 * part + l)))

/-- A fill that waits for a tile takes its value in the step that settles the tile: no later word of the stream comes
before it. -/
def Fill.settle (f : Fill) (co : Cohort) : Fill :=
  match f.wait with
  | .mrd tile part lanes reg =>
    if co.maskOf tile = 0 then { f with wait := .ready, writes := mrdWrites (co.tile tile) part lanes reg } else f
  | _ => f

/-- C of an LMM read from a tile's quadrant, in the order of the register words (R321). -/
def quadrant (m : Mat) (k : Nat) : List PWord :=
  (List.range 256).map (fun x =>
    let r := x % 128
    matAt m (32 * (16 * (k / 2) + r % 16) + 16 * (k % 2) + 8 * (x / 128) + r / 16))

/-- The same for a queued LMM that reads a tile. -/
def LmmReq.settle (q : LmmReq) (gids : List Nat) (co : Cohort) : LmmReq :=
  match q.tile with
  | some (t, k) =>
    if gids.contains q.gid && co.maskOf t == 0 then { q with tile := none, c := quadrant (co.tile t) k } else q
  | none => q

/-- The poison that fills and requests of a group bring from tiles settled just now (R160). -/
def settledPois (co : Cohort) (fills : List Fill) (reqs : List LmmReq) : Option Tag :=
  mergePois
    (mergeAll (fills.flatMap (fun f => match f.wait with
      | .mrd _ _ _ _ => ((f.settle co).writes.map (fun w => match w with | .v _ _ x => x.pois | .s _ x => x.lo))
      | _ => [])))
    (mergeAll (reqs.flatMap (fun q => match q.tile with
      | some (t, k) => if co.maskOf t = 0 then (quadrant (co.tile t) k).map (·.pois) else []
      | none => [])))

/-- Every read of a cohort's groups that waits for a tile which is settled now takes its value. -/
def State.settleReads (s : State) (uid : Nat) : State :=
  match s.cohort? uid with
  | none => s
  | some co =>
    let gs := s.groups.filter (fun g => g.cohort == uid && g.cont.isNone)
    let gids := gs.map (·.gid)
    let t := settledPois co (gs.flatMap (·.fills)) ((s.core co.core).lmmQueue.filter (fun q => gids.contains q.gid))
    let s := gs.foldl (fun s g => s.onGroup g.gid (fun g => { g with fills := g.fills.map (fun f => f.settle co) })) s
    let s := s.onCore co.core (fun k => { k with lmmQueue := k.lmmQueue.map (fun q => q.settle gids co) })
    if t.isSome then s.noteCohort uid co.part co.tid (Chkiv.ofPois t) else s

/-- REPLAY: the next correction of an ENDING lineage goes through its derived instructions and is folded; after the last
the lineage closes. A lineage of the cohort whose END came earlier folds first (R298). -/
def execReplay (core l : Nat) (s : State) : Result :=
  let k := s.core core
  let x := k.lineage l
  let earlier := (List.range 16).any (fun i =>
    (k.lineage i).state == .ending && (k.lineage i).owner == x.owner && decide ((k.lineage i).endSeq < x.endSeq))
  match s.cohort? x.owner, x.corrections[x.replayed]? with
  | some co, some corr =>
    if x.state != .ending || earlier || co.kill.isSome || co.killed then s.done
    else
      let p := co.piecesOf x corr
      let co := p.tiles.foldl (fun co (t, m) => co.setTile t (matAdd (x.foldInt t) (co.tile t) m)) co
      if x.replayed + 1 = x.corrections.length then
        (((s.setCohort (co.leaveLineage l)).setCore core (k.setLineage l Lineage.clear)).settleReads co.uid).done
      else ((s.setCohort co).setCore core (k.setLineage l { x with replayed := x.replayed + 1 })).done
  | _, _ => s.done

/-- A kill closes a cohort's lineages without replay (R282). -/
def State.closeLineages (s : State) (co : Cohort) : State :=
  s.onCore co.core (fun k => (List.range 16).foldl (fun k l =>
    if (k.lineage l).owner = co.uid && (k.lineage l).state != .closed then k.setLineage l Lineage.clear else k) k)

end Sys2Proof.Machine
end

