-- ==== Sys2Proof/Machine/GroupMatrix.lean ====
section
/-!
DEFINITION. The group's matrix words (R293, R300, R320 to R323): LMM with its service by the engine, MRD, MWR and CAPO.
-/

namespace Sys2Proof.Machine

/-! ### Tile selectors (R321, R322) -/

/-- A selector's reserved bits are clear; `m` is the mask of the bits it may set. -/
def Ctx.selectorFits (c : Ctx) (s : State) (x : Src) (m : Word64) : Bool := c.operandFits s x (fun v => v &&& ~~~m != 0)

/-- The tile may be named: it lies in the cohort's count, and the group holds its full allotment; a resumed continuation
has no tiles (R137, R357). -/
def Ctx.tileOk (c : Ctx) (t : Nat) : Bool := c.g.allot.full && c.g.cont.isNone && decide (t < c.co.atiles)

/-- The bits a TSEL may set: tile [5:0] and part [10:8]. -/
def tselMask : Word64 := 0x73F

/-- Run with the tile and part of a TSEL operand (R322). With no acting lane the word is checked as usual and then has no
effect (R58); a poisoned TSEL steers nothing then, but still names a tile (R137). -/
def State.withTsel (s : State) (c : Ctx) (x : Src) (lanes : List Nat) (opc words : Nat) (k : Nat → Nat → Result) : Result :=
  let v := c.uniform s x
  if v.2.isSome then
    if !lanes.isEmpty then s.poisonKill c
    else if !c.tileOk 0 then s.trapAll c trapRegRange
    else s.finish c opc words
  else if !c.tileOk (bits v.1 0 6).toNat then s.trapAll c trapRegRange
  else if lanes.isEmpty then s.finish c opc words
  else k (bits v.1 0 6).toNat (bits v.1 8 3).toNat

/-- The element of a part that a lane stands for. -/
def tileElem (part lane : Nat) : Nat := 128 * part + lane

/-- MRD: a settled tile is read at once, so that no stream word that a barrier puts after it comes before (R284); a tile with
a live mask is read in the step that clears it (R300). -/
def execMrd (w : F3) (s : State) : Result :=
  s.issue (fun c =>
    let n : Need := ⟨w.legalMrd && c.selectorFits s w.sa tselMask, true, w.guard, [(w.dst, 1)], [(w.sa, 1)]⟩
    s.gate c n (fun lanes =>
      s.withTsel c w.sa lanes 0x201 w.words (fun tile part =>
        let d := match w.dst with | .v r => r.toNat | _ => 0
        let ws := mrdWrites (c.co.tile tile) part (laneMask lanes) d
        if c.co.maskOf tile != 0 then
          (s.beginFill c.g.gid [d] [] [] (.mrd tile part (laneMask lanes) d) false).finish c 0x201 w.words
        else
          ((s.beginFill c.g.gid [d] [] ws .ready false).notePois c.g (mergeAll (lanes.map (fun l =>
            (matAt (c.co.tile tile) (tileElem part l)).pois)))).finish c 0x201 w.words)))

/-- MWR waits until the tile's mask is clear, and then writes at once. -/
def execMwr (w : F3) (s : State) : Result :=
  s.issue (fun c =>
    let n : Need := ⟨w.legalMwr && c.selectorFits s w.sa tselMask, true, w.guard, [], [(w.sa, 1), (w.sb, 1)]⟩
    s.gate c n (fun lanes =>
      s.withTsel c w.sa lanes 0x202 w.words (fun tile part =>
        if c.co.maskOf tile != 0 then s.wait
        else
          let ws := lanes.map (fun l =>
            let r := c.read s w.sb false l
            (1024 * tile + tileElem part l, (⟨r.1.setWidth 32, r.2⟩ : PWord)))
          let s := s.onCohort c.co.uid (fun co =>
            { co with tiles := ws.foldl (fun m x => SMap.put PWord.zero m x.1 x.2) co.tiles })
          (s.notePois c.g (mergeAll (ws.map (·.2.pois)))).finish c 0x202 w.words)))

/-! ### CAPO (R323) -/

/-- CAPO; a holder that names itself keeps its count of picks in a row (R92). -/
def execCapo (w : F3) (s : State) : Result :=
  s.issue (fun c =>
    let n : Need := ⟨w.legalCapo, false, w.guard, [], [(w.sa, 1)]⟩
    s.gate c n (fun lanes =>
      let holder := SMap.get none (s.core c.g.core).capo c.g.quarter
      if lanes.isEmpty || (holder.isSome && holder != some c.g.gid) then s.finish c 0x203 w.words
      else
        let v := c.uniform s w.sa
        if v.2.isSome then s.poisonKill c
        else
          let next := (s.groups.find? (fun g =>
            g.cohort == c.g.cohort && g.core == c.g.core && g.quarter == c.g.quarter && !g.stopped &&
            g.sp.grp.toNat == v.1.toNat)).map (·.gid)
          (s.onCore c.g.core (fun k =>
            { k with capo := SMap.put none k.capo c.g.quarter next
                     capoPicks := if next = holder then k.capoPicks else SMap.put 0 k.capoPicks c.g.quarter 0 })).finish c 0x203 w.words))

/-! ### LMM (R293, R321) -/

/-- The bits an LMM selector may set: tile [5:0] and quadrant [7:6]. -/
def lmmMask : Word64 := 0xFF

/-- The path holds all 32 slices with every lane active and none exited. -/
def Ctx.wholeGroup (c : Ctx) : Bool :=
  c.slices.length == 32 && c.slices.all (fun i => (c.g.sliceAt i).amask == 0xF && (c.g.sliceAt i).xmask == 0)

/-- LMMs of the group whose registers are still empty. -/
def Group.lmmCount (g : Group) : Nat := (g.fills.filter (fun f => match f.wait with | .lmm _ => true | _ => false)).length

/-- The words of a v register in all 128 lanes. -/
def Group.vWords (g : Group) (sp : Spec) (k : Nat) : List PWord :=
  match sp with
  | .v n => (List.range 128).map (fun l => g.vWord (n.toNat + k) l)
  | _ => []

def srcSpec : Src → Spec
  | .reg sp _ => sp
  | .ext _ _ => .zero

/-- An LMM with its operands joins the engine's queue, a settled tile's quadrant among them; its destination registers are
empty from now on. -/
def State.pushLmm (s : State) (c : Ctx) (w : F3) (tile : Option (Nat × Nat)) : Result :=
  let a := c.g.vWords (srcSpec w.sa) 0
  let b := c.g.vWords (srcSpec w.sb) 0
  let live := match tile with | some (t, _) => c.co.maskOf t != 0 | none => false
  let d := match tile with
    | some (t, k) => if live then [] else quadrant (c.co.tile t) k
    | none => c.g.vWords (srcSpec w.sc) 0 ++ c.g.vWords (srcSpec w.sc) 1
  let r := match w.dst with | .v n => n.toNat | _ => 0
  let id := s.nextUid
  let s := s.beginFill c.g.gid [r, r + 1] [] [] (.lmm false) false
  let q : LmmReq := { gid := c.g.gid, fill := id, bf16 := w.ty == .bf16, a := a, b := b, c := d
                      tile := if live then tile else none, dst := r }
  let s := s.onCore c.g.core (fun k => { k with lmmQueue := k.lmmQueue ++ [q] })
  (s.notePois c.g (mergeAll ((a ++ b ++ d).map (·.pois)))).finish c 0x200 w.words

def execLmm (w : F3) (s : State) : Result :=
  s.issue (fun c =>
    let sel := w.sub == 1
    let n : Need := ⟨w.legalLmm && (!sel || c.selectorFits s w.sc lmmMask), true, Guard.always, [(w.dst, 2)],
      [(w.sa, 1), (w.sb, 1), (w.sc, if sel then 1 else 2)]⟩
    s.gate c n (fun _ =>
      if !c.wholeGroup then s.trapAll c trapLmmPath
      else if sel then
        let v := c.uniform s w.sc
        if v.2.isSome then s.poisonKill c
        else if !c.tileOk (bits v.1 0 6).toNat then s.trapAll c trapRegRange
        else if 2 ≤ c.g.lmmCount then s.wait
        else s.pushLmm c w (some ((bits v.1 0 6).toNat, (bits v.1 6 2).toNat))
      else if 2 ≤ c.g.lmmCount then s.wait
      else s.pushLmm c w none))

/-- Half h of a word. -/
def halfOf (x : PWord) (h : Nat) : Nat := x.val.toNat / 2 ^ (16 * h) % 2 ^ 16

/-- C(i, j) of a request (R321). -/
def LmmReq.addend (q : LmmReq) (i j : Nat) : PWord := q.c.getD (128 * (j / 8) + 16 * (j % 8) + i) PWord.zero

/-- D(i, j) with its poison. -/
def LmmReq.output (q : LmmReq) (i j : Nat) : PWord :=
  let f := if q.bf16 then fmtBF16 else fmtF16
  let wa := fun (e : Nat) => q.a.getD (16 * e + i) PWord.zero
  let wb := fun (e : Nat) => q.b.getD (16 * e + j) PWord.zero
  let p := fmtF32.rne (FV.sum ((List.range 16).map (fun k =>
    FV.mul (f.decode (halfOf (wa (k / 2)) (k % 2))) (f.decode (halfOf (wb (k / 2)) (k % 2))))))
  let c := q.addend i j
  ⟨BitVec.ofNat 32 (fmtF32.rne (FV.add .rne (fmtF32.decode c.val.toNat) (fmtF32.decode p))),
   mergePois (mergeAll ((List.range 8).flatMap (fun e => [(wa e).pois, (wb e).pois]))) c.pois⟩

/-- The register words an LMM writes. -/
def LmmReq.writes (q : LmmReq) : List RegWrite :=
  (List.range 2).flatMap (fun g => (List.range 128).map (fun l =>
    RegWrite.v (q.dst + g) l (q.output (l % 16) (8 * g + l / 16))))

/-- LMM_SERVE (R293): the oldest request whose operands are ready takes the engine for one step; its results are on
their way to the registers. -/
def execLmmServe (core : Nat) (s : State) : Result :=
  match (s.core core).lmmQueue.find? LmmReq.ready with
  | none => s.done
  | some q =>
    let s := s.onCore core (fun k => { k with lmmQueue := k.lmmQueue.filter (fun x => x.fill != q.fill) })
    (s.onGroup q.gid (fun g =>
      { g with fills := g.fills.map (fun f => if f.id = q.fill then { f with writes := q.writes, wait := .lmm true } else f) })).done

end Sys2Proof.Machine
end

