-- ==== Sys2Proof/Machine/MemInstr.lean ====
section
/-!
DEFINITION. Load, store, atomic, translation and fence instructions (R215 to R239).
-/

namespace Sys2Proof.Machine

/-! ### Operands -/

/-- The 32-bit words of an access of n bytes. -/
def wordsFor (n : Nat) : Nat := (n + 3) / 4

/-- The registers of a data field (R216). -/
def dataRegs (n : Nat) (x : Src) : Nat := if x.isV then wordsFor n else 1
def dstRegs (n : Nat) (sp : Spec) : Nat := if sp.isV then wordsFor n else 1

/-- Base and offset, and the data registers of a store. -/
def fmNeed (w : FM) (legal forbidden : Bool) (dst : Nat) (data : Nat) : Need :=
  ⟨legal, forbidden, w.guard, [(w.dst, dst)], [(w.sa, 1), (w.sb, 1), (w.sc, data)]⟩

/-- The lanes that make an access: one, the lowest, for an s destination (R216). -/
def accessLanes (w : FM) (lanes : List Nat) : List Nat := if w.dst.isS then lanes.take 1 else lanes

/-- A strided scratchpad operand (R224). -/
def stridedOperand (c : Ctx) (s : State) (w : FM) (write : Bool) (lanes : List Nat) : Operand :=
  let base := c.read s w.sa false 0
  let stride := c.read s w.sb false 0
  let disp := w.ioff.toNat * w.size.bytes
  { space := .scratch, size := w.size.bytes, write := write, base := none, locks := true
    lanes := lanes.map (fun l =>
      (l, (base.1.toNat + disp + stride.1.toNat * l) % 2 ^ 32, 0, mergePois base.2 stride.2)) }

/-! ### Loads (R223, R224, R331) -/

/-- The words of an access, each with the Merge of its bytes' poison (R222). -/
def pwordsOf (n : Nat) (bs : List PByte) : List PWord :=
  (List.range (wordsFor n)).map (fun i =>
    let part := (bs.drop (4 * i)).take 4
    ⟨BitVec.ofNat 32 (numOfBytes part), poisOfBytes part⟩)

/-- The register writes that deliver what each lane read (R216). -/
def loadWrites (handler : Bool) (dst : Spec) (n : Nat) (reads : List (Nat × List PByte)) : List RegWrite :=
  match dst with
  | .v r => reads.flatMap (fun (l, bs) => (pwordsOf n bs).zipIdx.map (fun (x, i) => .v (r.toNat + i) l x))
  | .s r =>
    match reads with
    | [] => []
    | (_, bs) :: _ =>
      [.s (sIndex handler r.toNat) ⟨BitVec.ofNat 64 (numOfBytes bs), poisOfBytes bs, poisOfBytes bs⟩]
  | _ => []

/-- The fill of a load; with no access there is none. -/
def State.fillLoad (s : State) (c : Ctx) (dst : Spec) (n : Nat) (reads : List (Nat × List PByte)) (wait : FillWait) : State :=
  if reads.isEmpty then s
  else s.beginFill c.g.gid (vRegsOf dst (wordsFor n)) (sRegsOf c.handler dst) (loadWrites c.handler dst n reads) wait true

/-- The bytes that each access reads, in lane order. -/
def State.readAll (s : State) (c : Ctx) (scratch : Bool) (scope : Scope) (n : Nat) (accs : List Access) :
    List (Nat × List PByte) × State :=
  accs.foldl (fun acc a =>
    if scratch then (acc.1 ++ [(a.lane, loadScratch c.g c.co a.pa n)], acc.2)
    else
      let r := acc.2.loadGlobal c.g scope a.pa n
      (acc.1 ++ [(a.lane, r.1)], r.2)) ([], s)

/-- Load, acquire where the order asks for it, and begin the fill. -/
def State.loadAll (s : State) (c : Ctx) (w : FM) (scratch : Bool) (accs : List Access) : State :=
  let r := s.readAll c scratch w.scope w.size.bytes accs
  let s := r.2.fillLoad c w.dst w.size.bytes r.1 .ready
  if orderAcquires w.order && !accs.isEmpty then s.acquire c.g.core w.scope else s

def execLd (w : FM) (s : State) : Result :=
  s.issue (fun c => s.gate c (fmNeed w w.legalLd false (dstRegs w.size.bytes w.dst) 1) (fun lanes =>
    s.checkOperand c (FmOperand c s w w.ioff.toNat false true (accessLanes w lanes)) (fun s accs =>
      (s.loadAll c w w.space accs).finish c 0x140 w.words)))

def execLds (w : FM) (s : State) : Result :=
  s.issue (fun c => s.gate c (fmNeed w w.legalLds false (wordsFor w.size.bytes) 1) (fun lanes =>
    s.checkOperand c (stridedOperand c s w false lanes) (fun s accs =>
      (s.loadAll c w true accs).finish c 0x142 w.words)))

/-- The reservation that LR sets in a lane (R234). -/
def reserve (c : Ctx) (w : FM) (a : Access) : Reservation :=
  { lane := a.lane, granule := a.pa / 64, scratch := w.space, size := w.size, scope := w.scope, asid := c.g.ctl.asid }

def Group.addReservations (g : Group) (rs : List Reservation) : Group :=
  { g with resv := g.resv.filter (fun r => !(rs.map (·.lane)).contains r.lane) ++ rs }

def execLr (w : FM) (s : State) : Result :=
  s.issue (fun c => s.gate c (fmNeed w w.legalLr true (wordsFor w.size.bytes) 1) (fun lanes =>
    if c.g.loop.isSome then s.trapAll c trapLoopState
    else
      s.checkOperand c (FmOperand c s w w.ioff.toNat false true lanes) (fun s accs =>
        let s := s.onGroup c.g.gid (fun g => g.addReservations (accs.map (reserve c w)))
        (s.loadAll c w w.space accs).finish c 0x182 w.words)))

/-! ### Stores (R223, R224) -/

/-- The data of one lane as bytes at an address, each with its word's poison (R216, R222). -/
def Ctx.dataBytes (c : Ctx) (x : Src) (n lane a : Nat) : List WByte :=
  let writer := some (c.g.gid, lane)
  match x with
  | .ext lit _ => valueBytes a n lit.toNat none writer
  | .reg (.s r) _ =>
    let v := c.g.sVal c.handler r.toNat
    (valueBytes a (min n 4) v.val.toNat v.lo writer) ++ (valueBytes (a + 4) (n - 4) (v.val.toNat / 2 ^ 32) v.hi writer)
  | .reg (.v r) _ =>
    (List.range (wordsFor n)).flatMap (fun i =>
      let p := c.g.vWord (r.toNat + i) lane
      valueBytes (a + 4 * i) (min n 4) p.val.toNat p.pois writer)
  | _ => []

/-- The word takes one beat: its operands are all uniform, and no p register guards it (R91). R211 gives an entry the lanes of one
eighth, and each lane of an STS and an LDK has an address of its own: that one beat is one entry with the bytes of every acting
lane is a DESIGN CHOICE (log 112). -/
def oneBeat (w : FM) : Bool := w.guard.pg == 7 && w.sa.uniform && w.sb.uniform && w.sc.uniform

/-- One place in the store queue for each beat (R211). -/
def Ctx.storeEntries (c : Ctx) (w : FM) (accs : List Access) (scratch : Bool) : List Beat :=
  (c.beats (oneBeat w) (accs.map (·.lane))).map (fun beat => beat.map (fun (it, ls) =>
    let bytes := (accs.filter (fun a => ls.contains a.lane)).flatMap (fun a =>
      c.dataBytes w.sc w.size.bytes a.lane a.pa)
    (it, if scratch then .scratch bytes else .global bytes (if orderReleases w.order then some w.scope else none))))

/-- The poison among the bytes of entries. -/
def entryPois (es : List Beat) : Option Tag :=
  mergeAll (es.flatten.flatMap (fun e =>
    match e.2 with | .scratch bs => bs.map (·.pois) | .global bs _ => bs.map (·.pois) | _ => []))

/-- The end of a store: its entries enter the queue as U. -/
def State.storeAll (s : State) (c : Ctx) (w : FM) (opc : Nat) (scratch : Bool) (accs : List Access) : Result :=
  let es := c.storeEntries w accs scratch
  s.withRoom c (accs.map (·.lane)) es.length (fun s =>
    ((s.enqueue c.g.gid false es).notePois c.g (entryPois es)).finish c opc w.words)

def execSt (w : FM) (s : State) : Result :=
  s.issue (fun c => s.gate c (fmNeed w w.legalSt true 1 (dataRegs w.size.bytes w.sc)) (fun lanes =>
    s.checkOperand c (FmOperand c s w w.ioff.toNat true true lanes) (fun s accs => s.storeAll c w 0x141 w.space accs)))

def execSts (w : FM) (s : State) : Result :=
  s.issue (fun c => s.gate c (fmNeed w w.legalSts true 1 (dataRegs w.size.bytes w.sc)) (fun lanes =>
    s.checkOperand c (stridedOperand c s w true lanes) (fun s accs => s.storeAll c w 0x143 true accs)))

/-! ### LDK (R225, R226) -/

/-- The scratchpad side of an LDK: SDST and AWOFF of the packed operand. -/
structure LdkShape where
  sdst : Nat
  aw : Option Nat
  pois : Option Tag

def Ctx.ldkShape (c : Ctx) (s : State) (w : FM) : LdkShape :=
  let v := c.uniform s w.sc
  let off := (bits v.1 32 32).toNat
  ⟨(bits v.1 0 32).toNat, if off = 0xFFFFFFFF then none else some off, v.2⟩

/-- One place for each beat: source addresses with destination offsets and lanes, byte by byte, and the arrival word. -/
def Ctx.ldkEntries (c : Ctx) (w : FM) (sh : LdkShape) (n : Nat) (accs : List Access) : List Beat :=
  (c.beats (oneBeat w) (accs.map (·.lane))).map (fun beat => beat.map (fun (it, ls) =>
    (it, .ldk ((accs.filter (fun a => ls.contains a.lane)).flatMap (fun a =>
      (List.range n).map (fun i => (a.pa + i, sh.sdst + n * a.lane + i, a.lane)))) sh.aw)))

/-- The scratchpad destination of an LDK as an operand. -/
def ldkDest (sh : LdkShape) (n : Nat) (lanes : List Nat) : Operand :=
  { space := .scratch, size := n, write := true, base := none, locks := true
    lanes := lanes.map (fun l => (l, sh.sdst + n * l, 0, none)) }

/-- Addresses of an LDK that meet one condition: lane, address, and whether it is written; a lane's source first, then its
destination, then the arrival word. -/
abbrev Met := List (Nat × Nat × Bool)

/-- The addresses of an operand that meet a condition. -/
def Operand.met (o : Operand) (p : Nat → Bool) : Met := (o.lanes.filter (fun x => p x.2.1)).map (fun x => (x.1, x.2.1, o.write))

/-- One trap for every lane that meets a condition by any of its addresses; TADDR is the lowest lane's first such address
(R217; log 88). -/
def State.trapMet (s : State) (c : Ctx) (cause : Nat) (met : Met) : Result :=
  let lanes := (List.range 128).filter (fun l => met.any (fun h => h.1 == l))
  let first := (met.find? (fun h => some h.1 == lanes.head?)).getD (0, 0, false)
  s.takeTrap c ((Trap.plain cause lanes c.pc).withAddr first.2.1 first.2.2)

/-- The address checks of an LDK through order 4 of R217, each on all three of its addresses. -/
def State.ldkChecks (s : State) (c : Ctx) (src dst : Operand) (sh : LdkShape) (lanes : List Nat) (k : State → Result) :
    Result :=
  let aw : Met := match sh.aw with | some a => lanes.map (fun l => (l, a, true)) | none => []
  let far := src.met (fun a => decide (2 ^ 57 ≤ a))
  let odd := src.met (fun a => a % src.size != 0) ++ dst.met (fun a => a % dst.size != 0) ++ aw.filter (fun h => h.2.1 % 16 != 0)
  let out := dst.met (fun a => decide (c.scratchBelow < a + dst.size)) ++
    aw.filter (fun h => decide (c.scratchSize < h.2.1 + 16))
  if lanes.isEmpty then k s
  else if sh.pois.isSome || src.lanes.any (fun x => x.2.2.2.isSome) then s.poisonKill c
  else if !far.isEmpty then s.trapMet c trapAddrRange far
  else if !odd.isEmpty then s.trapMet c trapMisaligned odd
  else if !out.isEmpty then s.trapMet c trapScratchRange out
  else k s

/-- The addresses of an LDK that meet a range lock (R220): its sources write locks, its destinations any. -/
def State.ldkLocks (s : State) (c : Ctx) (src dst : Operand) (accs : List Access) : Met :=
  let acts := fun (x : Nat × Nat × Nat × Option Tag) => accs.any (fun a => a.lane == x.1)
  let on := fun (o : Operand) (scratch : Bool) =>
    { o with lanes := o.lanes.filter acts }.met (fun a => s.lockHit c.g o.write scratch a o.size)
  on src false ++ on dst true

def execLdk (w : FM) (s : State) : Result :=
  s.issue (fun c => s.gate c (fmNeed w w.legalLdk true 1 1) (fun lanes =>
    let n := w.size.bytes
    let sh := c.ldkShape s w
    let src := FmOperand c s w w.ioff.toNat false true lanes
    let dst := ldkDest sh n lanes
    s.ldkChecks c src dst sh lanes (fun s => s.checkOperand c { src with locks := false } (fun s accs =>
      let met := s.ldkLocks c src dst accs
      if !met.isEmpty then s.trapMet c trapRangeLock met
      else
        let es := c.ldkEntries w sh n accs
        s.withRoom c lanes es.length (fun s => (s.enqueue c.g.gid false es).finish c 0x144 w.words)))))

/-! ### The weight store (R227, R228) -/

/-- The cycle at which a bank serves a read that reaches it now: the end of its window, or now (R207). -/
def bankReady (now unit : Nat) : Nat :=
  let b := unit % 64
  let pos := now % 65536
  if decide (1024 * b ≤ pos) && decide (pos < 1024 * b + 512) then now - pos + 1024 * b + 512 else now

/-- When the last of some weight-store reads is served. -/
def State.wsReady (s : State) (p : Part) (accs : List Access) : Nat :=
  (accs.map (fun a => bankReady s.cycle ((p.bankOf a.pa).getD 0))).foldl max s.cycle

def execWld (w : FM) (s : State) : Result :=
  s.issue (fun c => s.gate c (fmNeed w w.legalWld false (dstRegs w.size.bytes w.dst) 1) (fun lanes =>
    let n := w.size.bytes
    let o := { FmOperand c s w w.ioff.toNat false false (accessLanes w lanes) with space := .ws }
    s.checkOperand c o (fun s accs =>
      let reads := accs.map (fun a => (a.lane, (List.range n).map (fun i => s.readWs c.p (a.pa + i))))
      let t := s.wsReady c.p accs
      (s.fillLoad c w.dst n reads (if t = s.cycle then .ready else .cycle t)).finish c 0x145 w.words)))

/-- A bank's refresh window meets `len` cycles from `first`, modulo 65,536 (R228). -/
def windowMeets (unit first len : Nat) : Bool :=
  let start := 1024 * (unit % 64)
  decide ((start + 65536 - first) % 65536 < len) || (decide (0 < len) && decide ((first + 65536 - start) % 65536 < 512))

/-- The value of WSTAT.Qk. -/
def wstatValue (p : Part) (k : Nat) (a b : Nat) : Word64 :=
  BitVec.ofNat 64 (((List.range 64).map (fun j =>
    match (sortNat p.banks)[64 * k + j]? with
    | some unit => if windowMeets unit (a % 65536) (min b 65536) then 2 ^ j else 0
    | none => 0)).sum)

def execWstat (w : F3) (s : State) : Result :=
  s.issue (fun c =>
    let n : Need := ⟨w.legalWstat, false, w.guard, [(w.dst, 1)], [(w.sa, 1), (w.sb, 1)]⟩
    s.gate c n (fun lanes =>
      if lanes.isEmpty then s.finish c 0x146 w.words
      else
        let a := c.uniform s w.sa
        let b := c.uniform s w.sb
        let t := mergePois a.2 b.2
        let s := s.onGroup c.g.gid (fun g =>
          g.writeS c.handler w.dst (wstatValue c.p w.sub.toNat a.1.toNat b.1.toNat, t))
        (s.notePois c.g t).finish c 0x146 w.words))

/-! ### Translation and prefetch (R229, R230) -/

def srcB : Spec → Nat
  | .b n => n.toNat
  | _ => 0

/-- The b register that TRB fills (R196, R197), from the TLB entry that served its translation, which L1 now holds. -/
def State.trbFill (s : State) (c : Ctx) (va pa : Nat) : BReg :=
  let asid := c.g.ctl.asid
  let e := ((s.core c.g.core).l1.find? (fun e => e.hits asid va)).getD ⟨asid, va, 0, pa, false, false⟩
  { valid := true, asid := asid, vbase := BitVec.ofNat 57 va, frame := BitVec.ofNat 57 pa
    limit := BitVec.ofNat 30 (s.trbRun c.p e va), w := e.w }

/-- TRB (R229). TMASK of an ADDR_RANGE holds every active lane, as R229 says of a PAGE_FAULT; for ADDR_RANGE it names none: DESIGN
CHOICE (log 23). -/
def execTrb (w : F3) (s : State) : Result :=
  s.issue (fun c =>
    let n : Need := ⟨w.legalTrb, false, w.guard, [], [(w.sa, 1)]⟩
    s.gate c n (fun lanes =>
      let a := c.uniform s w.sa
      if lanes.isEmpty then s.finish c 0x147 w.words
      else if a.2.isSome then s.poisonKill c
      else if bits a.1 57 7 != 0 then
        s.takeTrap c ((Trap.plain trapAddrRange c.active c.pc).withAddr a.1.toNat false)
      else
        let va := a.1.toNat
        let r := s.translate c.p c.g.core c.g.ctl.asid va
        match r.1.forAcc .read with
        | .ok pa =>
          (r.2.onGroup c.g.gid (fun g => g.setB (srcB w.dst) (r.2.trbFill c va pa))).finish c 0x147 w.words
        | .fault perm => r.2.pageFault c (c.active.map (fun l => (l, va, perm))) false
        | .malformed => (s.failTask c.p.id c.co.tid 6).done))

/-- One lane of PREF: a condition from order 2 on, or any lock, drops it (R220, R230). -/
def State.prefLane (s : State) (c : Ctx) (w : FM) (o : Operand) (x : Nat × Nat × Nat × Option Tag) : State :=
  if decide (2 ^ 57 ≤ x.2.1) || x.2.1 % o.size != 0 || (o.base.map (·.valid)).getD true = false then s
  else
    let r := s.translateLane c o x
    match r.1 with
    | .ok pa => if s.lockHit c.g true false x.2.1 o.size then s else r.2.ensureFor c.g.core w.scope (pa / 64)
    | _ => s

def execPref (w : FM) (s : State) : Result :=
  s.issue (fun c => s.gate c (fmNeed w w.legalPref false 1 1) (fun lanes =>
    let o := FmOperand c s w w.ioff.toNat false true lanes
    if o.lanes.any (fun x => x.2.2.2.isSome) then s.poisonKill c
    else (o.lanes.foldl (fun s x => s.prefLane c w o x) s).finish c 0x148 w.words))

/-! ### Atomics (R231 to R235, R334) -/

/-- The bytes at the point of an access, and the state with the copies this needs. -/
def State.pointRead (s : State) (c : Ctx) (w : FM) (a : Access) : List PByte × State :=
  if w.space then (((s.cohort? c.g.cohort).map (fun co => co.readScratchBytes a.pa w.size.bytes)).getD [], s)
  else s.readPoint c.g.core w.scope a.pa w.size.bytes

/-- A value written at the point of an access by its lane. -/
def State.pointWrite (s : State) (c : Ctx) (w : FM) (a : Access) (v : Nat) (pois : Option Tag) : State :=
  let bytes := valueBytes a.pa w.size.bytes v pois (some (c.g.gid, a.lane))
  if w.space then s.writeScratch c.g.cohort bytes else s.writePoint c.g w.scope bytes

/-- Every entry ahead, numbered below `mark`, has drained, and its packets have been performed at the scope (R231 step 2,
R334). -/
def State.atomicReady (s : State) (g : Group) (mark : Nat) (scope : Scope) : Bool :=
  let mine := fun (p : Packet) => p.gid == g.gid && decide (p.entry < mark)
  !g.sq.any (fun e => decide (e.id < mark)) &&
  (match scope with
   | .core => true
   | .clu | .die => !s.cfq.any mine
   | _ => !s.cfq.any mine && !s.df.any mine)

/-- The step of a lane is not taken now: it meets a range lock (R337; log 89), or PQ has no room for the deltas of a
write at DM (R374). -/
def State.atomicBlocked (s : State) (c : Ctx) (w : FM) (a : Access) : Bool :=
  s.lockHit c.g true w.space a.va w.size.bytes ||
  (!w.space && (match w.scope with
    | .core | .clu | .die => false
    | _ => !s.parityRoom c.g.part (valueBytes a.pa w.size.bytes 0 none none)))

/-- What the atomic instructions differ in (R231): `keep` leaves the reservations to SC's own test; `load` reads a lane's
operands at the commit; `step` is one lane's atomic step, with its result and whether its acquire is due; a long-latency
one fills DST. -/
structure AtomicOp where
  opc : Nat
  need : Need
  keep : Bool
  fills : Bool
  wide : Bool
  operand : Ctx → List Nat → Operand
  load : Ctx → Access → Access
  step : State → Ctx → Access → LaneResult × Bool × State

/-- A lane's result goes to DST, or into the fill that will deliver it. -/
def State.atomicResult (s : State) (c : Ctx) (w : FM) (o : AtomicOp) (fill : Option Nat) (r : LaneResult) : State :=
  s.onGroup c.g.gid (fun g =>
    match fill with
    | none => g.writeDst c.handler w.dst o.wide false [r]
    | some id => { g with fills := g.fills.map (fun f =>
        if f.id = id then { f with writes := f.writes ++ regWrites c.handler w.dst o.wide false [r] } else f) })

/-- After its last lane's step an atomic takes its acquire and ends, or waits for its fill (R231, R218). -/
def State.atomicEnd (s : State) (c : Ctx) (w : FM) (o : AtomicOp) (fill : Option Nat) (acq : Bool) : Result :=
  let s := if acq then s.acquire c.g.core w.scope else s
  match fill with
  | none => s.finish c o.opc w.words
  | some id =>
    ((s.onGroup c.g.gid (fun g => { g with fills := g.fills.map (fun f =>
        if f.id = id then { f with wait := .ready } else f) })).setWait c (.filling id)).done

/-- One atomic instruction (R231, R334): its first issue makes the checks and the commit, with its operands read and DST of
a long-latency one emptied; each later issue takes the step of one lane, in lane order, once what is ahead has drained. -/
def State.atomic (s : State) (w : FM) (o : AtomicOp) : Result :=
  s.issue (fun c =>
    match c.head.wait with
    | .atomic mark rest fill acq regs =>
      if !s.atomicReady c.g mark w.scope then s.wait
      else
        match rest with
        | [] => s.atomicEnd c w o fill acq
        | a :: rest =>
          if s.atomicBlocked c w a then s.wait
          else
            let r := o.step s c a
            let s := r.2.2.atomicResult c w o fill r.1
            if rest.isEmpty then s.atomicEnd c w o fill (acq || r.2.1)
            else (s.setWait c (.atomic mark rest fill (acq || r.2.1) regs)).done
    | .filling id => if c.g.fills.any (fun f => f.id == id) then s.wait else s.finish c o.opc w.words
    | _ => s.gate c o.need (fun lanes =>
        if c.g.loop.isSome then s.trapAll c trapLoopState
        else
          s.checkOperand c (o.operand c lanes) (fun s accs =>
            let accs := accs.map (o.load c)
            let g := c.committed o.opc w.words
            let g := if o.keep then { g with resv := c.g.resv } else g
            let s := (s.setGroup g).notePois c.g (mergeAll (accs.map (·.pois)))
            let id := s.nextUid
            let regs := vRegsOf w.dst (regsFor o.wide)
            if o.fills && w.dst.isV && !accs.isEmpty then
              ((s.beginFill c.g.gid regs [] [] .atomic false).setWait c (.atomic id accs (some id) false [])).done
            else (s.setWait c (.atomic id accs none false regs)).done)))

/-- The data of a lane: its value and poison. -/
def Ctx.dataOf (c : Ctx) (s : State) (w : FM) (x : Src) (a : Access) : Access :=
  let v := c.read s x (w.size == .w64) a.lane
  { a with x := v.1, pois := v.2 }

/-- The operations of R232 on n-bit values. -/
def atomOp (op n : Nat) (old data : Nat) : Nat :=
  let so := readInt true n old
  let sd := readInt true n data
  match op with
  | 0 => data
  | 1 => (old + data) % 2 ^ n
  | 2 => old &&& data
  | 3 => old ||| data
  | 4 => old ^^^ data
  | 5 => if so ≤ sd then old else data
  | 6 => if sd ≤ so then old else data
  | 7 => min old data
  | 8 => max old data
  | 9 => fAdd fmtF32 ⟨.rne, false, false, false, false, false⟩ 0 old data
  | 10 => minMaxF32 false old data
  | _ => minMaxF32 true old data

/-- A lane's atomic step: new from old and data, written with the Merge of the old sector and the data (R222); the old
value with its sector's poison is the result. -/
def State.atomStep (s : State) (c : Ctx) (w : FM) (a : Access) (new : Nat → Option Nat) : (Nat × Option Tag) × State :=
  let r := s.pointRead c w a
  let old := numOfBytes r.1
  let pois := poisOfBytes r.1
  let s :=
    match new old with
    | some v => r.2.pointWrite c w a v (mergePois pois a.pois)
    | none => r.2
  ((old, pois), s)

/-- The data operand as an n-bit number. -/
def Access.data (a : Access) (w : FM) : Nat := a.x.toNat % 2 ^ (8 * w.size.bytes)
def Access.expected (a : Access) (w : FM) : Nat := a.y.toNat % 2 ^ (8 * w.size.bytes)

/-- ATOM (R232). -/
def atomAtomic (w : FM) (s0 : State) : AtomicOp :=
  { opc := 0x180, need := fmNeed w w.legalAtom true (wordsFor w.size.bytes) (dataRegs w.size.bytes w.sc), keep := false
    fills := false, wide := w.size == .w64
    operand := fun c lanes => FmOperand c s0 w 0 true true lanes
    load := fun c a => c.dataOf s0 w w.sc a
    step := fun s c a =>
      let r := s.atomStep c w a (fun old => some (atomOp w.ioff.toNat (8 * w.size.bytes) old (a.data w)))
      ((a.lane, BitVec.ofNat 64 r.1.1, r.1.2), orderAcquires w.order, r.2) }

def execAtom (w : FM) (s : State) : Result := s.atomic w (atomAtomic w s)

/-- The new and the expected value of a CAS lane (R233). -/
def Ctx.casOperands (c : Ctx) (w : FM) (a : Access) : Access :=
  let k := wordsFor w.size.bytes
  let word := fun (i : Nat) =>
    match w.sc with
    | .reg (.v r) _ => c.g.vWord (r.toNat + i) a.lane
    | _ => PWord.zero
  let pair := fun (i : Nat) =>
    if k = 2 then ((word (i + 1)).val ++ (word i).val : BitVec 64) else (word i).val.setWidth 64
  { a with x := pair 0, y := pair k, pois := mergeAll ((List.range (2 * k)).map (fun i => (word i).pois)) }

/-- The poison that a successful CAS writes: its new value's. -/
def Ctx.casNewPois (c : Ctx) (w : FM) (a : Access) : Option Tag :=
  match w.sc with
  | .reg (.v r) _ => mergeAll ((List.range (wordsFor w.size.bytes)).map (fun i => (c.g.vWord (r.toNat + i) a.lane).pois))
  | _ => none

/-- CAS (R233): a success is ordered by ORDER, and a failure acquires under FACQ. -/
def casAtomic (w : FM) (s0 : State) : AtomicOp :=
  { opc := 0x181, need := fmNeed w w.legalCas true (wordsFor w.size.bytes) (2 * wordsFor w.size.bytes), keep := false
    fills := true, wide := w.size == .w64
    operand := fun c lanes => FmOperand c s0 w 0 true true lanes
    load := fun c a => c.casOperands w a
    step := fun s c a =>
      let r := s.atomStep c w { a with pois := c.casNewPois w a } (fun old => if old = a.expected w then some (a.data w) else none)
      let won := r.1.1 == a.expected w
      ((a.lane, BitVec.ofNat 64 r.1.1, r.1.2), (won && orderAcquires w.order) || (!won && bit w.ioff 0), r.2) }

def execCas (w : FM) (s : State) : Result := s.atomic w (casAtomic w s)

/-- The lane's reservation holds for this access (R235 step 1). -/
def Group.reserved (g : Group) (w : FM) (a : Access) : Bool :=
  g.resv.any (fun r => r.lane == a.lane && r.granule == a.pa / 64 && r.scratch == w.space && r.size == w.size &&
    r.scope == w.scope && r.asid == g.ctl.asid)

/-- One lane of SC: the test and the write in one step at the point of its scope (R335). d is clean whatever the poison of
the data word, which the sector takes (R235; DESIGN CHOICE, log 108). -/
def State.scStep (s : State) (c : Ctx) (w : FM) (a : Access) : LaneResult × State :=
  let good := ((s.group? c.g.gid).map (fun g => g.reserved w a)).getD false
  let r := s.pointRead c w a
  let s := if good then r.2.pointWrite c w a (a.data w) (mergePois (poisOfBytes r.1) a.pois) else s
  let s := s.onGroup c.g.gid (fun g => { g with resv := g.resv.filter (fun r => r.lane != a.lane) })
  ((a.lane, if good then 0 else 1, none), s)

/-- SC (R235). -/
def scAtomic (w : FM) (s0 : State) : AtomicOp :=
  { opc := 0x183, need := fmNeed w w.legalSc true 1 (dataRegs w.size.bytes w.sc), keep := true
    fills := false, wide := false
    operand := fun c lanes => FmOperand c s0 w w.ioff.toNat true true lanes
    load := fun c a => c.dataOf s0 w w.sc a
    step := fun s c a => let r := s.scStep c w a; (r.1, false, r.2) }

def execSc (w : FM) (s : State) : Result := s.atomic w (scAtomic w s)

/-! ### Fences (R236, R237, R338, R340) -/

/-- The number of an LDW whose step is still to come. -/
def Wait.loading : Wait → Option Nat
  | .held _ _ _ load => load
  | _ => Option.none

/-- The loads outstanding: fills that have not arrived, and LDWs whose step is still to come. -/
def Group.loadFills (g : Group) : List Nat := (g.fills.filter (·.load)).map (·.id) ++ g.slices.filterMap (fun x => x.wait.loading)

/-- Every protected store that drained of an entry ahead of a marker has reached DM and has been acknowledged by each parity
holder that is live (R236, R376). -/
def State.survives (s : State) (g : Group) (mark : Nat) : Bool :=
  (s.cfq ++ s.df).all (fun p => !(p.gid == g.gid && decide (p.entry < mark)) || s.deltasFor p.part p.bytes == 0) &&
  s.pq.all (fun d => !d.before g.gid mark || !s.deltaLive d)

/-- Nothing that a fence waits for is left: no load that came before it, and where it is survivable no C entry ahead of its
marker, also one that has become C since, and no protected store of one (R236, R340). -/
def State.fenceReady (s : State) (g : Group) (loads : List Nat) (mark : Option Nat) : Bool :=
  !g.loadFills.any loads.contains &&
  (match mark with
   | some m => !g.sq.any (fun e => e.committed && decide (e.id < m)) && s.survives g m
   | none => true)

/-- A fence: an optional marker, then a wait, then the Refresh steps of an acquire at a scope. -/
def State.doFence (s : State) (c : Ctx) (opc words : Nat) (marker : Option EntryOp) (acquires surv : Bool)
    (scope : Scope) : Result :=
  let last := fun (s : State) => (if acquires then s.acquire c.g.core scope else s).finish c opc words
  match c.head.wait with
  | .fence loads mark => if s.fenceReady c.g loads mark then last s else s.wait
  | _ =>
    let go := fun (s : State) (mark : Option Nat) =>
      let loads := if acquires then c.g.loadFills else []
      if s.fenceReady c.g loads mark then last s
      else (s.onGroup c.g.gid (fun g => g.mapSlices c.slices (fun _ x => { x with wait := .fence loads mark }))).done
    match marker with
    | some m => s.withRoom c c.active 1 (fun s =>
        go (s.enqueue c.g.gid false [[(none, m)]]) (if surv then some s.nextUid else none))
    | none => go s none

def execFence (w : FM) (s : State) : Result :=
  s.issue (fun c => s.gate c (Need.bare w.legalFence false w.guard) (fun lanes =>
    let surv := w.scope == .surv
    let marker := if surv then some EntryOp.survMarker else if orderReleases w.order then some (.relMarker w.scope) else none
    if surv && c.g.loop.isSome then s.trapAll c trapLoopState
    else if lanes.isEmpty then s.finish c 0x184 w.words
    else s.doFence c 0x184 w.words marker (orderAcquires w.order) surv (if surv then .dev else w.scope)))

def execXfence (w : F3) (s : State) : Result :=
  s.issue (fun c => s.gate c (Need.bare w.legalXfence false w.guard) (fun lanes =>
    if lanes.isEmpty then s.finish c 0x185 w.words
    else
      s.doFence c 0x185 w.words (if w.sub = 1 then none else some .teMarker) (w.sub != 0) false .dev))

end Sys2Proof.Machine
end

