-- ==== Sys2Proof/Machine/Fresh.lean ====
section
/-!
DEFINITION. New parts of the state: a group at its start (R89, R140, R385), a cohort at its placement (R48, R209,
R129, R244), a stream's sequencer (R280), and a partition at its creation (R42, R383, R391).
-/

namespace Sys2Proof.Machine

/-! ### Groups (R89, R140; log 10) -/

def Slice.fresh (entry : Addr) : Slice :=
  { pc := entry, amask := 0xF, xmask := 0, imask := 0, lstk := [], spl := none, path := 0, hdr := true, blkPc := entry,
    blk := 0, sig := 0xFFF, wait := .none, held := false, handler := false, preq := none }

/-- Every register 0, full and clean, except s0, which holds ARGP (R140). -/
def Regs.fresh (argp : Word64) : Regs :=
  { v := [], vEmpty := [], s := SMap.put SVal.zero [] 0 ⟨argp, none, none⟩, sEmpty := [], p := [], b := [],
    iter := [] }

def GroupCtl.fresh (entry : Addr) (prio : Nat) (asid : BitVec 8) : GroupCtl :=
  { quantum := 32, prio := BitVec.ofNat 3 prio, rsalt := 0, capsel := 0, rgnpc := entry, rgnsig := 0xFFF, asid := asid,
    curPath := 0, turns := 0, predictor := [] }

/-- A group under its prologue allotment (R19, R50). -/
def Group.fresh (gid cohort part core quarter slot : Nat) (sp : Specials) (entry : Addr) (argp : Word64)
    (prio fullv : Nat) (asid : BitVec 8) : Group :=
  { gid := gid, cohort := cohort, cont := none, part := part, core := core, quarter := quarter, slot := slot, sp := sp,
    regs := Regs.fresh argp, ctl := GroupCtl.fresh entry prio asid,
    allot := { fullv := fullv, full := false, request := none, admittedAt := none, admittedCycle := 0, requestedCycle := 0 },
    slices := List.replicate 32 (Slice.fresh entry), splits := [], loop := none, sq := [], resv := [],
    fills := [], holdLifts := [], holdHomes := [], frame := TrapFrame.clear, trig := 0, parking := false, stopped := false
    discarding := false }

/-! ### Cohorts (R28, R48) -/

/-- The sequencer of a placed cohort: active from STRM, or none with STRM 0 (R280). R18 gives STRM 64 bits and no rule the
fate of bits [63:57]: DESIGN CHOICE, they are dropped (log 102). -/
def Sequencer.fresh (strm : Word64) (mxpri : Nat) : Sequencer :=
  { active := strm != 0, ended := strm == 0, pc := strm.setWidth 57, strm := strm.setWidth 57, lc0 := 0, lc1 := 0,
    own0 := none, own1 := none, mxpri := mxpri, waitSince := none, early := [], endedAt := [], recvs := [], send := none,
    walk := none, bar := none }

/-- A cohort of a task: its coordinates in linear order, CX fastest, and fresh scratchpad, tiles, slots and barriers
(R48, R209, R129). -/
def Cohort.fresh (uid part : Nat) (t : Task) (index core slot : Nat) (strm seed : Word64)
    (asid : BitVec 8) : Cohort :=
  { uid := uid, part := part, tid := t.tid, index := index, core := core, slot := slot,
    cx := BitVec.ofNat 16 (index % (t.nxm1 + 1)), cy := BitVec.ofNat 16 (index / (t.nxm1 + 1) % (t.nym1 + 1)),
    cz := BitVec.ofNat 8 (index / (t.nxm1 + 1) / (t.nym1 + 1)), seed := seed, rsalt0 := 0, asid0 := asid, ngm1 := t.ngm1, scrk := t.scrk,
    lslot := t.lslot, stsl := t.stsl, atiles := t.atiles, scratch := [], scratchPois := [], bars := [],
    chkiv := Chkiv.clear, landing := [], tiles := [], tileMask := [], tileDepth := [], stage := [], desc := [],
    seq := Sequencer.fresh strm t.mxpri, ended := 0, triggered := 0, kill := none, killed := false,
    exited := false }

/-! ### Partitions (R42) -/

def Ports.fresh : Ports :=
  { closed := false, flits := [], ovf := false, cqBase := 0, cqSize := 8, cqHead := 0, cqTail := 0, prqBase := 0,
    prqHead := 0, prqTail := 0, vectors := [] }

/-- Every bucket of a partition, empty (log 16). -/
def freshBuckets : List (BucketId × Bucket) :=
  (List.range 192).map (fun i => (.memory i, ⟨0, []⟩)) ++ (List.range 18).map (fun i => (.link i, ⟨0, []⟩))

def Part.fresh (id : Nat) (t : Totals) (clusters banks : List Nat) (key : Nat) (asids : List Nat) (req : Request) : Part :=
  { id := id, totals := t, clusters := clusters, banks := banks, key := key, asids := asids, request := req,
    destroying := false, ports := Ports.fresh, ctl := PartCtl.fresh, tasks := [], decrements := [], spawned := [],
    entries := [], relaunches := [], dispatched := [], lastCore := none, requests := [], buckets := freshBuckets,
    prot := [], wsMaps := [] }

/-! ### An issuer for one word (the host's probe) -/

/-- A group whose one path stands at address 8, inside a plain block of 255 words whose header is at address 0. -/
def Group.probe (cohort part : Nat) : Group :=
  let g := Group.fresh 0 cohort part 0 0 0 ⟨0, 0, 0, 0, 0⟩ 0 0 0 0 0
  { g with slices := List.replicate 32 { Slice.fresh 0 with pc := 8, hdr := false, blk := 0xFFFFC00000000000 } }

/-- A partition that owns cluster 0 and ASID 0. -/
def Part.probe : Part :=
  Part.fresh 0 ⟨false, 1, 0, 1, 1, 0, 0, 0, 0, 0, 1, 0, 0, 4, 4⟩ [0] [] 0 [0] ⟨0, 0, 0, 0, 0, 0, 0, 0⟩

/-- A task of one cohort with one group. -/
def Task.probe : Task :=
  { tid := 0, state := .running, pri := 0, epri := 0, kind := .kernel, depc := 0, relaunch := false, early := false,
    nsucc := 0, emask := 0, recVa := 0, entry := 0, argp := 0, nxm1 := 0, nym1 := 0, nzm1 := 0, ngm1 := 0, maxpc := 0,
    swgt := 0, mxpri := 0, fullv := 0, atiles := 0, scrk := 1, stsl := 0, lslot := 0, succ0 := 0, succ1 := 0, succ2 := 0,
    succ3 := 0, rstamp := 0, orig := 0, sent := 0, earlyDone := false, nextCohort := 1, exited := 0, trigCohorts := [],
    kills := [], killedOn := [], chkiv := Chkiv.clear, wake := none, parkCohort := 0, parkGroup := 0, wakeStatus := 0,
    parkPlaces := [], parkTrig := 0, gids := [0], contGids := [], killedRuns := [], runs := [0], reported := false }

/-- The words of an instruction whose bits are w, as they lie in memory from address 8. -/
def probeBytes (nbits w : Nat) : List WByte :=
  let x := w % 2 ^ nbits
  (List.range 32).map (fun i => (⟨8 + i, BitVec.ofNat 8 (x / 2 ^ (8 * i)), none, none⟩ : WByte))

/-- The device with that instruction stored where quarter 0 of core 0 fetches next (log 18). -/
def State.placeWord (s : State) (nbits w : Nat) : State :=
  let task := { Task.probe with }
  let p := { Part.probe with tasks := [task], dispatched := [0], lastCore := some 0 }
  { s with
    mgmt := { s.mgmt with stopped := false }
    mem := storeBytes s.mem (probeBytes nbits w)
    memPois := SMap.put none s.memPois 0 none
    parts := [p]
    memKey := SMap.put none s.memKey 0 none
    cohorts := [Cohort.fresh 0 0 task 0 0 0 0 0 0]
    groups := [Group.probe 0 0]
    cores := SMap.put Core.reset s.cores 0 { Core.reset with l1 := [⟨0, 0, 2 ^ 17, 0, true, true⟩] }
    cluOwner := SMap.put none s.cluOwner 0 (some 0)
    keyOwner := SMap.put none s.keyOwner 0 (some 0)
    asidOwner := SMap.put none s.asidOwner 0 (some 0)
    agenda := .quarter 0 0 :: s.agenda
    nextUid := max 1 s.nextUid }

end Sys2Proof.Machine
end

