-- ==== Sys2Proof/Machine/Task.lean ====
section
/-!
DEFINITION. The home scheduler's steps: flits and launch records (R20 to R24, R29), decrements, dispatch and placement
(R33, R37, R48, R49), admission and pre-emption (R51, R394, R214), the end of groups, cohorts and tasks (R30, R32, R410
to R412), completion entries (R35), kills and relaunch (R399, R400), Turns (R406), and fills that complete (R143).
-/

namespace Sys2Proof.Machine

/-! ### Flits (R22, R24) -/

/-- The fields of a launch flit. -/
structure FlitFields where
  fop : Nat
  tid : Nat
  depc : Nat
  nsucc : Nat
  emask : BitVec 4
  recVa : Addr
  succ0 : Nat
  succ1 : Nat
  succ2 : Nat
  succ3 : Nat
  deriving DecidableEq, Repr

def Flit.fields (f : Flit) : FlitFields :=
  { fop := (bits f.w0 56 8).toNat, tid := (bits f.w0 36 20).toNat, depc := (bits f.w0 20 16).toNat
    nsucc := (bits f.w0 17 3).toNat, emask := bits f.w0 13 4, recVa := bits f.w1 0 57, succ0 := (bits f.w2 44 20).toNat
    succ1 := (bits f.w2 24 20).toNat, succ2 := (bits f.w2 4 20).toNat, succ3 := (bits f.w3 44 20).toNat }

/-- The flit is well formed (R24). -/
def Flit.wellFormed (f : Flit) : Bool :=
  let x := f.fields
  (x.fop == 1 || x.fop == 2) && bits f.w0 0 13 == 0 && bits f.w1 57 7 == 0 && bits f.w2 0 4 == 0 && bits f.w3 0 44 == 0 &&
  decide (x.nsucc ≤ 4) && decide (x.emask.toNat < 2 ^ x.nsucc) && x.recVa.toNat % 128 == 0 &&
  (if x.fop == 1 then x.recVa != 0 else x.recVa == 0 && x.emask == 0)

/-- A flit joins the port queue (R22). -/
def State.queueFlit (s : State) (part : Nat) (f : Flit) : State :=
  s.onPart part (fun p => { p with ports := { p.ports with flits := p.ports.flits ++ [f] } })

/-- A flit is discarded: OVF and the message on vector 33. -/
def State.discardFlit (s : State) (part : Nat) : State :=
  (s.onPart part (fun p => { p with ports := { p.ports with ovf := true } })).sendMsi part 33

/-- LFLIT_WRITE (R22, R46). -/
def execLflitWrite (part : Nat) (w0 w1 w2 w3 : Word64) (s : State) : Result :=
  match s.part? part with
  | none => s.done
  | some p =>
    if p.ports.closed || decide (256 ≤ p.ports.flits.length) then (s.discardFlit part).done
    else (s.queueFlit part ⟨w0, w1, w2, w3, none⟩).done

/-- LPSTAT_CLEAR (R21). -/
def execLpstatClear (part : Nat) (v : Word64) (s : State) : Result :=
  (s.onPart part (fun p => { p with ports := { p.ports with ovf := p.ports.ovf && !bit v 0 } })).done

/-- A host write to a consumed count, which must lie from the present value forward to the tail (R35, R391). -/
def advanceHead (head tail v : Word64) : Word64 := if (v - head).toNat ≤ (tail - head).toNat then v else head

/-- CQHEAD_WRITE (R35). -/
def execCqheadWrite (part : Nat) (v : Word64) (s : State) : Result :=
  (s.onPart part (fun p => { p with ports := { p.ports with cqHead := advanceHead p.ports.cqHead p.ports.cqTail v } })).done

/-- PRQHEAD_WRITE (R391). -/
def execPrqheadWrite (part : Nat) (v : Word64) (s : State) : Result :=
  (s.onPart part (fun p => { p with ports := { p.ports with prqHead := advanceHead p.ports.prqHead p.ports.prqTail v } })).done

/-! ### Launch records (R18, R20) -/

/-- The fields of a launch record that the scheduler reads. -/
structure LaunchRec where
  w0 : Word64
  w1 : Word64
  w2 : Word64
  w3 : Word64
  w4 : Word64
  w5 : Word64
  w6 : Word64
  w7 : Word64
  deriving DecidableEq, Repr

/-- The record at an address of the partition's first ASID; none when it cannot be read. It lies in one page, since it
is 128-byte aligned. A poisoned sector reads as its bytes stand, and its poison is dropped: no rule gives its fate (R20; log
95). -/
def State.launchRec? (s : State) (p : Part) (va : Addr) : Option LaunchRec :=
  match s.translateWalk p p.firstAsid va.toNat with
  | .ok pa _ _ =>
    let w := fun (i : Nat) => s.readWordAs p.id (pa + 8 * i)
    some ⟨w 0, w 1, w 2, w 3, w 4, w 5, w 6, w 7⟩
  | _ => none

namespace LaunchRec

def ngm1 (r : LaunchRec) : Nat := (bits r.w4 20 4).toNat
def fullv (r : LaunchRec) : Nat := (bits r.w6 60 4).toNat
def atiles (r : LaunchRec) : Nat := (bits r.w6 53 7).toNat
def scrk (r : LaunchRec) : Nat := (bits r.w6 42 11).toNat
def stsl (r : LaunchRec) : Nat := (bits r.w6 36 6).toNat
def lslot (r : LaunchRec) : Nat := (bits r.w6 32 4).toNat
def early (r : LaunchRec) : Bool := bit r.w7 49
/-- The stage of group g. -/
def stage (r : LaunchRec) (g : Nat) : BitVec 3 := bits r.w5 (3 * g) 3

/-- The checks of R20. -/
def legal (r : LaunchRec) (push : Bool) : Bool :=
  bits r.w0 57 7 == 0 && bits r.w4 0 20 == 0 && bits r.w5 48 16 == 0 && bits r.w6 0 32 == 0 && bits r.w7 0 49 == 0 &&
  r.fullv != 15 && bits r.w0 0 3 == 0 && bits r.w2 0 3 == 0 && decide (r.atiles ≤ 64) && decide (r.stsl ≤ 32) &&
  decide (r.lslot ≤ 8) && decide (r.scrk + 32 * r.lslot ≤ 1536) && (push || r.lslot == 0) &&
  (r.w2 != 0 || r.stsl == 0) && decide ((bits r.w5 0 48).toNat < 2 ^ (3 * (r.ngm1 + 1)))

end LaunchRec

/-- A control block with nothing but what a flit names. -/
def FlitFields.task (x : FlitFields) (kind : TaskKind) : Task :=
  { tid := x.tid, state := .waiting, pri := 0, epri := 0, kind := kind, depc := x.depc, relaunch := false, early := false
    nsucc := x.nsucc, emask := x.emask, recVa := x.recVa, entry := 0, argp := 0, nxm1 := 0, nym1 := 0, nzm1 := 0, ngm1 := 0
    maxpc := 0, swgt := 0, mxpri := 0, fullv := 0, atiles := 0, scrk := 0, stsl := 0, lslot := 0
    succ0 := if 0 < x.nsucc then x.succ0 else 0, succ1 := if 1 < x.nsucc then x.succ1 else 0
    succ2 := if 2 < x.nsucc then x.succ2 else 0, succ3 := if 3 < x.nsucc then x.succ3 else 0, rstamp := 0, orig := 0
    sent := 0, earlyDone := false, nextCohort := 0, exited := 0, trigCohorts := [], kills := [], killedOn := []
    chkiv := Chkiv.clear, wake := none, parkCohort := 0, parkGroup := 0, wakeStatus := 0, parkPlaces := [], parkTrig := 0
    gids := [], contGids := [], killedRuns := [], runs := [], reported := false }

/-- The fields that a kernel task takes from its launch record (R28). -/
def Task.withRecord (t : Task) (r : LaunchRec) : Task :=
  { t with entry := r.w0.setWidth 57, argp := r.w1, nxm1 := (bits r.w4 48 16).toNat, nym1 := (bits r.w4 32 16).toNat
           nzm1 := (bits r.w4 24 8).toNat, ngm1 := r.ngm1, fullv := r.fullv, atiles := r.atiles, scrk := r.scrk
           stsl := r.stsl, lslot := r.lslot, pri := (bits r.w7 61 3).toNat, epri := (bits r.w7 61 3).toNat
           mxpri := (bits r.w7 58 3).toNat, swgt := (bits r.w7 54 4).toNat, maxpc := (bits r.w7 51 3).toNat
           relaunch := bit r.w7 50, early := r.early }

/-! ### Creating a task (R29) -/

/-- The result of a SPAWN's flit goes back to its path. -/
def State.answerSpawn (s : State) (part : Nat) (f : Flit) (w : Word64) : State :=
  match f.origin with
  | none => s
  | some (g, sl) => s.onPart part (fun p => { p with spawned := p.spawned ++ [(g, sl, w)] })

/-- A refused flit: its rejection entry. -/
def State.refuseFlit (s : State) (part : Nat) (f : Flit) (cause : Nat) : State :=
  (s.reject part f.fields.tid cause).answerSpawn part f (resultWord f.fields.tid 0 cause)

/-- A new block, in the state its counter gives it. -/
def State.enterTask (s : State) (part : Nat) (f : Flit) (t : Task) : State :=
  let t := if t.depc != 0 then t else if t.kind == .join then { t with state := .done } else t.makeReady s.tick
  (s.putTask part t).answerSpawn part f (resultWord t.tid t.state.code 0)

/-- A flit taken from the queue: refused by R24 and R29, or a task created. -/
def State.takeFlit (s : State) (p : Part) (f : Flit) : State :=
  let x := f.fields
  if !f.wellFormed then s.refuseFlit p.id f 0x0A
  else if p.totals.cbase ≤ x.tid then s.refuseFlit p.id f 0x02
  else if (p.task? x.tid).isSome then s.refuseFlit p.id f 0x03
  else if x.fop = 2 then s.enterTask p.id f (x.task .join)
  else
    let bare := x.task .kernel
    let fail := fun (t : Task) =>
      ((s.putTask p.id t).failTask p.id t.tid 1).answerSpawn p.id f (resultWord t.tid 6 1)
    match s.launchRec? p x.recVa with
    | none => fail bare
    | some r =>
      let t := bare.withRecord r
      if !r.legal p.totals.push || (x.emask != 0 && !r.early) then fail t else s.enterTask p.id f t

/-- The head of the port queue, as a flit for one of the two creating steps. -/
def State.createTask (s : State) (part : Nat) (join : Bool) : Result :=
  match s.part? part with
  | none => s.done
  | some p =>
    match p.ports.flits with
    | [] => s.done
    | f :: rest =>
      if (f.fields.fop == 2) != join then s.done
      else
        let p' := { p with ports := { p.ports with flits := rest } }
        ((s.setPart p').takeFlit p' f).done

/-- CREATE_KERNEL_TASK (R29): a flit with any FOP but 0x02. -/
def execCreateKernelTask (part : Nat) (s : State) : Result := s.createTask part false
/-- CREATE_JOIN_TASK (R29). -/
def execCreateJoinTask (part : Nat) (s : State) : Result := s.createTask part true

/-- TASK_DECREMENT (R29): the oldest decrement on its way; CPYH's message follows the one it sent (R266). -/
def execTaskDecrement (part : Nat) (s : State) : Result :=
  match s.part? part with
  | none => s.done
  | some p =>
    match p.decrements with
    | [] => s.done
    | (tid, vec) :: rest =>
      let s := (s.setPart { p with decrements := rest }).decrementTask part tid
      (match vec with | some v => s.sendMsi part v | none => s).done

/-! ### Room on a core (R48 to R50) -/

/-- Group-registers a group holds; a killed one releases them at once (R399; log 58). -/
def Group.held (g : Group) : Nat := if g.stopped then 0 else g.vCount

/-- What a quarter has: its resident groups and its free group-registers. -/
structure Quarter where
  slots : List Nat
  used : Nat
  deriving DecidableEq, Repr

/-- A quarter of a core. A killed group counts as resident, and keeps its slot, until its stores have drained: R399 frees
storage then and R48 does not say which this is (DEDUCED, log 58). -/
def State.quarterOf (s : State) (core q : Nat) : Quarter :=
  let gs := s.groups.filter (fun g => g.core == core && g.quarter == q)
  ⟨gs.map (·.slot), (gs.map (·.held)).sum⟩

/-- The lowest free slot of the 16 of a quarter (R1). R48 names no slot: DESIGN CHOICE (log 104). -/
def Quarter.freeSlot (q : Quarter) : Option Nat := (List.range 16).find? (fun i => !q.slots.contains i)

/-- The quarter with the fewest resident groups among some, the lowest on a tie. -/
def fewest (qs : List (Nat × Quarter)) : Option (Nat × Quarter) :=
  qs.foldl (fun best x =>
    match best with
    | none => some x
    | some b => if x.2.slots.length < b.2.slots.length then some x else some b) none

/-- Quarters and slots for n new groups of 16 registers each, in turn (R48). Where the quarter with the fewest groups has no room
the core does not take the cohort, though another quarter may have room: DESIGN CHOICE (log 104). -/
def assignGroups : Nat → List (Nat × Quarter) → Option (List (Nat × Nat))
  | 0, _ => some []
  | n + 1, qs =>
    match fewest qs with
    | none => none
    | some (k, q) =>
      match q.freeSlot with
      | none => none
      | some slot =>
        if 768 < q.used + 16 then none
        else
          (assignGroups n (qs.map (fun x => if x.1 = k then (k, ⟨slot :: q.slots, q.used + 16⟩) else x))).map ((k, slot) :: ·)

def State.quarters (s : State) (core : Nat) : List (Nat × Quarter) :=
  (List.range 4).map (fun q => (q, s.quarterOf core q))

/-- Room for a cohort of a task in a core's stores (R48), given the cohorts that hold them. -/
def coreHolds (cos : List Cohort) (t : Task) : Bool :=
  let placed := cos.filter (fun c => !c.exited)
  decide (placed.length < 8) &&
  decide ((placed.filter (fun c => t.placed c.uid)).length < t.maxpc + 1) &&
  decide ((cos.map (fun c => c.scrk + 32 * c.lslot)).sum + t.scrk + 32 * t.lslot ≤ 1536) &&
  decide ((placed.map (·.stsl)).sum + t.stsl ≤ 32) && decide ((placed.map (·.atiles)).sum + t.atiles ≤ 64)

/-- The quarters and slots a cohort takes on a core, if it fits there. -/
def State.fitCohort (s : State) (t : Task) (core : Nat) : Option (List (Nat × Nat)) :=
  if coreHolds (s.cohorts.filter (fun c => c.core == core)) t then assignGroups (t.ngm1 + 1) (s.quarters core) else none

/-- The partition's cores from the one after the last placed on (R48); before any placement, from the lowest (log 96). -/
def Part.coreOrder (p : Part) : List Nat :=
  match p.lastCore with
  | some n => p.cores.filter (fun c => decide (n < c)) ++ p.cores.filter (fun c => decide (c ≤ n))
  | none => p.cores

/-- The first core that fits a cohort, leaving out a cluster if another one fits (R400). -/
def State.findCore (s : State) (p : Part) (t : Task) (avoid : Option Nat) : Option (Nat × List (Nat × Nat)) :=
  let pick := fun (cs : List Nat) => cs.findSome? (fun c => (s.fitCohort t c).map (fun a => (c, a)))
  match avoid with
  | some k => (pick (p.coreOrder.filter (fun c => clusterOf c != k))).or (pick p.coreOrder)
  | none => pick p.coreOrder

/-! ### Placement (R48, R49) -/

def Task.cohorts (t : Task) : Nat := (t.nxm1 + 1) * (t.nym1 + 1) * (t.nzm1 + 1)

/-- The groups of a placed cohort. -/
def Cohort.freshGroup (c : Cohort) (gid : Nat) (t : Task) (asid : BitVec 8) (r : LaunchRec) (n : Nat) (q slot : Nat) : Group :=
  Group.fresh gid c.uid c.part c.core q slot ⟨BitVec.ofNat 4 n, c.cx, c.cy, c.cz, r.stage n⟩ t.entry t.argp t.pri t.fullv asid

/-- A cohort placed on a core: its storage, its stream, its groups, the lines it takes back from victim storage (R200), and
the acquire of R342. -/
def State.placeOn (s : State) (p : Part) (t : Task) (index core : Nat) (seats : List (Nat × Nat)) (r : LaunchRec) : State :=
  let used := (s.cohorts.filter (fun c => c.core == core && !c.exited)).map (·.slot)
  let slot := ((List.range 8).find? (fun i => !used.contains i)).getD 0
  let (uid, s) := s.fresh
  let co := Cohort.fresh uid p.id t index core slot r.w2 r.w3 p.firstAsid
  let s := { s with cohorts := s.cohorts ++ [co] }
  let s := seats.zipIdx.foldl (fun (s : State) (x : (Nat × Nat) × Nat) =>
    let (gid, s) := s.fresh
    let s := { s with groups := s.groups ++ [co.freshGroup gid t p.firstAsid r x.2 x.1.1 x.1.2] }
    s.onTask p.id t.tid (fun t => { t with gids := t.gids ++ [gid] })) s
  let s := s.onTask p.id t.tid (fun t => { t with runs := t.runs ++ [uid] })
  ((s.onPart p.id (fun p => { p with lastCore := some core })).reclaimVictims (clusterOf core)).acquire core .dev

/-- Place a cohort of a task, avoiding a cluster where another fits; none when no core has room. A record that could be read at
the task's creation and cannot be read at a later placement, which reads it again (R28), fails the task with BAD_LAUNCH as R20
says of its creation; the spec gives no outcome at a placement: DESIGN CHOICE (log 111). -/
def State.placeCohort (s : State) (p : Part) (t : Task) (index : Nat) (avoid : Option Nat) : Option State :=
  match s.findCore p t avoid with
  | none => none
  | some (core, seats) =>
    match s.launchRec? p t.recVa with
    | some r => some (s.placeOn p t index core seats r)
    | none => some (s.failTask p.id t.tid 1)

/-- The head of the placement order (R49): a killed cohort, else the next cohort of the RUNNING task dispatched first. -/
def Part.placementHead (p : Part) : Option (Task × Nat × Bool) :=
  match p.relaunches with
  | (tid, i) :: _ => (p.task? tid).map (fun t => (t, i, true))
  | [] =>
    (p.dispatched.filterMap p.task?).findSome? (fun t =>
      if t.state == .running && t.kind == .kernel && decide (t.nextCohort < t.cohorts) then some (t, t.nextCohort, false) else none)

/-- COHORT_PLACEMENT (R49): a relaunch's entry leaves the order once it is placed, and so does a task that its placement fails; a
partition that is being destroyed places nothing more (R46). -/
def execCohortPlacement (part : Nat) (s : State) : Result :=
  match s.part? part with
  | none => s.done
  | some p =>
    match if p.destroying then none else p.placementHead with
    | none => s.done
    | some (t, index, again) =>
      let avoid := if again then SMap.get 0 t.killedOn index else 0
      match s.placeCohort p t index (if avoid = 0 then none else some (avoid - 1)) with
      | none => s.done
      | some s =>
        if again then
          ((s.onPart part (fun p => { p with relaunches := p.relaunches.erase (t.tid, index) })).onTask part t.tid (fun t =>
            { t with killedOn := SMap.put 0 t.killedOn index 0 })).done
        else (s.onTask part t.tid (fun t => { t with nextCohort := t.nextCohort + 1 })).done

/-! ### Dispatch (R33, R37, R49) -/

/-- Where a continuation can resume: a core and a quarter with a slot and its full allotment free (R37). -/
def State.findSeat (s : State) (p : Part) (regs : Nat) : Option (Nat × Nat × Nat) :=
  p.coreOrder.findSome? (fun c =>
    match fewest ((s.quarters c).filter (fun x => x.2.freeSlot.isSome && decide (x.2.used + regs ≤ 768))) with
    | some (q, k) => k.freeSlot.map (fun slot => (c, q, slot))
    | none => none)

/-- The physical address of a continuation's record (R354). -/
def Part.recordAt (p : Part) (tid : Nat) : Nat := p.ctl.crBase.toNat + 8576 * (tid - p.totals.cbase)

/-- The fields of a continuation record that a resume reads (R354, R357). -/
structure ContRec where
  head : Word64
  vbmp : BitVec 128
  spec : Word64
  ctl : Word64
  asid : BitVec 8

def State.contRec (s : State) (part a : Nat) : ContRec :=
  let w := fun (o : Nat) => s.readWordAs part (a + o)
  { head := w 0, vbmp := w 24 ++ w 16, spec := w 32, ctl := w 40, asid := (w 48).setWidth 8 }

/-- Slice i of a resumed group: its recorded PC and masks, in the block it stood in. -/
def State.resumedSlice (s : State) (part a : Nat) (places : List Place) (i : Nat) : Slice :=
  let w := s.readWordAs part (a + 128 + 8 * i)
  let p := places.getD i default
  { Slice.fresh (8 * (bits w 8 54).setWidth 57) with
    amask := bits w 0 4, xmask := bits w 4 4, hdr := p.hdr, blkPc := p.blkPc, blk := p.blk, sig := p.sig }

/-- The selected v registers of a record: word L of register v with its sector's poison. -/
def State.resumedV (s : State) (part a : Nat) (vbmp : BitVec 128) : SMap PWord :=
  let regs := (List.range 128).filter (fun i => bit vbmp i)
  regs.zipIdx.flatMap (fun (v, j) => (List.range 128).filterMap (fun l =>
    let at_ := a + 384 + 512 * j + 4 * l
    let x : PWord := ⟨(s.readWordAs part (at_ / 8 * 8) >>> (32 * (at_ / 4 % 2))).setWidth 32, SMap.get none s.memPois (at_ / 64)⟩
    if x = PWord.zero then none else some (128 * v + l, x)))

/-- The group of a resumed continuation (R357). -/
def State.resumedGroup (s : State) (p : Part) (t : Task) (gid core q slot : Nat) : Group :=
  let a := p.recordAt t.tid
  let r := s.contRec p.id a
  let sp : Specials := ⟨bits r.spec 20 4, bits r.spec 48 16, bits r.spec 32 16, bits r.spec 24 8, bits r.spec 17 3⟩
  let g := Group.fresh gid t.parkCohort p.id core q slot sp 0 0 t.pri (bits r.head 58 4).toNat r.asid
  let tag := SMap.get none s.memPois (a / 64 + 1)
  let sRegs := (List.range 8).foldl (fun m i => SMap.put SVal.zero m i ⟨s.readWordAs p.id (a + 64 + 8 * i), tag, tag⟩) []
  let slices := (List.range 32).map (s.resumedSlice p.id a t.parkPlaces)
  let live := (List.range 32).filter (fun i => (slices.getD i default).live)
  let first := slices.getD (live.foldl min 31) default
  let g := { g with
    cont := some t.tid
    regs := { g.regs with v := s.resumedV p.id a r.vbmp, s := sRegs }
    ctl := { g.ctl with quantum := bits r.ctl 32 16, rsalt := bits r.ctl 0 32, rgnpc := first.pc, rgnsig := first.sig
                        curPath := live.foldl min 31 }
    allot := { g.allot with full := true }
    slices := slices
    trig := t.parkTrig }
  (g.regroup live).writeS false (Spec.ofCode (bits r.head 50 8)) (t.wakeStatus, none)

/-- A READY continuation resumes on the first core with room; the rotation of R48 goes on from that core (log 96). -/
def State.resume (s : State) (p : Part) (t : Task) : Option State :=
  match s.findSeat p (8 * ((bits (s.contRec p.id (p.recordAt t.tid)).head 58 4).toNat + 2)) with
  | none => none
  | some (core, q, slot) =>
    let (gid, s) := s.fresh
    let g := s.resumedGroup p t gid core q slot
    let s := { s with groups := s.groups ++ [g] }
    let s := s.onTask p.id t.tid (fun t => { t with state := .running })
    let s := s.onTask p.id t.orig (fun o => { o with gids := o.gids ++ [gid], contGids := o.contGids ++ [gid] })
    some ((s.onPart p.id (fun p => { p with lastCore := some core })).acquire core .dev)

/-- A task leaves the ready queue by the placement of its first cohort, or by resuming; none when it fits no core. -/
def State.dispatchTask (s : State) (p : Part) (t : Task) : Option State :=
  if t.kind == .continuation then s.resume p t
  else
    let t' := { t with state := .running, nextCohort := 1 }
    let s' := (s.putTask p.id t').onPart p.id (fun p => { p with dispatched := p.dispatched ++ [t.tid] })
    match s'.part? p.id with
    | some p' => s'.placeCohort p' t' 0 none
    | none => none

/-- No core could ever hold the task's cohort: even an empty one (R20). -/
def Task.fitsEmpty (t : Task) : Bool :=
  coreHolds [] t && (assignGroups (t.ngm1 + 1) ((List.range 4).map (fun q => (q, ⟨[], 0⟩)))).isSome

/-- DISPATCH (R33, R49): the head of the ready queue, or a task that fits behind a head that cannot be placed yet. -/
def execDispatch (part tid : Nat) (s : State) : Result :=
  match s.part? part with
  | none => s.done
  | some p =>
    match p.task? tid, p.readyHead s.tick with
    | some t, some h =>
      if t.state != .ready || p.placementHead.isSome || p.destroying then s.done
      else if t.kind == .kernel && !t.fitsEmpty then (s.failTask part tid 1).done
      else if h.tid != tid && (decide (7 ≤ h.eprioAt s.tick) || (s.dispatchTask p h).isSome) then s.done
      else ((s.dispatchTask p t).getD s).done
    | _, _ => s.done

/-! ### Admission and pre-emption (R51, R394, R214) -/

/-- Group a stands before b in the admission queue (R51). -/
def admitBefore (a b : Group) : Bool :=
  let ra := a.allot.request.getD 0
  let rb := b.allot.request.getD 0
  decide (b.ctl.prio.toNat < a.ctl.prio.toNat) ||
  (a.ctl.prio == b.ctl.prio && (decide (ra < rb) || (ra == rb && decide (a.slot < b.slot))))

/-- The head of a quarter's admission queue. -/
def State.admissionHead (s : State) (core q : Nat) : Option Group :=
  (s.groups.filter (fun g => g.core == core && g.quarter == q && !g.stopped && !g.discarding && g.allot.request.isSome)).foldl
    (fun best g =>
      match best with
      | none => some g
      | some b => if admitBefore g b then some g else some b) none

/-- The slice that stands at the ACQUIRE of the first path that waits in one. -/
def Group.atAcquire (g : Group) : Slice := ((g.slices.find? (fun x => x.wait == .acquire false)).getD default)

/-- GROUP_ADMIT (R51): the head is admitted once the free group-registers cover its growth; its ACQUIRE may take lines back
from victim storage (R200). -/
def execGroupAdmit (core q : Nat) (s : State) : Result :=
  match s.admissionHead core q with
  | none => s.done
  | some g =>
    if 768 < (s.quarterOf core q).used + (8 * (g.allot.fullv + 2) - 16) then s.done
    else ((s.setGroup (g.grantFull s.cycle g.atAcquire)).reclaimVictims (clusterOf core)).done

/-- The group may be pre-empted for a head of some PRIO (R394). -/
def Group.isVictim (g : Group) (prio : Nat) : Bool :=
  g.allot.full && !g.stopped && !g.discarding && decide (g.ctl.prio.toNat < prio) && g.slices.all (fun x => !x.handler) &&
  (match g.allot.admittedAt with | some w => g.ctl.rgnpc == w.pc + 8 | none => false)

/-- Victims rank by the lowest PRIO, then the latest admission. -/
def victimBefore (a b : Group) : Bool :=
  decide (a.ctl.prio.toNat < b.ctl.prio.toNat) ||
  (a.ctl.prio == b.ctl.prio && decide (b.allot.admittedCycle < a.allot.admittedCycle))

/-- The token lapses when its holder ends, is discarded or is killed (R92). -/
def State.lapseCapo (s : State) (g : Group) : State :=
  s.onCore g.core (fun c =>
    if SMap.get none c.capo g.quarter = some g.gid then
      { c with capo := SMap.put none c.capo g.quarter none, capoPicks := SMap.put 0 c.capoPicks g.quarter 0 }
    else c)

/-- The reset of an active loop need not wait: no committed CMTD entry is left (R407). -/
def Group.resetReady (g : Group) : Bool :=
  g.loop.isNone || g.sq.all (fun e => !(e.committed && (match e.op with | .cmtd _ _ _ => true | _ => false)))

/-- Step 2 of R214. -/
def Group.dropUncommitted (g : Group) : Group := { g with sq := g.sq.filter (·.committed), resv := [] }

/-- Steps 2 and 4 of R214, with the handler abandoned and the request withdrawn (R393). -/
def Group.dropRegion (g : Group) : Group :=
  { g.dropUncommitted with
           splits := [], loop := none, parking := false, discarding := false
           regs := { g.regs with b := [], iter := [] }
           frame := { g.frame with busy := false, tcause := g.frame.tcause &&& 0x7FFFFFFFFFFFFFFF, saved := [], heldSlices := [] }
           allot := { g.allot with request := none } }

/-- A slice restarted at its ACQUIRE word, waiting there for admission. -/
def Slice.restart (x : Slice) (w : Place) : Slice :=
  { x with pc := w.pc, blkPc := w.blkPc, blk := w.blk, sig := w.sig, hdr := w.hdr, amask := ~~~x.xmask, imask := 0, lstk := []
           spl := none, wait := .acquire false, held := false, handler := false }

/-- The victim back at its ACQUIRE, with its original request (R394). -/
def Group.preempt (g : Group) (w : Place) : Group :=
  let live := (List.range 32).filter (fun i => (g.sliceAt i).live)
  let g := (g.dropRegion.mapSlices live (fun _ x => x.restart w)).shed
  let g := g.asPath live
  { g with allot := { g.allot with request := some g.allot.requestedCycle } }

/-- The iteration queue of an ended loop: NEXT takes CMTD (R109). -/
def State.resetQueue (s : State) (g : Group) : State :=
  match g.loop, s.cohort? g.cohort with
  | some lp, some co => s.writeScratch co.uid (wordBytes lp.queue (co.scratchWord (lp.queue + 8)))
  | _, _ => s

/-- When the head has waited its 16,384 cycles, or as many since its last pre-emption. -/
def Core.headWaited (c : Core) (q : Nat) (h : Group) (now : Nat) : Bool :=
  let since :=
    match SMap.get none c.preempted q with
    | some (gid, t) => if gid = h.gid then max t (h.allot.request.getD 0) else h.allot.request.getD 0
    | none => h.allot.request.getD 0
  decide (since + 16384 ≤ now)

/-- A discard goes on as far as it can (R214): it waits for fills, drops the U entries, waits for the CMTD entries that the
reset of a loop waits for, and ends. -/
def State.goOnDiscard (s : State) (v : Group) (w : Place) : State :=
  if !v.fills.isEmpty then s.setGroup v
  else if !v.resetReady then s.setGroup v.dropUncommitted
  else ((s.resetQueue v).setGroup (v.preempt w)).lapseCapo v

/-- The victim that a quarter picks for the head of its admission queue. -/
def State.victim? (s : State) (core q : Nat) (h : Group) : Option Group :=
  (s.groups.filter (fun g => g.core == core && g.quarter == q && g.isVictim h.ctl.prio.toNat)).foldl (fun best g =>
    match best with | none => some g | some b => if victimBefore g b then some g else some b) none

/-- PREEMPTION_DISCARD (R394): a discard that has begun in the quarter goes on; else the head's wait begins one. The discards of
a partition's destruction are firmware's (R46). -/
def execPreemptionDiscard (core q : Nat) (s : State) : Result :=
  match s.groups.find? (fun g => g.core == core && g.quarter == q && g.discarding && !g.stopped && !s.leaving g.part) with
  | some v => (match v.allot.admittedAt with | some w => s.goOnDiscard v w | none => s).done
  | none =>
    match s.admissionHead core q with
    | none => s.done
    | some h =>
      if !(s.core core).headWaited q h s.cycle then s.done
      else
        match s.victim? core q h with
        | none => s.done
        | some v =>
          match v.allot.admittedAt with
          | none => s.done
          | some w =>
            (s.onCore core (fun c => { c with preempted := SMap.put none c.preempted q (some (h.gid, s.cycle)) })).goOnDiscard
              { v with discarding := true } w |>.done

/-! ### The end of a group (R410, R37) -/

def Group.allExited (g : Group) : Bool := g.slices.all (fun x => !x.live)

def maskOne (n : Nat) : BitVec 16 := 1#16 <<< n

/-- Group n of a cohort has ended; its lanes have triggered or exited. -/
def Cohort.endGroup (c : Cohort) (n : Nat) : Cohort := { c with ended := c.ended ||| maskOne n, triggered := c.triggered ||| maskOne n }

/-- GROUP_END (R410): every lane has exited, the queue is empty and no fill is outstanding. A continuation goes DONE; it has
no completion entry to wait for, so its block is FREE in the same step (R37; log 97). -/
def execGroupEnd (gid : Nat) (s : State) : Result :=
  match s.group? gid with
  | none => s.done
  | some g =>
    if !g.allExited || g.stopped || !g.sq.isEmpty || !g.fills.isEmpty then s.done
    else
      let s := (s.lapseCapo g).retireGroup g
      let s := s.onCohort g.cohort (fun c => c.endGroup g.sp.grp.toNat)
      match g.cont with
      | some tid => ((s.onTask g.part tid (fun t => { t with state := .done })).freeTask g.part tid).done
      | none => s.done

/-! ### The end of a cohort (R411) -/

/-- The groups of a cohort, as a mask. -/
def Cohort.groupMask (c : Cohort) : BitVec 16 := BitVec.ofNat 16 (2 ^ (c.ngm1 + 1) - 1)

/-- A command that still reads or writes a cohort's scratchpad (R411). -/
def Cmd.usesScratch (c : Cmd) (uid : Nat) : Bool :=
  (c.cohort == uid && (c.aw.isSome || c.dsp == 1 || c.ssp == 1 || c.indexed)) || c.targets.contains uid
/-- A command that still writes it (R399). -/
def Cmd.writesScratch (c : Cmd) (uid : Nat) : Bool :=
  (c.cohort == uid && (c.aw.isSome || (c.dsp == 1 && !c.peer))) || c.targets.contains uid

/-- Step 3 of R411, for a cohort that has exited. -/
def State.freeExited (s : State) (uid : Nat) : State :=
  if s.allCmds.any (fun c => c.usesScratch uid) then s else s.dropCohort uid

/-- The commands of a cohort that has exited: those not yet ACTIVE are to end with ERR (R241). -/
def State.orphanCmds (s : State) (uid : Nat) : State :=
  { s with clusters := s.clusters.map (fun (k, cl) =>
      (k, { cl with eq := cl.eq.map (fun c => if c.cohort = uid then { c with orphan := true } else c) })) }

/-- COHORT_EXIT (R411); again for an exited cohort, the freeing of its scratchpad. -/
def execCohortExit (uid : Nat) (s : State) : Result :=
  match s.cohort? uid with
  | none => s.done
  | some c =>
    if c.exited then (s.freeExited uid).done
    else if c.killed || c.kill.isSome || c.ended &&& c.groupMask != c.groupMask || !c.seq.ended then s.done
    else
      let s := s.setCohort { c with exited := true, tiles := [], tileMask := [], tileDepth := [], stage := [] }
      let s := s.onTask c.part c.tid (fun t =>
        { t with chkiv := t.chkiv.merge c.chkiv, exited := t.exited + 1, trigCohorts := t.trigCohorts ++ [c.index] })
      let s := s.orphanCmds uid
      (s.freeExited uid).done

/-! ### The end of a task (R30, R32, R412) -/

/-- Every lane of group n of a cohort has triggered or exited (R32). -/
def State.groupTriggered (s : State) (c : Cohort) (n : Nat) : Bool :=
  bit c.triggered n ||
  s.groups.any (fun g => g.cohort == c.uid && g.sp.grp.toNat == n && !g.stopped && g.trig == BitVec.allOnes 128)

def State.cohortTriggered (s : State) (c : Cohort) : Bool :=
  !c.killed && c.kill.isNone && (List.range (c.ngm1 + 1)).all (s.groupTriggered c)

/-- Every cohort of a task has triggered or exited: each one by a run of it that was not killed. -/
def State.taskTriggered (s : State) (t : Task) : Bool :=
  (List.range t.cohorts).all (fun i =>
    t.trigCohorts.contains i ||
    s.cohorts.any (fun c => t.runs.contains c.uid && c.index == i && s.cohortTriggered c))

/-- Decrement some successors of a task, noting each as sent. -/
def State.decrementSuccessors (s : State) (part : Nat) (t : Task) (early : Bool) : State :=
  (t.successors.filter (fun x => bit t.emask x.1 == early)).foldl (fun s x =>
    (s.onTask part t.tid (fun t => { t with sent := t.sent ||| (1#4 <<< x.1) })).decrementTask part x.2) s

/-- The early decrements, once for a task (R32). -/
def State.releaseEarly (s : State) (part : Nat) (t : Task) : State :=
  if t.earlyDone || t.emask = 0 then s
  else (s.onTask part t.tid (fun t => { t with earlyDone := true })).decrementSuccessors part t true

/-- EARLY_RELEASE (R32). -/
def execEarlyRelease (part tid : Nat) (s : State) : Result :=
  match s.task? part tid with
  | none => s.done
  | some t =>
    if t.state != .running || t.kind != .kernel || !s.taskTriggered t then s.done
    else (s.releaseEarly part t).done

/-- A task is complete: its cohorts have exited, what they wrote is at DEV and its commands have ended (R30, R412); a
join is complete once it is DONE. -/
def State.isComplete (s : State) (t : Task) : Bool :=
  if t.kind == .join then t.state == .done && !t.reported
  else
    t.state == .running && t.kind == .kernel && decide (t.cohorts ≤ t.exited) &&
    s.cohorts.all (fun c => !t.runs.contains c.uid || c.exited) &&
    s.groups.all (fun g => !t.gids.contains g.gid || g.sq.isEmpty) &&
    (s.cfq ++ s.df).all (fun p => !t.gids.contains p.gid) &&
    s.allCmds.all (fun c => !t.placed c.cohort)

/-- TASK_COMPLETE (R30): successors, the completion entry, and the block freed, as one event; a full ring holds the entry and
the block (R35). A task of a partition that is being destroyed completes no more (R46). -/
def execTaskComplete (part tid : Nat) (s : State) : Result :=
  match s.task? part tid with
  | none => s.done
  | some t =>
    if !s.isComplete t || s.leaving part then s.done
    else
      let s := s.releaseEarly part t
      let s := s.onTask part tid (fun t => { t with state := .done, reported := true })
      let s := s.decrementSuccessors part t false
      let s := s.onPart part (fun p => { p with dispatched := p.dispatched.filter (· != tid) })
      (s.pushEntry part ⟨tid, 5, 0, t.chkiv.word, true⟩).done

/-- COMPLETION_ENTRY (R35): the oldest entry that a full ring held goes to the ring when it has room. -/
def execCompletionEntry (part : Nat) (s : State) : Result :=
  match s.part? part with
  | none => s.done
  | some p =>
    match p.entries with
    | [] => s.done
    | e :: rest =>
      if p.ports.cqFull then s.done else (s.writeEntry { p with entries := rest } e).done

/-! ### Kills (R399, R400) -/

/-- Steps 1 and 2 of R399 for one group: it stops, its handler is abandoned, and what was not committed is dropped. -/
def Group.kill (g : Group) : Group := { g.dropRegion with stopped := true, fills := [] }

/-- Parked and running continuations of a cohort become FAILED and are freed without an entry (R29, R399). -/
def State.freeContinuations (s : State) (part uid : Nat) : State :=
  match s.part? part with
  | none => s
  | some p =>
    (p.parkedIn [uid]).foldl (fun s t =>
      (s.putTask part { t with state := .failed }).freeTask part t.tid) s

/-- Steps 1 to 3 of R399. -/
def State.haltCohort (s : State) (c : Cohort) : State :=
  let mine := s.groups.filter (fun g => g.cohort == c.uid)
  let s := mine.foldl (fun s g => (s.lapseCapo g).setGroup g.kill) s
  let s := (mine.map (·.core)).foldl (fun s n =>
    s.onCore n (fun k => { k with lmmQueue := k.lmmQueue.filter (fun q => !(mine.map (·.gid)).contains q.gid) })) s
  let s := s.onCore c.core (fun k => if k.engine = some c.uid then { k with engine := none } else k)
  let s := s.onCohort c.uid (fun c => { c with killed := true, seq := { c.seq with active := false } })
  let s := s.onTask c.part c.tid (fun t =>
    if t.runs.contains c.uid then { t with runs := t.runs.filter (· != c.uid), killedRuns := t.killedRuns ++ [c.uid] } else t)
  let s := s.onPart c.part (fun p => p.dropWaiters [c.uid] ((p.parkedIn [c.uid]).map (·.tid)))
  (s.closeLineages c).freeContinuations c.part c.uid

/-- Step 5 of R399: once the C entries have drained and the commands that write its scratchpad have ended. -/
def State.freeKilled (s : State) (c : Cohort) : State :=
  if s.groups.any (fun g => g.cohort == c.uid && !g.sq.isEmpty) || s.allCmds.any (fun x => x.writesScratch c.uid) then s
  else ({ s with groups := s.groups.filter (fun g => g.cohort != c.uid) }).dropCohort c.uid

/-- What follows a kill: the cohort is placed again, or its task fails (R400). -/
def State.afterKill (s : State) (c : Cohort) (r : KillReason) : State :=
  match s.task? c.part c.tid with
  | none => s
  | some t =>
    if t.state != .running then s
    else
      let n := SMap.get 0 t.kills c.index + 1
      let s := s.onTask c.part c.tid (fun t => { t with kills := SMap.put 0 t.kills c.index n })
      if r.relaunch && t.relaunch && decide (n < 4) then
        (s.onTask c.part c.tid (fun t => { t with killedOn := SMap.put 0 t.killedOn c.index (clusterOf c.core + 1) })).onPart
          c.part (fun p => { p with relaunches := p.relaunches ++ [(c.tid, c.index)] })
      else s.failTask c.part c.tid r.cause.toNat

/-- The cohort is a run of the task that its TID names now: a failed task's block may be another task's by the time its
cohorts are killed. -/
def State.isRun (s : State) (c : Cohort) : Bool :=
  match s.task? c.part c.tid with
  | some t => t.runs.contains c.uid
  | none => false

/-- COHORT_KILL (R399): the steps of a kill that is due; again, the freeing of what it held. -/
def execCohortKill (uid : Nat) (s : State) : Result :=
  match s.cohort? uid with
  | none => s.done
  | some c =>
    if c.killed then (s.freeKilled c).done
    else
      match c.kill with
      | none => s.done
      | some r =>
        let run := s.isRun c
        let s := s.haltCohort c
        let s := if r.type = 0 then s else s.logOnly (dieOf c.core) r.type 0 c.part c.tid r.detail.toNat r.addr
        (if run then s.afterKill c r else s).done

/-- CTRL_UE (R399): an uncorrectable error in the control state of a cohort. -/
def execCtrlUe (uid : Nat) (s : State) : Result := (s.requestKill uid (killControl 0)).done

/-! ### Turns (R406) -/

/-- The iteration whose Turn is enabled. -/
def Loop.nextTurn (lp : Loop) : Option Word32 :=
  lp.complete.find? (fun i => !lp.turned.contains i && lp.taken.all (fun j => !(j.ult i) || lp.turned.contains j))

/-- An entry put directly behind the last one that meets p, or else at the head. -/
def insertBehind (p : SQEntry → Bool) (e : SQEntry) (l : List SQEntry) : List SQEntry :=
  let front := (l.reverse.dropWhile (fun x => !p x)).reverse
  front ++ e :: l.drop front.length

/-- The queue after Turn(g, i): held entries of i committed, and the CMTD entry placed behind the youngest of them and
behind the CMTD entry of the iteration before (log 37). -/
def Loop.turnQueue (lp : Loop) (i : Word32) (id : Nat) (sq : List SQEntry) : List SQEntry :=
  let sq := sq.map (fun e => if e.iter = some i then { e with committed := true } else e)
  let e : SQEntry := { id := id, place := id, committed := true, iter := none, op := .cmtd (lp.queue + 8) (i + 1) false }
  insertBehind (fun x => x.iter == some i || some x.id == lp.lastCmtd) e sq

/-- TURN (R406); after a discard has begun no further Turn is taken (R407). -/
def execTurn (gid : Nat) (s : State) : Result :=
  match s.group? gid with
  | none => s.done
  | some g =>
    match if g.discarding then none else g.loop with
    | none => s.done
    | some lp =>
      match lp.nextTurn, s.cohort? g.cohort, s.part? g.part with
      | some i, some co, some p =>
        let (id, s) := s.fresh
        let g := { g with sq := lp.turnQueue i id g.sq
                          loop := some { lp with turned := lp.turned ++ [i], lastCmtd := some id } }
        (s.setGroup g).settlePaths ⟨g, co, p, [], g.sliceAt 0⟩
      | _, _, _ => s.done

/-! ### Fills (R143) -/

/-- The fill has the words it brings. -/
def Fill.canComplete (f : Fill) (cycle : Nat) : Bool :=
  match f.wait with
  | .ready => true
  | .cycle c => decide (c ≤ cycle)
  | .lmm served => served
  | .atomic => false
  | .mrd _ _ _ _ => false

/-- FILL_COMPLETE (R143). -/
def execFillComplete (gid fill : Nat) (s : State) : Result :=
  match s.group? gid with
  | none => s.done
  | some g =>
    match g.fills.find? (fun f => f.id == fill) with
    | none => s.done
    | some f => if f.canComplete s.cycle then (s.setGroup (g.completeFill f)).done else s.done

end Sys2Proof.Machine
end

