-- ==== Sys2Proof/Machine/TaskInstr.lean ====
section
/-!
DEFINITION. Task instructions (R347 to R358): SPAWN, ARM, TDEC, TRIG and PARK, with the wait that they share with the
handle instructions (R366), and the continuation record that PARK writes (R354, R355).
-/

namespace Sys2Proof.Machine

/-! ### The wait for the entries ahead (R349, R366) -/

/-- The entries ahead of an instruction of a group: the committed ones in front of the oldest held retire entry, and those that
have drained but whose packets are still on their way. -/
def State.entriesAhead (s : State) (g : Group) : List Nat :=
  (g.sq.takeWhile (·.committed)).map (·.id) ++ ((s.cfq ++ s.df).filter (fun p => p.gid == g.gid)).map (·.entry)

/-- Those entries have drained and their packets have been Homed; no other entry's are waited for. -/
def State.homedAfter (s : State) (g : Group) (ids : List Nat) : Bool :=
  !g.sq.any (fun e => ids.contains e.id) && (s.cfq ++ s.df).all (fun p => !(p.gid == g.gid && ids.contains p.entry))

/-- Commit, and act once the entries ahead are Homed: now, or at a later issue with the operands that are held; `regs` are the
v registers that the instruction will write. A load that waits has a number, by which a fence waits for it (R236). -/
def State.afterHomed (s : State) (c : Ctx) (opc words : Nat) (vals : List Word64)
    (act : State → Ctx → Bool → List Word64 → Result) (regs : List Nat := []) (load : Bool := false) : Result :=
  let g := c.committed opc words
  let ids := s.entriesAhead g
  let ready := s.homedAfter g ids
  let (id, s) := if load && !ready then (some s.nextUid, s.fresh.2) else (none, s)
  let s := s.setGroup (g.mapSlices c.slices (fun _ x => { x with wait := .held vals ids regs id }))
  if ready then act s { c with g := g } true vals else s.done

/-- An issue of such an instruction: `start` is its first issue, and `act` its step. -/
def State.homedIssue (s : State) (start : Ctx → Result) (act : State → Ctx → Bool → List Word64 → Result) : Result :=
  s.issue (fun c =>
    match c.head.wait with
    | .held vals ids _ _ => if s.homedAfter c.g ids then act s c false vals else s.wait
    | _ => start c)

/-- The path waits in the middle of an instruction, or did already. -/
def State.stay (s : State) (first : Bool) : Result := if first then s.done else s.wait

/-- A loop is active and the block is a retire section, where SPAWN, ARM and TDEC trap (R348, R366). -/
def Ctx.inRetire (c : Ctx) : Bool := c.g.loop.isSome && c.sec == 3

/-- A uniform global address checked as R217 checks an operand's: bits, alignment, translation. -/
def State.atAddress (s : State) (c : Ctx) (a : Word64) (align : Nat) (write : Bool) (k : State → Nat → Result) : Result :=
  let at_ := fun (cause : Nat) => s.takeTrap c ((Trap.plain cause c.active c.pc).withAddr a.toNat write)
  if bits a 57 7 != 0 then at_ trapAddrRange
  else if a.toNat % align != 0 then at_ trapMisaligned
  else
    let r := s.translate c.p c.g.core c.g.ctl.asid a.toNat
    match r.1.forAcc (if write then .write else .read) with
    | .ok pa => k r.2 pa
    | .fault perm => r.2.pageFault c (c.active.map (fun l => (l, a.toNat, perm))) write
    | .malformed => (s.failTask c.p.id c.co.tid 6).done

/-! ### SPAWN (R349) -/

/-- Steps 2 and 3: the flit read at DM enters the port queue; a full queue waits. -/
def State.sendFlit (s : State) (c : Ctx) (pa : Nat) (first : Bool) : Result :=
  if ((s.part? c.p.id).map (fun p => decide (256 ≤ p.ports.flits.length))).getD false then s.stay first
  else
    let w := fun (o : Nat) => s.readWordAs c.p.id (pa + o)
    let f : Flit := ⟨w 0, w 8, w 16, w 24, some (c.g.gid, c.path)⟩
    ((s.queueFlit c.p.id f).onGroup c.g.gid (fun g => g.mapSlices c.slices (fun _ x => { x with wait := .staged 2 [] }))).done

/-- Steps 4 and 5: once the scheduler has taken the flit, its result goes to sD. -/
def State.takeSpawn (s : State) (c : Ctx) (w : F3) : Result :=
  match c.p.spawned.find? (fun x => x.1 == c.g.gid && x.2.1 == c.path) with
  | none => s.wait
  | some x =>
    let s := s.onPart c.p.id (fun p => { p with spawned := p.spawned.filter (fun y => !(y.1 == x.1 && y.2.1 == x.2.1)) })
    (s.onGroup c.g.gid (fun g => g.writeS c.handler w.dst (x.2.2, none))).finish c 0x240 w.words

/-- The first issue of SPAWN. -/
def State.startSpawn (s : State) (w : F3) (c : Ctx) : Result :=
  let n : Need := ⟨w.legalSpawn, true, w.guard, [(w.dst, 1)], [(w.sa, 1)]⟩
  s.gate c n (fun lanes =>
    let v := c.uniform s w.sa
    if lanes.isEmpty then s.finish c 0x240 w.words
    else if c.inRetire then s.trapAll c trapLoopState
    else if v.2.isSome then s.poisonKill c
    else
      s.atAddress c v.1 32 false (fun s pa =>
        s.afterHomed c 0x240 w.words [BitVec.ofNat 64 pa] (fun s c first vals => s.sendFlit c (vals.getD 0 0).toNat first)))

def execSpawn (w : F3) (s : State) : Result :=
  s.issue (fun c =>
    match c.head.wait with
    | .staged _ _ => s.takeSpawn c w
    | .held vals ids _ _ => if s.homedAfter c.g ids then s.sendFlit c (vals.getD 0 0).toNat false else s.wait
    | _ => s.startSpawn w c)

/-! ### ARM and TDEC (R350, R351) -/

/-- DEPC of the block of a TID that is FREE, as the block stands in memory; 0 for a TID outside the table. -/
def State.freeDepc (s : State) (p : Part) (tid : Nat) : Nat :=
  if tid < p.totals.ttsize then (bits (s.readWordAs p.id (p.blockAddr tid)) 16 16).toNat else 0

/-- ARM's scheduler event: the result word and the state after it. -/
def State.armTask (s : State) (p : Part) (tid n : Nat) : Word64 × State :=
  let word := fun (st depc armed : Nat) => put64 44 20 tid + put64 40 4 st + put64 16 16 depc + put64 0 1 armed
  match s.task? p.id tid with
  | none => (word 0 (s.freeDepc p tid) 0, s)
  | some t =>
    if (t.state == .waiting || (t.state == .parked && t.wake == some .dep)) && decide (t.depc + n ≤ 65535) then
      (word t.state.code (t.depc + n) 1, s.putTask p.id { t with depc := t.depc + n })
    else (word t.state.code t.depc 0, s)

def execArm (w : F3) (s : State) : Result :=
  s.issue (fun c =>
    let n : Need := ⟨w.legalArm, true, w.guard, [(w.dst, 1)], [(w.sa, 1), (w.sb, 1)]⟩
    s.gate c n (fun lanes =>
      let t := c.uniform s w.sa
      let a := c.uniform s w.sb
      if lanes.isEmpty then s.finish c 0x241 w.words
      else if c.inRetire then s.trapAll c trapLoopState
      else if t.2.isSome || a.2.isSome then s.poisonKill c
      else if bits t.1 20 44 != 0 then s.trapCode c trapTaskOp 1
      else if a.1 = 0 || bits a.1 16 48 != 0 then s.trapCode c trapTaskOp 2
      else
        let r := (s.setGroup (c.committed 0x241 w.words)).armTask c.p t.1.toNat a.1.toNat
        (r.2.onGroup c.g.gid (fun g => g.writeS c.handler w.dst (r.1, none))).finish c 0x241 w.words))

/-- TDEC's step: the decrement is sent, and the path runs on. -/
def State.tdecStep (s : State) (w : F3) (c : Ctx) (vals : List Word64) : Result :=
  (s.sendDecrement c.p.id (vals.getD 0 0).toNat).finish c 0x242 w.words

def execTdec (w : F3) (s : State) : Result :=
  s.homedIssue (fun c =>
    let n : Need := ⟨w.legalTdec, true, w.guard, [], [(w.sa, 1)]⟩
    s.gate c n (fun lanes =>
      let t := c.uniform s w.sa
      if lanes.isEmpty then s.finish c 0x242 w.words
      else if c.inRetire then s.trapAll c trapLoopState
      else if t.2.isSome then s.poisonKill c
      else if bits t.1 20 44 != 0 then s.trapCode c trapTaskOp 1
      else s.afterHomed c 0x242 w.words [t.1] (fun s c _ vals => s.tdecStep w c vals)))
    (fun s c _ vals => s.tdecStep w c vals)

/-! ### TRIG (R352) -/

def execTrig (w : F3) (s : State) : Result :=
  s.issue (fun c => s.gate c (Need.bare w.legalBare true w.guard) (fun lanes =>
    if c.g.loop.isSome && c.sec != 0 then s.trapAll c trapLoopState
    else
      let s := s.setGroup (c.committed 0x243 w.words)
      let s := if lanes.isEmpty then s else s.enqueue c.g.gid true [[(none, .trigMarker (laneMask lanes))]]
      s.finish c 0x243 w.words))

/-! ### PARK (R353 to R356) -/

/-- The set bits of a register bitmap, ascending. -/
def bitmapRegs (m : BitVec 128) : List Nat := (List.range 128).filter (fun i => bit m i)

/-- A slice holds a lane entry, a handler slice as it stood before its trap, or a split entry is open (R353). -/
def Group.parted (g : Group) : Bool :=
  g.slices.any (fun x => !x.lstk.isEmpty) || g.frame.saved.any (fun x => !x.2.lstk.isEmpty) || g.splits.any (fun x => x.2.isSome)

/-- The wake operand breaks the rules of R353; `zero` says that SA holds ZERO. -/
def Ctx.badWake (c : Ctx) (sub : Nat) (op : Word64) (zero : Bool) : Bool :=
  match sub with
  | 0 => hi32 op % 16 != 0 || decide (c.scratchSize < hi32 op + 16)
  | 1 => op == 0 || bits op 16 48 != 0
  | _ => !zero

/-- The group as its record shows it: the issuing path past the PARK, and every slice of a trap at its return point with
its own masks (R355, R384). -/
def Group.parkedAt (g : Group) (c : Ctx) (words : Nat) : Group :=
  let g := if c.handler then g else g.advance c 0x244 words
  if g.frame.busy then g.leaveHandler else g

/-- The eight bytes of a word of the record. -/
def recordWord (a : Nat) (x : Word64) : List WByte := valueBytes a 8 x.toNat none none

/-- The words of the record below S. -/
def recordHead (g : Group) (sub : Nat) (dst : BitVec 8) (op m0 m1 : Word64) : List Word64 :=
  [ put64 62 2 sub + put64 58 4 g.allot.fullv + at64 50 dst, op, m0, m1,
    at64 48 g.sp.cx + at64 32 g.sp.cy + at64 24 g.sp.cz + at64 20 g.sp.grp + at64 17 g.sp.stage,
    at64 32 g.ctl.quantum + at64 0 g.ctl.rsalt, at64 0 g.ctl.asid, 0 ]

/-- SLC of a slice. -/
def Slice.record (x : Slice) : Word64 := at64 8 (bits x.pc 3 54) + at64 4 x.xmask + at64 0 x.amask

/-- A continuation record, every byte with its poison (R354); bytes that carry nothing are 0. -/
def recordBytes (g : Group) (a sub : Nat) (dst : BitVec 8) (op m0 m1 : Word64) : List WByte :=
  let head := (recordHead g sub dst op m0 m1).zipIdx.flatMap (fun (x, i) => recordWord (a + 8 * i) x)
  let sRegs := (List.range 8).flatMap (fun i =>
    let v := g.sVal false i
    valueBytes (a + 64 + 8 * i) 4 v.val.toNat v.lo none ++ valueBytes (a + 68 + 8 * i) 4 (v.val.toNat / 2 ^ 32) v.hi none)
  let slc := g.slices.zipIdx.flatMap (fun (x, i) => recordWord (a + 128 + 8 * i) x.record)
  let regs := bitmapRegs (m1 ++ m0)
  let vRegs := (List.range 16).flatMap (fun j =>
    (List.range 128).flatMap (fun l =>
      let x := match regs[j]? with | some r => g.vWord r l | none => PWord.zero
      valueBytes (a + 384 + 512 * j + 4 * l) 4 x.val.toNat x.pois none))
  head ++ sRegs ++ slc ++ vRegs

/-- The lowest FREE TID of the continuations (R36). -/
def Part.freeCont (p : Part) : Option Nat :=
  ((List.range (p.totals.ttsize - p.totals.cbase)).map (p.totals.cbase + ·)).find? (fun t => (p.task? t).isNone)

/-- A waiter of a page request leaves it; a request that was answered and that no one waits for is over (R205). -/
def Part.leaveRequest (p : Part) (rid : Nat) (mine : Waiter → Bool) : Part :=
  { p with requests := (p.requests.map (fun (r : PageReq) =>
      if r.rid = rid then { r with waiters := r.waiters.filter (fun x => !mine x) } else r)).filter (fun (r : PageReq) =>
        !(r.rid == rid && r.outcome.isSome && r.waiters.isEmpty)) }

/-- The path of a group is a waiter; there is one handler at a time in a group. -/
def Waiter.isPath (gid : Nat) : Waiter → Bool
  | .path _ g _ => g == gid
  | .cont _ => false

/-- The wake of a PARK, evaluated (R356, R390): how the block waits, or that it is READY at once, or that its task fails. -/
inductive WakeNow
  | parked (w : Wake)
  | ready (status : Word64)
  | fails
  deriving DecidableEq, Repr

def State.evalWake (s : State) (c : Ctx) (sub : Nat) (op : Word64) : WakeNow :=
  match sub with
  | 0 =>
    match s.cohort? c.co.uid with
    | some co =>
      if co.scratchWord (hi32 op + 8) = op.setWidth 32 then .parked (.gen co.uid (hi32 op) (op.setWidth 32))
      else .ready (co.awStatus (hi32 op))
    | none => .ready 0
  | 1 => .parked .dep
  | _ =>
    match if c.handler then c.head.preq.getD none else none with
    | none => .ready 0
    | some rid =>
      match c.p.requests.find? (fun r => r.rid == rid) with
      | none => .ready 0
      | some r =>
        match r.outcome with
        | none => .parked (.preq (some rid))
        | some true => .ready 0
        | some false => .fails

/-- The continuation's control block (R36): ORIG and PRI are those of the cohort's task, also where a resumed continuation parks
again (log 98); RSTAMP is 0 until it is READY (R416). -/
def Task.parkedBlock (t : Task) (tid : Nat) (c : Ctx) (recVa : Nat) (depc : Nat) (places : List Place) : Task :=
  { t with tid := tid, state := .parked, epri := t.pri, kind := .continuation, depc := depc, relaunch := false, early := false
           nsucc := 0, emask := 0, recVa := BitVec.ofNat 57 recVa, entry := 0, succ0 := 0, succ1 := 0, succ2 := 0, succ3 := 0
           orig := c.co.tid, sent := 0, earlyDone := false, nextCohort := 0, exited := 0, trigCohorts := [], kills := []
           killedOn := [], rstamp := 0, chkiv := Chkiv.clear, wake := none, parkCohort := c.co.uid, parkGroup := c.g.sp.grp.toNat
           wakeStatus := 0, parkPlaces := places, parkTrig := c.g.trig, gids := [], contGids := [], killedRuns := [], runs := []
           reported := false }

/-- The scheduler's event of a PARK (R36, R355 step 6): the block with its wake, and TID at sN. -/
def State.parkEvent (s : State) (c : Ctx) (sub : Nat) (op : Word64) (tid rec : Nat) (places : List Place) : State :=
  match s.task? c.p.id c.co.tid with
  | none => s
  | some t =>
    let block := t.parkedBlock tid c rec (if sub = 1 then op.toNat else 0) places
    let rid := (c.head.preq.getD none).getD 256
    let leave := fun (s : State) => s.onPart c.p.id (fun p => p.leaveRequest rid (Waiter.isPath c.g.gid))
    match s.evalWake c sub op with
    | .parked w =>
      let s := s.putTask c.p.id { block with wake := some w }
      match w with
      | .preq _ => s.onPart c.p.id (fun p => { p with requests := p.requests.map (fun (r : PageReq) =>
          if r.rid = rid then { r with waiters := r.waiters.filter (fun x => !Waiter.isPath c.g.gid x) ++ [.cont tid] } else r) })
      | _ => s
    | .ready status =>
      let s := if sub = 2 then leave s else s
      s.putTask c.p.id { (block.makeReady s.tick) with wakeStatus := status }
    | .fails => (leave (s.putTask c.p.id block)).failTask c.p.id c.co.tid 6

/-- Step 7 of R355: the slot and registers are free. What becomes of the block of a resumed continuation whose group parks again no
rule says; it is freed in the same step: DESIGN CHOICE (log 97). -/
def State.endParked (s : State) (c : Ctx) : State :=
  let s := (s.lapseCapo c.g).retireGroup c.g
  let s := if c.g.trig = BitVec.allOnes 128 then
    s.onCohort c.co.uid (fun co => { co with triggered := co.triggered ||| maskOne c.g.sp.grp.toNat }) else s
  match c.g.cont with
  | some tid => s.freeTask c.p.id tid
  | none => s

/-- Every other path has finished its instruction, the fills have arrived and every store has been Homed (R355). -/
def State.parkReady (s : State) (g : Group) : Bool :=
  g.fills.isEmpty && g.sq.isEmpty && (s.unhomed g.gid).isEmpty &&
  g.slices.all (fun x => !x.wait.midway || (match x.wait with | .staged 3 _ => true | _ => false))

/-- Steps 5 to 7, once a TID is free; what the PARK holds is its wake operand with the place for the TID, and its bitmap. -/
def State.tryPark (s : State) (c : Ctx) (w : F3) (accs : List Access) (first : Bool) : Result :=
  let a0 := accs.getD 0 default
  let a1 := accs.getD 1 default
  if c.isLast w.words && c.folded 0x244 != bits c.head.blk 0 12 then
    (s.requestKill c.g.cohort (killSignature c.pc.toNat)).done
  else if !s.parkReady c.g then s.stay first
  else
    match c.p.freeCont with
    | none => s.stay first
    | some tid =>
      let a := c.p.recordAt tid
      let g := c.g.parkedAt c w.words
      let record := recordBytes g a w.sub.toNat (BitVec.ofNat 8 w.dst.code) a0.x a1.x a1.y
      if !s.parityRoom c.p.id record then s.stay first
      else
        let s := s.writeDM c.p.id record (.group g.gid g.cohort c.co.tid none)
        let s := if w.sb.isZero then s else s.writePoint c.g .dev (valueBytes a0.pa 4 tid none none)
        ((s.parkEvent c w.sub.toNat a0.x tid a (g.slices.map (·.place))).endParked c).done

/-- PARK commits, and holds the group from then on. -/
def State.startPark (s : State) (c : Ctx) (w : F3) (accs : List Access) : Result :=
  let g := { (c.committed 0x244 w.words) with parking := true }
  let g := g.mapSlices c.slices (fun _ x => { x with wait := .staged 3 accs })
  (s.setGroup g).tryPark { c with g := g } w accs true

def execPark (w : F3) (s : State) : Result :=
  s.issue (fun c =>
    match c.head.wait with
    | .staged _ accs => s.tryPark c w accs false
    | _ =>
      let n : Need := ⟨w.legalPark, false, w.guard, [(w.dst, 1)], [(w.sa, 1), (w.sb, 1), (w.sc, 2)]⟩
      s.gate c n (fun _ =>
        let op := c.uniform s w.sa
        let addr := c.uniform s w.sb
        let m0 := c.uniformAt w.sc 0
        let m1 := c.uniformAt w.sc 1
        let regs := bitmapRegs (m1.1 ++ m0.1)
        let accs := fun (pa : Nat) =>
          [{ lane := 0, va := addr.1.toNat, pa := pa, x := op.1 : Access }, { lane := 0, va := 0, pa := 0, x := m0.1, y := m1.1 : Access }]
        if c.g.loop.isSome then s.trapAll c trapLoopState
        else if (mergeAll [op.2, addr.2, m0.2, m1.2]).isSome then s.poisonKill c
        else if 16 < regs.length then s.trapCode c trapTaskOp 3
        else if c.g.parted then s.trapCode c trapTaskOp 4
        else if c.badWake w.sub.toNat op.1 w.sa.isZero then s.trapCode c trapTaskOp 5
        else if regs.any (fun r => decide (c.g.vCount ≤ r)) then s.trapAll c trapRegRange
        else if w.sb.isZero then s.startPark c w (accs 0)
        else s.atAddress c addr.1 4 true (fun s pa => s.startPark c w (accs pa))))

end Sys2Proof.Machine
end

