-- ==== Sys2Proof/Machine/Handles.lean ====
section
/-!
DEFINITION. The allocator engine (R359 to R365): object records, use and quota, reclaim, HALLOC; and the handle
instructions HALLOC, HFREE, HWEAK, HUPG, HREL, HPRI and LDW (R366 to R372) with the step RECLAIM.
-/

namespace Sys2Proof.Machine

/-! ### Handles and records (R359, R360) -/

structure Handle where
  idx : Nat
  gen : BitVec 24
  tier : Bool
  hk : BitVec 2
  deriving DecidableEq, Repr, Inhabited

def Handle.ofWord (v : Word64) : Handle := ⟨(bits v 32 32).toNat, bits v 8 24, bit v 2, bits v 0 2⟩
def Handle.word (h : Handle) : Word64 := put64 32 32 h.idx + at64 8 h.gen + put64 2 1 (b2n h.tier) + at64 0 h.hk

/-- A malformed handle (R359). -/
def malformedHandle (p : Part) (v : Word64) : Bool :=
  let h := Handle.ofWord v
  bits v 3 5 != 0 || h.hk == 0 || h.hk == 3 || h.idx == 0 || decide (p.ctl.objN ≤ h.idx)

/-- An object record; `state` is 0 FREE, 1 LIVE, 2 RETIRED. -/
structure ObjRec where
  idx : Nat
  gen : BitVec 24
  state : BitVec 2
  tier : Bool
  scnt : Nat
  wcnt : Nat
  va : Addr
  npg : Nat
  rpri : BitVec 4
  stamp : Nat
  deriving DecidableEq, Repr, Inhabited

def Part.recAddr (p : Part) (i : Nat) : Nat := p.ctl.objBase.toNat + 32 * i

def State.objRec (s : State) (p : Part) (i : Nat) : ObjRec :=
  let w := fun (k : Nat) => s.readWordAs p.id (p.recAddr i + 8 * k)
  { idx := i, gen := bits (w 0) 40 24, state := bits (w 0) 38 2, tier := bit (w 0) 37, scnt := (bits (w 0) 16 16).toNat
    wcnt := (bits (w 0) 0 16).toNat, va := bits (w 1) 0 57, npg := (bits (w 2) 32 32).toNat, rpri := bits (w 2) 28 4
    stamp := (bits (w 3) 0 44).toNat }

def ObjRec.words (r : ObjRec) : List Word64 :=
  [ at64 40 r.gen + at64 38 r.state + put64 37 1 (b2n r.tier) + put64 16 16 r.scnt + put64 0 16 r.wcnt, r.va.setWidth 64,
    put64 32 32 r.npg + at64 28 r.rpri, put64 0 44 r.stamp ]

def State.putRec (s : State) (p : Part) (r : ObjRec) : State := s.writeWords p.id (p.recAddr r.idx) r.words

def ObjRec.live (r : ObjRec) : Bool := r.state == 1
def ObjRec.reclaimable (r : ObjRec) : Bool := r.live && r.scnt == 0 && decide (0 < r.wcnt)

/-- A record that a handle matches; a stale handle matches none. -/
def State.match? (s : State) (p : Part) (h : Handle) : Option ObjRec :=
  let r := s.objRec p h.idx
  if r.live && r.gen == h.gen && r.tier == h.tier then some r else none

/-- The records of a tier that are LIVE. -/
def State.liveRecs (s : State) (p : Part) (tier : Bool) : List ObjRec :=
  ((List.range (p.ctl.objN - 1)).map (fun i => s.objRec p (i + 1))).filter (fun r => r.live && r.tier == tier)

/-! ### Use, quota and the flags of ALSTAT (R363, R365), counted in pages of 128 KiB -/

def State.use (s : State) (p : Part) (tier : Bool) : Nat := ((s.liveRecs p tier).map (·.npg)).sum
def Part.quota (p : Part) (tier : Bool) : Nat := 64 * (if tier then p.totals.hmq else p.totals.dmq)
def Part.borrow (p : Part) (tier : Bool) : Nat := 64 * (if tier then p.totals.hbor else p.totals.dbor)
def Part.poolCount (p : Part) (tier : Bool) : Nat := if tier then p.ctl.hpoolFree else p.ctl.poolFree

def PartCtl.flag (c : PartCtl) (tier : Bool) : Bool := if tier then c.overH else c.overD
def PartCtl.withFlag (c : PartCtl) (tier b : Bool) : PartCtl := if tier then { c with overH := b } else { c with overD := b }

/-- A tier's flag follows its use, and its rise sends the reclaim interrupt. -/
def State.refreshOver (s : State) (part : Nat) (tier : Bool) : State :=
  match s.part? part with
  | none => s
  | some p =>
    let isOver := decide (p.quota tier < s.use p tier)
    let s' := s.setPart { p with ctl := p.ctl.withFlag tier isOver }
    if isOver && !p.ctl.flag tier then s'.sendMsi part 35 else s'

/-! ### Destroy and reclaim (R362, R364) -/

/-- One page of an object unmapped, its copies invalidated, and its frame returned. -/
def State.freePage (s : State) (p : Part) (va : Nat) : State :=
  match s.walk p p.firstAsid va with
  | .leaf 3 entry frame _ _ =>
    ((s.writeWords p.id entry [0]).invalidatePage p p.firstAsid va (2 ^ 17)).pushFrame p.id frame
  | _ => s

/-- Destroy (R362). -/
def State.destroyObj (s : State) (p : Part) (r : ObjRec) : State :=
  let gen := r.gen + 1
  let s := s.putRec p { r with gen := gen, state := if gen = 0xFFFFFF then 2 else 0 }
  (List.range r.npg).foldl (fun s i => s.freePage p (r.va.toNat + 2 ^ 17 * i)) s

/-- a comes before b in reclaim order (R364). -/
def ObjRec.before (tick : Nat) (a b : ObjRec) : Bool :=
  let age := fun (r : ObjRec) => (tick + 2 ^ 44 - r.stamp) % 2 ^ 44
  decide (a.rpri.toNat < b.rpri.toNat) ||
  (a.rpri == b.rpri && (decide (age b < age a) || (age a == age b && decide (a.idx < b.idx))))

/-- The first reclaimable object of a tier. -/
def State.reclaimHead (s : State) (p : Part) (tier : Bool) : Option ObjRec :=
  ((s.liveRecs p tier).filter (·.reclaimable)).foldl (fun best r =>
    match best with
    | none => some r
    | some b => if ObjRec.before s.tick r b then some r else some b) none

/-- The object destroyed by reclaim, which RCNT counts. -/
def State.reclaimObj (s : State) (p : Part) (r : ObjRec) : State :=
  (s.destroyObj p r).onPart p.id (fun p => { p with ctl := { p.ctl with rcnt := p.ctl.rcnt + 1 } })

/-- RECLAIM (R365): one object of a tier that is over its quota; tier 0 is device memory, 1 host memory. -/
def execReclaim (part tier : Nat) (s : State) : Result :=
  match s.part? part with
  | none => s.done
  | some p =>
    let t := tier == 1
    if 2 ≤ tier || s.use p t ≤ p.quota t then s.done
    else
      match s.reclaimHead p t with
      | none => s.done
      | some r => ((s.reclaimObj p r).refreshOver part t).done

/-! ### HALLOC (R363, R368) -/

/-- The loop of R363: reclaim until the object fits or nothing is left; fuel is the number of LIVE records. -/
def State.makeRoom (part : Nat) (tier : Bool) (n : Nat) : Nat → State → State
  | 0, s => s
  | fuel + 1, s =>
    match s.part? part with
    | none => s
    | some p =>
      if p.quota tier + p.borrow tier < s.use p tier + n || p.poolCount tier < n then
        match s.reclaimHead p tier with
        | some r => State.makeRoom part tier n fuel (s.reclaimObj p r)
        | none => s
      else s

/-- The level-3 entry of a page that is free to map. -/
def State.freeEntry (s : State) (p : Part) (va : Nat) : Option Nat :=
  match s.walk p p.firstAsid va with
  | .absent 3 entry => some entry
  | _ => none

/-- The run of n pages from va lies in the heap window, meets no object, and its level-3 tables are there. -/
def State.runFree (s : State) (p : Part) (recs : List ObjRec) (n va : Nat) : Bool :=
  let stop := va + 2 ^ 17 * n
  decide (stop ≤ p.ctl.heapBase.toNat + p.ctl.heapLen) &&
  recs.all (fun r => decide (r.va.toNat + 2 ^ 17 * r.npg ≤ va) || decide (stop ≤ r.va.toNat)) &&
  (List.range n).all (fun i => (s.freeEntry p (va + 2 ^ 17 * i)).isSome)

/-- The lowest free run of n pages in the heap window: it starts at the window's base or at an object's end. -/
def State.lowestRun (s : State) (p : Part) (n : Nat) : Option Nat :=
  let recs := s.liveRecs p false ++ s.liveRecs p true
  (sortNat (p.ctl.heapBase.toNat :: recs.map (fun r => r.va.toNat + 2 ^ 17 * r.npg))).find? (s.runFree p recs n)

/-- The lowest FREE index. -/
def State.freeIndex (s : State) (p : Part) : Option Nat :=
  ((List.range (p.ctl.objN - 1)).map (· + 1)).find? (fun i => (s.objRec p i).state == 0)

/-- n frames mapped from va, each zeroed first. -/
def State.mapRun (s : State) (p : Part) (tier : Bool) (va n : Nat) : State :=
  (List.range n).foldl (fun s i =>
    match s.freeEntry p (va + 2 ^ 17 * i), s.popFrame p.id tier with
    | some entry, some (frame, s) => s.mapFrame p.id entry frame
    | _, _ => s) s

/-- The words that HALLOC writes into sD and sD+1, and the state after it. -/
def State.alloc (s : State) (part : Nat) (tier : Bool) (n : Nat) (rpri : BitVec 4) : (Word64 × Word64) × State :=
  match s.part? part with
  | none => ((0, 1), s)
  | some p0 =>
    let s := State.makeRoom part tier n (s.liveRecs p0 tier).length s
    match s.part? part with
    | none => ((0, 1), s)
    | some p =>
      if p.quota tier + p.borrow tier < s.use p tier + n then ((0, 1), s)
      else
        match s.freeIndex p with
        | none => ((0, 2), s)
        | some i =>
          match s.lowestRun p n with
          | none => ((0, 3), s)
          | some va =>
            if p.poolCount tier < n then ((0, 4), s)
            else
              let r : ObjRec := { s.objRec p i with
                state := 1, tier := tier, scnt := 1, wcnt := 0, va := BitVec.ofNat 57 va, npg := n, rpri := rpri, stamp := s.tick }
              (((Handle.mk i r.gen tier 1).word, BitVec.ofNat 64 va), (s.mapRun p tier va n).putRec p r)

/-- Two s registers written full and clean. -/
def Group.writePair (g : Group) (handler : Bool) (dst : Spec) (x y : Word64) : Group :=
  match dst with
  | .s n => (g.setS handler n.toNat ⟨x, none, none⟩).setS handler (n.toNat + 1) ⟨y, none, none⟩
  | _ => g

/-- The end of a handle instruction's step: the acquire at DEV, and its results. -/
def State.endHandle (s : State) (c : Ctx) (opc words : Nat) (f : Group → Group) : Result :=
  ((s.acquire c.g.core .dev).onGroup c.g.gid f).finish c opc words

/-- The checks that the uniform handle instructions share, and then `k`: acting lanes, LOOP_STATE, poison. -/
def State.handleGate (s : State) (w : F3) (c : Ctx) (opc : Nat) (legal : Bool) (dst : Nat) (k : Word64 → Word64 → Result) : Result :=
  let n : Need := ⟨legal, true, w.guard, [(w.dst, dst)], [(w.sa, 1), (w.sb, 1)]⟩
  s.gate c n (fun lanes =>
    let a := c.uniform s w.sa
    let b := c.uniform s w.sb
    if lanes.isEmpty then s.finish c opc w.words
    else if c.inRetire then s.trapAll c trapLoopState
    else if a.2.isSome || b.2.isSome then s.poisonKill c
    else k a.1 b.1)

/-- HALLOC's step. -/
def State.hallocStep (s : State) (w : F3) (c : Ctx) (vals : List Word64) : Result :=
  let tier := bit w.sub 0
  let r := s.alloc c.p.id tier (((vals.getD 0 0).toNat + 2 ^ 17 - 1) / 2 ^ 17) ((vals.getD 1 0).setWidth 4)
  (r.2.refreshOver c.p.id tier).endHandle c 0x280 w.words (fun g => g.writePair c.handler w.dst r.1.1 r.1.2)

def execHalloc (w : F3) (s : State) : Result :=
  s.homedIssue (fun c => s.handleGate w c 0x280 w.legalHalloc 2 (fun size rpri =>
      if size = 0 || decide (2 ^ 38 < size.toNat) || decide (15 < rpri.toNat) then s.trapCode c trapHandleOp 2
      else s.afterHomed c 0x280 w.words [size, rpri] (fun s c _ vals => s.hallocStep w c vals)))
    (fun s c _ vals => s.hallocStep w c vals)

/-! ### The instructions on one record (R369 to R371) -/

/-- A handle instruction: its checks, its commit and wait, and its step on the record that its handle matches. -/
def State.handleOp (s : State) (w : F3) (opc : Nat) (legal : Bool) (dst : Nat) (prio : Bool)
    (step : State → Ctx → Handle → Word64 → Option ObjRec → Result) : Result :=
  let act := fun (s : State) (c : Ctx) (_ : Bool) (vals : List Word64) =>
    let h := Handle.ofWord (vals.getD 0 0)
    step s c h (vals.getD 1 0) (s.match? c.p h)
  s.homedIssue (fun c => s.handleGate w c opc legal dst (fun a b =>
      if malformedHandle c.p a then s.trapCode c trapHandleOp 1
      else if prio && decide (15 < b.toNat) then s.trapCode c trapHandleOp 2
      else s.afterHomed c opc w.words [a, b] act))
    act

/-- A status of HREL and HFREE: STALE, COUNT, FREED. -/
def handleStatus (stale count freed : Bool) : Word64 := BitVec.ofNat 64 (b2n stale + 2 * b2n count + 4 * b2n freed)

/-- The step of an instruction that writes a status. -/
def State.endStatus (s : State) (w : F3) (c : Ctx) (opc : Nat) (v : Word64) : Result :=
  s.endHandle c opc w.words (fun g => g.writeS c.handler w.dst (v, none))

def execHfree (w : F3) (s : State) : Result :=
  s.handleOp w 0x281 w.legalHandleStatus 1 false (fun s c _ _ rec =>
    match rec with
    | none => s.endStatus w c 0x281 (handleStatus true false false)
    | some r => ((s.destroyObj c.p r).refreshOver c.p.id r.tier).endStatus w c 0x281 (handleStatus false false true))

def execHweak (w : F3) (s : State) : Result :=
  s.handleOp w 0x282 w.legalHweak 1 false (fun s c h _ rec =>
    match rec with
    | none => s.endStatus w c 0x282 0
    | some r =>
      if r.wcnt = 65535 then s.trapCode c trapHandleOp 3
      else (s.putRec c.p { r with wcnt := r.wcnt + 1 }).endStatus w c 0x282 (Handle.word { h with hk := 2 }))

def execHupg (w : F3) (s : State) : Result :=
  s.handleOp w 0x283 w.legalHupg 2 false (fun s c h _ rec =>
    match rec with
    | none => s.endHandle c 0x283 w.words (fun g => g.writePair c.handler w.dst 0 0)
    | some r =>
      if r.scnt = 65535 then s.trapCode c trapHandleOp 3
      else
        (s.putRec c.p { r with scnt := r.scnt + 1, stamp := s.tick }).endHandle c 0x283 w.words
          (fun g => g.writePair c.handler w.dst (Handle.word { h with hk := 1 }) (r.va.setWidth 64)))

/-- HREL of a matching handle (R362): the state and the status. -/
def State.release (s : State) (p : Part) (h : Handle) (r : ObjRec) : Word64 × State :=
  let strong := h.hk == 1
  if (if strong then r.scnt else r.wcnt) = 0 then (handleStatus false true false, s)
  else
    let r := if strong then { r with scnt := r.scnt - 1 } else { r with wcnt := r.wcnt - 1 }
    if r.scnt = 0 && r.wcnt = 0 then
      (handleStatus false false true, (s.destroyObj p r).refreshOver p.id r.tier)
    else (0, s.putRec p r)

def execHrel (w : F3) (s : State) : Result :=
  s.handleOp w 0x284 w.legalHandleStatus 1 false (fun s c h _ rec =>
    match rec with
    | none => s.endStatus w c 0x284 (handleStatus true false false)
    | some r =>
      let x := s.release c.p h r
      x.2.endStatus w c 0x284 x.1)

def execHpri (w : F3) (s : State) : Result :=
  s.handleOp w 0x285 w.legalHpri 1 true (fun s c _ p rec =>
    match rec with
    | none => s.endHandle c 0x285 w.words id
    | some r => (s.putRec c.p { r with rpri := p.setWidth 4 }).endHandle c 0x285 w.words id)

/-! ### LDW (R372) -/

/-- a[L] of an acting lane, and the poison of its offset. -/
def Ctx.ldwOffset (c : Ctx) (s : State) (w : FM) (l : Nat) : Nat × Option Tag :=
  let o := c.read s w.sb false l
  (o.1.toNat + w.ioff.toNat * w.size.bytes, o.2)

/-- The bytes at an address of the heap, read at DM; none where no page is mapped. -/
def State.heapBytes (s : State) (p : Part) (va n : Nat) : Option (List PByte) :=
  match s.translateWalk p p.firstAsid va with
  | .ok pa _ _ => some (s.readBytesAs p.id pa n)
  | _ => none

/-- The results of LDW: each lane's bytes, and the gone bit. -/
def Group.writeLdw (g : Group) (handler : Bool) (w : FM) (reads : List (Nat × List PByte)) (gone : Bool) : Group :=
  let g := (loadWrites handler w.dst w.size.bytes reads).foldl applyWrite g
  g.writeP (srcP w.sc) (reads.map (fun x => (x.1, gone, none)))

/-- The end of LDW: the acquire at DEV that R366 gives all seven, whatever ORDER says (log 99), and its results. -/
def State.endLdw (s : State) (w : FM) (c : Ctx) (reads : List (Nat × List PByte)) (gone : Bool) : Result :=
  s.endHandle c 0x286 w.words (fun g => g.writeLdw c.handler w reads gone)

/-- LDW's step; the operands held are the handle and a[L] of each acting lane. -/
def State.ldwStep (s : State) (w : FM) (c : Ctx) (vals : List Word64) : Result :=
  let h := Handle.ofWord (vals.getD 0 0)
  let lanes := (c.acting w.guard).zip (vals.tail.map (·.toNat))
  let n := w.size.bytes
  match s.match? c.p h with
  | none => s.endLdw w c (lanes.map (fun x => (x.1, List.replicate n ⟨0, none⟩))) true
  | some r =>
    let out := (lanes.filter (fun x => decide (r.npg * 2 ^ 17 < x.2 + n))).map (·.1)
    let odd := lanes.filter (fun x => x.2 % n != 0)
    if !out.isEmpty then s.takeTrap c ((Trap.plain trapHandleOp out c.pc).withCode 4)
    else if !odd.isEmpty then
      s.takeTrap c ((Trap.plain trapMisaligned (odd.map (·.1)) c.pc).withAddr (r.va.toNat + (odd.head?.getD (0, 0)).2) false)
    else
      match lanes.mapM (fun x => (s.heapBytes c.p (r.va.toNat + x.2) n).map (fun bs => (x.1, bs))) with
      | some reads => (s.putRec c.p { r with stamp := s.tick }).endLdw w c reads false
      | none => (s.failTask c.p.id c.co.tid 6).done

def execLdw (w : FM) (s : State) : Result :=
  s.homedIssue (fun c =>
    s.gate c (fmNeed w w.legalLdw true (dstRegs w.size.bytes w.dst) 1) (fun lanes =>
      let h := c.uniform s w.sa
      if c.inRetire then s.trapAll c trapLoopState
      else if h.2.isSome || lanes.any (fun l => (c.ldwOffset s w l).2.isSome) then s.poisonKill c
      else if malformedHandle c.p h.1 then s.trapCode c trapHandleOp 1
      else
        s.afterHomed c 0x286 w.words (h.1 :: lanes.map (fun l => BitVec.ofNat 64 (c.ldwOffset s w l).1))
          (fun s c _ vals => s.ldwStep w c vals) (vRegsOf w.dst (wordsFor w.size.bytes)) true))
    (fun s c _ vals => s.ldwStep w c vals)

end Sys2Proof.Machine
end

