-- ==== Sys2Proof/Machine/LaneInt.lean ====
section
/-!
DEFINITION. Integer, logic, move, address and lane-exchange instructions (R169 to R179): the effect of each in one
lane, and its meaning.
-/

namespace Sys2Proof.Machine

/-! ### Effects in one lane -/

/-- An integer operation on two operands at TYPE's width (R165). -/
def intOp2 (t : Ty) (sat : Bool) (op : Int → Int → Int) : LaneFn :=
  fun _ a b _ => intResult t sat (op (intOf t a) (intOf t b))

/-- floor(a × b / 2^n) (R169). -/
def mulHigh (n : Nat) (a b : Int) : Int := a * b / (2 ^ n : Int)

/-- IMAD: one wrap or clamp of a × b + c (R169). -/
def imadOp (t : Ty) (sat : Bool) : LaneFn :=
  fun _ a b c => intResult t sat (intOf t a * intOf t b + intOf t c)

/-- IMNX: the smaller or the larger by the type's signedness. -/
def imnxOp (t : Ty) (sub : BitVec 3) : LaneFn :=
  intOp2 t false (fun a b => if sub = 0 then min a b else max a b)

def icmpOp (t : Ty) (sub : BitVec 3) : LaneFn := fun _ a b _ => boolWord (condInt sub (intOf t a) (intOf t b))

/-- Element i of width w, unsigned or two's complement (R179). -/
def dotElem (w : Nat) (unsigned : Bool) (x : Word64) (i : Nat) : Int := readInt (!unsigned) w (x.toNat / 2 ^ (w * i))

/-- IDOT4 and IDOT8: k products of elements of 32 / k bits and the accumulator, summed exactly (R179). -/
def idotOp (k : Nat) (sat : Bool) (sub : BitVec 3) : LaneFn :=
  fun _ a b c =>
    let w := 32 / k
    intResult .i32 sat (intOf .i32 c +
      ((List.range k).map (fun i => dotElem w (bit sub 0) a i * dotElem w (bit sub 1) b i)).sum)

/-- LOP (R172). -/
def lopOp (negA negB : Bool) (sub : BitVec 3) : LaneFn :=
  fun _ a b _ =>
    let a := if negA then ~~~a else a
    let b := if negB then ~~~b else b
    match sub.toNat with
    | 0 => a &&& b
    | 1 => a ||| b
    | _ => a ^^^ b

/-- A shift or rotation of an n-bit value by b mod n (R173). -/
def shiftBits (sub : BitVec 3) (arith : Bool) (x : BitVec n) (k : Nat) : BitVec n :=
  match sub.toNat with
  | 0 => x <<< k
  | 1 => if arith then x.sshiftRight k else x >>> k
  | 2 => x.rotateLeft k
  | _ => x.rotateRight k

def shfOp (t : Ty) (sub : BitVec 3) : LaneFn :=
  fun _ a b _ =>
    if t.wide then shiftBits sub t.signed a (b.toNat % 64)
    else (shiftBits sub t.signed (a.setWidth 32) (b.toNat % 32)).setWidth 64

/-- BFX: len bits of a from pos, where a continues above bit 31 by TYPE (R174). -/
def bfxOp (t : Ty) : LaneFn :=
  fun _ a b _ =>
    let pos := (bits b 0 8).toNat
    let len := min (bits b 8 8).toNat 32
    let f := (intOf t a / (2 ^ pos : Int)) % (2 ^ len : Int)
    BitVec.ofInt 64 (if t.signed && decide (0 < len) then readInt true len f.toNat else f)

/-- BFI: the low len bits of a put into c at pos (R174). -/
def bfiOp : LaneFn :=
  fun _ a b c =>
    let pos := (bits b 0 8).toNat
    let len := min (bits b 8 8).toNat 32
    let m : Word32 := BitVec.ofNat 32 ((2 ^ len - 1) * 2 ^ pos)
    let a32 : Word32 := a.setWidth 32
    ((c.setWidth 32 &&& ~~~m) ||| ((a32 <<< pos) &&& m)).setWidth 64

/-- The number of set bits among the low n. -/
def popCount (n : Nat) (x : Word64) : Nat := ((List.range n).filter (fun i => bit x i)).length

/-- The zero bits above the highest set bit of an n-bit value. -/
def leadingZeros (n : Nat) (x : Word64) : Nat := if x.toNat = 0 then n else n - 1 - x.toNat.log2

/-- Bit i to bit n − 1 − i. -/
def reverseBits (n : Nat) (x : Word64) : Word64 :=
  BitVec.ofNat 64 (((List.range n).map (fun i => if bit x i then 2 ^ (n - 1 - i) else 0)).sum)

/-- Ext(b) of LEA by TYPE (R177). -/
def extAddr (t : Ty) (b : Word64) : Word64 :=
  match t with
  | .i32 => (b.setWidth 32).signExtend 64
  | .n32 => low32 b
  | _ => b

def leaOp (t : Ty) (k : BitVec 3) : LaneFn := fun _ a b _ => a + (extAddr t b <<< k.toNat)

/-- The source lane of LXCH (R178). -/
def lxchSource (sub : BitVec 3) (l : Nat) (b : Nat) : Option Nat :=
  match sub.toNat with
  | 0 => some b
  | 1 => if b ≤ l then some (l - b) else none
  | 2 => some (l + b)
  | _ => some (l ^^^ b)

/-! ### Meanings: integer arithmetic (R169) -/

def execIadd (w : F3) (s : State) : Result :=
  s.lane (laneF3 w 0x040 w.legalIntSat) (fun _ => intOp2 w.ty w.sat (· + ·))
def execIaddI (w : FI) (s : State) : Result :=
  s.lane (laneFI w 0x060 w.legalIntSat) (fun _ => intOp2 w.ty w.sat (· + ·))
def execIsub (w : F3) (s : State) : Result :=
  s.lane (laneF3 w 0x041 w.legalIntSat) (fun _ => intOp2 w.ty w.sat (· - ·))
def execIsubI (w : FI) (s : State) : Result :=
  s.lane (laneFI w 0x061 w.legalIntSat) (fun _ => intOp2 w.ty w.sat (· - ·))
def execImul (w : F3) (s : State) : Result :=
  s.lane (laneF3 w 0x042 w.legalIntSat) (fun _ => intOp2 w.ty w.sat (· * ·))
def execImulI (w : FI) (s : State) : Result :=
  s.lane (laneFI w 0x062 w.legalIntSat) (fun _ => intOp2 w.ty w.sat (· * ·))
def execImad (w : F3) (s : State) : Result :=
  s.lane (laneF3 w 0x043 w.legalImad) (fun _ => imadOp w.ty w.sat)
def execImulh (w : F3) (s : State) : Result :=
  s.lane (laneF3 w 0x044 w.legalImulh) (fun _ => intOp2 w.ty false (mulHigh w.ty.width))
def execImulhI (w : FI) (s : State) : Result :=
  s.lane (laneFI w 0x064 w.legalImulh) (fun _ => intOp2 w.ty false (mulHigh w.ty.width))
def execImnx (w : F3) (s : State) : Result :=
  s.lane (laneF3 w 0x045 w.legalImnx) (fun _ => imnxOp w.ty w.sub)
def execImnxI (w : FI) (s : State) : Result :=
  s.lane (laneFI w 0x065 w.legalImnx) (fun _ => imnxOp w.ty w.sub)
def execIabs (w : F3) (s : State) : Result :=
  s.lane (laneF3 w 0x046 w.legalIabs) (fun _ => intOp2 w.ty w.sat (fun a _ => (a.natAbs : Int)))

/-! ### Comparison and selection (R170, R171) -/

def execIcmp (w : F3) (s : State) : Result :=
  s.lane (laneF3 w 0x047 w.legalIcmp) (fun _ => icmpOp w.ty w.sub)
def execIcmpI (w : FI) (s : State) : Result :=
  s.lane (laneFI w 0x067 w.legalIcmp) (fun _ => icmpOp w.ty w.sub)
def execSel (w : F3) (s : State) : Result :=
  s.lane (laneF3 w 0x048 w.legalSel) (fun _ _ a b c => if (c != 0) != w.negC then a else b)

/-! ### Moves and addresses (R176, R177) -/

def execMov (w : F3) (s : State) : Result :=
  s.lane (laneF3 w 0x049 w.legalMov) (fun _ _ a _ _ => a)
def execMovi (w : FI) (s : State) : Result :=
  s.lane (laneFI w 0x069 w.legalMovi) (fun _ _ _ b _ => b)
def execLea (w : F3) (s : State) : Result :=
  s.lane { laneF3 w 0x04A w.legalLea with wide := true, aWide := true } (fun _ => leaOp w.ty w.sub)
def execLeaI (w : FI) (s : State) : Result :=
  s.lane { laneFI w 0x06A w.legalLea with wide := true, aWide := true } (fun _ => leaOp w.ty w.sub)

/-! ### Dot products (R179) -/

def execIdot4 (w : F3) (s : State) : Result :=
  s.lane (laneF3 w 0x04B w.legalIdot) (fun _ => idotOp 4 w.sat w.sub)
def execIdot8 (w : F3) (s : State) : Result :=
  s.lane (laneF3 w 0x04C w.legalIdot) (fun _ => idotOp 8 w.sat w.sub)

/-! ### Logic, shifts and bit fields (R172 to R175) -/

def execLop (w : F3) (s : State) : Result :=
  s.lane (laneF3 w 0x080 w.legalLop) (fun _ => lopOp w.negA w.negB w.sub)
def execLopI (w : FI) (s : State) : Result :=
  s.lane (laneFI w 0x0A0 w.legalLop) (fun _ => lopOp w.negA w.negB w.sub)
def execShf (w : F3) (s : State) : Result :=
  s.lane (laneF3 w 0x081 w.legalShf) (fun _ => shfOp w.ty w.sub)
def execShfI (w : FI) (s : State) : Result :=
  s.lane (laneFI w 0x0A1 w.legalShf) (fun _ => shfOp w.ty w.sub)
def execBfx (w : F3) (s : State) : Result :=
  s.lane (laneF3 w 0x082 w.legalBfx) (fun _ => bfxOp w.ty)
def execBfi (w : F3) (s : State) : Result :=
  s.lane (laneF3 w 0x083 w.legalBfi) (fun _ => bfiOp)
def execPopc (w : F3) (s : State) : Result :=
  s.lane { laneF3 w 0x084 w.legalCount with wide := false }
    (fun _ _ a _ _ => BitVec.ofNat 64 (popCount w.ty.width a))
def execClz (w : F3) (s : State) : Result :=
  s.lane { laneF3 w 0x085 w.legalCount with wide := false }
    (fun _ _ a _ _ => BitVec.ofNat 64 (leadingZeros w.ty.width a))
def execBrev (w : F3) (s : State) : Result :=
  s.lane (laneF3 w 0x086 w.legalBrev) (fun _ _ a _ _ => reverseBits w.ty.width a)

/-! ### Lane exchange (R178) -/

/-- LXCH in lane l: a of the source lane where it is a lane of the path, else the lane's own a. -/
def lxchResult (c : Ctx) (s : State) (w : F3) (l : Nat) : LaneResult :=
  let b := c.read s w.sb false l
  let src := match lxchSource w.sub l b.1.toNat with
    | some x => if c.active.contains x then x else l
    | none => l
  let a := c.read s w.sa w.ty.wide src
  (l, a.1, mergePois a.2 b.2)

def execLxch (w : F3) (s : State) : Result :=
  let o := { laneF3 w 0x087 w.legalLxch with bWide := false }
  s.issue (fun c => s.gate c o.need (fun lanes => s.writeLanes c o (lanes.map (lxchResult c s w))))

end Sys2Proof.Machine
end

