-- ==== Sys2Proof/Machine/System.lean ====
section
/-!
DEFINITION. Traps and the handler's instructions (R386 to R392, R397): TRAP, RFT, CHKERR, the control registers of R385
through CRD and CWR with the capability table (R39, R40), PMAP, PREQ with the request ring, the host's answer (R205), and
the words that are no instruction (R74).
-/

namespace Sys2Proof.Machine

/-! ### TRAP, RFT, CHKERR (R387, R388, R397) -/

/-- TRAP in handler mode: the task fails with cause 0x07, and the record carries the code. -/
def State.handlerFail (s : State) (c : Ctx) (code : Nat) : State :=
  (s.logOnly (dieOf c.g.core) 0x0F 0 c.p.id c.co.tid code c.pc.toNat).failTask c.p.id c.co.tid 7

def execTrap (w : F3) (s : State) : Result :=
  s.issue (fun c =>
    let n : Need := ⟨w.legalTrap, false, w.guard, [], [(w.sa, 1)]⟩
    s.gate c n (fun lanes =>
      let v := c.uniform s w.sa
      let code := (bits v.1 0 16).toNat
      if lanes.isEmpty then s.finish c 0x2C0 w.words
      else if c.handler then ((s.notePois c.g v.2).handlerFail c code).done
      else (s.notePois c.g v.2).takeTrap c ((Trap.plain trapSoft lanes (c.next w.words)).withCode code)))

/-- The issuing path holds every vectoring slice, with every TMASK lane active and none exited. -/
def Ctx.wholeHandler (c : Ctx) : Bool :=
  let f := c.g.frame
  f.saved.all (fun x => c.slices.contains x.1) &&
  laneMask c.active &&& f.tmask == f.tmask && c.g.exited &&& f.tmask == 0

def execRft (w : F3) (s : State) : Result :=
  s.issue (fun c => s.gate c (Need.bare (w.legalBare && c.handler) false w.guard) (fun lanes =>
    if lanes.isEmpty then s.finish c 0x2C1 w.words
    else if !c.wholeHandler then s.doubleTrap c 0
    else ((s.onGroup c.g.gid (fun g => g.leaveHandler.endTurn)).checkSig c 0x2C1 w.words).done))

/-- The merge of the cohort's and the task's CHKIV. -/
def Ctx.chkiv (c : Ctx) : Chkiv := c.co.chkiv.merge (((c.p.task? c.co.tid).map (·.chkiv)).getD Chkiv.clear)

def execChkerr (w : F3) (s : State) : Result :=
  s.issue (fun c =>
    let n : Need := ⟨w.legalChkerr, false, w.guard, [(w.dst, 1)], []⟩
    s.gate c n (fun lanes =>
      if lanes.isEmpty then s.finish c 0x2C2 w.words
      else if !c.g.fills.isEmpty then s.wait
      else (s.onGroup c.g.gid (fun g => g.writeS c.handler w.dst (c.chkiv.word, none))).finish c 0x2C2 w.words))

/-! ### The capability table (R39, R40) -/

/-- A partition's own units of a class, in the order of R38. -/
def Part.capUnits (p : Part) : Nat → Nat
  | 1 => p.totals.nclu
  | 2 => p.totals.nwsb
  | 3 => p.totals.memu
  | 4 => p.totals.linku
  | 5 => 1
  | 6 => p.totals.nasid
  | 7 => p.totals.dmq
  | _ => p.totals.hmq

/-- RATE of a class. -/
def capRate : Nat → Word64
  | 1 => 288358
  | 2 => 12
  | 3 => 200
  | 4 => 400
  | 7 => 8
  | 8 => 8
  | k => (Config.capRate k).setWidth 64

/-- A row of the capability table, whose CLASS is its number: UNITS, the owner array and FREE, and the burst size. -/
structure CapRow where
  units : Nat
  ownOff : BitVec 32
  free : Nat
  burst : Nat

/-- A word of the table with 8 rows, GRAN 1 in each; a row above 8 reads 0. -/
def capTable (rows : Nat → CapRow) (row word : Nat) : Word64 :=
  if row = 0 then (if word = 0 then put64 56 8 8 + 1 else 0)
  else if 8 < row then 0
  else
    let r := rows row
    match word with
    | 0 => put64 56 8 row + put64 32 24 r.units + 1
    | 1 => (r.ownOff.setWidth 64 <<< 32) + put64 0 32 r.free
    | 2 => (capRate row <<< 32) + put64 0 32 (if row = 3 || row = 4 then r.burst else 0)
    | _ => 0

/-- The word of a partition's view that CAPSEL names; UNITS is the partition's own count, and OWNOFF and FREE are 0. -/
def Part.capWord (p : Part) (row word : Nat) : Word64 :=
  capTable (fun k => ⟨p.capUnits k, 0, 0, if k = 3 then p.totals.mburst else p.totals.lburst⟩) row word

/-! ### CRD and CWR (R385, R386) -/

/-- The group's registers and the frame's. -/
def Ctx.groupControl (c : Ctx) (n : Nat) : Word64 :=
  let k := c.g.ctl
  let f := c.g.frame
  match n with
  | 0x000 => k.quantum.setWidth 64
  | 0x001 => k.prio.setWidth 64
  | 0x002 => k.rsalt.setWidth 64
  | 0x003 => k.rgnpc.setWidth 64
  | 0x004 => c.head.sig.setWidth 64
  | 0x005 => k.capsel
  | 0x006 => c.p.capWord (bits k.capsel 8 8).toNat (bits k.capsel 0 2).toNat
  | 0x010 => f.tcause
  | 0x011 => f.tpc.setWidth 64
  | 0x012 => f.taddr
  | 0x013 => f.tmask.setWidth 64
  | 0x014 => (f.tmask >>> 64).setWidth 64
  | 0x018 => f.tsave0
  | 0x019 => f.tsave1
  | 0x01A => f.tsave2
  | 0x01B => f.tsave3
  | _ => k.asid.setWidth 64

/-- The partition's registers. -/
def Part.control (p : Part) (n : Nat) : Word64 :=
  let k := p.ctl
  let nat := fun (x : Nat) => BitVec.ofNat 64 x
  match n with
  | 0x020 => nat p.id
  | 0x022 => nat (b2n k.svlock)
  | 0x023 => k.thandler.setWidth 64
  | 0x024 => nat k.peerto
  | 0x025 => k.poolBase.setWidth 64
  | 0x026 => nat k.poolFree
  | 0x027 => k.crBase.setWidth 64
  | 0x028 => (SMap.get 0 k.ptroot 0).setWidth 64
  | 0x029 => (SMap.get 0 k.ptroot 1).setWidth 64
  | 0x02A => (SMap.get 0 k.ptroot 2).setWidth 64
  | 0x02B => (SMap.get 0 k.ptroot 3).setWidth 64
  | 0x030 => k.objBase.setWidth 64
  | 0x031 => nat k.objN
  | 0x032 => k.heapBase.setWidth 64
  | 0x033 => nat k.heapLen
  | 0x034 => k.hpoolBase.setWidth 64
  | 0x035 => nat k.hpoolFree
  | 0x036 => k.pgTab.setWidth 64
  | _ => (k.rcnt.setWidth 64 <<< 32) + nat (2 * b2n k.overH + b2n k.overD)

/-- A control register as CRD reads it. -/
def Ctx.control (c : Ctx) (n : Nat) : Word64 :=
  if n < 0x020 || n = 0x021 then c.groupControl n else c.p.control n

def execCrd (w : FI) (s : State) : Result :=
  s.issue (fun c =>
    let n : Need := ⟨w.legalCrd, false, w.guard, [(w.dst, 1)], []⟩
    s.gate c n (fun lanes =>
      if lanes.isEmpty then s.finish c 0x2C3 w.words
      else (s.onGroup c.g.gid (fun g => g.writeS c.handler w.dst (c.control w.regNumber, none))).finish c 0x2C3 w.words))

/-- Only supervisor code writes the register (R385). -/
def svRegister (n : Nat) : Bool := decide (0x021 ≤ n) && n != 0x022

/-- Some object record of the partition is LIVE (R361). -/
def State.anyLive (s : State) (p : Part) : Bool := !(s.liveRecs p false).isEmpty || !(s.liveRecs p true).isEmpty

/-- The value is one that the register's rule allows, with every reserved bit 0. -/
def State.cwrAllows (s : State) (p : Part) (n : Nat) (v : Word64) : Bool :=
  let below := fun (k : Nat) => decide (v.toNat < 2 ^ k)
  let aligned := fun (k : Nat) => v.toNat % k == 0
  let m := 512 * 2 ^ 20
  match n with
  | 0x000 => below 16
  | 0x001 => below 3
  | 0x002 => below 32
  | 0x005 => v &&& ~~~0xFF03 == 0
  | 0x021 => p.asids.contains v.toNat && p.ptroot (v.setWidth 8) != 0
  | 0x022 => v == 1
  | 0x023 => below 57 && aligned 8
  | 0x024 => decide (10 ≤ v.toNat) && decide (v.toNat ≤ 1000000)
  | 0x025 => below 57
  | 0x026 => below 32
  | 0x027 => below 57 && aligned 64 && deviceOk v.toNat
  | 0x028 => below 48 && aligned 65536
  | 0x029 => below 48 && aligned 65536
  | 0x02A => below 48 && aligned 65536
  | 0x02B => below 48 && aligned 65536
  | 0x030 => below 57 && aligned 4096 && deviceOk v.toNat && !s.anyLive p
  | 0x031 => decide (2 ≤ v.toNat) && decide (v.toNat ≤ 2 ^ 24) && !s.anyLive p
  | 0x032 => below 57 && aligned m && !s.anyLive p
  | 0x033 => below 57 && aligned m && !s.anyLive p
  | 0x034 => below 57
  | 0x035 => below 32
  | _ => below 57 && aligned 4096 && deviceOk v.toNat

/-- A per-group register written. -/
def GroupCtl.write (k : GroupCtl) (n : Nat) (v : Word64) : GroupCtl :=
  match n with
  | 0x000 => { k with quantum := v.setWidth 16 }
  | 0x001 => { k with prio := v.setWidth 3 }
  | 0x002 => { k with rsalt := v.setWidth 32 }
  | 0x005 => { k with capsel := v }
  | _ => { k with asid := v.setWidth 8 }

/-- A partition register written. -/
def PartCtl.write (k : PartCtl) (n : Nat) (v : Word64) : PartCtl :=
  let a := v.setWidth 57
  match n with
  | 0x022 => { k with svlock := true }
  | 0x023 => { k with thandler := a }
  | 0x024 => { k with peerto := v.toNat }
  | 0x025 => { k with poolBase := a }
  | 0x026 => { k with poolFree := v.toNat }
  | 0x027 => { k with crBase := a }
  | 0x028 => { k with ptroot := SMap.put 0 k.ptroot 0 a }
  | 0x029 => { k with ptroot := SMap.put 0 k.ptroot 1 a }
  | 0x02A => { k with ptroot := SMap.put 0 k.ptroot 2 a }
  | 0x02B => { k with ptroot := SMap.put 0 k.ptroot 3 a }
  | 0x030 => { k with objBase := a }
  | 0x031 => { k with objN := v.toNat }
  | 0x032 => { k with heapBase := a }
  | 0x033 => { k with heapLen := v.toNat }
  | 0x034 => { k with hpoolBase := a }
  | 0x035 => { k with hpoolFree := v.toNat }
  | _ => { k with pgTab := a }

/-- The register takes the value. -/
def State.writeControl (s : State) (c : Ctx) (n : Nat) (v : Word64) : State :=
  if n < 0x020 || n = 0x021 then s.onGroup c.g.gid (fun g => { g with ctl := g.ctl.write n v })
  else s.onPart c.p.id (fun p => { p with ctl := p.ctl.write n v })

def execCwr (w : FI) (s : State) : Result :=
  s.issue (fun c =>
    let r := w.regNumber
    let may := c.unread w.guard || !svRegister r || c.supervisor
    let n : Need := ⟨w.legalCwr && may, false, w.guard, [], [(w.sa, 1)]⟩
    s.gate c n (fun lanes =>
      let v := c.uniform s w.sa
      if lanes.isEmpty then s.finish c 0x2C4 w.words
      else if v.2.isSome then s.poisonKill c
      else if !s.cwrAllows c.p r v.1 then s.trapAll c trapIllegal
      else (s.writeControl c r v.1).finish c 0x2C4 w.words))

/-! ### PMAP (R389) -/

/-- The walk for a page reaches a level-3 table. -/
def PageWalk.noLevel3 : PageWalk → Bool
  | .absent level _ => level != 3
  | .noTable => true
  | _ => false

/-- PMAP without .UNMAP: status and state. -/
def State.mapPage (s : State) (p : Part) (asid : BitVec 8) (va : Nat) : Word64 × State :=
  match s.walk p asid va with
  | .malformed => (3, s)
  | .leaf _ _ _ _ _ => (0, s)
  | .absent 3 entry =>
    match s.popFrame p.id false with
    | some (frame, s) => (0, s.mapFrame p.id entry frame)
    | none => (1, s)
  | _ => (2, s)

/-- PMAP.UNMAP: the frame goes onto the page pool. -/
def State.unmapPage (s : State) (p : Part) (asid : BitVec 8) (va : Nat) : Word64 × State :=
  match s.walk p asid va with
  | .malformed => (3, s)
  | .leaf 3 entry frame _ _ =>
    let s := (s.writeWords p.id entry [0]).invalidatePage p asid (pageOf va) (2 ^ 17)
    let s := s.writeWords p.id (p.ctl.poolBase.toNat + 8 * p.ctl.poolFree) [BitVec.ofNat 64 frame]
    (0, s.onPart p.id (fun p => { p with ctl := { p.ctl with poolFree := p.ctl.poolFree + 1 } }))
  | _ => (4, s)

def execPmap (w : F3) (s : State) : Result :=
  s.issue (fun c =>
    let n : Need := ⟨w.legalPmap && c.supervisor, false, w.guard, [(w.dst, 1)], [(w.sa, 1)]⟩
    s.gate c n (fun lanes =>
      let a := c.uniform s w.sa
      if lanes.isEmpty then s.finish c 0x2C5 w.words
      else if a.2.isSome then s.poisonKill c
      else
        let r :=
          if bits a.1 57 7 != 0 || c.p.inHeap (pageOf a.1.toNat) then (3, s)
          else if w.sub = 0 then s.mapPage c.p c.g.ctl.asid a.1.toNat
          else s.unmapPage c.p c.g.ctl.asid a.1.toNat
        (r.2.onGroup c.g.gid (fun g => g.writeS c.handler w.dst (r.1, none))).finish c 0x2C5 w.words))

/-! ### PREQ and the request ring (R390 to R392) -/

/-- The waiter's task has failed or been killed (R205): its cohort meets a kill. A kill and a failure take their waiters out of
every request, so a cohort or a block that is gone otherwise has neither failed nor been killed (log 62). -/
def State.waiterLost (s : State) (part : Nat) (x : Waiter) : Bool :=
  let killed := fun (uid : Nat) => ((s.cohort? uid).map (fun c => c.killed || c.kill.isSome)).getD false
  match x with
  | .path uid _ _ => killed uid
  | .cont tid => ((s.task? part tid).map (fun t => t.state == .failed || killed t.parkCohort)).getD false

/-- Answered requests give up their RIDs once every waiter has taken the outcome, which ends its waiting, or has had its task fail
or be killed (R205): a path that goes another way without taking it keeps the RID (log 62). -/
def State.sweepRequests (s : State) (part : Nat) : State :=
  s.onPart part (fun p => { p with requests := p.requests.filter (fun (r : PageReq) =>
    !(r.outcome.isSome && r.waiters.all (s.waiterLost part))) })

/-- The lowest free RID. -/
def Part.freeRid (p : Part) : Option Nat := (List.range 256).find? (fun i => p.requests.all (fun (r : PageReq) => r.rid != i))

def Ports.prqFull (p : Ports) : Bool := (p.prqTail - p.prqHead).toNat == 256

/-- The words of a request entry (R392). -/
def PageReq.words (r : PageReq) : List Word64 :=
  [put64 56 8 r.rid + at64 48 r.asid, BitVec.ofNat 64 r.page, put64 44 20 r.tid, BitVec.ofNat 64 (b2n r.wr)]

def Part.ringAddr (p : Part) : Nat := p.ports.prqBase.toNat + 32 * (p.ports.prqTail.toNat % 256)

/-- A request sent: its entry at PRQTAIL, and the message when the ring was empty. -/
def State.sendRequest (s : State) (p : Part) (r : PageReq) : State :=
  let s := s.writeWords p.id p.ringAddr r.words
  let s := s.onPart p.id (fun p => { p with requests := p.requests ++ [r], ports := { p.ports with prqTail := p.ports.prqTail + 1 } })
  if p.ports.prqHead = p.ports.prqTail then s.sendMsi p.id 34 else s

/-- The end of a PREQ: what the path records for PARK, and sD. -/
def State.endPreq (s : State) (w : F3) (c : Ctx) (last : Option Nat) (v : Word64) : Result :=
  (s.onGroup c.g.gid (fun g =>
    (g.mapSlices c.slices (fun _ x => { x with preq := some last })).writeS c.handler w.dst (v, none))).finish c 0x2C6 w.words

/-- PREQ for a page that is not mapped: it joins a request that is kept for the page, or sends one. -/
def State.requestPage (s : State) (w : F3) (c : Ctx) (p : Part) (page : Nat) : Result :=
  let me := Waiter.path c.co.uid c.g.gid c.path
  match p.requests.find? (fun r => r.page == page && r.asid == c.g.ctl.asid) with
  | some r =>
    let s := s.onPart p.id (fun p => { p with requests := p.requests.map (fun (x : PageReq) =>
      if x.rid = r.rid && !x.waiters.contains me then { x with waiters := x.waiters ++ [me] } else x) })
    s.endPreq w c (some r.rid) (BitVec.ofNat 64 r.rid)
  | none =>
    match p.freeRid with
    | none => s.wait
    | some rid =>
      if p.ports.prqFull then s.wait
      else
        let r : PageReq := ⟨rid, c.g.ctl.asid, page, c.co.tid, bit c.g.frame.tcause 16, [me], none⟩
        (s.sendRequest p r).endPreq w c (some rid) (BitVec.ofNat 64 (rid + 2 ^ 16))

def execPreq (w : F3) (s : State) : Result :=
  s.issue (fun c =>
    let n : Need := ⟨w.legalPreq && c.handler, false, w.guard, [(w.dst, 1)], [(w.sa, 1)]⟩
    s.gate c n (fun lanes =>
      let a := c.uniform s w.sa
      let page := pageOf a.1.toNat
      if lanes.isEmpty then s.finish c 0x2C6 w.words
      else if a.2.isSome then s.poisonKill c
      else if bits a.1 57 7 != 0 || c.p.inHeap page then s.trapAll c trapIllegal
      else
        match s.walk c.p c.g.ctl.asid page with
        | .leaf _ _ _ _ _ => s.endPreq w c none (BitVec.ofNat 64 (2 ^ 17))
        | _ =>
          let s := s.sweepRequests c.p.id
          match s.part? c.p.id with
          | none => s.wait
          | some p => s.requestPage w c p page))

/-! ### The host's answer (R205, R392) -/

/-- The frame that an answer carries. -/
def answerFrame (w1 : Word64) : Nat := (bits w1 17 31).toNat * 2 ^ 17

/-- The answer counts as a failure by R392 whatever the tables say. -/
def badAnswer (w0 w1 : Word64) : Bool :=
  let status := bits w0 48 8
  decide (1 < status.toNat) || bits w0 0 48 != 0 || bits w1 48 16 != 0 || bits w1 0 17 != 0 ||
  (status == 0 && !physOk (answerFrame w1))

/-- The record of a bad answer, on the home die. -/
def State.logAnswer (s : State) (p : Part) (r : PageReq) (w0 : Word64) : State :=
  s.logOnly p.homeDie 0x11 5 p.id r.tid (r.rid + 2 ^ 8 * (bits w0 48 8).toNat) r.page

/-- The outcome kept with the RID; parked waiters take it at once: READY on success, and a failed task otherwise. -/
def State.settleRequest (s : State) (part : Nat) (r : PageReq) (good : Bool) : State :=
  let conts := r.waiters.filterMap (fun x => match x with | .cont t => some t | .path _ _ _ => none)
  let s := s.onPart part (fun p => { p with requests := p.requests.map (fun (x : PageReq) =>
    if x.rid = r.rid then
      { x with outcome := some good, waiters := x.waiters.filter (fun y => match y with | .cont _ => false | .path _ _ _ => true) }
    else x) })
  let s := conts.foldl (fun s t => if good then s.wakeTask part t 0 else s.failTask part t 6) s
  s.sweepRequests part

/-- A well-formed success for a request that someone waits for. -/
def State.answerSuccess (s : State) (p : Part) (r : PageReq) (w0 : Word64) (frame : Nat) : State :=
  match s.walk p r.asid r.page with
  | .leaf _ _ _ _ _ => (s.pushFrame p.id frame).settleRequest p.id r true
  | .absent 3 entry => (s.mapFrame p.id entry frame).settleRequest p.id r true
  | _ => ((s.logAnswer p r w0).pushFrame p.id frame).settleRequest p.id r false

/-- PAGE_REQUEST_ANSWER: the first row of R205 that fits; an answer for no outstanding request is discarded. -/
def execPageRequestAnswer (part : Nat) (w0 w1 : Word64) (s : State) : Result :=
  match s.part? part with
  | none => s.done
  | some p =>
    let frame := answerFrame w1
    match p.requests.find? (fun r => r.rid == (bits w0 56 8).toNat && r.outcome.isNone) with
    | none => s.done
    | some r =>
      if r.waiters.all (s.waiterLost part) then
        let s := s.setPart { p with requests := p.requests.filter (fun (x : PageReq) => x.rid != r.rid) }
        (if bits w0 48 8 = 0 && !badAnswer w0 w1 then s.pushFrame part frame else s).done
      else if badAnswer w0 w1 then ((s.logAnswer p r w0).settleRequest part r false).done
      else if bits w0 48 8 = 1 then (s.settleRequest part r false).done
      else (s.answerSuccess p r w0 frame).done

/-! ### Words that are no instruction (R74) -/

/-- MALFORMED_WORD: an unassigned OPC traps as ILLEGAL_OP, a header inside a block and literals past its end as BAD_WORD. -/
def execMalformedWord (why : Malformed) (s : State) : Result :=
  s.issue (fun c =>
    match why with
    | .unassignedOpc => s.trapAll c trapIllegal
    | .headerInBlock => s.trapAll c trapBadWord
    | .literalsPastEnd => s.trapAll c trapBadWord)

end Sys2Proof.Machine
end

