-- ==== Sys2Proof/Machine/Mgmt.lean ====
section
/-!
DEFINITION. The host's side and firmware: register writes (R21, R23, R391), partitions created, resized, destroyed and
attested (R38 to R46, R431), keys (R432, R433), power and thermal state (R424 to R427), reset and boot (R428), what the host
reads in the windows (R21, R40, R41, R391, R424, R430), and memory errors (R398).
-/

namespace Sys2Proof.Machine

/-! ### Host register writes (R21, R23, R391; log 9) -/

/-- One vector of the MSI-X table changed; every message that was pending is sent when the vector is unmasked. -/
def State.onVector (s : State) (part n : Nat) (f : Vector → Vector) : State :=
  match s.part? part with
  | none => s
  | some p =>
    if 36 ≤ n then s
    else
      let v := f (SMap.get Vector.fresh p.ports.vectors n)
      let sends := if v.mask then 0 else v.pending
      let v := { v with pending := v.pending - sends }
      let s := s.setPart { p with ports := { p.ports with vectors := SMap.put Vector.fresh p.ports.vectors n v } }
      { s with msiOut := s.msiOut ++ List.replicate sends (part, n, v.addr, v.data) }

/-- REGISTER_WRITE: a register takes the bits it has, and a reserved offset takes nothing. R21 and R391 call CQBASE and
PRQBASE 4 KiB aligned and do not say what another value does: DESIGN CHOICE, the low 12 bits are dropped (log 45). -/
def execRegisterWrite (part : Nat) (reg : HostReg) (v : Word64) (s : State) : Result :=
  let base := ((v.setWidth 57 : Addr) >>> 12) <<< 12
  let onPorts := fun (f : Ports → Ports) => (s.onPart part (fun p => { p with ports := f p.ports })).done
  match reg with
  | .cqBase => onPorts (fun x => { x with cqBase := base })
  | .cqSize => onPorts (fun x => { x with cqSize := v.toNat % 32 })
  | .prqBase => onPorts (fun x => { x with prqBase := base })
  | .msixAddr n => (s.onVector part n (fun x => { x with addr := v })).done
  | .msixData n => (s.onVector part n (fun x => { x with data := v.setWidth 32 })).done
  | .msixMask n => (s.onVector part n (fun x => { x with mask := bit v 0 })).done
  | .reserved _ => s.done

/-! ### Requests (R41) -/

def statusDone : BitVec 8 := 0x00
def statusBusyUnits : BitVec 8 := 0x01
def statusNoFree : BitVec 8 := 0x02
def statusBadReq : BitVec 8 := 0x03
def statusNoPart : BitVec 8 := 0x04
def statusExists : BitVec 8 := 0x05
def statusRejected : BitVec 8 := 0x06
def statusExhausted : BitVec 8 := 0x07

def State.answer (s : State) (st : BitVec 8) : State := { s with mgmt := { s.mgmt with status := st } }

/-- The boot completed, so the management window is open (R428). -/
def Mgmt.booted (m : Mgmt) : Bool := m.bootStep == 6 && m.bootCode == 0

def reqOp (r : Request) : Nat := (bits r.w0 56 8).toNat
def reqPart (r : Request) : Nat := (bits r.w0 48 8).toNat

/-- A request handled by firmware: a write to MGCMD while it is busy, or before the boot completed, is dropped. R41 reserves the OP
codes 0 and 6 to 255 and names no status for them: BADREQ is a DESIGN CHOICE (log 54). -/
def State.manage (s : State) (r : Request) (op : Nat) (k : Result) : Result :=
  if !s.mgmt.booted || s.mgmt.busy.isSome then (s.answer statusRejected).done
  else if reqOp r != op then (s.answer statusBadReq).done
  else k

/-- The totals that words 1 to 6 name. -/
def reqTotals (r : Request) : Totals :=
  { push := bit r.w0 47, nclu := (bits r.w1 57 7).toNat, nwsb := (bits r.w1 48 9).toNat, nasid := (bits r.w1 45 3).toNat
    memu := (bits r.w1 34 11).toNat, linku := (bits r.w1 24 10).toNat, dmq := (bits r.w2 40 24).toNat
    hmq := (bits r.w2 16 24).toNat, dbor := (bits r.w3 40 24).toNat, hbor := (bits r.w3 16 24).toNat
    ttsize := (bits r.w4 44 20).toNat, cbase := (bits r.w4 24 20).toNat, ttbase := (bits r.w5 0 57).toNat
    mburst := (bits r.w6 52 12).toNat, lburst := (bits r.w6 40 12).toNat }

/-- Every reserved bit of words 0 to 7 is 0, and PARTID is one of 0 to 127. -/
def reqPlain (r : Request) : Bool :=
  decide (reqPart r < 128) && bits r.w0 0 47 == 0 && bits r.w1 0 24 == 0 && bits r.w2 0 16 == 0 && bits r.w3 0 16 == 0 &&
  bits r.w4 0 24 == 0 && bits r.w5 57 7 == 0 && bits r.w6 0 40 == 0 && r.w7 == 0

/-- MEMU, LINKU and the bursts are in range. -/
def Totals.sharesOk (t : Totals) : Bool :=
  decide (1 ≤ t.memu) && decide (t.memu ≤ 1024) && decide (t.linku ≤ 1000) && decide (4 ≤ t.mburst) && decide (t.mburst ≤ 1024) &&
  decide (4 ≤ t.lburst) && decide (t.lburst ≤ 1024)

/-- The counts of words 1 and 6 are in range. -/
def Totals.countsOk (t : Totals) : Bool :=
  t.sharesOk && decide (1 ≤ t.nclu) && decide (t.nclu ≤ 72) && decide (t.nwsb ≤ 256) && decide (1 ≤ t.nasid) && decide (t.nasid ≤ 4)

/-- TTSIZE and CBASE are in range. -/
def Totals.idsOk (t : Totals) : Bool := decide (1 ≤ t.ttsize) && decide (t.cbase < t.ttsize)

/-- The task table of words 4 and 5: in range, and an aligned run of device memory. R41 calls TTBASE a device address that is
4 KiB aligned and R42 lists no failure for another value: DESIGN CHOICE, it fails with BADREQ (log 54). -/
def Totals.tableOk (t : Totals) : Bool :=
  t.idsOk && t.ttbase % 4096 == 0 && deviceOk (t.ttbase + 64 * t.ttsize - 1)

/-! ### Free units (R38, R42) -/

/-- The lowest-numbered n free units of a class with some units in all; none when there are too few. -/
def lowestFree (owner : SMap (Option Nat)) (count n : Nat) : Option (List Nat) :=
  let free := (List.range count).filter (fun i => (SMap.get none owner i).isNone)
  if free.length < n then none else some (free.take n)

/-- Units given to a partition, or to none. -/
def setOwner (owner : SMap (Option Nat)) (units : List Nat) (to_ : Option Nat) : SMap (Option Nat) :=
  units.foldl (fun m u => SMap.put none m u to_) owner

/-- The shares that the other partitions leave suffice for some totals. -/
def State.sharesFit (s : State) (part : Nat) (t : Totals) : Bool :=
  let sum := fun (f : Totals → Nat) => ((s.parts.filter (fun p => p.id != part)).map (fun p => f p.totals)).sum
  decide (sum (·.memu) + t.memu ≤ 1024) && decide (sum (·.linku) + t.linku ≤ 1000) && decide (sum (·.dmq) + t.dmq ≤ 98304) &&
  (t.hmq == 0 || decide (sum (·.hmq) + t.hmq ≤ Config.hmemqUnits))

/-! ### Create (R42) -/

/-- A partition that owns its units, with its task table FREE and the next key that firmware draws in its slot (R432). -/
def State.newPart (s : State) (req : Request) (clusters banks asids : List Nat) (key : Nat) : State :=
  let id := reqPart req
  let t := reqTotals req
  let s := { s with
    parts := s.parts ++ [Part.fresh id t clusters banks key asids req]
    cluOwner := setOwner s.cluOwner clusters (some id), wsbOwner := setOwner s.wsbOwner banks (some id)
    keyOwner := setOwner s.keyOwner [key] (some id), asidOwner := setOwner s.asidOwner asids (some id)
    keySlots := SMap.put none s.keySlots key (some s.mgmt.draws), mgmt := { s.mgmt with draws := s.mgmt.draws + 1 } }
  s.zeroRun t.ttbase (64 * t.ttsize)

/-- CREATE_PARTITION. Where several failures apply the spec gives no order: DESIGN CHOICE, BADREQ, then EXISTS, then NOFREE
(log 54). -/
def execCreatePartition (req : Request) (s : State) : Result :=
  s.manage req 1 (
    let t := reqTotals req
    if !reqPlain req || !t.countsOk || !t.tableOk then (s.answer statusBadReq).done
    else if (s.part? (reqPart req)).isSome then (s.answer statusExists).done
    else
      match lowestFree s.cluOwner 72 t.nclu, lowestFree s.wsbOwner 256 t.nwsb, lowestFree s.keyOwner 128 1,
          lowestFree s.asidOwner 256 t.nasid with
      | some cs, some bs, some ks, some as_ =>
        if s.sharesFit (reqPart req) t then ((s.newPart req cs bs as_ (ks.headD 0)).answer statusDone).done
        else (s.answer statusNoFree).done
      | _, _, _, _ => (s.answer statusNoFree).done)

/-! ### Units that leave (R45) -/

/-- A cluster's cores, caches, TLBs and views are cleared. -/
def State.clearCluster (s : State) (k : Nat) : State :=
  let cs := [4 * k, 4 * k + 1, 4 * k + 2, 4 * k + 3]
  let s := cs.foldl (fun s c => s.setCore c Core.reset) (s.setCluster k Cluster.reset)
  { s with copies := s.copies.filter (fun x => match x.view with | .core c => !cs.contains c | .die _ => true) }

/-- A weight-store bank is zeroed. -/
def State.clearBank (s : State) (b : Nat) : State :=
  let size := 12 * 1024 * 1024
  { s with ws := s.ws.filter (fun c => c.1 / size != b), wsPois := s.wsPois.filter (fun c => 64 * c.1 / size != b) }

/-- Translations under an ASID leave the TLBs of the partition and its b registers. -/
def State.clearAsid (s : State) (p : Part) (asid : BitVec 8) : State :=
  let keep := fun (e : TlbEntry) => e.asid != asid
  let s := p.clusters.foldl (fun s k =>
    s.onCluster k (fun c => { c with l2 := c.l2.filter keep, victim := c.victim.filter keep })) s
  let s := p.cores.foldl (fun s n => s.onCore n (fun c => { c with l1 := c.l1.filter keep })) s
  { s with groups := s.groups.map (fun g =>
      if g.part = p.id then
        { g with regs := { g.regs with b := g.regs.b.map (fun (i, r) => if r.asid == asid then (i, { r with valid := false }) else (i, r)) } }
      else g) }

/-! ### Resize (R43, R44) -/

/-- No group, cohort or stream is on the cluster, and no command issued from it is outstanding. -/
def State.clusterIdle (s : State) (k : Nat) : Bool :=
  s.groups.all (fun g => clusterOf g.core != k) && s.cohorts.all (fun c => clusterOf c.core != k) && (s.cluster k).eq.isEmpty

/-- No running task's launch record maps a weight-store buffer into the bank (R43). -/
def Part.bankIdle (p : Part) (bank : Nat) : Bool :=
  let size := 12 * 1024 * 1024
  let first := (sortNat p.banks).idxOf bank * size
  p.tasks.all (fun t => t.state != .running || p.wsMaps.all (fun (m : WsMap) =>
    m.recVa != t.recVa || decide (m.off + m.len ≤ first) || decide (first + size ≤ m.off)))

/-- Nothing of the partition runs under the ASID: a group, a continuation that is parked or waits to resume, or an outstanding
page request (R43). -/
def State.asidIdle (s : State) (p : Part) (a : Nat) : Bool :=
  let asid := BitVec.ofNat 8 a
  s.groups.all (fun g => g.part != p.id || g.ctl.asid != asid) &&
  p.requests.all (fun (r : PageReq) => r.asid != asid || r.outcome.isSome) &&
  p.tasks.all (fun t => !(t.state == .parked || t.state == .ready) || t.kind != .continuation || (s.contRec p.id (p.recordAt t.tid)).asid != asid)

/-- The n highest-numbered of some units. -/
def highest (units : List Nat) (n : Nat) : Option (List Nat) :=
  if units.length < n then none else some ((sortNat units).reverse.take n)

/-- What becomes of one class: the units that come and those that leave, or the status that refuses. -/
def changeClass (owner : SMap (Option Nat)) (count have_ want : Nat) (idle : List Nat) : BitVec 8 ⊕ (List Nat × List Nat) :=
  if have_ ≤ want then
    match lowestFree owner count (want - have_) with
    | some us => .inr (us, [])
    | none => .inl statusNoFree
  else
    match highest idle (have_ - want) with
    | some us => .inr ([], us)
    | none => .inl statusBusyUnits

/-- The PTROOT registers after a change of ASIDs: those that stay keep theirs, in order, and an added one reads 0. -/
def Part.newRoots (p : Part) (asids : List Nat) : SMap Addr :=
  asids.zipIdx.foldl (fun m (x : Nat × Nat) =>
    SMap.put 0 m x.2 (if p.asids.contains x.1 then p.ptroot (BitVec.ofNat 8 x.1) else 0)) []

/-- The change of ownership. -/
def State.applyResize (s : State) (p : Part) (req : Request) (t : Totals) (cs bs as_ : List Nat × List Nat) : State :=
  let s := as_.2.foldl (fun s a => s.clearAsid p (BitVec.ofNat 8 a)) s
  let s := cs.2.foldl (fun s k => s.clearCluster k) s
  let s := bs.2.foldl (fun s b => s.clearBank b) s
  let asids := p.asids.filter (fun a => !as_.2.contains a) ++ as_.1
  let change := fun (units : List Nat) (x : List Nat × List Nat) => sortNat (units.filter (fun u => !x.2.contains u) ++ x.1)
  let s := { s with
    cluOwner := setOwner (setOwner s.cluOwner cs.2 none) cs.1 (some p.id)
    wsbOwner := setOwner (setOwner s.wsbOwner bs.2 none) bs.1 (some p.id)
    asidOwner := setOwner (setOwner s.asidOwner as_.2 none) as_.1 (some p.id) }
  let s := s.onPart p.id (fun p =>
    { p with totals := t, clusters := change p.clusters cs, banks := change p.banks bs, asids := asids, request := req
             ctl := { p.ctl with ptroot := p.newRoots asids } })
  let s := s.onPart p.id (fun p => p.refill 0)
  (s.refreshOver p.id false).refreshOver p.id true

/-- RESIZE_PARTITION: the totals of words 1 to 3 and 6; PUSH, the key and the task table stay. Where several failures apply
the spec gives no order: DESIGN CHOICE, BADREQ of the request, NOPART, then clusters, banks and ASIDs in turn, the home
die's BADREQ, and the shares' NOFREE (log 54). -/
def execResizePartition (req : Request) (s : State) : Result :=
  s.manage req 2 (
    match s.part? (reqPart req) with
    | none => (s.answer (if reqPlain req && (reqTotals req).countsOk then statusNoPart else statusBadReq)).done
    | some p =>
      let t := { (reqTotals req) with
        push := p.totals.push, ttsize := p.totals.ttsize, cbase := p.totals.cbase, ttbase := p.totals.ttbase : Totals }
      if !reqPlain req || !t.countsOk then (s.answer statusBadReq).done
      else
        match changeClass s.cluOwner 72 p.clusters.length t.nclu (p.clusters.filter s.clusterIdle),
            changeClass s.wsbOwner 256 p.banks.length t.nwsb (p.banks.filter p.bankIdle),
            changeClass s.asidOwner 256 p.asids.length t.nasid (p.asids.tail.filter (s.asidIdle p)) with
        | .inr cs, .inr bs, .inr as_ =>
          if (p.clusters.filter (fun k => dieOfCluster k == p.homeDie)).all (fun k => cs.2.contains k) then (s.answer statusBadReq).done
          else if !s.sharesFit p.id t then (s.answer statusNoFree).done
          else ((s.applyResize p req t cs bs as_).answer statusDone).done
        | .inl st, _, _ => (s.answer st).done
        | _, .inl st, _ => (s.answer st).done
        | _, _, .inl st => (s.answer st).done)

/-- SET_BUCKETS, with the checks of R42 and R43 (R46). -/
def execSetBuckets (req : Request) (s : State) : Result :=
  s.manage req 4 (
    let t := reqTotals req
    if !reqPlain req || !t.countsOk || !t.idsOk then (s.answer statusBadReq).done
    else
      match s.part? (reqPart req) with
      | none => (s.answer statusNoPart).done
      | some p =>
        let t := { p.totals with memu := t.memu, linku := t.linku, mburst := t.mburst, lburst := t.lburst }
        if !s.sharesFit p.id t then (s.answer statusNoFree).done
        else ((s.setPart (({ p with totals := t, request := req } : Part).refill 0)).answer statusDone).done)

/-! ### Destroy (R46) -/

/-- The tile stream of a cohort ends: it loses the engine, and its lineages close without replay, so that a read that waits for
one of its tiles gets its fill (R144). -/
def State.endStream (s : State) (c : Cohort) : State :=
  let s := s.onCore c.core (fun k => if k.engine = some c.uid then { k with engine := none } else k)
  let s := s.closeLineages c
  (s.onCohort c.uid (fun c => { c with seq := { c.seq with active := false }, tileMask := [], tileDepth := [] })).settleReads c.uid

/-- The launch port closes, the discard of every resident group begins, and nothing new starts. Flits that the port already
queued go with it: R46 does not say, DESIGN CHOICE (log 21). -/
def State.beginDestroy (s : State) (p : Part) : State :=
  let s := s.setPart { p with destroying := true, ports := { p.ports with closed := true, flits := [] }
                              spawned := [], relaunches := [], entries := [] }
  let s := (s.cohorts.filter (fun c => c.part == p.id && !c.killed)).foldl (fun s c => s.endStream c) s
  { s with groups := s.groups.map (fun g => if g.part = p.id ∧ g.stopped = false then { g with discarding := true } else g) }

/-- A discard of a group that will not run again goes on as far as it can (R214). -/
def State.goOnEnding (s : State) (g : Group) : State :=
  if g.stopped || !g.fills.isEmpty then s
  else if !g.resetReady then s.setGroup g.dropUncommitted
  else ((s.resetQueue g).setGroup g.kill).lapseCapo g

/-- The discards of a partition's groups go on; a cohort whose groups have all been discarded is over. -/
def State.discardAll (s : State) (p : Part) : State :=
  let s := (s.groups.filter (fun g => g.part == p.id)).foldl (fun s g => s.goOnEnding g) s
  (s.cohorts.filter (fun c => c.part == p.id && !c.killed &&
    s.groups.all (fun g => g.cohort != c.uid || g.stopped))).foldl (fun s c => s.haltCohort c) s

/-- Every group is discarded, every committed store of the partition is Homed, no engine command of it is outstanding, and every
decrement that one of them sent has arrived, with CPYH's message behind it (R266). -/
def State.destroyReady (s : State) (p : Part) : Bool :=
  s.groups.all (fun g => g.part != p.id || (g.stopped && g.sq.isEmpty)) && (s.cfq ++ s.df).all (fun q => q.part != p.id) &&
  s.allCmds.all (fun c => c.part != p.id) && p.decrements.isEmpty

/-- Every task FAILED, then every unit released, the key and the ASIDs last; the key's slot is zeroed first (R433). -/
def State.endDestroy (s : State) (p : Part) : State :=
  let s := p.tasks.foldl (fun s t => s.putTask p.id { t with state := .failed, reported := true }) s
  let s := { s with groups := s.groups.filter (fun g => g.part != p.id), cohorts := s.cohorts.filter (fun c => c.part != p.id)
                    opens := s.opens.filter (fun o => o.part != p.id), rsets := s.rsets.filter (fun r => r.part != p.id) }
  let s := p.clusters.foldl (fun s k => s.clearCluster k) s
  let s := p.banks.foldl (fun s b => s.clearBank b) s
  { s with
    parts := s.parts.filter (fun x => x.id != p.id)
    cluOwner := setOwner s.cluOwner p.clusters none, wsbOwner := setOwner s.wsbOwner p.banks none
    keySlots := SMap.put none s.keySlots p.key none, keyOwner := setOwner s.keyOwner [p.key] none, asidOwner := setOwner s.asidOwner p.asids none }

/-- Firmware goes on with a destroy: it ends, or stays busy. -/
def State.goOnDestroy (s : State) (p : Part) : State :=
  let s := s.discardAll p
  let p := (s.part? p.id).getD p
  if s.destroyReady p then
    let s := s.endDestroy p
    ({ s with mgmt := { s.mgmt with busy := none } }).answer statusDone
  else { s with mgmt := { s.mgmt with busy := some p.id } }

/-- DESTROY_PARTITION: a request, or firmware going on with the one in progress (log 21). -/
def execDestroyPartition (req : Request) (s : State) : Result :=
  match s.cur with
  | .firmware =>
    match s.mgmt.busy.bind s.part? with
    | some p => (s.goOnDestroy p).done
    | none => s.done
  | _ =>
    s.manage req 3 (
      if !reqPlain req then (s.answer statusBadReq).done
      else
        match s.part? (reqPart req) with
        | none => (s.answer statusNoPart).done
        | some p =>
          let s := s.beginDestroy p
          match s.part? p.id with
          | some p => (s.goOnDestroy p).done
          | none => s.done)

/-! ### Attestation (R430, R431; log 7) -/

/-- PMEAS: the request that created or last changed a partition, hashed; zero for the whole device. -/
def partMeas (p : Option Part) : BitVec 256 :=
  match p with
  | some p =>
    let r := p.request
    sha256 ([r.w0, r.w1, r.w2, r.w3, r.w4, r.w5, r.w6, r.w7].flatMap bytesOfWord64)
  | none => 0

/-- FWMEAS: SHA-256 of the running image. -/
def Mgmt.fwMeas (m : Mgmt) : BitVec 256 :=
  sha256 (m.image.getD Config.bootImage)

/-- CFGMEAS: SHA-256 of the fuse configuration. -/
def Mgmt.cfgMeas (m : Mgmt) : BitVec 256 := sha256 (Config.fuseBytes m.rootKey m.svn m.bootCount)

/-- Bytes 0 to 175 of a report. -/
def reportBody (m : Mgmt) (req : Request) (p : Option Part) : List Byte :=
  numBytes 4 1 ++ numBytes 4 5572 ++ numBytes 8 Config.serial.toNat ++ numBytes 8 m.svn.toNat ++
  numBytes 32 m.fwMeas.toNat ++ numBytes 32 m.cfgMeas.toNat ++
  ([req.w1, req.w2, req.w3, req.w4].flatMap bytesOfWord64) ++ numBytes 1 (reqPart req) ++ numBytes 7 0 ++
  numBytes 32 (partMeas p).toNat ++ numBytes 4 (m.bootCount - 1) ++ numBytes 4 m.reports ++ numBytes 8 0

/-- A report of 5,572 bytes, with its signature. -/
def fullReport (m : Mgmt) (req : Request) (p : Option Part) : List Byte :=
  let body := reportBody m req p
  body ++ identitySign (m.bootCount - 1) m.reports body

/-- ATTEST. -/
def execAttest (req : Request) (s : State) : Result :=
  s.manage req 5 (
    let p := s.part? (reqPart req)
    if bits req.w0 0 48 != 0 || req.w5 != 0 || req.w6 != 0 || req.w7 != 0 then (s.answer statusBadReq).done
    else if (reqPart req) != 0xFF && p.isNone then (s.answer statusNoPart).done
    else if 32768 ≤ s.mgmt.reports then (s.answer statusExhausted).done
    else
      let report := fullReport s.mgmt req (if (reqPart req) = 0xFF then none else p)
      (({ s with mgmt := { s.mgmt with report := report, reports := s.mgmt.reports + 1 } }).answer statusDone).done)

/-! ### Power and thermal state (R424 to R427, R402) -/

def clampNat (lo hi x : Nat) : Nat := max lo (min hi x)

/-- PWRCAP_WRITE. -/
def execPwrcapWrite (v : Word64) (s : State) : Result :=
  if s.mgmt.booted then
    ({ s with mgmt := { s.mgmt with pwrcap := BitVec.ofNat 12 (clampNat 600 2400 (v.toNat % 4096)) } }).done
  else s.done

/-- Power and junction keep the limits of R425. -/
def Mgmt.within (m : Mgmt) (x : PowerPoint) : Bool := decide (x.power.toNat ≤ m.pwrcap.toNat) && decide (x.junction.toNat < 105)

/-- Firmware may set this step (R425): while HOT it is 550 MHz, until the junction falls to 100 °C; otherwise the step, of
8 to 16 sixteenths of 1,100 MHz, meets both limits or is the lowest, and the next higher one would not meet them. -/
def Mgmt.mayStep (m : Mgmt) (step : Nat) (here above : PowerPoint) : Bool :=
  if m.therm = 3 then false
  else if m.therm = 2 then step == 8 && decide (100 < here.junction.toNat) && decide (here.junction.toNat < 120)
  else
    decide (8 ≤ step) && decide (step ≤ 16) && decide (here.junction.toNat < 105) && (m.within here || step == 8) &&
    (step == 16 || !m.within above)

/-- CLOCK_STEP_CHANGE (R425): CAPPED while the power limit is what keeps the clock from the next higher step. -/
def execClockStepChange (step : Nat) (here above : PowerPoint) (s : State) : Result :=
  let m := s.mgmt
  if m.mayStep step here above then
    let therm : BitVec 2 := if m.therm = 2 then 2 else if step < 16 && decide (m.pwrcap.toNat < above.power.toNat) then 1 else 0
    ({ s with mgmt := { m with clockStep := step, pwrnow := here.power, junction := here.junction, therm := therm } }).done
  else s.done

/-- THERM_HOT (R425), below the temperature of a trip (R427). -/
def execThermHot (junction : BitVec 8) (s : State) : Result :=
  if junction.toNat < 105 || 120 ≤ junction.toNat || s.mgmt.therm == 2 || s.mgmt.therm == 3 then s.done
  else
    let s := { s with mgmt := { s.mgmt with clockStep := 8, therm := 2, junction := junction } }
    (s.logOnly 0 0x10 6 0xFF 0 junction.toNat 0).done

/-- THERM_NORMAL (R425). -/
def execThermNormal (junction : BitVec 8) (s : State) : Result :=
  if 100 < junction.toNat || s.mgmt.therm != 2 then s.done
  else ({ s with mgmt := { s.mgmt with therm := 0, junction := junction } }).done

/-- THERMAL_TRIP (R427): every clock stops, and every task is lost. -/
def execThermalTrip (junction : BitVec 8) (s : State) : Result :=
  if junction.toNat < 120 then s.done
  else
    ({ s with mgmt := { s.mgmt with therm := 3, junction := junction, stopped := true }
              groups := [], cohorts := []
              parts := s.parts.map (fun (p : Part) =>
                { p with tasks := [], entries := [], relaunches := [], dispatched := [], decrements := [], spawned := [] }) }).done

/-- SUPPLY_SAG (R402): the clock stretches, and no value, trap, order or outcome changes. -/
def execSupplySag (s : State) : Result := s.done

/-! ### Reset (R428 to R430; logs 6 to 8) -/

def resetCode : ResetCause → BitVec 8
  | .powerOn => 0
  | .hostReset => 1
  | .thermalTrip => 2
  | .watchdog => 3

/-- The boot runs through a step, as far as its failure lets it. -/
def reaches (failure : Option BootFailure) (step : Nat) : Bool :=
  match failure with
  | none => true
  | some f => decide (step ≤ f.step.toNat)

/-- The security version number of an image (R429). -/
def imageSvn (image : Image) : BitVec 6 := Config.imageSvn image.bytes

/-- The check of boot step 1: the image's root public key is the one whose hash is fused, its signature of two levels of
height 10 verifies under that key, and it is no older than the fuses (R428, R429). -/
def Mgmt.accepts (m : Mgmt) (image : Image) : Bool :=
  sha256 image.rootKey == m.rootKey && hssVerify 10 image.rootKey image.bytes image.signature &&
  decide (m.svn.toNat ≤ (imageSvn image).toNat)

/-- This reset can happen: LASTRST 2 goes with a thermal trip, after which only the host's reset starts the device (R427);
a failing step has a code, an image that is not accepted fails at step 1, and the 32,769th boot fails at step 4 or before. -/
def resetPossible (m : Mgmt) (cause : ResetCause) (image : Image) (failure : Option BootFailure) : Bool :=
  (if m.therm = 3 then cause == .hostReset || cause == .thermalTrip else cause != .thermalTrip) &&
  (match failure with
   | none => m.accepts image && decide (m.bootCount < 32768)
   | some f =>
     decide (1 ≤ f.step.toNat) && decide (f.step.toNat ≤ 6) && decide (1 ≤ f.code.toNat) && decide (f.code.toNat ≤ 15) &&
     (m.accepts image || f.step == 1) && (decide (m.bootCount < 32768) || decide (f.step.toNat ≤ 4)))

/-- The management window after a reset; the number of keys drawn goes on, so that no key comes twice (R433). -/
def Mgmt.afterReset (m : Mgmt) (cause : ResetCause) (image : Image) (failure : Option BootFailure) : Mgmt :=
  let last := if m.therm = 3 then 2 else resetCode cause
  let fused := if reaches failure 2 && decide (m.svn.toNat < (imageSvn image).toNat) then (imageSvn image) else m.svn
  let boots := if reaches failure 4 && decide (m.bootCount < 32768) then m.bootCount + 1 else m.bootCount
  let b := Mgmt.boot last m.rootKey fused (some image.bytes) boots m.draws
  match failure with
  | none => b
  | some f => { b with bootStep := f.step, bootCode := f.code }

/-- RESET: the whole device starts anew; memory is cleared from step 3 on, and host memory is outside the device. -/
def execReset (cause : ResetCause) (image : Image) (failure : Option BootFailure) (s : State) : Result :=
  if !resetPossible s.mgmt cause image failure then s.done
  else
    let m := s.mgmt.afterReset cause image failure
    let clears := reaches failure 3
    let host := fun (a : Nat) => !deviceOk a
    let t := State.booted m (if clears then s.mem.filter (fun c => host c.1) else s.mem)
      (if clears then s.memPois.filter (fun c => host (64 * c.1)) else s.memPois)
      (if clears then s.memKey.filter (fun c => host (64 * c.1)) else s.memKey)
    let t := if clears then t else { t with ws := s.ws, wsPois := s.wsPois, errs := s.errs, errSeq := s.errSeq }
    ({ t with agenda := s.agenda, choices := s.choices, free := s.free, nextUid := s.nextUid, linkOut := s.linkOut
              msiOut := s.msiOut }).done

/-! ### Memory errors (R398) -/

/-- The die of the memory controller that holds an address. -/
def memDie (pa : Nat) : Nat := Config.channelOf pa % 192 / 48

/-- What a record says of the place of an error: its die, UNIT, PART, TID, DETAIL and ADDR. The weight store's UNIT is the
memory controller's and a unit inside a core is the core's: R398 names none for them (DESIGN CHOICE, log 82). -/
structure ErrPlace where
  die : Nat
  unit : BitVec 4
  part : BitVec 8
  tid : Nat
  detail : Nat
  addr : Nat

/-- The place of an error; none where nothing lies there. -/
def State.errPlace (s : State) : ErrSite → Option ErrPlace
  | .memory pa => if physOk pa.toNat then some ⟨memDie pa.toNat, 3, 0xFF, 0, 0, pa.toNat⟩ else none
  | .cache v line =>
    if s.copies.any (fun x => x.view == v && x.line == line) then
      match v with
      | .core c => some ⟨dieOf c, 0, 0xFF, 0, c, 64 * line⟩
      | .die d => some ⟨d, 2, 0xFF, 0, 0, 64 * line⟩
    else none
  | .weights byte =>
    let bank := byte / (12 * 1024 * 1024)
    if bank < 256 then some ⟨bank / 64, 3, 0xFF, 0, bank, byte⟩ else none
  | .scratch uid off => (s.cohort? uid).map (fun c => ⟨dieOf c.core, 0, BitVec.ofNat 8 c.part, c.tid, 0, off⟩)
  | .stage uid n off => (s.cohort? uid).map (fun c => ⟨dieOf c.core, 0, BitVec.ofNat 8 c.part, c.tid, n, off⟩)
  | .tile uid e => (s.cohort? uid).map (fun c => ⟨dieOf c.core, 0, BitVec.ofNat 8 c.part, c.tid, e / 1024, e % 1024⟩)
  | .vWord gid r lane =>
    (s.group? gid).map (fun g => ⟨dieOf g.core, 0, BitVec.ofNat 8 g.part, ((s.cohort? g.cohort).map (·.tid)).getD 0, r, lane⟩)
  | .sWord gid r _ =>
    (s.group? gid).map (fun g => ⟨dieOf g.core, 0, BitVec.ofNat 8 g.part, ((s.cohort? g.cohort).map (·.tid)).getD 0, r, 0⟩)

/-- TYPE of an uncorrectable error there: REG_UE for a register word, MEM_UE otherwise (log 30). -/
def errType : ErrSite → BitVec 8
  | .vWord _ _ _ => 0x03
  | .sWord _ _ _ => 0x03
  | _ => 0x01

/-- The sector of n bytes' worth of a staging slot that holds byte `off` is poisoned. -/
def poisonSector (bytes : List PByte) (n off : Nat) (tag : Tag) : List PByte :=
  (List.range n).map (fun i =>
    let b := bytes.getD i ⟨0, none⟩
    if i / 64 = off / 64 then ⟨b.val, some tag⟩ else b)

/-- The sector or word at the place takes the tag (R158, R398). -/
def State.poisonAt (s : State) (tag : Tag) : ErrSite → State
  | .memory pa => { s with memPois := SMap.put none s.memPois (pa.toNat / 64) (some tag) }
  | .cache v line =>
    { s with copies := s.copies.map (fun (x : Copy) => if x.view == v && x.line == line then { x with pois := some tag } else x) }
  | .weights byte => { s with wsPois := SMap.put none s.wsPois (byte / 64) (some tag) }
  | .scratch uid off => s.onCohort uid (fun c => { c with scratchPois := SMap.put none c.scratchPois (off / 64) (some tag) })
  | .stage uid n off => s.onCohort uid (fun c =>
      let x := c.slotOf n
      c.setSlot n (if off < 1024 then x.fill (poisonSector x.elems 1024 off tag) x.scales
        else x.fill x.elems (poisonSector x.scales 256 (off - 1024) tag)))
  | .tile uid e => s.onCohort uid (fun c =>
      { c with tiles := SMap.put PWord.zero c.tiles e ⟨(SMap.get PWord.zero c.tiles e).val, some tag⟩ })
  | .vWord gid r lane => s.onGroup gid (fun g => g.setV r lane ⟨(g.vWord r lane).val, some tag⟩)
  | .sWord gid r high => s.onGroup gid (fun g =>
      let x := SMap.get SVal.zero g.regs.s r
      { g with regs := { g.regs with s := SMap.put SVal.zero g.regs.s r (if high then { x with hi := some tag } else { x with lo := some tag }) } })

/-- MEM_UE: the sector is poisoned with the tag of a new record. -/
def execMemUe (site : ErrSite) (s : State) : Result :=
  match s.errPlace site with
  | none => s.done
  | some x =>
    let (tag, s) := s.logErr x.die (errType site) x.unit x.part x.tid x.detail x.addr
    (s.poisonAt tag site).done

/-- CORRECTED: a record, and nothing else. -/
def execCorrected (site : ErrSite) (s : State) : Result :=
  match s.errPlace site with
  | none => s.done
  | some x => (s.logErr x.die 0x02 x.unit x.part x.tid x.detail x.addr).2.done

/-! ### What the host reads in the windows (R21, R39 to R41, R391, R398, R424, R430, R431)

Reads change nothing, so they are functions of the state and no steps. -/

/-- A register of the launch port (R21); none for a write-only or reserved offset. -/
def Ports.launchRead (p : Ports) (off : Nat) : Option Word64 :=
  match off with
  | 0x040 => some (BitVec.ofNat 64 (256 - p.flits.length))
  | 0x048 => some (BitVec.ofNat 64 (b2n p.ovf))
  | 0x080 => some (p.cqBase.setWidth 64)
  | 0x088 => some (BitVec.ofNat 64 p.cqSize)
  | 0x090 => some p.cqHead
  | 0x098 => some p.cqTail
  | _ => none

/-- A register of the page-request port (R391). -/
def Ports.pageRead (p : Ports) (off : Nat) : Option Word64 :=
  match off with
  | 0x040 => some (p.prqBase.setWidth 64)
  | 0x048 => some p.prqHead
  | 0x050 => some p.prqTail
  | _ => none

/-- What the host reads in the ports of a partition; after a thermal trip the device does not answer until the host resets it
(R427). -/
def State.launchRead (s : State) (part off : Nat) : Option Word64 :=
  if s.mgmt.stopped then none else (s.part? part).bind (fun p => p.ports.launchRead off)
def State.pageRead (s : State) (part off : Nat) : Option Word64 :=
  if s.mgmt.stopped then none else (s.part? part).bind (fun p => p.ports.pageRead off)

/-- Units of a class in the device (R38). -/
def deviceUnits : Nat → Nat
  | 1 => 72
  | 2 => 256
  | 3 => 1024
  | 4 => 1000
  | 5 => 128
  | 6 => 256
  | 7 => 98304
  | _ => Config.hmemqUnits

/-- The owner of each unit of a class, in ascending unit number. Shares have no unit numbers (R43): they are laid out
partition after partition, the free ones last (DESIGN CHOICE, log 100). -/
def State.owners (s : State) (row : Nat) : List (Option Nat) :=
  let owned := fun (m : SMap (Option Nat)) => (List.range (deviceUnits row)).map (fun i => SMap.get none m i)
  let shares := fun (f : Totals → Nat) =>
    let taken := s.parts.flatMap (fun p => List.replicate (f p.totals) (some p.id))
    taken ++ List.replicate (deviceUnits row - taken.length) none
  match row with
  | 1 => owned s.cluOwner
  | 2 => owned s.wsbOwner
  | 3 => shares (·.memu)
  | 4 => shares (·.linku)
  | 5 => owned s.keyOwner
  | 6 => owned s.asidOwner
  | 7 => shares (·.dmq)
  | _ => shares (·.hmq)

/-- A byte of an owner array: the owning PARTID, or 0xFF. -/
def ownerByte : Option Nat → Byte
  | some p => BitVec.ofNat 8 p
  | none => 0xFF

/-- A word of the device's view of the capability table (R39, R40). -/
def State.deviceCap (s : State) (row word : Nat) : Word64 :=
  capTable (fun k => ⟨deviceUnits k, Config.ownOff k, ((s.owners k).filter Option.isNone).length, (Config.deviceBurst k).toNat⟩) row word

/-- The eight bytes of a list from an offset, as a word. -/
def wordAt (bytes : List Byte) (off : Nat) : Word64 :=
  BitVec.ofNat 64 (((List.range 8).map (fun i => (bytes.getD (off + i) 0).toNat * 2 ^ (8 * i))).sum)

/-- A word of an error record (R398). -/
def ErrRec.word (r : ErrRec) (tag : Nat) : Nat → Word64
  | 0 => put64 52 12 tag + (r.type.setWidth 64 <<< 44) + (r.unit.setWidth 64 <<< 40) + r.seq.setWidth 64
  | 1 => (r.part.setWidth 64 <<< 56) + (r.tid.setWidth 64 <<< 36) + (r.detail.setWidth 64 <<< 16)
  | 2 => r.addr
  | _ => r.wclk

def Mgmt.bootStat (m : Mgmt) : Word64 :=
  (m.bootStep.setWidth 64 <<< 56) + (m.lastRst.setWidth 64 <<< 8) + m.bootCode.setWidth 64

/-- The owner array whose bytes hold an offset of configuration space, with the place in it. -/
def State.ownerAt (s : State) (off : Nat) : Option Word64 :=
  ((List.range 8).map (· + 1)).findSome? (fun k =>
    let o := (Config.ownOff k).toNat
    if o ≤ off && decide (off < o + deviceUnits k) then some (wordAt ((s.owners k).map ownerByte) (off - o)) else none)

/-- The word that the host reads at an 8-byte aligned offset of the management window: before the boot completed only
BOOTSTAT answers (R428), and after a thermal trip nothing does (R427). -/
def State.windowRead (s : State) (off : Nat) : Option Word64 :=
  let m := s.mgmt
  if m.stopped then none
  else if off = 0x0D8 then some m.bootStat
  else if !m.booted then none
  else if off = 0x0C0 then some (m.pwrcap.setWidth 64)
  else if off = 0x0C8 then some (m.pwrnow.setWidth 64)
  else if off = 0x0D0 then some ((m.junction.setWidth 64 <<< 48) + m.therm.setWidth 64)
  else if off = 0x0F0 then some (put64 63 1 (b2n m.busy.isSome) + m.status.setWidth 64)
  else if off = 0x1000 then some (s.deviceCap 0 0)
  else if 0x1008 ≤ off && off < 0x1108 then some (s.deviceCap ((off - 0x1008) / 32 + 1) ((off - 0x1008) / 8 % 4))
  else if 0x1800 ≤ off && off < 0x1838 then some (wordAt (treeKey 0) (off - 0x1800))
  else if 0x2000 ≤ off && off < 0x2000 + 5572 then some (wordAt m.report (off - 0x2000))
  else if 0x10000 ≤ off && off < 0x30000 then
    let n := (off - 0x10000) / 32
    some (match SMap.get none s.errs n with
      | some r => r.word n ((off - 0x10000) / 8 % 4)
      | none => 0)
  else s.ownerAt off

end Sys2Proof.Machine
end

