-- ==== Sys2Proof/Machine/Dispatch.lean ====
section
/-!
DEFINITION. The meaning of every step of the opcode table: one arm, one direct call.
-/

namespace Sys2Proof.Machine

/-- The meaning of an instruction. -/
def exec (i : Instr) (s : State) : Host.Outcome State Fault Refusal :=
  match i with
  | .createKernelTask a => Sys2Proof.Machine.execCreateKernelTask a s
  | .createJoinTask a => Sys2Proof.Machine.execCreateJoinTask a s
  | .lpstatClear a b => Sys2Proof.Machine.execLpstatClear a b s
  | .cqheadWrite a b => Sys2Proof.Machine.execCqheadWrite a b s
  | .prqheadWrite a b => Sys2Proof.Machine.execPrqheadWrite a b s
  | .registerWrite a b c => Sys2Proof.Machine.execRegisterWrite a b c s
  | .pageRequestAnswer a b c => Sys2Proof.Machine.execPageRequestAnswer a b c s
  | .createPartition a => Sys2Proof.Machine.execCreatePartition a s
  | .resizePartition a => Sys2Proof.Machine.execResizePartition a s
  | .destroyPartition a => Sys2Proof.Machine.execDestroyPartition a s
  | .setBuckets a => Sys2Proof.Machine.execSetBuckets a s
  | .attest a => Sys2Proof.Machine.execAttest a s
  | .pwrcapWrite a => Sys2Proof.Machine.execPwrcapWrite a s
  | .clockStepChange a b c => Sys2Proof.Machine.execClockStepChange a b c s
  | .thermHot a => Sys2Proof.Machine.execThermHot a s
  | .thermNormal a => Sys2Proof.Machine.execThermNormal a s
  | .thermalTrip a => Sys2Proof.Machine.execThermalTrip a s
  | .supplySag => Sys2Proof.Machine.execSupplySag s
  | .reset a b c => Sys2Proof.Machine.execReset a b c s
  | .memUe a => Sys2Proof.Machine.execMemUe a s
  | .corrected a => Sys2Proof.Machine.execCorrected a s
  | .ctrlUe a => Sys2Proof.Machine.execCtrlUe a s
  | .taskDecrement a => Sys2Proof.Machine.execTaskDecrement a s
  | .dispatch a b => Sys2Proof.Machine.execDispatch a b s
  | .cohortPlacement a => Sys2Proof.Machine.execCohortPlacement a s
  | .groupAdmit a b => Sys2Proof.Machine.execGroupAdmit a b s
  | .preemptionDiscard a b => Sys2Proof.Machine.execPreemptionDiscard a b s
  | .groupEnd a => Sys2Proof.Machine.execGroupEnd a s
  | .cohortExit a => Sys2Proof.Machine.execCohortExit a s
  | .taskComplete a b => Sys2Proof.Machine.execTaskComplete a b s
  | .earlyRelease a b => Sys2Proof.Machine.execEarlyRelease a b s
  | .completionEntry a => Sys2Proof.Machine.execCompletionEntry a s
  | .cohortKill a => Sys2Proof.Machine.execCohortKill a s
  | .headerFetch a b => Sys2Proof.Machine.execHeaderFetch a b s
  | .turn a => Sys2Proof.Machine.execTurn a s
  | .drain a => Sys2Proof.Machine.execDrain a s
  | .lift a => Sys2Proof.Machine.execLift a s
  | .home a => Sys2Proof.Machine.execHome a s
  | .refresh a b => Sys2Proof.Machine.execRefresh a b s
  | .drop a b => Sys2Proof.Machine.execDrop a b s
  | .fillComplete a b => Sys2Proof.Machine.execFillComplete a b s
  | .bucketPieceLeave a b => Sys2Proof.Machine.execBucketPieceLeave a b s
  | .activate a b => Sys2Proof.Machine.execActivate a b s
  | .move a b c => Sys2Proof.Machine.execMove a b c s
  | .earrive a b c => Sys2Proof.Machine.execEarrive a b c s
  | .eend a b => Sys2Proof.Machine.execEend a b s
  | .peerChunkReceive a => Sys2Proof.Machine.execPeerChunkReceive a s
  | .peerNackReceive a b c => Sys2Proof.Machine.execPeerNackReceive a b c s
  | .ackTimeout a b => Sys2Proof.Machine.execAckTimeout a b s
  | .targetChunkTimeout a => Sys2Proof.Machine.execTargetChunkTimeout a s
  | .reduceApply a => Sys2Proof.Machine.execReduceApply a s
  | .parityDeltaApply a => Sys2Proof.Machine.execParityDeltaApply a s
  | .parityAck a => Sys2Proof.Machine.execParityAck a s
  | .parityDrop a => Sys2Proof.Machine.execParityDrop a s
  | .landingPermitGrant a => Sys2Proof.Machine.execLandingPermitGrant a s
  | .tilePush a => Sys2Proof.Machine.execTilePush a s
  | .multicastDelivery a => Sys2Proof.Machine.execMulticastDelivery a s
  | .operandFetch a => Sys2Proof.Machine.execOperandFetch a s
  | .lmmServe a => Sys2Proof.Machine.execLmmServe a s
  | .engineHandover a => Sys2Proof.Machine.execEngineHandover a s
  | .streamOvertake a => Sys2Proof.Machine.execStreamOvertake a s
  | .replay a b => Sys2Proof.Machine.execReplay a b s
  | .reclaim a b => Sys2Proof.Machine.execReclaim a b s
  | .nop a => Sys2Proof.Machine.execNop a s
  | .bra a => Sys2Proof.Machine.execBra a s
  | .brp a => Sys2Proof.Machine.execBrp a s
  | .bru a => Sys2Proof.Machine.execBru a s
  | .brx a => Sys2Proof.Machine.execBrx a s
  | .call a => Sys2Proof.Machine.execCall a s
  | .ret a => Sys2Proof.Machine.execRet a s
  | .exit a => Sys2Proof.Machine.execExit a s
  | .yield a => Sys2Proof.Machine.execYield a s
  | .regang a => Sys2Proof.Machine.execRegang a s
  | .vote a => Sys2Proof.Machine.execVote a s
  | .plop a => Sys2Proof.Machine.execPlop a s
  | .maskrd a => Sys2Proof.Machine.execMaskrd a s
  | .bar a => Sys2Proof.Machine.execBar a s
  | .loopb a => Sys2Proof.Machine.execLoopb a s
  | .refill a => Sys2Proof.Machine.execRefill a s
  | .bkpt a => Sys2Proof.Machine.execBkpt a s
  | .commit a => Sys2Proof.Machine.execCommit a s
  | .iadd a => Sys2Proof.Machine.execIadd a s
  | .iaddI a => Sys2Proof.Machine.execIaddI a s
  | .isub a => Sys2Proof.Machine.execIsub a s
  | .isubI a => Sys2Proof.Machine.execIsubI a s
  | .imul a => Sys2Proof.Machine.execImul a s
  | .imulI a => Sys2Proof.Machine.execImulI a s
  | .imad a => Sys2Proof.Machine.execImad a s
  | .imulh a => Sys2Proof.Machine.execImulh a s
  | .imulhI a => Sys2Proof.Machine.execImulhI a s
  | .imnx a => Sys2Proof.Machine.execImnx a s
  | .imnxI a => Sys2Proof.Machine.execImnxI a s
  | .iabs a => Sys2Proof.Machine.execIabs a s
  | .icmp a => Sys2Proof.Machine.execIcmp a s
  | .icmpI a => Sys2Proof.Machine.execIcmpI a s
  | .sel a => Sys2Proof.Machine.execSel a s
  | .mov a => Sys2Proof.Machine.execMov a s
  | .movi a => Sys2Proof.Machine.execMovi a s
  | .lea a => Sys2Proof.Machine.execLea a s
  | .leaI a => Sys2Proof.Machine.execLeaI a s
  | .idot4 a => Sys2Proof.Machine.execIdot4 a s
  | .idot8 a => Sys2Proof.Machine.execIdot8 a s
  | .lop a => Sys2Proof.Machine.execLop a s
  | .lopI a => Sys2Proof.Machine.execLopI a s
  | .shf a => Sys2Proof.Machine.execShf a s
  | .shfI a => Sys2Proof.Machine.execShfI a s
  | .bfx a => Sys2Proof.Machine.execBfx a s
  | .bfi a => Sys2Proof.Machine.execBfi a s
  | .popc a => Sys2Proof.Machine.execPopc a s
  | .clz a => Sys2Proof.Machine.execClz a s
  | .brev a => Sys2Proof.Machine.execBrev a s
  | .lxch a => Sys2Proof.Machine.execLxch a s
  | .fadd a => Sys2Proof.Machine.execFadd a s
  | .faddI a => Sys2Proof.Machine.execFaddI a s
  | .fmul a => Sys2Proof.Machine.execFmul a s
  | .fmulI a => Sys2Proof.Machine.execFmulI a s
  | .ffma a => Sys2Proof.Machine.execFfma a s
  | .fmnx a => Sys2Proof.Machine.execFmnx a s
  | .fmnxI a => Sys2Proof.Machine.execFmnxI a s
  | .fcmp a => Sys2Proof.Machine.execFcmp a s
  | .fcmpI a => Sys2Proof.Machine.execFcmpI a s
  | .fsfu a => Sys2Proof.Machine.execFsfu a s
  | .fclass a => Sys2Proof.Machine.execFclass a s
  | .hfma2 a => Sys2Proof.Machine.execHfma2 a s
  | .hadd2 a => Sys2Proof.Machine.execHadd2 a s
  | .hmul2 a => Sys2Proof.Machine.execHmul2 a s
  | .cvt a => Sys2Proof.Machine.execCvt a s
  | .qcvt a => Sys2Proof.Machine.execQcvt a s
  | .ld a => Sys2Proof.Machine.execLd a s
  | .st a => Sys2Proof.Machine.execSt a s
  | .lds a => Sys2Proof.Machine.execLds a s
  | .sts a => Sys2Proof.Machine.execSts a s
  | .ldk a => Sys2Proof.Machine.execLdk a s
  | .wld a => Sys2Proof.Machine.execWld a s
  | .wstat a => Sys2Proof.Machine.execWstat a s
  | .trb a => Sys2Proof.Machine.execTrb a s
  | .pref a => Sys2Proof.Machine.execPref a s
  | .atom a => Sys2Proof.Machine.execAtom a s
  | .cas a => Sys2Proof.Machine.execCas a s
  | .lr a => Sys2Proof.Machine.execLr a s
  | .sc a => Sys2Proof.Machine.execSc a s
  | .fence a => Sys2Proof.Machine.execFence a s
  | .xfence a => Sys2Proof.Machine.execXfence a s
  | .cpy a => Sys2Proof.Machine.execCpy a s
  | .cpyg a => Sys2Proof.Machine.execCpyg a s
  | .cpys a => Sys2Proof.Machine.execCpys a s
  | .cpyr a => Sys2Proof.Machine.execCpyr a s
  | .cpyh a => Sys2Proof.Machine.execCpyh a s
  | .crel a => Sys2Proof.Machine.execCrel a s
  | .bin a => Sys2Proof.Machine.execBin a s
  | .bpatch a => Sys2Proof.Machine.execBpatch a s
  | .awset a => Sys2Proof.Machine.execAwset a s
  | .awadd a => Sys2Proof.Machine.execAwadd a s
  | .awwait a => Sys2Proof.Machine.execAwwait a s
  | .awgen a => Sys2Proof.Machine.execAwgen a s
  | .lmm a => Sys2Proof.Machine.execLmm a s
  | .mrd a => Sys2Proof.Machine.execMrd a s
  | .mwr a => Sys2Proof.Machine.execMwr a s
  | .capo a => Sys2Proof.Machine.execCapo a s
  | .spawn a => Sys2Proof.Machine.execSpawn a s
  | .arm a => Sys2Proof.Machine.execArm a s
  | .tdec a => Sys2Proof.Machine.execTdec a s
  | .trig a => Sys2Proof.Machine.execTrig a s
  | .park a => Sys2Proof.Machine.execPark a s
  | .acquire a => Sys2Proof.Machine.execAcquire a s
  | .shed a => Sys2Proof.Machine.execShed a s
  | .halloc a => Sys2Proof.Machine.execHalloc a s
  | .hfree a => Sys2Proof.Machine.execHfree a s
  | .hweak a => Sys2Proof.Machine.execHweak a s
  | .hupg a => Sys2Proof.Machine.execHupg a s
  | .hrel a => Sys2Proof.Machine.execHrel a s
  | .hpri a => Sys2Proof.Machine.execHpri a s
  | .ldw a => Sys2Proof.Machine.execLdw a s
  | .rebuild a => Sys2Proof.Machine.execRebuild a s
  | .trap a => Sys2Proof.Machine.execTrap a s
  | .rft a => Sys2Proof.Machine.execRft a s
  | .chkerr a => Sys2Proof.Machine.execChkerr a s
  | .crd a => Sys2Proof.Machine.execCrd a s
  | .cwr a => Sys2Proof.Machine.execCwr a s
  | .pmap a => Sys2Proof.Machine.execPmap a s
  | .preq a => Sys2Proof.Machine.execPreq a s
  | .mdesc a => Sys2Proof.Machine.execMdesc a s
  | .mld a => Sys2Proof.Machine.execMld a s
  | .mmul a => Sys2Proof.Machine.execMmul a s
  | .msca a => Sys2Proof.Machine.execMsca a s
  | .mzero a => Sys2Proof.Machine.execMzero a s
  | .madd a => Sys2Proof.Machine.execMadd a s
  | .mscl a => Sys2Proof.Machine.execMscl a s
  | .mcvt a => Sys2Proof.Machine.execMcvt a s
  | .mpub a => Sys2Proof.Machine.execMpub a s
  | .msettle a => Sys2Proof.Machine.execMsettle a s
  | .mst a => Sys2Proof.Machine.execMst a s
  | .mbar a => Sys2Proof.Machine.execMbar a s
  | .mloop a => Sys2Proof.Machine.execMloop a s
  | .mpri a => Sys2Proof.Machine.execMpri a s
  | .mend a => Sys2Proof.Machine.execMend a s
  | .lflitWrite a b c d e => Sys2Proof.Machine.execLflitWrite a b c d e s
  | .malformedWord a => Sys2Proof.Machine.execMalformedWord a s
  | .malformedFtWord a => Sys2Proof.Machine.execMalformedFtWord a s
  | .peerRead a => Sys2Proof.Machine.execPeerRead a s

end Sys2Proof.Machine
end

