-- ==== Sys2Proof/Machine/Step.lean ====
section
/-!
DEFINITION. The step of the device: some time passes, and one agent acts (log 1). A quarter's pick and a sequencer's
next word run the meaning that Dispatch.lean gives the fetched instruction.
-/

namespace Sys2Proof.Machine

/-- One step. -/
def step (s : State) : Host.Outcome State Fault Refusal := s.stepWith exec State.noteStreams

/-- `s` with an instruction stored where its next step fetches (log 18). -/
def State.withFetchWord (s : State) (nbits w : Nat) : State := s.placeWord nbits w

end Sys2Proof.Machine
end

