-- ==== Sys2Proof/Laws/Encode.lean ====
section
/-!
SUPPORT. The decoder reads back what the encoder writes: fields of a packed word, specifiers and modifiers by their
codes, and one lemma for each format.
-/

namespace Sys2Proof

/-! ### Fields of a packed word -/

theorem bits_ofNat (n lo len : Nat) (h : lo + len ≤ 64) :
    bits (BitVec.ofNat 64 n) lo len = BitVec.ofNat len (n / 2 ^ lo) := by
  apply BitVec.eq_of_getLsbD_eq
  intro i hi
  have hlt : lo + i < 64 := by omega
  simp only [bits, BitVec.getLsbD_extractLsb', BitVec.getLsbD_ofNat, Nat.testBit_div_two_pow, hi, hlt, decide_true,
    Bool.true_and, Nat.add_comm]

theorem bit_ofNat (n i : Nat) (h : i < 64) : bit (BitVec.ofNat 64 n) i = decide (n / 2 ^ i % 2 = 1) := by
  simp only [bit, BitVec.getLsbD_ofNat, h, Nat.testBit_eq_decide_div_mod_eq, decide_true, Bool.true_and]

theorem b2n_lt (b : Bool) : b2n b < 2 := by cases b <;> decide
theorem b2n_bit (b : Bool) : decide (b2n b % 2 = 1) = b := by cases b <;> decide

theorem ofNat_toNat_eq {n : Nat} (x : BitVec n) (k : Nat) (h : k % 2 ^ n = x.toNat) : BitVec.ofNat n k = x := by
  apply BitVec.eq_of_toNat_eq
  simpa [BitVec.toNat_ofNat] using h

/-! ### Codes -/

theorem Ty.ofCode_code (t : Ty) : Ty.ofCode t.code = t := by cases t <;> rfl
theorem Ty.code_lt (t : Ty) : t.code < 16 := by cases t <;> decide
theorem Rnd.ofCode_code (r : Rnd) : Rnd.ofCode r.code = r := by cases r <;> rfl
theorem Rnd.code_lt (r : Rnd) : r.code < 8 := by cases r <;> decide
theorem Size.ofCode_code (r : Size) : Size.ofCode r.code = r := by cases r <;> rfl
theorem Size.code_lt (r : Size) : r.code < 8 := by cases r <;> decide
theorem Scope.ofCode_code (r : Scope) : Scope.ofCode r.code = r := by cases r <;> rfl
theorem Scope.code_lt (r : Scope) : r.code < 8 := by cases r <;> decide
theorem Order.ofCode_code (r : Order) : Order.ofCode r.code = r := by cases r <;> rfl
theorem Order.code_lt (r : Order) : r.code < 4 := by cases r <;> decide

/-- The field holds a code of R60 that reads back as itself in a source field. -/
def Spec.plain (x : Spec) : Bool := x.canonical && x.code != 255

theorem Spec.code_lt (x : Spec) : x.code < 256 := by
  cases x with
  | v n => have := n.isLt; simp only [Spec.code]; omega
  | s n => have := n.isLt; simp only [Spec.code]; omega
  | p n => have := n.isLt; simp only [Spec.code]; omega
  | b n => have := n.isLt; simp only [Spec.code]; omega
  | reserved c => exact c.isLt
  | _ => decide

theorem Spec.ofCode_code (x : Spec) (h : x.canonical = true) : Spec.ofCode (BitVec.ofNat 8 x.code) = x := by
  cases x with
  | v n => revert n; decide
  | s n => revert n; decide
  | p n => revert n; decide
  | b n => revert n; decide
  | reserved c => revert c; decide
  | _ => decide

/-- A source field reads back. -/
def Src.plain : Src → Bool
  | .reg x _ => x.plain
  | .ext _ _ => true

theorem Src.code_lt (x : Src) : x.code < 256 := by
  cases x with
  | reg sp _ => exact sp.code_lt
  | ext _ _ => exact (by decide : 255 < 256)

theorem Src.ofCode_code (x : Src) (h : x.plain = true) (lits : List Word64) :
    Src.ofCode (BitVec.ofNat 8 x.code) x.wait (x.literals ++ lits) = some (x, lits) := by
  cases x with
  | ext l w => rfl
  | reg sp w =>
    simp only [Src.plain, Spec.plain, Bool.and_eq_true, bne_iff_ne, ne_eq] at h
    have hc := sp.code_lt
    have hne : ¬ BitVec.ofNat 8 sp.code = 255#8 := by
      intro he
      have := congrArg BitVec.toNat he
      simp only [BitVec.toNat_ofNat] at this
      omega
    simp [Src.ofCode, Src.code, Src.wait, Src.literals, hne, Spec.ofCode_code sp h.1]

/-! ### The fields shared by the formats -/

/-- Reading a one-bit field of a packed word. -/
theorem bit_of (n i : Nat) (b : Bool) (hi : i < 64) (h : n / 2 ^ i % 2 = b2n b) : bit (BitVec.ofNat 64 n) i = b := by
  rw [bit_ofNat _ _ hi, h]; cases b <;> rfl

/-- Reading a field of a packed word. -/
theorem bits_of (n lo len : Nat) (x : BitVec len) (hi : lo + len ≤ 64) (h : n / 2 ^ lo % 2 ^ len = x.toNat) :
    bits (BitVec.ofNat 64 n) lo len = x := by
  rw [bits_ofNat _ _ _ hi]; exact ofNat_toNat_eq x _ h

/-- Reading a numbered field of a packed word. -/
theorem bitsNat_of (n lo len k : Nat) (hi : lo + len ≤ 64) (h : n / 2 ^ lo % 2 ^ len = k) :
    (bits (BitVec.ofNat 64 n) lo len).toNat = k := by
  rw [bits_ofNat _ _ _ hi, BitVec.toNat_ofNat]; exact h

/-- Reading the code of a specifier. -/
theorem codeBits_of (n lo k : Nat) (hi : lo + 8 ≤ 64) (h : n / 2 ^ lo % 2 ^ 8 = k % 2 ^ 8) :
    bits (BitVec.ofNat 64 n) lo 8 = BitVec.ofNat 8 k := by
  rw [bits_ofNat _ _ _ hi]
  apply BitVec.eq_of_toNat_eq
  simpa [BitVec.toNat_ofNat] using h

/-- A packed instruction word: OPC, guard and DST above some lower part below 2^42. -/
theorem opc_of (opc low : Nat) (g : Guard) (d : Spec) (hl : low < 2 ^ 42) (ho : opc < 1024) :
    (bits (BitVec.ofNat 64 (encodeHigh opc g d + low)) 54 10).toNat = opc := by
  have h1 := b2n_lt g.neg; have h2 := g.pg.isLt; have h3 := d.code_lt
  rw [bits_ofNat _ _ _ (by omega), BitVec.toNat_ofNat]
  simp only [encodeHigh]
  omega

theorem notHeader_of (opc low : Nat) (g : Guard) (d : Spec) (hl : low < 2 ^ 42) (ho : opc < 960) :
    isHeader (BitVec.ofNat 64 (encodeHigh opc g d + low)) = false := by
  have h1 := b2n_lt g.neg; have h2 := g.pg.isLt; have h3 := d.code_lt
  have : bits (BitVec.ofNat 64 (encodeHigh opc g d + low)) 60 4 ≠ 0xF#4 := by
    rw [bits_ofNat _ _ _ (by omega)]
    intro he
    have := congrArg BitVec.toNat he
    simp only [BitVec.toNat_ofNat, encodeHigh] at this
    omega
  simpa [isHeader] using this

theorem guard_of (opc low : Nat) (g : Guard) (d : Spec) (hl : low < 2 ^ 42) :
    readGuard (BitVec.ofNat 64 (encodeHigh opc g d + low)) = g := by
  have h1 := b2n_lt g.neg; have h2 := g.pg.isLt; have h3 := d.code_lt
  have e1 : bit (BitVec.ofNat 64 (encodeHigh opc g d + low)) 53 = g.neg :=
    bit_of _ _ _ (by omega) (by simp only [encodeHigh]; omega)
  have e2 : bits (BitVec.ofNat 64 (encodeHigh opc g d + low)) 50 3 = g.pg :=
    bits_of _ _ _ _ (by omega) (by simp only [encodeHigh]; omega)
  rw [readGuard, e1, e2]

theorem dst_of (opc low : Nat) (g : Guard) (d : Spec) (hl : low < 2 ^ 42) (hd : d.canonical = true) :
    readDst (BitVec.ofNat 64 (encodeHigh opc g d + low)) = d := by
  have h1 := b2n_lt g.neg; have h2 := g.pg.isLt; have h3 := d.code_lt
  rw [readDst, codeBits_of _ _ d.code (by omega) (by simp only [encodeHigh]; omega), Spec.ofCode_code d hd]

theorem srcA_of (high m : Nat) (a b c : Src) (hm : m < 2 ^ 15) (hh : high % 2 ^ 42 = 0) :
    bits (BitVec.ofNat 64 (high + (encodeSources a b c + m))) 34 8 = BitVec.ofNat 8 a.code := by
  have a1 := a.code_lt; have b1 := b.code_lt; have c1 := c.code_lt
  have a2 := b2n_lt a.wait; have b2 := b2n_lt b.wait; have c2 := b2n_lt c.wait
  exact codeBits_of _ _ _ (by omega) (by simp only [encodeSources]; omega)

theorem waitA_of (high m : Nat) (a b c : Src) (hm : m < 2 ^ 15) (hh : high % 2 ^ 42 = 0) :
    bit (BitVec.ofNat 64 (high + (encodeSources a b c + m))) 33 = a.wait := by
  have a1 := a.code_lt; have b1 := b.code_lt; have c1 := c.code_lt
  have a2 := b2n_lt a.wait; have b2 := b2n_lt b.wait; have c2 := b2n_lt c.wait
  exact bit_of _ _ _ (by omega) (by simp only [encodeSources]; omega)

theorem srcB_of (high m : Nat) (a b c : Src) (hm : m < 2 ^ 15) (hh : high % 2 ^ 42 = 0) :
    bits (BitVec.ofNat 64 (high + (encodeSources a b c + m))) 25 8 = BitVec.ofNat 8 b.code := by
  have a1 := a.code_lt; have b1 := b.code_lt; have c1 := c.code_lt
  have a2 := b2n_lt a.wait; have b2 := b2n_lt b.wait; have c2 := b2n_lt c.wait
  exact codeBits_of _ _ _ (by omega) (by simp only [encodeSources]; omega)

theorem waitB_of (high m : Nat) (a b c : Src) (hm : m < 2 ^ 15) (hh : high % 2 ^ 42 = 0) :
    bit (BitVec.ofNat 64 (high + (encodeSources a b c + m))) 24 = b.wait := by
  have a1 := a.code_lt; have b1 := b.code_lt; have c1 := c.code_lt
  have a2 := b2n_lt a.wait; have b2 := b2n_lt b.wait; have c2 := b2n_lt c.wait
  exact bit_of _ _ _ (by omega) (by simp only [encodeSources]; omega)

theorem srcC_of (high m : Nat) (a b c : Src) (hm : m < 2 ^ 15) (hh : high % 2 ^ 42 = 0) :
    bits (BitVec.ofNat 64 (high + (encodeSources a b c + m))) 16 8 = BitVec.ofNat 8 c.code := by
  have a1 := a.code_lt; have b1 := b.code_lt; have c1 := c.code_lt
  have a2 := b2n_lt a.wait; have b2 := b2n_lt b.wait; have c2 := b2n_lt c.wait
  exact codeBits_of _ _ _ (by omega) (by simp only [encodeSources]; omega)

theorem waitC_of (high m : Nat) (a b c : Src) (hm : m < 2 ^ 15) (hh : high % 2 ^ 42 = 0) :
    bit (BitVec.ofNat 64 (high + (encodeSources a b c + m))) 15 = c.wait := by
  have a1 := a.code_lt; have b1 := b.code_lt; have c1 := c.code_lt
  have a2 := b2n_lt a.wait; have b2 := b2n_lt b.wait; have c2 := b2n_lt c.wait
  exact bit_of _ _ _ (by omega) (by simp only [encodeSources]; omega)

theorem readSources_of (w : Word64) (a b c : Src) (ha : a.plain = true) (hb : b.plain = true) (hc : c.plain = true)
    (rest : List Word64) (e1 : bits w 34 8 = BitVec.ofNat 8 a.code) (e2 : bit w 33 = a.wait)
    (e3 : bits w 25 8 = BitVec.ofNat 8 b.code) (e4 : bit w 24 = b.wait)
    (e5 : bits w 16 8 = BitVec.ofNat 8 c.code) (e6 : bit w 15 = c.wait) :
    readSources w (literalsOf a b c ++ rest) = some (a, b, c, rest) := by
  have h1 := Src.ofCode_code a ha (b.literals ++ (c.literals ++ rest))
  have h2 := Src.ofCode_code b hb (c.literals ++ rest)
  have h3 := Src.ofCode_code c hc rest
  rw [← e1, ← e2] at h1
  rw [← e3, ← e4] at h2
  rw [← e5, ← e6] at h3
  simp only [readSources, literalsOf, List.append_assoc, h1, h2, h3]

/-- The three source fields of a packed word whose parts below 2^15 are `m`. -/
theorem sources_of (high m : Nat) (a b c : Src) (hm : m < 2 ^ 15) (hh : high % 2 ^ 42 = 0)
    (ha : a.plain = true) (hb : b.plain = true) (hc : c.plain = true) (rest : List Word64) :
    readSources (BitVec.ofNat 64 (high + (encodeSources a b c + m))) (literalsOf a b c ++ rest) = some (a, b, c, rest) :=
  readSources_of _ a b c ha hb hc rest (srcA_of _ _ a b c hm hh) (waitA_of _ _ a b c hm hh) (srcB_of _ _ a b c hm hh)
    (waitB_of _ _ a b c hm hh) (srcC_of _ _ a b c hm hh) (waitC_of _ _ a b c hm hh)

theorem encodeSources_lt (a b c : Src) : encodeSources a b c + 2 ^ 15 ≤ 2 ^ 42 := by
  have a1 := a.code_lt; have b1 := b.code_lt; have c1 := c.code_lt
  have a2 := b2n_lt a.wait; have b2 := b2n_lt b.wait; have c2 := b2n_lt c.wait
  simp only [encodeSources]
  omega

theorem encodeHigh_mod (opc : Nat) (g : Guard) (d : Spec) : encodeHigh opc g d % 2 ^ 42 = 0 := by
  simp only [encodeHigh]; omega

theorem encodeSources_mod (a b c : Src) : encodeSources a b c % 2 ^ 15 = 0 := by
  simp only [encodeSources]; omega

/-! ### The formats -/

theorem encodeMod_lt (ty : Ty) (rnd : Rnd) (sat negC negB negA ftz : Bool) (sub : BitVec 3) :
    encodeMod ty rnd sat negC negB negA ftz sub < 2 ^ 15 := by
  have h1 := ty.code_lt; have h2 := rnd.code_lt; have h3 := b2n_lt sat; have h4 := b2n_lt negC
  have h5 := b2n_lt negB; have h6 := b2n_lt negA; have h7 := b2n_lt ftz; have h8 := sub.isLt
  simp only [encodeMod]; omega

/-- Any field of MOD below some higher part. -/
structure ModOf (w : Word64) (ty : Ty) (rnd : Rnd) (sat negC negB negA ftz : Bool) (sub : BitVec 3) : Prop where
  ty : (bits w 11 4).toNat = ty.code
  rnd : (bits w 8 3).toNat = rnd.code
  sat : bit w 7 = sat
  negC : bit w 6 = negC
  negB : bit w 5 = negB
  negA : bit w 4 = negA
  ftz : bit w 3 = ftz
  sub : bits w 0 3 = sub

theorem mod_of (high : Nat) (ty : Ty) (rnd : Rnd) (sat negC negB negA ftz : Bool) (sub : BitVec 3)
    (hh : high % 2 ^ 15 = 0) :
    ModOf (BitVec.ofNat 64 (high + encodeMod ty rnd sat negC negB negA ftz sub)) ty rnd sat negC negB negA ftz sub := by
  have h1 := ty.code_lt; have h2 := rnd.code_lt; have h3 := b2n_lt sat; have h4 := b2n_lt negC
  have h5 := b2n_lt negB; have h6 := b2n_lt negA; have h7 := b2n_lt ftz; have h8 := sub.isLt
  constructor
  · exact bitsNat_of _ _ _ _ (by omega) (by simp only [encodeMod]; omega)
  · exact bitsNat_of _ _ _ _ (by omega) (by simp only [encodeMod]; omega)
  · exact bit_of _ _ _ (by omega) (by simp only [encodeMod]; omega)
  · exact bit_of _ _ _ (by omega) (by simp only [encodeMod]; omega)
  · exact bit_of _ _ _ (by omega) (by simp only [encodeMod]; omega)
  · exact bit_of _ _ _ (by omega) (by simp only [encodeMod]; omega)
  · exact bit_of _ _ _ (by omega) (by simp only [encodeMod]; omega)
  · exact bits_of _ _ _ _ (by omega) (by simp only [encodeMod]; omega)

/-- The specifier fields of a word read back. -/
def F3.plain (w : F3) : Bool := w.dst.canonical && w.sa.plain && w.sb.plain && w.sc.plain
def FI.plain (w : FI) : Bool := w.dst.canonical && w.sa.plain
def FM.plain (w : FM) : Bool := w.dst.canonical && w.sa.plain && w.sb.plain && w.sc.plain
def FX.plain (w : FX) : Bool := w.dst.canonical && w.sa.plain && w.sb.plain && w.sc.plain

theorem readF3_of (w : Word64) (x : F3) (rest : List Word64)
    (hs : readSources w (literalsOf x.sa x.sb x.sc ++ rest) = some (x.sa, x.sb, x.sc, rest))
    (hg : readGuard w = x.guard) (hd : readDst w = x.dst)
    (hm : ModOf w x.ty x.rnd x.sat x.negC x.negB x.negA x.ftz x.sub) :
    readF3 w (literalsOf x.sa x.sb x.sc ++ rest) = some (x, rest) := by
  simp only [readF3, hs, hg, hd, hm.ty, hm.rnd, hm.sat, hm.negC, hm.negB, hm.negA, hm.ftz, hm.sub, Ty.ofCode_code,
    Rnd.ofCode_code]

theorem readFI_of (w : Word64) (x : FI) (rest : List Word64) (ha : x.sa.plain = true)
    (e1 : bits w 34 8 = BitVec.ofNat 8 x.sa.code) (e2 : bit w 33 = x.sa.wait) (e3 : bits w 15 18 = x.imm)
    (hg : readGuard w = x.guard) (hd : readDst w = x.dst)
    (hm : ModOf w x.ty x.rnd x.sat x.negC x.negB x.negA x.ftz x.sub) :
    readFI w (x.sa.literals ++ rest) = some (x, rest) := by
  have h1 := Src.ofCode_code x.sa ha rest
  rw [← e1, ← e2] at h1
  simp only [readFI, h1, e3, hg, hd, hm.ty, hm.rnd, hm.sat, hm.negC, hm.negB, hm.negA, hm.ftz, hm.sub, Ty.ofCode_code,
    Rnd.ofCode_code]

/-- The decoder on any word whose header marker, OPC and fields are known. -/
theorem decode_F3_word {w : Word64} {opc : Nat} {mk : F3 → Instr} {x : F3} {ws rest : List Word64}
    (hh : isHeader w = false) (ho : (bits w 54 10).toNat = opc) (hc : ctorF3 opc = some mk)
    (hr : readF3 w ws = some (x, rest)) : decode w ws = .ok (mk x, rest) := by
  simp only [decode, hh, ho, hc, hr, finishRead, Bool.false_eq_true, if_false]

theorem decode_FI_word {w : Word64} {opc : Nat} {mk : FI → Instr} {x : FI} {ws rest : List Word64}
    (hh : isHeader w = false) (ho : (bits w 54 10).toNat = opc) (h3 : ctorF3 opc = none) (hc : ctorFI opc = some mk)
    (hr : readFI w ws = some (x, rest)) : decode w ws = .ok (mk x, rest) := by
  simp only [decode, hh, ho, h3, hc, hr, finishRead, Bool.false_eq_true, if_false]

theorem decode_FM_word {w : Word64} {opc : Nat} {mk : FM → Instr} {x : FM} {ws rest : List Word64}
    (hh : isHeader w = false) (ho : (bits w 54 10).toNat = opc) (h3 : ctorF3 opc = none) (hi : ctorFI opc = none)
    (hc : ctorFM opc = some mk) (hr : readFM w ws = some (x, rest)) : decode w ws = .ok (mk x, rest) := by
  simp only [decode, hh, ho, h3, hi, hc, hr, finishRead, Bool.false_eq_true, if_false]

theorem decode_FX_word {w : Word64} {opc : Nat} {mk : FX → Instr} {x : FX} {ws rest : List Word64}
    (hh : isHeader w = false) (ho : (bits w 54 10).toNat = opc) (h3 : ctorF3 opc = none) (hi : ctorFI opc = none)
    (hm : ctorFM opc = none) (hc : ctorFX opc = some mk) (hr : readFX w ws = some (x, rest)) :
    decode w ws = .ok (mk x, rest) := by
  simp only [decode, hh, ho, h3, hi, hm, hc, hr, finishRead, Bool.false_eq_true, if_false]

theorem decode_FB_word {w : Word64} {opc : Nat} {mk : FB → Instr} {x : FB} {ws : List Word64}
    (hh : isHeader w = false) (ho : (bits w 54 10).toNat = opc) (h3 : ctorF3 opc = none) (hi : ctorFI opc = none)
    (hm : ctorFM opc = none) (hx : ctorFX opc = none) (hc : ctorFB opc = some mk) (hr : readFB w = x) :
    decode w ws = .ok (mk x, ws) := by
  simp only [decode, hh, ho, h3, hi, hm, hx, hc, hr, Bool.false_eq_true, if_false]

theorem readFM_of (w : Word64) (x : FM) (rest : List Word64)
    (hs : readSources w (literalsOf x.sa x.sb x.sc ++ rest) = some (x.sa, x.sb, x.sc, rest))
    (hg : readGuard w = x.guard) (hd : readDst w = x.dst) (f1 : (bits w 12 3).toNat = x.size.code)
    (f2 : (bits w 9 3).toNat = x.scope.code) (f3 : (bits w 7 2).toNat = x.order.code) (f4 : bit w 6 = x.space)
    (f5 : bits w 0 6 = x.ioff) : readFM w (literalsOf x.sa x.sb x.sc ++ rest) = some (x, rest) := by
  simp only [readFM, hs, hg, hd, f1, f2, f3, f4, f5, Size.ofCode_code, Scope.ofCode_code, Order.ofCode_code]

theorem readFX_of (w : Word64) (x : FX) (rest : List Word64)
    (hs : readSources w (literalsOf x.sa x.sb x.sc ++ rest) = some (x.sa, x.sb, x.sc, rest))
    (hg : readGuard w = x.guard) (hd : readDst w = x.dst) (f1 : bit w 14 = x.ord) (f2 : bit w 13 = x.mcast)
    (f3 : bit w 12 = x.hold) (f4 : bits w 10 2 = x.notify) (f5 : bit w 9 = x.peer) (f6 : bits w 0 9 = x.cmd) :
    readFX w (literalsOf x.sa x.sb x.sc ++ rest) = some (x, rest) := by
  simp only [readFX, hs, hg, hd, f1, f2, f3, f4, f5, f6]

theorem readFB_of (w : Word64) (x : FB) (hg : readGuard w = x.guard) (hd : readDst w = x.dst)
    (f1 : bits w 16 26 = x.offset) (f2 : bits w 0 16 = x.low) : readFB w = x := by
  simp only [readFB, hg, hd, f1, f2]

theorem readFT_of (w : Word64) (x : FT) (f1 : bits w 50 6 = x.tile) (f2 : bits w 45 5 = x.op1)
    (f3 : bits w 40 5 = x.op2) (f4 : bits w 36 4 = x.lin) (f5 : bits w 32 4 = x.fmt) (f6 : bit w 31 = x.blk)
    (f7 : bits w 29 2 = x.bgrp) (f8 : bits w 0 29 = x.ops) : readFT w = x := by
  simp only [readFT, f1, f2, f3, f4, f5, f6, f7, f8]

theorem decodeFT_word {w : Word64} {mopc : Nat} {mk : FT → Instr} {x : FT} (ho : (bits w 56 8).toNat = mopc)
    (hc : ctorFT mopc = some mk) (hr : readFT w = x) : decodeFT w = some (mk x) := by
  simp only [decodeFT, ho, hc, hr, Option.map_some]

/-- The decoder on a packed word of an opcode, by format. -/
theorem decode_F3 (opc : Nat) (mk : F3 → Instr) (x : F3) (rest : List Word64) (hp : x.plain = true)
    (ho : opc < 960) (hc : ctorF3 opc = some mk) :
    ∃ w lits, encodeF3 opc x = w :: lits ∧ decode w (lits ++ rest) = .ok (mk x, rest) := by
  simp only [F3.plain, Bool.and_eq_true] at hp
  obtain ⟨⟨⟨hd, ha⟩, hb⟩, hcc⟩ := hp
  refine ⟨_, _, rfl, ?_⟩
  have hm := encodeMod_lt x.ty x.rnd x.sat x.negC x.negB x.negA x.ftz x.sub
  have hs := encodeSources_lt x.sa x.sb x.sc
  have hmod := encodeHigh_mod opc x.guard x.dst
  have hsm := encodeSources_mod x.sa x.sb x.sc
  have hmods := mod_of (encodeHigh opc x.guard x.dst + encodeSources x.sa x.sb x.sc) x.ty x.rnd x.sat x.negC x.negB
    x.negA x.ftz x.sub (by omega)
  rw [Nat.add_assoc] at hmods
  have hr := readF3_of _ x rest (sources_of _ _ x.sa x.sb x.sc hm hmod ha hb hcc rest)
    (guard_of opc _ x.guard x.dst (by omega)) (dst_of opc _ x.guard x.dst (by omega) hd) hmods
  have hopc := opc_of opc (encodeSources x.sa x.sb x.sc + encodeMod x.ty x.rnd x.sat x.negC x.negB x.negA x.ftz x.sub)
    x.guard x.dst (by omega) (by omega)
  have hh := notHeader_of opc (encodeSources x.sa x.sb x.sc + encodeMod x.ty x.rnd x.sat x.negC x.negB x.negA x.ftz x.sub)
    x.guard x.dst (by omega) ho
  rw [← Nat.add_assoc] at hr hopc hh
  exact decode_F3_word hh hopc hc hr

theorem decode_FI (opc : Nat) (mk : FI → Instr) (x : FI) (rest : List Word64) (hp : x.plain = true)
    (ho : opc < 960) (h3 : ctorF3 opc = none) (hc : ctorFI opc = some mk) :
    ∃ w lits, encodeFI opc x = w :: lits ∧ decode w (lits ++ rest) = .ok (mk x, rest) := by
  simp only [FI.plain, Bool.and_eq_true] at hp
  obtain ⟨hd, ha⟩ := hp
  refine ⟨_, _, rfl, ?_⟩
  have hm := encodeMod_lt x.ty x.rnd x.sat x.negC x.negB x.negA x.ftz x.sub
  have a1 := x.sa.code_lt
  have a2 := b2n_lt x.sa.wait
  have a3 := x.imm.isLt
  have hmod := encodeHigh_mod opc x.guard x.dst
  have hmods := mod_of (encodeHigh opc x.guard x.dst + x.sa.code * 2 ^ 34 + b2n x.sa.wait * 2 ^ 33 + x.imm.toNat * 2 ^ 15)
    x.ty x.rnd x.sat x.negC x.negB x.negA x.ftz x.sub (by omega)
  have e1 : bits (BitVec.ofNat 64 (encodeHigh opc x.guard x.dst + x.sa.code * 2 ^ 34 + b2n x.sa.wait * 2 ^ 33 +
      x.imm.toNat * 2 ^ 15 + encodeMod x.ty x.rnd x.sat x.negC x.negB x.negA x.ftz x.sub)) 34 8 = BitVec.ofNat 8 x.sa.code :=
    codeBits_of _ _ _ (by omega) (by omega)
  have e2 : bit (BitVec.ofNat 64 (encodeHigh opc x.guard x.dst + x.sa.code * 2 ^ 34 + b2n x.sa.wait * 2 ^ 33 +
      x.imm.toNat * 2 ^ 15 + encodeMod x.ty x.rnd x.sat x.negC x.negB x.negA x.ftz x.sub)) 33 = x.sa.wait :=
    bit_of _ _ _ (by omega) (by omega)
  have e3 : bits (BitVec.ofNat 64 (encodeHigh opc x.guard x.dst + x.sa.code * 2 ^ 34 + b2n x.sa.wait * 2 ^ 33 +
      x.imm.toNat * 2 ^ 15 + encodeMod x.ty x.rnd x.sat x.negC x.negB x.negA x.ftz x.sub)) 15 18 = x.imm :=
    bits_of _ _ _ _ (by omega) (by omega)
  have hlow : x.sa.code * 2 ^ 34 + (b2n x.sa.wait * 2 ^ 33 + (x.imm.toNat * 2 ^ 15 +
      encodeMod x.ty x.rnd x.sat x.negC x.negB x.negA x.ftz x.sub)) < 2 ^ 42 := by omega
  have hg := guard_of opc _ x.guard x.dst hlow
  have hdd := dst_of opc _ x.guard x.dst hlow hd
  have hopc := opc_of opc _ x.guard x.dst hlow (by omega)
  have hh := notHeader_of opc _ x.guard x.dst hlow ho
  simp only [← Nat.add_assoc] at hg hdd hopc hh
  have hr := readFI_of _ x rest ha e1 e2 e3 hg hdd hmods
  exact decode_FI_word hh hopc h3 hc hr

theorem decode_FM (opc : Nat) (mk : FM → Instr) (x : FM) (rest : List Word64) (hp : x.plain = true)
    (ho : opc < 960) (h3 : ctorF3 opc = none) (hi : ctorFI opc = none) (hc : ctorFM opc = some mk) :
    ∃ w lits, encodeFM opc x = w :: lits ∧ decode w (lits ++ rest) = .ok (mk x, rest) := by
  simp only [FM.plain, Bool.and_eq_true] at hp
  obtain ⟨⟨⟨hd, ha⟩, hb⟩, hcc⟩ := hp
  refine ⟨_, _, rfl, ?_⟩
  have m1 := x.size.code_lt
  have m2 := x.scope.code_lt
  have m3 := x.order.code_lt
  have m4 := b2n_lt x.space
  have m5 := x.ioff.isLt
  have hs := encodeSources_lt x.sa x.sb x.sc
  have hsm := encodeSources_mod x.sa x.sb x.sc
  have hmod := encodeHigh_mod opc x.guard x.dst
  have hm : x.size.code * 2 ^ 12 + (x.scope.code * 2 ^ 9 + (x.order.code * 2 ^ 7 + (b2n x.space * 2 ^ 6 + x.ioff.toNat)))
      < 2 ^ 15 := by omega
  have hsrc := sources_of _ _ x.sa x.sb x.sc hm hmod ha hb hcc rest
  have hlow : encodeSources x.sa x.sb x.sc + (x.size.code * 2 ^ 12 + (x.scope.code * 2 ^ 9 + (x.order.code * 2 ^ 7 +
      (b2n x.space * 2 ^ 6 + x.ioff.toNat)))) < 2 ^ 42 := by omega
  have hg := guard_of opc _ x.guard x.dst hlow
  have hdd := dst_of opc _ x.guard x.dst hlow hd
  have hopc := opc_of opc _ x.guard x.dst hlow (by omega)
  have hh := notHeader_of opc _ x.guard x.dst hlow ho
  simp only [← Nat.add_assoc] at hsrc hg hdd hopc hh
  exact decode_FM_word hh hopc h3 hi hc (readFM_of _ x rest hsrc hg hdd
    (bitsNat_of _ _ _ _ (by omega) (by omega)) (bitsNat_of _ _ _ _ (by omega) (by omega))
    (bitsNat_of _ _ _ _ (by omega) (by omega)) (bit_of _ _ _ (by omega) (by omega)) (bits_of _ _ _ _ (by omega) (by omega)))

theorem decode_FX (opc : Nat) (mk : FX → Instr) (x : FX) (rest : List Word64) (hp : x.plain = true)
    (ho : opc < 960) (h3 : ctorF3 opc = none) (hi : ctorFI opc = none) (hm : ctorFM opc = none)
    (hc : ctorFX opc = some mk) :
    ∃ w lits, encodeFX opc x = w :: lits ∧ decode w (lits ++ rest) = .ok (mk x, rest) := by
  simp only [FX.plain, Bool.and_eq_true] at hp
  obtain ⟨⟨⟨hd, ha⟩, hb⟩, hcc⟩ := hp
  refine ⟨_, _, rfl, ?_⟩
  have m1 := b2n_lt x.ord
  have m2 := b2n_lt x.mcast
  have m3 := b2n_lt x.hold
  have m4 := x.notify.isLt
  have m5 := b2n_lt x.peer
  have m6 := x.cmd.isLt
  have hs := encodeSources_lt x.sa x.sb x.sc
  have hsm := encodeSources_mod x.sa x.sb x.sc
  have hmod := encodeHigh_mod opc x.guard x.dst
  have hml : b2n x.ord * 2 ^ 14 + (b2n x.mcast * 2 ^ 13 + (b2n x.hold * 2 ^ 12 + (x.notify.toNat * 2 ^ 10 +
      (b2n x.peer * 2 ^ 9 + x.cmd.toNat)))) < 2 ^ 15 := by omega
  have hsrc := sources_of _ _ x.sa x.sb x.sc hml hmod ha hb hcc rest
  have hlow : encodeSources x.sa x.sb x.sc + (b2n x.ord * 2 ^ 14 + (b2n x.mcast * 2 ^ 13 + (b2n x.hold * 2 ^ 12 +
      (x.notify.toNat * 2 ^ 10 + (b2n x.peer * 2 ^ 9 + x.cmd.toNat))))) < 2 ^ 42 := by omega
  have hg := guard_of opc _ x.guard x.dst hlow
  have hdd := dst_of opc _ x.guard x.dst hlow hd
  have hopc := opc_of opc _ x.guard x.dst hlow (by omega)
  have hh := notHeader_of opc _ x.guard x.dst hlow ho
  simp only [← Nat.add_assoc] at hsrc hg hdd hopc hh
  exact decode_FX_word hh hopc h3 hi hm hc (readFX_of _ x rest hsrc hg hdd
    (bit_of _ _ _ (by omega) (by omega)) (bit_of _ _ _ (by omega) (by omega)) (bit_of _ _ _ (by omega) (by omega))
    (bits_of _ _ _ _ (by omega) (by omega)) (bit_of _ _ _ (by omega) (by omega)) (bits_of _ _ _ _ (by omega) (by omega)))

theorem decode_FB (opc : Nat) (mk : FB → Instr) (x : FB) (rest : List Word64) (hd : x.dst.canonical = true)
    (ho : opc < 960) (h3 : ctorF3 opc = none) (hi : ctorFI opc = none) (hm : ctorFM opc = none)
    (hx : ctorFX opc = none) (hc : ctorFB opc = some mk) :
    ∃ w lits, encodeFB opc x = w :: lits ∧ decode w (lits ++ rest) = .ok (mk x, rest) := by
  refine ⟨_, _, rfl, ?_⟩
  have m1 := x.offset.isLt
  have m2 := x.low.isLt
  have hmod := encodeHigh_mod opc x.guard x.dst
  have hlow : x.offset.toNat * 2 ^ 16 + x.low.toNat < 2 ^ 42 := by omega
  have hg := guard_of opc _ x.guard x.dst hlow
  have hdd := dst_of opc _ x.guard x.dst hlow hd
  have hopc := opc_of opc _ x.guard x.dst hlow (by omega)
  have hh := notHeader_of opc _ x.guard x.dst hlow ho
  simp only [← Nat.add_assoc] at hg hdd hopc hh
  exact decode_FB_word hh hopc h3 hi hm hx hc (readFB_of _ x hg hdd (bits_of _ _ _ _ (by omega) (by omega))
    (bits_of _ _ _ _ (by omega) (by omega)))

theorem decode_FT (mopc : Nat) (mk : FT → Instr) (x : FT) (ho : mopc < 256) (hc : ctorFT mopc = some mk) :
    decodeFT (encodeFT mopc x) = some (mk x) := by
  have m1 := x.tile.isLt
  have m2 := x.op1.isLt
  have m3 := x.op2.isLt
  have m4 := x.lin.isLt
  have m5 := x.fmt.isLt
  have m6 := b2n_lt x.blk
  have m7 := x.bgrp.isLt
  have m8 := x.ops.isLt
  exact decodeFT_word (bitsNat_of _ _ _ _ (by omega) (by omega)) hc (readFT_of _ x
    (bits_of _ _ _ _ (by omega) (by omega)) (bits_of _ _ _ _ (by omega) (by omega))
    (bits_of _ _ _ _ (by omega) (by omega)) (bits_of _ _ _ _ (by omega) (by omega))
    (bits_of _ _ _ _ (by omega) (by omega)) (bit_of _ _ _ (by omega) (by omega))
    (bits_of _ _ _ _ (by omega) (by omega)) (bits_of _ _ _ _ (by omega) (by omega)))

end Sys2Proof
end

