-- ==== Sys2Proof/Laws/Plain.lean ====
section
/-!
SUPPORT. A static rule admits no reserved specifier code, so every specifier field of a well-formed word reads back
(`plain`): one lemma for each rule.
-/

set_option linter.unusedSimpArgs false

namespace Sys2Proof

/-! ### A well-formed word holds no reserved specifier -/

theorem Spec.canonical_of (x : Spec) (h : ∀ c, x ≠ .reserved c) : x.canonical = true := by
  cases x with
  | reserved c => exact absurd rfl (h c)
  | _ => rfl

theorem Src.plain_of (x : Src) (h : ∀ c b, x ≠ .reg (.reserved c) b) : x.plain = true := by
  cases x with
  | ext l w => rfl
  | reg sp w =>
    cases sp with
    | v n => exact (by decide : ∀ n : BitVec 7, (Spec.v n).plain = true) n
    | s n => exact (by decide : ∀ n : BitVec 6, (Spec.s n).plain = true) n
    | p n => exact (by decide : ∀ n : BitVec 3, (Spec.p n).plain = true) n
    | b n => exact (by decide : ∀ n : BitVec 4, (Spec.b n).plain = true) n
    | reserved c => exact absurd rfl (h c w)
    | _ => rfl

theorem F3.plain_of (w : F3) (hd : ∀ c, w.dst ≠ .reserved c) (ha : ∀ c b, w.sa ≠ .reg (.reserved c) b)
    (hb : ∀ c b, w.sb ≠ .reg (.reserved c) b) (hc : ∀ c b, w.sc ≠ .reg (.reserved c) b) : w.plain = true := by
  simp [F3.plain, Spec.canonical_of _ hd, Src.plain_of _ ha, Src.plain_of _ hb, Src.plain_of _ hc]

theorem FI.plain_of (w : FI) (hd : ∀ c, w.dst ≠ .reserved c) (ha : ∀ c b, w.sa ≠ .reg (.reserved c) b) :
    w.plain = true := by
  simp [FI.plain, Spec.canonical_of _ hd, Src.plain_of _ ha]

theorem FM.plain_of (w : FM) (hd : ∀ c, w.dst ≠ .reserved c) (ha : ∀ c b, w.sa ≠ .reg (.reserved c) b)
    (hb : ∀ c b, w.sb ≠ .reg (.reserved c) b) (hc : ∀ c b, w.sc ≠ .reg (.reserved c) b) : w.plain = true := by
  simp [FM.plain, Spec.canonical_of _ hd, Src.plain_of _ ha, Src.plain_of _ hb, Src.plain_of _ hc]

theorem FX.plain_of (w : FX) (hd : ∀ c, w.dst ≠ .reserved c) (ha : ∀ c b, w.sa ≠ .reg (.reserved c) b)
    (hb : ∀ c b, w.sb ≠ .reg (.reserved c) b) (hc : ∀ c b, w.sc ≠ .reg (.reserved c) b) : w.plain = true := by
  simp [FX.plain, Spec.canonical_of _ hd, Src.plain_of _ ha, Src.plain_of _ hb, Src.plain_of _ hc]

/-! One lemma for each static rule. -/

theorem F3.legalBare_plain (w : F3) (h : w.legalBare = true) : w.plain = true :=
  F3.plain_of w
    (fun c e => by
    simp [F3.legalBare, F3.lane1, F3.lane2, F3.lane3, F3.cmp, F3.laneDst, F3.pairs, F3.bare, F3.unguarded, F3.noSources, F3.uniformSrc, e, Spec.isV, Spec.isS, Spec.isP, Spec.isB, Spec.isZero, Spec.isSpecial, Spec.sAligned] at h)
    (fun c b e => by
    simp [F3.legalBare, F3.lane1, F3.lane2, F3.lane3, F3.cmp, F3.laneDst, F3.pairs, F3.bare, F3.unguarded, F3.noSources, F3.uniformSrc, e, Spec.isV, Spec.isS, Spec.isP, Spec.isB, Spec.isZero, Spec.isSpecial, Spec.sAligned, Src.unused, Src.isV, Src.isS, Src.isP, Src.isB, Src.isZero, Src.isExt, Src.waitOk, Src.sOrExt, Src.sExtZero, Src.sOrZero, Src.vsExt, Src.vsExtZero, Src.general, Src.typeCode] at h)
    (fun c b e => by
    simp [F3.legalBare, F3.lane1, F3.lane2, F3.lane3, F3.cmp, F3.laneDst, F3.pairs, F3.bare, F3.unguarded, F3.noSources, F3.uniformSrc, e, Spec.isV, Spec.isS, Spec.isP, Spec.isB, Spec.isZero, Spec.isSpecial, Spec.sAligned, Src.unused, Src.isV, Src.isS, Src.isP, Src.isB, Src.isZero, Src.isExt, Src.waitOk, Src.sOrExt, Src.sExtZero, Src.sOrZero, Src.vsExt, Src.vsExtZero, Src.general, Src.typeCode] at h)
    (fun c b e => by
    simp [F3.legalBare, F3.lane1, F3.lane2, F3.lane3, F3.cmp, F3.laneDst, F3.pairs, F3.bare, F3.unguarded, F3.noSources, F3.uniformSrc, e, Spec.isV, Spec.isS, Spec.isP, Spec.isB, Spec.isZero, Spec.isSpecial, Spec.sAligned, Src.unused, Src.isV, Src.isS, Src.isP, Src.isB, Src.isZero, Src.isExt, Src.waitOk, Src.sOrExt, Src.sExtZero, Src.sOrZero, Src.vsExt, Src.vsExtZero, Src.general, Src.typeCode] at h)

theorem FB.legalBra_dst (w : FB) (h : w.legalBra = true) : w.dst.canonical = true :=
  Spec.canonical_of _ fun c e => by simp [FB.legalBra, e, Spec.isZero, Spec.isS] at h

theorem FB.legalBrp_dst (w : FB) (h : w.legalBrp = true) : w.dst.canonical = true :=
  Spec.canonical_of _ fun c e => by simp [FB.legalBrp, e, Spec.isZero, Spec.isS] at h

theorem FB.legalBru_dst (w : FB) (h : w.legalBru = true) : w.dst.canonical = true :=
  Spec.canonical_of _ fun c e => by simp [FB.legalBru, e, Spec.isZero, Spec.isS] at h

theorem F3.legalBrx_plain (w : F3) (h : w.legalBrx = true) : w.plain = true :=
  F3.plain_of w
    (fun c e => by
    simp [F3.legalBrx, F3.lane1, F3.lane2, F3.lane3, F3.cmp, F3.laneDst, F3.pairs, F3.bare, F3.unguarded, F3.noSources, F3.uniformSrc, e, Spec.isV, Spec.isS, Spec.isP, Spec.isB, Spec.isZero, Spec.isSpecial, Spec.sAligned] at h)
    (fun c b e => by
    simp [F3.legalBrx, F3.lane1, F3.lane2, F3.lane3, F3.cmp, F3.laneDst, F3.pairs, F3.bare, F3.unguarded, F3.noSources, F3.uniformSrc, e, Spec.isV, Spec.isS, Spec.isP, Spec.isB, Spec.isZero, Spec.isSpecial, Spec.sAligned, Src.unused, Src.isV, Src.isS, Src.isP, Src.isB, Src.isZero, Src.isExt, Src.waitOk, Src.sOrExt, Src.sExtZero, Src.sOrZero, Src.vsExt, Src.vsExtZero, Src.general, Src.typeCode] at h)
    (fun c b e => by
    simp [F3.legalBrx, F3.lane1, F3.lane2, F3.lane3, F3.cmp, F3.laneDst, F3.pairs, F3.bare, F3.unguarded, F3.noSources, F3.uniformSrc, e, Spec.isV, Spec.isS, Spec.isP, Spec.isB, Spec.isZero, Spec.isSpecial, Spec.sAligned, Src.unused, Src.isV, Src.isS, Src.isP, Src.isB, Src.isZero, Src.isExt, Src.waitOk, Src.sOrExt, Src.sExtZero, Src.sOrZero, Src.vsExt, Src.vsExtZero, Src.general, Src.typeCode] at h)
    (fun c b e => by
    simp [F3.legalBrx, F3.lane1, F3.lane2, F3.lane3, F3.cmp, F3.laneDst, F3.pairs, F3.bare, F3.unguarded, F3.noSources, F3.uniformSrc, e, Spec.isV, Spec.isS, Spec.isP, Spec.isB, Spec.isZero, Spec.isSpecial, Spec.sAligned, Src.unused, Src.isV, Src.isS, Src.isP, Src.isB, Src.isZero, Src.isExt, Src.waitOk, Src.sOrExt, Src.sExtZero, Src.sOrZero, Src.vsExt, Src.vsExtZero, Src.general, Src.typeCode] at h)

theorem FB.legalCall_dst (w : FB) (h : w.legalCall = true) : w.dst.canonical = true :=
  Spec.canonical_of _ fun c e => by simp [FB.legalCall, e, Spec.isZero, Spec.isS] at h

theorem F3.legalBareGroup_plain (w : F3) (h : w.legalBareGroup = true) : w.plain = true :=
  F3.plain_of w
    (fun c e => by
    simp [F3.legalBareGroup, F3.lane1, F3.lane2, F3.lane3, F3.cmp, F3.laneDst, F3.pairs, F3.bare, F3.unguarded, F3.noSources, F3.uniformSrc, e, Spec.isV, Spec.isS, Spec.isP, Spec.isB, Spec.isZero, Spec.isSpecial, Spec.sAligned] at h)
    (fun c b e => by
    simp [F3.legalBareGroup, F3.lane1, F3.lane2, F3.lane3, F3.cmp, F3.laneDst, F3.pairs, F3.bare, F3.unguarded, F3.noSources, F3.uniformSrc, e, Spec.isV, Spec.isS, Spec.isP, Spec.isB, Spec.isZero, Spec.isSpecial, Spec.sAligned, Src.unused, Src.isV, Src.isS, Src.isP, Src.isB, Src.isZero, Src.isExt, Src.waitOk, Src.sOrExt, Src.sExtZero, Src.sOrZero, Src.vsExt, Src.vsExtZero, Src.general, Src.typeCode] at h)
    (fun c b e => by
    simp [F3.legalBareGroup, F3.lane1, F3.lane2, F3.lane3, F3.cmp, F3.laneDst, F3.pairs, F3.bare, F3.unguarded, F3.noSources, F3.uniformSrc, e, Spec.isV, Spec.isS, Spec.isP, Spec.isB, Spec.isZero, Spec.isSpecial, Spec.sAligned, Src.unused, Src.isV, Src.isS, Src.isP, Src.isB, Src.isZero, Src.isExt, Src.waitOk, Src.sOrExt, Src.sExtZero, Src.sOrZero, Src.vsExt, Src.vsExtZero, Src.general, Src.typeCode] at h)
    (fun c b e => by
    simp [F3.legalBareGroup, F3.lane1, F3.lane2, F3.lane3, F3.cmp, F3.laneDst, F3.pairs, F3.bare, F3.unguarded, F3.noSources, F3.uniformSrc, e, Spec.isV, Spec.isS, Spec.isP, Spec.isB, Spec.isZero, Spec.isSpecial, Spec.sAligned, Src.unused, Src.isV, Src.isS, Src.isP, Src.isB, Src.isZero, Src.isExt, Src.waitOk, Src.sOrExt, Src.sExtZero, Src.sOrZero, Src.vsExt, Src.vsExtZero, Src.general, Src.typeCode] at h)

theorem F3.legalRegang_plain (w : F3) (h : w.legalRegang = true) : w.plain = true :=
  F3.plain_of w
    (fun c e => by
    simp [F3.legalRegang, F3.lane1, F3.lane2, F3.lane3, F3.cmp, F3.laneDst, F3.pairs, F3.bare, F3.unguarded, F3.noSources, F3.uniformSrc, e, Spec.isV, Spec.isS, Spec.isP, Spec.isB, Spec.isZero, Spec.isSpecial, Spec.sAligned] at h)
    (fun c b e => by
    simp [F3.legalRegang, F3.lane1, F3.lane2, F3.lane3, F3.cmp, F3.laneDst, F3.pairs, F3.bare, F3.unguarded, F3.noSources, F3.uniformSrc, e, Spec.isV, Spec.isS, Spec.isP, Spec.isB, Spec.isZero, Spec.isSpecial, Spec.sAligned, Src.unused, Src.isV, Src.isS, Src.isP, Src.isB, Src.isZero, Src.isExt, Src.waitOk, Src.sOrExt, Src.sExtZero, Src.sOrZero, Src.vsExt, Src.vsExtZero, Src.general, Src.typeCode] at h)
    (fun c b e => by
    simp [F3.legalRegang, F3.lane1, F3.lane2, F3.lane3, F3.cmp, F3.laneDst, F3.pairs, F3.bare, F3.unguarded, F3.noSources, F3.uniformSrc, e, Spec.isV, Spec.isS, Spec.isP, Spec.isB, Spec.isZero, Spec.isSpecial, Spec.sAligned, Src.unused, Src.isV, Src.isS, Src.isP, Src.isB, Src.isZero, Src.isExt, Src.waitOk, Src.sOrExt, Src.sExtZero, Src.sOrZero, Src.vsExt, Src.vsExtZero, Src.general, Src.typeCode] at h)
    (fun c b e => by
    simp [F3.legalRegang, F3.lane1, F3.lane2, F3.lane3, F3.cmp, F3.laneDst, F3.pairs, F3.bare, F3.unguarded, F3.noSources, F3.uniformSrc, e, Spec.isV, Spec.isS, Spec.isP, Spec.isB, Spec.isZero, Spec.isSpecial, Spec.sAligned, Src.unused, Src.isV, Src.isS, Src.isP, Src.isB, Src.isZero, Src.isExt, Src.waitOk, Src.sOrExt, Src.sExtZero, Src.sOrZero, Src.vsExt, Src.vsExtZero, Src.general, Src.typeCode] at h)

theorem F3.legalVote_plain (w : F3) (h : w.legalVote = true) : w.plain = true :=
  F3.plain_of w
    (fun c e => by
    simp [F3.legalVote, F3.lane1, F3.lane2, F3.lane3, F3.cmp, F3.laneDst, F3.pairs, F3.bare, F3.unguarded, F3.noSources, F3.uniformSrc, e, Spec.isV, Spec.isS, Spec.isP, Spec.isB, Spec.isZero, Spec.isSpecial, Spec.sAligned] at h)
    (fun c b e => by
    simp [F3.legalVote, F3.lane1, F3.lane2, F3.lane3, F3.cmp, F3.laneDst, F3.pairs, F3.bare, F3.unguarded, F3.noSources, F3.uniformSrc, e, Spec.isV, Spec.isS, Spec.isP, Spec.isB, Spec.isZero, Spec.isSpecial, Spec.sAligned, Src.unused, Src.isV, Src.isS, Src.isP, Src.isB, Src.isZero, Src.isExt, Src.waitOk, Src.sOrExt, Src.sExtZero, Src.sOrZero, Src.vsExt, Src.vsExtZero, Src.general, Src.typeCode] at h)
    (fun c b e => by
    simp [F3.legalVote, F3.lane1, F3.lane2, F3.lane3, F3.cmp, F3.laneDst, F3.pairs, F3.bare, F3.unguarded, F3.noSources, F3.uniformSrc, e, Spec.isV, Spec.isS, Spec.isP, Spec.isB, Spec.isZero, Spec.isSpecial, Spec.sAligned, Src.unused, Src.isV, Src.isS, Src.isP, Src.isB, Src.isZero, Src.isExt, Src.waitOk, Src.sOrExt, Src.sExtZero, Src.sOrZero, Src.vsExt, Src.vsExtZero, Src.general, Src.typeCode] at h)
    (fun c b e => by
    simp [F3.legalVote, F3.lane1, F3.lane2, F3.lane3, F3.cmp, F3.laneDst, F3.pairs, F3.bare, F3.unguarded, F3.noSources, F3.uniformSrc, e, Spec.isV, Spec.isS, Spec.isP, Spec.isB, Spec.isZero, Spec.isSpecial, Spec.sAligned, Src.unused, Src.isV, Src.isS, Src.isP, Src.isB, Src.isZero, Src.isExt, Src.waitOk, Src.sOrExt, Src.sExtZero, Src.sOrZero, Src.vsExt, Src.vsExtZero, Src.general, Src.typeCode] at h)

theorem F3.legalPlop_plain (w : F3) (h : w.legalPlop = true) : w.plain = true :=
  F3.plain_of w
    (fun c e => by
    simp [F3.legalPlop, F3.lane1, F3.lane2, F3.lane3, F3.cmp, F3.laneDst, F3.pairs, F3.bare, F3.unguarded, F3.noSources, F3.uniformSrc, e, Spec.isV, Spec.isS, Spec.isP, Spec.isB, Spec.isZero, Spec.isSpecial, Spec.sAligned] at h)
    (fun c b e => by
    simp [F3.legalPlop, F3.lane1, F3.lane2, F3.lane3, F3.cmp, F3.laneDst, F3.pairs, F3.bare, F3.unguarded, F3.noSources, F3.uniformSrc, e, Spec.isV, Spec.isS, Spec.isP, Spec.isB, Spec.isZero, Spec.isSpecial, Spec.sAligned, Src.unused, Src.isV, Src.isS, Src.isP, Src.isB, Src.isZero, Src.isExt, Src.waitOk, Src.sOrExt, Src.sExtZero, Src.sOrZero, Src.vsExt, Src.vsExtZero, Src.general, Src.typeCode] at h)
    (fun c b e => by
    simp [F3.legalPlop, F3.lane1, F3.lane2, F3.lane3, F3.cmp, F3.laneDst, F3.pairs, F3.bare, F3.unguarded, F3.noSources, F3.uniformSrc, e, Spec.isV, Spec.isS, Spec.isP, Spec.isB, Spec.isZero, Spec.isSpecial, Spec.sAligned, Src.unused, Src.isV, Src.isS, Src.isP, Src.isB, Src.isZero, Src.isExt, Src.waitOk, Src.sOrExt, Src.sExtZero, Src.sOrZero, Src.vsExt, Src.vsExtZero, Src.general, Src.typeCode] at h)
    (fun c b e => by
    simp [F3.legalPlop, F3.lane1, F3.lane2, F3.lane3, F3.cmp, F3.laneDst, F3.pairs, F3.bare, F3.unguarded, F3.noSources, F3.uniformSrc, e, Spec.isV, Spec.isS, Spec.isP, Spec.isB, Spec.isZero, Spec.isSpecial, Spec.sAligned, Src.unused, Src.isV, Src.isS, Src.isP, Src.isB, Src.isZero, Src.isExt, Src.waitOk, Src.sOrExt, Src.sExtZero, Src.sOrZero, Src.vsExt, Src.vsExtZero, Src.general, Src.typeCode] at h)

theorem F3.legalMaskrd_plain (w : F3) (h : w.legalMaskrd = true) : w.plain = true :=
  F3.plain_of w
    (fun c e => by
    simp [F3.legalMaskrd, F3.lane1, F3.lane2, F3.lane3, F3.cmp, F3.laneDst, F3.pairs, F3.bare, F3.unguarded, F3.noSources, F3.uniformSrc, e, Spec.isV, Spec.isS, Spec.isP, Spec.isB, Spec.isZero, Spec.isSpecial, Spec.sAligned] at h)
    (fun c b e => by
    simp [F3.legalMaskrd, F3.lane1, F3.lane2, F3.lane3, F3.cmp, F3.laneDst, F3.pairs, F3.bare, F3.unguarded, F3.noSources, F3.uniformSrc, e, Spec.isV, Spec.isS, Spec.isP, Spec.isB, Spec.isZero, Spec.isSpecial, Spec.sAligned, Src.unused, Src.isV, Src.isS, Src.isP, Src.isB, Src.isZero, Src.isExt, Src.waitOk, Src.sOrExt, Src.sExtZero, Src.sOrZero, Src.vsExt, Src.vsExtZero, Src.general, Src.typeCode] at h)
    (fun c b e => by
    simp [F3.legalMaskrd, F3.lane1, F3.lane2, F3.lane3, F3.cmp, F3.laneDst, F3.pairs, F3.bare, F3.unguarded, F3.noSources, F3.uniformSrc, e, Spec.isV, Spec.isS, Spec.isP, Spec.isB, Spec.isZero, Spec.isSpecial, Spec.sAligned, Src.unused, Src.isV, Src.isS, Src.isP, Src.isB, Src.isZero, Src.isExt, Src.waitOk, Src.sOrExt, Src.sExtZero, Src.sOrZero, Src.vsExt, Src.vsExtZero, Src.general, Src.typeCode] at h)
    (fun c b e => by
    simp [F3.legalMaskrd, F3.lane1, F3.lane2, F3.lane3, F3.cmp, F3.laneDst, F3.pairs, F3.bare, F3.unguarded, F3.noSources, F3.uniformSrc, e, Spec.isV, Spec.isS, Spec.isP, Spec.isB, Spec.isZero, Spec.isSpecial, Spec.sAligned, Src.unused, Src.isV, Src.isS, Src.isP, Src.isB, Src.isZero, Src.isExt, Src.waitOk, Src.sOrExt, Src.sExtZero, Src.sOrZero, Src.vsExt, Src.vsExtZero, Src.general, Src.typeCode] at h)

theorem F3.legalBar_plain (w : F3) (h : w.legalBar = true) : w.plain = true :=
  F3.plain_of w
    (fun c e => by
    simp [F3.legalBar, F3.lane1, F3.lane2, F3.lane3, F3.cmp, F3.laneDst, F3.pairs, F3.bare, F3.unguarded, F3.noSources, F3.uniformSrc, e, Spec.isV, Spec.isS, Spec.isP, Spec.isB, Spec.isZero, Spec.isSpecial, Spec.sAligned] at h)
    (fun c b e => by
    simp [F3.legalBar, F3.lane1, F3.lane2, F3.lane3, F3.cmp, F3.laneDst, F3.pairs, F3.bare, F3.unguarded, F3.noSources, F3.uniformSrc, e, Spec.isV, Spec.isS, Spec.isP, Spec.isB, Spec.isZero, Spec.isSpecial, Spec.sAligned, Src.unused, Src.isV, Src.isS, Src.isP, Src.isB, Src.isZero, Src.isExt, Src.waitOk, Src.sOrExt, Src.sExtZero, Src.sOrZero, Src.vsExt, Src.vsExtZero, Src.general, Src.typeCode] at h)
    (fun c b e => by
    simp [F3.legalBar, F3.lane1, F3.lane2, F3.lane3, F3.cmp, F3.laneDst, F3.pairs, F3.bare, F3.unguarded, F3.noSources, F3.uniformSrc, e, Spec.isV, Spec.isS, Spec.isP, Spec.isB, Spec.isZero, Spec.isSpecial, Spec.sAligned, Src.unused, Src.isV, Src.isS, Src.isP, Src.isB, Src.isZero, Src.isExt, Src.waitOk, Src.sOrExt, Src.sExtZero, Src.sOrZero, Src.vsExt, Src.vsExtZero, Src.general, Src.typeCode] at h)
    (fun c b e => by
    simp [F3.legalBar, F3.lane1, F3.lane2, F3.lane3, F3.cmp, F3.laneDst, F3.pairs, F3.bare, F3.unguarded, F3.noSources, F3.uniformSrc, e, Spec.isV, Spec.isS, Spec.isP, Spec.isB, Spec.isZero, Spec.isSpecial, Spec.sAligned, Src.unused, Src.isV, Src.isS, Src.isP, Src.isB, Src.isZero, Src.isExt, Src.waitOk, Src.sOrExt, Src.sExtZero, Src.sOrZero, Src.vsExt, Src.vsExtZero, Src.general, Src.typeCode] at h)

theorem F3.legalLoopb_plain (w : F3) (h : w.legalLoopb = true) : w.plain = true :=
  F3.plain_of w
    (fun c e => by
    simp [F3.legalLoopb, F3.lane1, F3.lane2, F3.lane3, F3.cmp, F3.laneDst, F3.pairs, F3.bare, F3.unguarded, F3.noSources, F3.uniformSrc, e, Spec.isV, Spec.isS, Spec.isP, Spec.isB, Spec.isZero, Spec.isSpecial, Spec.sAligned] at h)
    (fun c b e => by
    simp [F3.legalLoopb, F3.lane1, F3.lane2, F3.lane3, F3.cmp, F3.laneDst, F3.pairs, F3.bare, F3.unguarded, F3.noSources, F3.uniformSrc, e, Spec.isV, Spec.isS, Spec.isP, Spec.isB, Spec.isZero, Spec.isSpecial, Spec.sAligned, Src.unused, Src.isV, Src.isS, Src.isP, Src.isB, Src.isZero, Src.isExt, Src.waitOk, Src.sOrExt, Src.sExtZero, Src.sOrZero, Src.vsExt, Src.vsExtZero, Src.general, Src.typeCode] at h)
    (fun c b e => by
    simp [F3.legalLoopb, F3.lane1, F3.lane2, F3.lane3, F3.cmp, F3.laneDst, F3.pairs, F3.bare, F3.unguarded, F3.noSources, F3.uniformSrc, e, Spec.isV, Spec.isS, Spec.isP, Spec.isB, Spec.isZero, Spec.isSpecial, Spec.sAligned, Src.unused, Src.isV, Src.isS, Src.isP, Src.isB, Src.isZero, Src.isExt, Src.waitOk, Src.sOrExt, Src.sExtZero, Src.sOrZero, Src.vsExt, Src.vsExtZero, Src.general, Src.typeCode] at h)
    (fun c b e => by
    simp [F3.legalLoopb, F3.lane1, F3.lane2, F3.lane3, F3.cmp, F3.laneDst, F3.pairs, F3.bare, F3.unguarded, F3.noSources, F3.uniformSrc, e, Spec.isV, Spec.isS, Spec.isP, Spec.isB, Spec.isZero, Spec.isSpecial, Spec.sAligned, Src.unused, Src.isV, Src.isS, Src.isP, Src.isB, Src.isZero, Src.isExt, Src.waitOk, Src.sOrExt, Src.sExtZero, Src.sOrZero, Src.vsExt, Src.vsExtZero, Src.general, Src.typeCode] at h)

theorem F3.legalRefill_plain (w : F3) (h : w.legalRefill = true) : w.plain = true :=
  F3.plain_of w
    (fun c e => by
    simp [F3.legalRefill, F3.lane1, F3.lane2, F3.lane3, F3.cmp, F3.laneDst, F3.pairs, F3.bare, F3.unguarded, F3.noSources, F3.uniformSrc, e, Spec.isV, Spec.isS, Spec.isP, Spec.isB, Spec.isZero, Spec.isSpecial, Spec.sAligned] at h)
    (fun c b e => by
    simp [F3.legalRefill, F3.lane1, F3.lane2, F3.lane3, F3.cmp, F3.laneDst, F3.pairs, F3.bare, F3.unguarded, F3.noSources, F3.uniformSrc, e, Spec.isV, Spec.isS, Spec.isP, Spec.isB, Spec.isZero, Spec.isSpecial, Spec.sAligned, Src.unused, Src.isV, Src.isS, Src.isP, Src.isB, Src.isZero, Src.isExt, Src.waitOk, Src.sOrExt, Src.sExtZero, Src.sOrZero, Src.vsExt, Src.vsExtZero, Src.general, Src.typeCode] at h)
    (fun c b e => by
    simp [F3.legalRefill, F3.lane1, F3.lane2, F3.lane3, F3.cmp, F3.laneDst, F3.pairs, F3.bare, F3.unguarded, F3.noSources, F3.uniformSrc, e, Spec.isV, Spec.isS, Spec.isP, Spec.isB, Spec.isZero, Spec.isSpecial, Spec.sAligned, Src.unused, Src.isV, Src.isS, Src.isP, Src.isB, Src.isZero, Src.isExt, Src.waitOk, Src.sOrExt, Src.sExtZero, Src.sOrZero, Src.vsExt, Src.vsExtZero, Src.general, Src.typeCode] at h)
    (fun c b e => by
    simp [F3.legalRefill, F3.lane1, F3.lane2, F3.lane3, F3.cmp, F3.laneDst, F3.pairs, F3.bare, F3.unguarded, F3.noSources, F3.uniformSrc, e, Spec.isV, Spec.isS, Spec.isP, Spec.isB, Spec.isZero, Spec.isSpecial, Spec.sAligned, Src.unused, Src.isV, Src.isS, Src.isP, Src.isB, Src.isZero, Src.isExt, Src.waitOk, Src.sOrExt, Src.sExtZero, Src.sOrZero, Src.vsExt, Src.vsExtZero, Src.general, Src.typeCode] at h)

theorem F3.legalBkpt_plain (w : F3) (h : w.legalBkpt = true) : w.plain = true :=
  F3.plain_of w
    (fun c e => by
    simp [F3.legalBkpt, F3.lane1, F3.lane2, F3.lane3, F3.cmp, F3.laneDst, F3.pairs, F3.bare, F3.unguarded, F3.noSources, F3.uniformSrc, e, Spec.isV, Spec.isS, Spec.isP, Spec.isB, Spec.isZero, Spec.isSpecial, Spec.sAligned] at h)
    (fun c b e => by
    simp [F3.legalBkpt, F3.lane1, F3.lane2, F3.lane3, F3.cmp, F3.laneDst, F3.pairs, F3.bare, F3.unguarded, F3.noSources, F3.uniformSrc, e, Spec.isV, Spec.isS, Spec.isP, Spec.isB, Spec.isZero, Spec.isSpecial, Spec.sAligned, Src.unused, Src.isV, Src.isS, Src.isP, Src.isB, Src.isZero, Src.isExt, Src.waitOk, Src.sOrExt, Src.sExtZero, Src.sOrZero, Src.vsExt, Src.vsExtZero, Src.general, Src.typeCode] at h)
    (fun c b e => by
    simp [F3.legalBkpt, F3.lane1, F3.lane2, F3.lane3, F3.cmp, F3.laneDst, F3.pairs, F3.bare, F3.unguarded, F3.noSources, F3.uniformSrc, e, Spec.isV, Spec.isS, Spec.isP, Spec.isB, Spec.isZero, Spec.isSpecial, Spec.sAligned, Src.unused, Src.isV, Src.isS, Src.isP, Src.isB, Src.isZero, Src.isExt, Src.waitOk, Src.sOrExt, Src.sExtZero, Src.sOrZero, Src.vsExt, Src.vsExtZero, Src.general, Src.typeCode] at h)
    (fun c b e => by
    simp [F3.legalBkpt, F3.lane1, F3.lane2, F3.lane3, F3.cmp, F3.laneDst, F3.pairs, F3.bare, F3.unguarded, F3.noSources, F3.uniformSrc, e, Spec.isV, Spec.isS, Spec.isP, Spec.isB, Spec.isZero, Spec.isSpecial, Spec.sAligned, Src.unused, Src.isV, Src.isS, Src.isP, Src.isB, Src.isZero, Src.isExt, Src.waitOk, Src.sOrExt, Src.sExtZero, Src.sOrZero, Src.vsExt, Src.vsExtZero, Src.general, Src.typeCode] at h)

theorem F3.legalIntSat_plain (w : F3) (h : w.legalIntSat = true) : w.plain = true :=
  F3.plain_of w
    (fun c e => by
    simp [F3.legalIntSat, F3.lane1, F3.lane2, F3.lane3, F3.cmp, F3.laneDst, F3.pairs, F3.bare, F3.unguarded, F3.noSources, F3.uniformSrc, e, Spec.isV, Spec.isS, Spec.isP, Spec.isB, Spec.isZero, Spec.isSpecial, Spec.sAligned] at h)
    (fun c b e => by
    simp [F3.legalIntSat, F3.lane1, F3.lane2, F3.lane3, F3.cmp, F3.laneDst, F3.pairs, F3.bare, F3.unguarded, F3.noSources, F3.uniformSrc, e, Spec.isV, Spec.isS, Spec.isP, Spec.isB, Spec.isZero, Spec.isSpecial, Spec.sAligned, Src.unused, Src.isV, Src.isS, Src.isP, Src.isB, Src.isZero, Src.isExt, Src.waitOk, Src.sOrExt, Src.sExtZero, Src.sOrZero, Src.vsExt, Src.vsExtZero, Src.general, Src.typeCode] at h)
    (fun c b e => by
    simp [F3.legalIntSat, F3.lane1, F3.lane2, F3.lane3, F3.cmp, F3.laneDst, F3.pairs, F3.bare, F3.unguarded, F3.noSources, F3.uniformSrc, e, Spec.isV, Spec.isS, Spec.isP, Spec.isB, Spec.isZero, Spec.isSpecial, Spec.sAligned, Src.unused, Src.isV, Src.isS, Src.isP, Src.isB, Src.isZero, Src.isExt, Src.waitOk, Src.sOrExt, Src.sExtZero, Src.sOrZero, Src.vsExt, Src.vsExtZero, Src.general, Src.typeCode] at h)
    (fun c b e => by
    simp [F3.legalIntSat, F3.lane1, F3.lane2, F3.lane3, F3.cmp, F3.laneDst, F3.pairs, F3.bare, F3.unguarded, F3.noSources, F3.uniformSrc, e, Spec.isV, Spec.isS, Spec.isP, Spec.isB, Spec.isZero, Spec.isSpecial, Spec.sAligned, Src.unused, Src.isV, Src.isS, Src.isP, Src.isB, Src.isZero, Src.isExt, Src.waitOk, Src.sOrExt, Src.sExtZero, Src.sOrZero, Src.vsExt, Src.vsExtZero, Src.general, Src.typeCode] at h)

theorem FI.legalIntSat_plain (w : FI) (h : w.legalIntSat = true) : w.plain = true :=
  FI.plain_of w
    (fun c e => by
    simp [FI.legalIntSat, FI.lane, FI.cmp, FI.laneDst, e, Spec.isV, Spec.isS, Spec.isP, Spec.isB, Spec.isZero, Spec.isSpecial, Spec.sAligned] at h)
    (fun c b e => by
    simp [FI.legalIntSat, FI.lane, FI.cmp, FI.laneDst, e, Spec.isV, Spec.isS, Spec.isP, Spec.isB, Spec.isZero, Spec.isSpecial, Spec.sAligned, Src.unused, Src.isV, Src.isS, Src.isP, Src.isB, Src.isZero, Src.isExt, Src.waitOk, Src.sOrExt, Src.sExtZero, Src.sOrZero, Src.vsExt, Src.vsExtZero, Src.general, Src.typeCode] at h)

theorem F3.legalImad_plain (w : F3) (h : w.legalImad = true) : w.plain = true :=
  F3.plain_of w
    (fun c e => by
    simp [F3.legalImad, F3.lane1, F3.lane2, F3.lane3, F3.cmp, F3.laneDst, F3.pairs, F3.bare, F3.unguarded, F3.noSources, F3.uniformSrc, e, Spec.isV, Spec.isS, Spec.isP, Spec.isB, Spec.isZero, Spec.isSpecial, Spec.sAligned] at h)
    (fun c b e => by
    simp [F3.legalImad, F3.lane1, F3.lane2, F3.lane3, F3.cmp, F3.laneDst, F3.pairs, F3.bare, F3.unguarded, F3.noSources, F3.uniformSrc, e, Spec.isV, Spec.isS, Spec.isP, Spec.isB, Spec.isZero, Spec.isSpecial, Spec.sAligned, Src.unused, Src.isV, Src.isS, Src.isP, Src.isB, Src.isZero, Src.isExt, Src.waitOk, Src.sOrExt, Src.sExtZero, Src.sOrZero, Src.vsExt, Src.vsExtZero, Src.general, Src.typeCode] at h)
    (fun c b e => by
    simp [F3.legalImad, F3.lane1, F3.lane2, F3.lane3, F3.cmp, F3.laneDst, F3.pairs, F3.bare, F3.unguarded, F3.noSources, F3.uniformSrc, e, Spec.isV, Spec.isS, Spec.isP, Spec.isB, Spec.isZero, Spec.isSpecial, Spec.sAligned, Src.unused, Src.isV, Src.isS, Src.isP, Src.isB, Src.isZero, Src.isExt, Src.waitOk, Src.sOrExt, Src.sExtZero, Src.sOrZero, Src.vsExt, Src.vsExtZero, Src.general, Src.typeCode] at h)
    (fun c b e => by
    simp [F3.legalImad, F3.lane1, F3.lane2, F3.lane3, F3.cmp, F3.laneDst, F3.pairs, F3.bare, F3.unguarded, F3.noSources, F3.uniformSrc, e, Spec.isV, Spec.isS, Spec.isP, Spec.isB, Spec.isZero, Spec.isSpecial, Spec.sAligned, Src.unused, Src.isV, Src.isS, Src.isP, Src.isB, Src.isZero, Src.isExt, Src.waitOk, Src.sOrExt, Src.sExtZero, Src.sOrZero, Src.vsExt, Src.vsExtZero, Src.general, Src.typeCode] at h)

theorem F3.legalImulh_plain (w : F3) (h : w.legalImulh = true) : w.plain = true :=
  F3.plain_of w
    (fun c e => by
    simp [F3.legalImulh, F3.lane1, F3.lane2, F3.lane3, F3.cmp, F3.laneDst, F3.pairs, F3.bare, F3.unguarded, F3.noSources, F3.uniformSrc, e, Spec.isV, Spec.isS, Spec.isP, Spec.isB, Spec.isZero, Spec.isSpecial, Spec.sAligned] at h)
    (fun c b e => by
    simp [F3.legalImulh, F3.lane1, F3.lane2, F3.lane3, F3.cmp, F3.laneDst, F3.pairs, F3.bare, F3.unguarded, F3.noSources, F3.uniformSrc, e, Spec.isV, Spec.isS, Spec.isP, Spec.isB, Spec.isZero, Spec.isSpecial, Spec.sAligned, Src.unused, Src.isV, Src.isS, Src.isP, Src.isB, Src.isZero, Src.isExt, Src.waitOk, Src.sOrExt, Src.sExtZero, Src.sOrZero, Src.vsExt, Src.vsExtZero, Src.general, Src.typeCode] at h)
    (fun c b e => by
    simp [F3.legalImulh, F3.lane1, F3.lane2, F3.lane3, F3.cmp, F3.laneDst, F3.pairs, F3.bare, F3.unguarded, F3.noSources, F3.uniformSrc, e, Spec.isV, Spec.isS, Spec.isP, Spec.isB, Spec.isZero, Spec.isSpecial, Spec.sAligned, Src.unused, Src.isV, Src.isS, Src.isP, Src.isB, Src.isZero, Src.isExt, Src.waitOk, Src.sOrExt, Src.sExtZero, Src.sOrZero, Src.vsExt, Src.vsExtZero, Src.general, Src.typeCode] at h)
    (fun c b e => by
    simp [F3.legalImulh, F3.lane1, F3.lane2, F3.lane3, F3.cmp, F3.laneDst, F3.pairs, F3.bare, F3.unguarded, F3.noSources, F3.uniformSrc, e, Spec.isV, Spec.isS, Spec.isP, Spec.isB, Spec.isZero, Spec.isSpecial, Spec.sAligned, Src.unused, Src.isV, Src.isS, Src.isP, Src.isB, Src.isZero, Src.isExt, Src.waitOk, Src.sOrExt, Src.sExtZero, Src.sOrZero, Src.vsExt, Src.vsExtZero, Src.general, Src.typeCode] at h)

theorem FI.legalImulh_plain (w : FI) (h : w.legalImulh = true) : w.plain = true :=
  FI.plain_of w
    (fun c e => by
    simp [FI.legalImulh, FI.lane, FI.cmp, FI.laneDst, e, Spec.isV, Spec.isS, Spec.isP, Spec.isB, Spec.isZero, Spec.isSpecial, Spec.sAligned] at h)
    (fun c b e => by
    simp [FI.legalImulh, FI.lane, FI.cmp, FI.laneDst, e, Spec.isV, Spec.isS, Spec.isP, Spec.isB, Spec.isZero, Spec.isSpecial, Spec.sAligned, Src.unused, Src.isV, Src.isS, Src.isP, Src.isB, Src.isZero, Src.isExt, Src.waitOk, Src.sOrExt, Src.sExtZero, Src.sOrZero, Src.vsExt, Src.vsExtZero, Src.general, Src.typeCode] at h)

theorem F3.legalImnx_plain (w : F3) (h : w.legalImnx = true) : w.plain = true :=
  F3.plain_of w
    (fun c e => by
    simp [F3.legalImnx, F3.lane1, F3.lane2, F3.lane3, F3.cmp, F3.laneDst, F3.pairs, F3.bare, F3.unguarded, F3.noSources, F3.uniformSrc, e, Spec.isV, Spec.isS, Spec.isP, Spec.isB, Spec.isZero, Spec.isSpecial, Spec.sAligned] at h)
    (fun c b e => by
    simp [F3.legalImnx, F3.lane1, F3.lane2, F3.lane3, F3.cmp, F3.laneDst, F3.pairs, F3.bare, F3.unguarded, F3.noSources, F3.uniformSrc, e, Spec.isV, Spec.isS, Spec.isP, Spec.isB, Spec.isZero, Spec.isSpecial, Spec.sAligned, Src.unused, Src.isV, Src.isS, Src.isP, Src.isB, Src.isZero, Src.isExt, Src.waitOk, Src.sOrExt, Src.sExtZero, Src.sOrZero, Src.vsExt, Src.vsExtZero, Src.general, Src.typeCode] at h)
    (fun c b e => by
    simp [F3.legalImnx, F3.lane1, F3.lane2, F3.lane3, F3.cmp, F3.laneDst, F3.pairs, F3.bare, F3.unguarded, F3.noSources, F3.uniformSrc, e, Spec.isV, Spec.isS, Spec.isP, Spec.isB, Spec.isZero, Spec.isSpecial, Spec.sAligned, Src.unused, Src.isV, Src.isS, Src.isP, Src.isB, Src.isZero, Src.isExt, Src.waitOk, Src.sOrExt, Src.sExtZero, Src.sOrZero, Src.vsExt, Src.vsExtZero, Src.general, Src.typeCode] at h)
    (fun c b e => by
    simp [F3.legalImnx, F3.lane1, F3.lane2, F3.lane3, F3.cmp, F3.laneDst, F3.pairs, F3.bare, F3.unguarded, F3.noSources, F3.uniformSrc, e, Spec.isV, Spec.isS, Spec.isP, Spec.isB, Spec.isZero, Spec.isSpecial, Spec.sAligned, Src.unused, Src.isV, Src.isS, Src.isP, Src.isB, Src.isZero, Src.isExt, Src.waitOk, Src.sOrExt, Src.sExtZero, Src.sOrZero, Src.vsExt, Src.vsExtZero, Src.general, Src.typeCode] at h)

theorem FI.legalImnx_plain (w : FI) (h : w.legalImnx = true) : w.plain = true :=
  FI.plain_of w
    (fun c e => by
    simp [FI.legalImnx, FI.lane, FI.cmp, FI.laneDst, e, Spec.isV, Spec.isS, Spec.isP, Spec.isB, Spec.isZero, Spec.isSpecial, Spec.sAligned] at h)
    (fun c b e => by
    simp [FI.legalImnx, FI.lane, FI.cmp, FI.laneDst, e, Spec.isV, Spec.isS, Spec.isP, Spec.isB, Spec.isZero, Spec.isSpecial, Spec.sAligned, Src.unused, Src.isV, Src.isS, Src.isP, Src.isB, Src.isZero, Src.isExt, Src.waitOk, Src.sOrExt, Src.sExtZero, Src.sOrZero, Src.vsExt, Src.vsExtZero, Src.general, Src.typeCode] at h)

theorem F3.legalIabs_plain (w : F3) (h : w.legalIabs = true) : w.plain = true :=
  F3.plain_of w
    (fun c e => by
    simp [F3.legalIabs, F3.lane1, F3.lane2, F3.lane3, F3.cmp, F3.laneDst, F3.pairs, F3.bare, F3.unguarded, F3.noSources, F3.uniformSrc, e, Spec.isV, Spec.isS, Spec.isP, Spec.isB, Spec.isZero, Spec.isSpecial, Spec.sAligned] at h)
    (fun c b e => by
    simp [F3.legalIabs, F3.lane1, F3.lane2, F3.lane3, F3.cmp, F3.laneDst, F3.pairs, F3.bare, F3.unguarded, F3.noSources, F3.uniformSrc, e, Spec.isV, Spec.isS, Spec.isP, Spec.isB, Spec.isZero, Spec.isSpecial, Spec.sAligned, Src.unused, Src.isV, Src.isS, Src.isP, Src.isB, Src.isZero, Src.isExt, Src.waitOk, Src.sOrExt, Src.sExtZero, Src.sOrZero, Src.vsExt, Src.vsExtZero, Src.general, Src.typeCode] at h)
    (fun c b e => by
    simp [F3.legalIabs, F3.lane1, F3.lane2, F3.lane3, F3.cmp, F3.laneDst, F3.pairs, F3.bare, F3.unguarded, F3.noSources, F3.uniformSrc, e, Spec.isV, Spec.isS, Spec.isP, Spec.isB, Spec.isZero, Spec.isSpecial, Spec.sAligned, Src.unused, Src.isV, Src.isS, Src.isP, Src.isB, Src.isZero, Src.isExt, Src.waitOk, Src.sOrExt, Src.sExtZero, Src.sOrZero, Src.vsExt, Src.vsExtZero, Src.general, Src.typeCode] at h)
    (fun c b e => by
    simp [F3.legalIabs, F3.lane1, F3.lane2, F3.lane3, F3.cmp, F3.laneDst, F3.pairs, F3.bare, F3.unguarded, F3.noSources, F3.uniformSrc, e, Spec.isV, Spec.isS, Spec.isP, Spec.isB, Spec.isZero, Spec.isSpecial, Spec.sAligned, Src.unused, Src.isV, Src.isS, Src.isP, Src.isB, Src.isZero, Src.isExt, Src.waitOk, Src.sOrExt, Src.sExtZero, Src.sOrZero, Src.vsExt, Src.vsExtZero, Src.general, Src.typeCode] at h)

theorem F3.legalIcmp_plain (w : F3) (h : w.legalIcmp = true) : w.plain = true :=
  F3.plain_of w
    (fun c e => by
    simp [F3.legalIcmp, F3.lane1, F3.lane2, F3.lane3, F3.cmp, F3.laneDst, F3.pairs, F3.bare, F3.unguarded, F3.noSources, F3.uniformSrc, e, Spec.isV, Spec.isS, Spec.isP, Spec.isB, Spec.isZero, Spec.isSpecial, Spec.sAligned] at h)
    (fun c b e => by
    simp [F3.legalIcmp, F3.lane1, F3.lane2, F3.lane3, F3.cmp, F3.laneDst, F3.pairs, F3.bare, F3.unguarded, F3.noSources, F3.uniformSrc, e, Spec.isV, Spec.isS, Spec.isP, Spec.isB, Spec.isZero, Spec.isSpecial, Spec.sAligned, Src.unused, Src.isV, Src.isS, Src.isP, Src.isB, Src.isZero, Src.isExt, Src.waitOk, Src.sOrExt, Src.sExtZero, Src.sOrZero, Src.vsExt, Src.vsExtZero, Src.general, Src.typeCode] at h)
    (fun c b e => by
    simp [F3.legalIcmp, F3.lane1, F3.lane2, F3.lane3, F3.cmp, F3.laneDst, F3.pairs, F3.bare, F3.unguarded, F3.noSources, F3.uniformSrc, e, Spec.isV, Spec.isS, Spec.isP, Spec.isB, Spec.isZero, Spec.isSpecial, Spec.sAligned, Src.unused, Src.isV, Src.isS, Src.isP, Src.isB, Src.isZero, Src.isExt, Src.waitOk, Src.sOrExt, Src.sExtZero, Src.sOrZero, Src.vsExt, Src.vsExtZero, Src.general, Src.typeCode] at h)
    (fun c b e => by
    simp [F3.legalIcmp, F3.lane1, F3.lane2, F3.lane3, F3.cmp, F3.laneDst, F3.pairs, F3.bare, F3.unguarded, F3.noSources, F3.uniformSrc, e, Spec.isV, Spec.isS, Spec.isP, Spec.isB, Spec.isZero, Spec.isSpecial, Spec.sAligned, Src.unused, Src.isV, Src.isS, Src.isP, Src.isB, Src.isZero, Src.isExt, Src.waitOk, Src.sOrExt, Src.sExtZero, Src.sOrZero, Src.vsExt, Src.vsExtZero, Src.general, Src.typeCode] at h)

theorem FI.legalIcmp_plain (w : FI) (h : w.legalIcmp = true) : w.plain = true :=
  FI.plain_of w
    (fun c e => by
    simp [FI.legalIcmp, FI.lane, FI.cmp, FI.laneDst, e, Spec.isV, Spec.isS, Spec.isP, Spec.isB, Spec.isZero, Spec.isSpecial, Spec.sAligned] at h)
    (fun c b e => by
    simp [FI.legalIcmp, FI.lane, FI.cmp, FI.laneDst, e, Spec.isV, Spec.isS, Spec.isP, Spec.isB, Spec.isZero, Spec.isSpecial, Spec.sAligned, Src.unused, Src.isV, Src.isS, Src.isP, Src.isB, Src.isZero, Src.isExt, Src.waitOk, Src.sOrExt, Src.sExtZero, Src.sOrZero, Src.vsExt, Src.vsExtZero, Src.general, Src.typeCode] at h)

theorem F3.legalSel_plain (w : F3) (h : w.legalSel = true) : w.plain = true :=
  F3.plain_of w
    (fun c e => by
    simp [F3.legalSel, F3.lane1, F3.lane2, F3.lane3, F3.cmp, F3.laneDst, F3.pairs, F3.bare, F3.unguarded, F3.noSources, F3.uniformSrc, e, Spec.isV, Spec.isS, Spec.isP, Spec.isB, Spec.isZero, Spec.isSpecial, Spec.sAligned] at h)
    (fun c b e => by
    simp [F3.legalSel, F3.lane1, F3.lane2, F3.lane3, F3.cmp, F3.laneDst, F3.pairs, F3.bare, F3.unguarded, F3.noSources, F3.uniformSrc, e, Spec.isV, Spec.isS, Spec.isP, Spec.isB, Spec.isZero, Spec.isSpecial, Spec.sAligned, Src.unused, Src.isV, Src.isS, Src.isP, Src.isB, Src.isZero, Src.isExt, Src.waitOk, Src.sOrExt, Src.sExtZero, Src.sOrZero, Src.vsExt, Src.vsExtZero, Src.general, Src.typeCode] at h)
    (fun c b e => by
    simp [F3.legalSel, F3.lane1, F3.lane2, F3.lane3, F3.cmp, F3.laneDst, F3.pairs, F3.bare, F3.unguarded, F3.noSources, F3.uniformSrc, e, Spec.isV, Spec.isS, Spec.isP, Spec.isB, Spec.isZero, Spec.isSpecial, Spec.sAligned, Src.unused, Src.isV, Src.isS, Src.isP, Src.isB, Src.isZero, Src.isExt, Src.waitOk, Src.sOrExt, Src.sExtZero, Src.sOrZero, Src.vsExt, Src.vsExtZero, Src.general, Src.typeCode] at h)
    (fun c b e => by
    simp [F3.legalSel, F3.lane1, F3.lane2, F3.lane3, F3.cmp, F3.laneDst, F3.pairs, F3.bare, F3.unguarded, F3.noSources, F3.uniformSrc, e, Spec.isV, Spec.isS, Spec.isP, Spec.isB, Spec.isZero, Spec.isSpecial, Spec.sAligned, Src.unused, Src.isV, Src.isS, Src.isP, Src.isB, Src.isZero, Src.isExt, Src.waitOk, Src.sOrExt, Src.sExtZero, Src.sOrZero, Src.vsExt, Src.vsExtZero, Src.general, Src.typeCode] at h)

theorem F3.legalMov_plain (w : F3) (h : w.legalMov = true) : w.plain = true :=
  F3.plain_of w
    (fun c e => by
    simp [F3.legalMov, F3.lane1, F3.lane2, F3.lane3, F3.cmp, F3.laneDst, F3.pairs, F3.bare, F3.unguarded, F3.noSources, F3.uniformSrc, e, Spec.isV, Spec.isS, Spec.isP, Spec.isB, Spec.isZero, Spec.isSpecial, Spec.sAligned] at h)
    (fun c b e => by
    simp [F3.legalMov, F3.lane1, F3.lane2, F3.lane3, F3.cmp, F3.laneDst, F3.pairs, F3.bare, F3.unguarded, F3.noSources, F3.uniformSrc, e, Spec.isV, Spec.isS, Spec.isP, Spec.isB, Spec.isZero, Spec.isSpecial, Spec.sAligned, Src.unused, Src.isV, Src.isS, Src.isP, Src.isB, Src.isZero, Src.isExt, Src.waitOk, Src.sOrExt, Src.sExtZero, Src.sOrZero, Src.vsExt, Src.vsExtZero, Src.general, Src.typeCode] at h)
    (fun c b e => by
    simp [F3.legalMov, F3.lane1, F3.lane2, F3.lane3, F3.cmp, F3.laneDst, F3.pairs, F3.bare, F3.unguarded, F3.noSources, F3.uniformSrc, e, Spec.isV, Spec.isS, Spec.isP, Spec.isB, Spec.isZero, Spec.isSpecial, Spec.sAligned, Src.unused, Src.isV, Src.isS, Src.isP, Src.isB, Src.isZero, Src.isExt, Src.waitOk, Src.sOrExt, Src.sExtZero, Src.sOrZero, Src.vsExt, Src.vsExtZero, Src.general, Src.typeCode] at h)
    (fun c b e => by
    simp [F3.legalMov, F3.lane1, F3.lane2, F3.lane3, F3.cmp, F3.laneDst, F3.pairs, F3.bare, F3.unguarded, F3.noSources, F3.uniformSrc, e, Spec.isV, Spec.isS, Spec.isP, Spec.isB, Spec.isZero, Spec.isSpecial, Spec.sAligned, Src.unused, Src.isV, Src.isS, Src.isP, Src.isB, Src.isZero, Src.isExt, Src.waitOk, Src.sOrExt, Src.sExtZero, Src.sOrZero, Src.vsExt, Src.vsExtZero, Src.general, Src.typeCode] at h)

theorem FI.legalMovi_plain (w : FI) (h : w.legalMovi = true) : w.plain = true :=
  FI.plain_of w
    (fun c e => by
    simp [FI.legalMovi, FI.lane, FI.cmp, FI.laneDst, e, Spec.isV, Spec.isS, Spec.isP, Spec.isB, Spec.isZero, Spec.isSpecial, Spec.sAligned] at h)
    (fun c b e => by
    simp [FI.legalMovi, FI.lane, FI.cmp, FI.laneDst, e, Spec.isV, Spec.isS, Spec.isP, Spec.isB, Spec.isZero, Spec.isSpecial, Spec.sAligned, Src.unused, Src.isV, Src.isS, Src.isP, Src.isB, Src.isZero, Src.isExt, Src.waitOk, Src.sOrExt, Src.sExtZero, Src.sOrZero, Src.vsExt, Src.vsExtZero, Src.general, Src.typeCode] at h)

theorem F3.legalLea_plain (w : F3) (h : w.legalLea = true) : w.plain = true :=
  F3.plain_of w
    (fun c e => by
    simp [F3.legalLea, F3.lane1, F3.lane2, F3.lane3, F3.cmp, F3.laneDst, F3.pairs, F3.bare, F3.unguarded, F3.noSources, F3.uniformSrc, e, Spec.isV, Spec.isS, Spec.isP, Spec.isB, Spec.isZero, Spec.isSpecial, Spec.sAligned] at h)
    (fun c b e => by
    simp [F3.legalLea, F3.lane1, F3.lane2, F3.lane3, F3.cmp, F3.laneDst, F3.pairs, F3.bare, F3.unguarded, F3.noSources, F3.uniformSrc, e, Spec.isV, Spec.isS, Spec.isP, Spec.isB, Spec.isZero, Spec.isSpecial, Spec.sAligned, Src.unused, Src.isV, Src.isS, Src.isP, Src.isB, Src.isZero, Src.isExt, Src.waitOk, Src.sOrExt, Src.sExtZero, Src.sOrZero, Src.vsExt, Src.vsExtZero, Src.general, Src.leaBase, Src.typeCode] at h)
    (fun c b e => by
    simp [F3.legalLea, F3.lane1, F3.lane2, F3.lane3, F3.cmp, F3.laneDst, F3.pairs, F3.bare, F3.unguarded, F3.noSources, F3.uniformSrc, e, Spec.isV, Spec.isS, Spec.isP, Spec.isB, Spec.isZero, Spec.isSpecial, Spec.sAligned, Src.unused, Src.isV, Src.isS, Src.isP, Src.isB, Src.isZero, Src.isExt, Src.waitOk, Src.sOrExt, Src.sExtZero, Src.sOrZero, Src.vsExt, Src.vsExtZero, Src.general, Src.leaBase, Src.typeCode] at h)
    (fun c b e => by
    simp [F3.legalLea, F3.lane1, F3.lane2, F3.lane3, F3.cmp, F3.laneDst, F3.pairs, F3.bare, F3.unguarded, F3.noSources, F3.uniformSrc, e, Spec.isV, Spec.isS, Spec.isP, Spec.isB, Spec.isZero, Spec.isSpecial, Spec.sAligned, Src.unused, Src.isV, Src.isS, Src.isP, Src.isB, Src.isZero, Src.isExt, Src.waitOk, Src.sOrExt, Src.sExtZero, Src.sOrZero, Src.vsExt, Src.vsExtZero, Src.general, Src.leaBase, Src.typeCode] at h)

theorem FI.legalLea_plain (w : FI) (h : w.legalLea = true) : w.plain = true :=
  FI.plain_of w
    (fun c e => by
    simp [FI.legalLea, FI.lane, FI.cmp, FI.laneDst, e, Spec.isV, Spec.isS, Spec.isP, Spec.isB, Spec.isZero, Spec.isSpecial, Spec.sAligned] at h)
    (fun c b e => by
    simp [FI.legalLea, FI.lane, FI.cmp, FI.laneDst, e, Spec.isV, Spec.isS, Spec.isP, Spec.isB, Spec.isZero, Spec.isSpecial, Spec.sAligned, Src.unused, Src.isV, Src.isS, Src.isP, Src.isB, Src.isZero, Src.isExt, Src.waitOk, Src.sOrExt, Src.sExtZero, Src.sOrZero, Src.vsExt, Src.vsExtZero, Src.general, Src.leaBase, Src.typeCode] at h)

theorem F3.legalIdot_plain (w : F3) (h : w.legalIdot = true) : w.plain = true :=
  F3.plain_of w
    (fun c e => by
    simp [F3.legalIdot, F3.lane1, F3.lane2, F3.lane3, F3.cmp, F3.laneDst, F3.pairs, F3.bare, F3.unguarded, F3.noSources, F3.uniformSrc, e, Spec.isV, Spec.isS, Spec.isP, Spec.isB, Spec.isZero, Spec.isSpecial, Spec.sAligned] at h)
    (fun c b e => by
    simp [F3.legalIdot, F3.lane1, F3.lane2, F3.lane3, F3.cmp, F3.laneDst, F3.pairs, F3.bare, F3.unguarded, F3.noSources, F3.uniformSrc, e, Spec.isV, Spec.isS, Spec.isP, Spec.isB, Spec.isZero, Spec.isSpecial, Spec.sAligned, Src.unused, Src.isV, Src.isS, Src.isP, Src.isB, Src.isZero, Src.isExt, Src.waitOk, Src.sOrExt, Src.sExtZero, Src.sOrZero, Src.vsExt, Src.vsExtZero, Src.general, Src.typeCode] at h)
    (fun c b e => by
    simp [F3.legalIdot, F3.lane1, F3.lane2, F3.lane3, F3.cmp, F3.laneDst, F3.pairs, F3.bare, F3.unguarded, F3.noSources, F3.uniformSrc, e, Spec.isV, Spec.isS, Spec.isP, Spec.isB, Spec.isZero, Spec.isSpecial, Spec.sAligned, Src.unused, Src.isV, Src.isS, Src.isP, Src.isB, Src.isZero, Src.isExt, Src.waitOk, Src.sOrExt, Src.sExtZero, Src.sOrZero, Src.vsExt, Src.vsExtZero, Src.general, Src.typeCode] at h)
    (fun c b e => by
    simp [F3.legalIdot, F3.lane1, F3.lane2, F3.lane3, F3.cmp, F3.laneDst, F3.pairs, F3.bare, F3.unguarded, F3.noSources, F3.uniformSrc, e, Spec.isV, Spec.isS, Spec.isP, Spec.isB, Spec.isZero, Spec.isSpecial, Spec.sAligned, Src.unused, Src.isV, Src.isS, Src.isP, Src.isB, Src.isZero, Src.isExt, Src.waitOk, Src.sOrExt, Src.sExtZero, Src.sOrZero, Src.vsExt, Src.vsExtZero, Src.general, Src.typeCode] at h)

theorem F3.legalLop_plain (w : F3) (h : w.legalLop = true) : w.plain = true :=
  F3.plain_of w
    (fun c e => by
    simp [F3.legalLop, F3.lane1, F3.lane2, F3.lane3, F3.cmp, F3.laneDst, F3.pairs, F3.bare, F3.unguarded, F3.noSources, F3.uniformSrc, e, Spec.isV, Spec.isS, Spec.isP, Spec.isB, Spec.isZero, Spec.isSpecial, Spec.sAligned] at h)
    (fun c b e => by
    simp [F3.legalLop, F3.lane1, F3.lane2, F3.lane3, F3.cmp, F3.laneDst, F3.pairs, F3.bare, F3.unguarded, F3.noSources, F3.uniformSrc, e, Spec.isV, Spec.isS, Spec.isP, Spec.isB, Spec.isZero, Spec.isSpecial, Spec.sAligned, Src.unused, Src.isV, Src.isS, Src.isP, Src.isB, Src.isZero, Src.isExt, Src.waitOk, Src.sOrExt, Src.sExtZero, Src.sOrZero, Src.vsExt, Src.vsExtZero, Src.general, Src.typeCode] at h)
    (fun c b e => by
    simp [F3.legalLop, F3.lane1, F3.lane2, F3.lane3, F3.cmp, F3.laneDst, F3.pairs, F3.bare, F3.unguarded, F3.noSources, F3.uniformSrc, e, Spec.isV, Spec.isS, Spec.isP, Spec.isB, Spec.isZero, Spec.isSpecial, Spec.sAligned, Src.unused, Src.isV, Src.isS, Src.isP, Src.isB, Src.isZero, Src.isExt, Src.waitOk, Src.sOrExt, Src.sExtZero, Src.sOrZero, Src.vsExt, Src.vsExtZero, Src.general, Src.typeCode] at h)
    (fun c b e => by
    simp [F3.legalLop, F3.lane1, F3.lane2, F3.lane3, F3.cmp, F3.laneDst, F3.pairs, F3.bare, F3.unguarded, F3.noSources, F3.uniformSrc, e, Spec.isV, Spec.isS, Spec.isP, Spec.isB, Spec.isZero, Spec.isSpecial, Spec.sAligned, Src.unused, Src.isV, Src.isS, Src.isP, Src.isB, Src.isZero, Src.isExt, Src.waitOk, Src.sOrExt, Src.sExtZero, Src.sOrZero, Src.vsExt, Src.vsExtZero, Src.general, Src.typeCode] at h)

theorem FI.legalLop_plain (w : FI) (h : w.legalLop = true) : w.plain = true :=
  FI.plain_of w
    (fun c e => by
    simp [FI.legalLop, FI.lane, FI.cmp, FI.laneDst, e, Spec.isV, Spec.isS, Spec.isP, Spec.isB, Spec.isZero, Spec.isSpecial, Spec.sAligned] at h)
    (fun c b e => by
    simp [FI.legalLop, FI.lane, FI.cmp, FI.laneDst, e, Spec.isV, Spec.isS, Spec.isP, Spec.isB, Spec.isZero, Spec.isSpecial, Spec.sAligned, Src.unused, Src.isV, Src.isS, Src.isP, Src.isB, Src.isZero, Src.isExt, Src.waitOk, Src.sOrExt, Src.sExtZero, Src.sOrZero, Src.vsExt, Src.vsExtZero, Src.general, Src.typeCode] at h)

theorem F3.legalShf_plain (w : F3) (h : w.legalShf = true) : w.plain = true :=
  F3.plain_of w
    (fun c e => by
    simp [F3.legalShf, F3.lane1, F3.lane2, F3.lane3, F3.cmp, F3.laneDst, F3.pairs, F3.bare, F3.unguarded, F3.noSources, F3.uniformSrc, e, Spec.isV, Spec.isS, Spec.isP, Spec.isB, Spec.isZero, Spec.isSpecial, Spec.sAligned] at h)
    (fun c b e => by
    simp [F3.legalShf, F3.lane1, F3.lane2, F3.lane3, F3.cmp, F3.laneDst, F3.pairs, F3.bare, F3.unguarded, F3.noSources, F3.uniformSrc, e, Spec.isV, Spec.isS, Spec.isP, Spec.isB, Spec.isZero, Spec.isSpecial, Spec.sAligned, Src.unused, Src.isV, Src.isS, Src.isP, Src.isB, Src.isZero, Src.isExt, Src.waitOk, Src.sOrExt, Src.sExtZero, Src.sOrZero, Src.vsExt, Src.vsExtZero, Src.general, Src.typeCode] at h)
    (fun c b e => by
    simp [F3.legalShf, F3.lane1, F3.lane2, F3.lane3, F3.cmp, F3.laneDst, F3.pairs, F3.bare, F3.unguarded, F3.noSources, F3.uniformSrc, e, Spec.isV, Spec.isS, Spec.isP, Spec.isB, Spec.isZero, Spec.isSpecial, Spec.sAligned, Src.unused, Src.isV, Src.isS, Src.isP, Src.isB, Src.isZero, Src.isExt, Src.waitOk, Src.sOrExt, Src.sExtZero, Src.sOrZero, Src.vsExt, Src.vsExtZero, Src.general, Src.typeCode] at h)
    (fun c b e => by
    simp [F3.legalShf, F3.lane1, F3.lane2, F3.lane3, F3.cmp, F3.laneDst, F3.pairs, F3.bare, F3.unguarded, F3.noSources, F3.uniformSrc, e, Spec.isV, Spec.isS, Spec.isP, Spec.isB, Spec.isZero, Spec.isSpecial, Spec.sAligned, Src.unused, Src.isV, Src.isS, Src.isP, Src.isB, Src.isZero, Src.isExt, Src.waitOk, Src.sOrExt, Src.sExtZero, Src.sOrZero, Src.vsExt, Src.vsExtZero, Src.general, Src.typeCode] at h)

theorem FI.legalShf_plain (w : FI) (h : w.legalShf = true) : w.plain = true :=
  FI.plain_of w
    (fun c e => by
    simp [FI.legalShf, FI.lane, FI.cmp, FI.laneDst, e, Spec.isV, Spec.isS, Spec.isP, Spec.isB, Spec.isZero, Spec.isSpecial, Spec.sAligned] at h)
    (fun c b e => by
    simp [FI.legalShf, FI.lane, FI.cmp, FI.laneDst, e, Spec.isV, Spec.isS, Spec.isP, Spec.isB, Spec.isZero, Spec.isSpecial, Spec.sAligned, Src.unused, Src.isV, Src.isS, Src.isP, Src.isB, Src.isZero, Src.isExt, Src.waitOk, Src.sOrExt, Src.sExtZero, Src.sOrZero, Src.vsExt, Src.vsExtZero, Src.general, Src.typeCode] at h)

theorem F3.legalBfx_plain (w : F3) (h : w.legalBfx = true) : w.plain = true :=
  F3.plain_of w
    (fun c e => by
    simp [F3.legalBfx, F3.lane1, F3.lane2, F3.lane3, F3.cmp, F3.laneDst, F3.pairs, F3.bare, F3.unguarded, F3.noSources, F3.uniformSrc, e, Spec.isV, Spec.isS, Spec.isP, Spec.isB, Spec.isZero, Spec.isSpecial, Spec.sAligned] at h)
    (fun c b e => by
    simp [F3.legalBfx, F3.lane1, F3.lane2, F3.lane3, F3.cmp, F3.laneDst, F3.pairs, F3.bare, F3.unguarded, F3.noSources, F3.uniformSrc, e, Spec.isV, Spec.isS, Spec.isP, Spec.isB, Spec.isZero, Spec.isSpecial, Spec.sAligned, Src.unused, Src.isV, Src.isS, Src.isP, Src.isB, Src.isZero, Src.isExt, Src.waitOk, Src.sOrExt, Src.sExtZero, Src.sOrZero, Src.vsExt, Src.vsExtZero, Src.general, Src.typeCode] at h)
    (fun c b e => by
    simp [F3.legalBfx, F3.lane1, F3.lane2, F3.lane3, F3.cmp, F3.laneDst, F3.pairs, F3.bare, F3.unguarded, F3.noSources, F3.uniformSrc, e, Spec.isV, Spec.isS, Spec.isP, Spec.isB, Spec.isZero, Spec.isSpecial, Spec.sAligned, Src.unused, Src.isV, Src.isS, Src.isP, Src.isB, Src.isZero, Src.isExt, Src.waitOk, Src.sOrExt, Src.sExtZero, Src.sOrZero, Src.vsExt, Src.vsExtZero, Src.general, Src.typeCode] at h)
    (fun c b e => by
    simp [F3.legalBfx, F3.lane1, F3.lane2, F3.lane3, F3.cmp, F3.laneDst, F3.pairs, F3.bare, F3.unguarded, F3.noSources, F3.uniformSrc, e, Spec.isV, Spec.isS, Spec.isP, Spec.isB, Spec.isZero, Spec.isSpecial, Spec.sAligned, Src.unused, Src.isV, Src.isS, Src.isP, Src.isB, Src.isZero, Src.isExt, Src.waitOk, Src.sOrExt, Src.sExtZero, Src.sOrZero, Src.vsExt, Src.vsExtZero, Src.general, Src.typeCode] at h)

theorem F3.legalBfi_plain (w : F3) (h : w.legalBfi = true) : w.plain = true :=
  F3.plain_of w
    (fun c e => by
    simp [F3.legalBfi, F3.lane1, F3.lane2, F3.lane3, F3.cmp, F3.laneDst, F3.pairs, F3.bare, F3.unguarded, F3.noSources, F3.uniformSrc, e, Spec.isV, Spec.isS, Spec.isP, Spec.isB, Spec.isZero, Spec.isSpecial, Spec.sAligned] at h)
    (fun c b e => by
    simp [F3.legalBfi, F3.lane1, F3.lane2, F3.lane3, F3.cmp, F3.laneDst, F3.pairs, F3.bare, F3.unguarded, F3.noSources, F3.uniformSrc, e, Spec.isV, Spec.isS, Spec.isP, Spec.isB, Spec.isZero, Spec.isSpecial, Spec.sAligned, Src.unused, Src.isV, Src.isS, Src.isP, Src.isB, Src.isZero, Src.isExt, Src.waitOk, Src.sOrExt, Src.sExtZero, Src.sOrZero, Src.vsExt, Src.vsExtZero, Src.general, Src.typeCode] at h)
    (fun c b e => by
    simp [F3.legalBfi, F3.lane1, F3.lane2, F3.lane3, F3.cmp, F3.laneDst, F3.pairs, F3.bare, F3.unguarded, F3.noSources, F3.uniformSrc, e, Spec.isV, Spec.isS, Spec.isP, Spec.isB, Spec.isZero, Spec.isSpecial, Spec.sAligned, Src.unused, Src.isV, Src.isS, Src.isP, Src.isB, Src.isZero, Src.isExt, Src.waitOk, Src.sOrExt, Src.sExtZero, Src.sOrZero, Src.vsExt, Src.vsExtZero, Src.general, Src.typeCode] at h)
    (fun c b e => by
    simp [F3.legalBfi, F3.lane1, F3.lane2, F3.lane3, F3.cmp, F3.laneDst, F3.pairs, F3.bare, F3.unguarded, F3.noSources, F3.uniformSrc, e, Spec.isV, Spec.isS, Spec.isP, Spec.isB, Spec.isZero, Spec.isSpecial, Spec.sAligned, Src.unused, Src.isV, Src.isS, Src.isP, Src.isB, Src.isZero, Src.isExt, Src.waitOk, Src.sOrExt, Src.sExtZero, Src.sOrZero, Src.vsExt, Src.vsExtZero, Src.general, Src.typeCode] at h)

theorem F3.legalCount_plain (w : F3) (h : w.legalCount = true) : w.plain = true :=
  F3.plain_of w
    (fun c e => by
    simp [F3.legalCount, F3.lane1, F3.lane2, F3.lane3, F3.cmp, F3.laneDst, F3.pairs, F3.bare, F3.unguarded, F3.noSources, F3.uniformSrc, e, Spec.isV, Spec.isS, Spec.isP, Spec.isB, Spec.isZero, Spec.isSpecial, Spec.sAligned] at h)
    (fun c b e => by
    simp [F3.legalCount, F3.lane1, F3.lane2, F3.lane3, F3.cmp, F3.laneDst, F3.pairs, F3.bare, F3.unguarded, F3.noSources, F3.uniformSrc, e, Spec.isV, Spec.isS, Spec.isP, Spec.isB, Spec.isZero, Spec.isSpecial, Spec.sAligned, Src.unused, Src.isV, Src.isS, Src.isP, Src.isB, Src.isZero, Src.isExt, Src.waitOk, Src.sOrExt, Src.sExtZero, Src.sOrZero, Src.vsExt, Src.vsExtZero, Src.general, Src.typeCode] at h)
    (fun c b e => by
    simp [F3.legalCount, F3.lane1, F3.lane2, F3.lane3, F3.cmp, F3.laneDst, F3.pairs, F3.bare, F3.unguarded, F3.noSources, F3.uniformSrc, e, Spec.isV, Spec.isS, Spec.isP, Spec.isB, Spec.isZero, Spec.isSpecial, Spec.sAligned, Src.unused, Src.isV, Src.isS, Src.isP, Src.isB, Src.isZero, Src.isExt, Src.waitOk, Src.sOrExt, Src.sExtZero, Src.sOrZero, Src.vsExt, Src.vsExtZero, Src.general, Src.typeCode] at h)
    (fun c b e => by
    simp [F3.legalCount, F3.lane1, F3.lane2, F3.lane3, F3.cmp, F3.laneDst, F3.pairs, F3.bare, F3.unguarded, F3.noSources, F3.uniformSrc, e, Spec.isV, Spec.isS, Spec.isP, Spec.isB, Spec.isZero, Spec.isSpecial, Spec.sAligned, Src.unused, Src.isV, Src.isS, Src.isP, Src.isB, Src.isZero, Src.isExt, Src.waitOk, Src.sOrExt, Src.sExtZero, Src.sOrZero, Src.vsExt, Src.vsExtZero, Src.general, Src.typeCode] at h)

theorem F3.legalBrev_plain (w : F3) (h : w.legalBrev = true) : w.plain = true :=
  F3.plain_of w
    (fun c e => by
    simp [F3.legalBrev, F3.lane1, F3.lane2, F3.lane3, F3.cmp, F3.laneDst, F3.pairs, F3.bare, F3.unguarded, F3.noSources, F3.uniformSrc, e, Spec.isV, Spec.isS, Spec.isP, Spec.isB, Spec.isZero, Spec.isSpecial, Spec.sAligned] at h)
    (fun c b e => by
    simp [F3.legalBrev, F3.lane1, F3.lane2, F3.lane3, F3.cmp, F3.laneDst, F3.pairs, F3.bare, F3.unguarded, F3.noSources, F3.uniformSrc, e, Spec.isV, Spec.isS, Spec.isP, Spec.isB, Spec.isZero, Spec.isSpecial, Spec.sAligned, Src.unused, Src.isV, Src.isS, Src.isP, Src.isB, Src.isZero, Src.isExt, Src.waitOk, Src.sOrExt, Src.sExtZero, Src.sOrZero, Src.vsExt, Src.vsExtZero, Src.general, Src.typeCode] at h)
    (fun c b e => by
    simp [F3.legalBrev, F3.lane1, F3.lane2, F3.lane3, F3.cmp, F3.laneDst, F3.pairs, F3.bare, F3.unguarded, F3.noSources, F3.uniformSrc, e, Spec.isV, Spec.isS, Spec.isP, Spec.isB, Spec.isZero, Spec.isSpecial, Spec.sAligned, Src.unused, Src.isV, Src.isS, Src.isP, Src.isB, Src.isZero, Src.isExt, Src.waitOk, Src.sOrExt, Src.sExtZero, Src.sOrZero, Src.vsExt, Src.vsExtZero, Src.general, Src.typeCode] at h)
    (fun c b e => by
    simp [F3.legalBrev, F3.lane1, F3.lane2, F3.lane3, F3.cmp, F3.laneDst, F3.pairs, F3.bare, F3.unguarded, F3.noSources, F3.uniformSrc, e, Spec.isV, Spec.isS, Spec.isP, Spec.isB, Spec.isZero, Spec.isSpecial, Spec.sAligned, Src.unused, Src.isV, Src.isS, Src.isP, Src.isB, Src.isZero, Src.isExt, Src.waitOk, Src.sOrExt, Src.sExtZero, Src.sOrZero, Src.vsExt, Src.vsExtZero, Src.general, Src.typeCode] at h)

theorem F3.legalLxch_plain (w : F3) (h : w.legalLxch = true) : w.plain = true :=
  F3.plain_of w
    (fun c e => by
    simp [F3.legalLxch, F3.lane1, F3.lane2, F3.lane3, F3.cmp, F3.laneDst, F3.pairs, F3.bare, F3.unguarded, F3.noSources, F3.uniformSrc, e, Spec.isV, Spec.isS, Spec.isP, Spec.isB, Spec.isZero, Spec.isSpecial, Spec.sAligned] at h)
    (fun c b e => by
    simp [F3.legalLxch, F3.lane1, F3.lane2, F3.lane3, F3.cmp, F3.laneDst, F3.pairs, F3.bare, F3.unguarded, F3.noSources, F3.uniformSrc, e, Spec.isV, Spec.isS, Spec.isP, Spec.isB, Spec.isZero, Spec.isSpecial, Spec.sAligned, Src.unused, Src.isV, Src.isS, Src.isP, Src.isB, Src.isZero, Src.isExt, Src.waitOk, Src.sOrExt, Src.sExtZero, Src.sOrZero, Src.vsExt, Src.vsExtZero, Src.general, Src.typeCode] at h)
    (fun c b e => by
    simp [F3.legalLxch, F3.lane1, F3.lane2, F3.lane3, F3.cmp, F3.laneDst, F3.pairs, F3.bare, F3.unguarded, F3.noSources, F3.uniformSrc, e, Spec.isV, Spec.isS, Spec.isP, Spec.isB, Spec.isZero, Spec.isSpecial, Spec.sAligned, Src.unused, Src.isV, Src.isS, Src.isP, Src.isB, Src.isZero, Src.isExt, Src.waitOk, Src.sOrExt, Src.sExtZero, Src.sOrZero, Src.vsExt, Src.vsExtZero, Src.general, Src.typeCode] at h)
    (fun c b e => by
    simp [F3.legalLxch, F3.lane1, F3.lane2, F3.lane3, F3.cmp, F3.laneDst, F3.pairs, F3.bare, F3.unguarded, F3.noSources, F3.uniformSrc, e, Spec.isV, Spec.isS, Spec.isP, Spec.isB, Spec.isZero, Spec.isSpecial, Spec.sAligned, Src.unused, Src.isV, Src.isS, Src.isP, Src.isB, Src.isZero, Src.isExt, Src.waitOk, Src.sOrExt, Src.sExtZero, Src.sOrZero, Src.vsExt, Src.vsExtZero, Src.general, Src.typeCode] at h)

theorem F3.legalFadd_plain (w : F3) (h : w.legalFadd = true) : w.plain = true :=
  F3.plain_of w
    (fun c e => by
    simp [F3.legalFadd, F3.lane1, F3.lane2, F3.lane3, F3.cmp, F3.laneDst, F3.pairs, F3.bare, F3.unguarded, F3.noSources, F3.uniformSrc, e, Spec.isV, Spec.isS, Spec.isP, Spec.isB, Spec.isZero, Spec.isSpecial, Spec.sAligned] at h)
    (fun c b e => by
    simp [F3.legalFadd, F3.lane1, F3.lane2, F3.lane3, F3.cmp, F3.laneDst, F3.pairs, F3.bare, F3.unguarded, F3.noSources, F3.uniformSrc, e, Spec.isV, Spec.isS, Spec.isP, Spec.isB, Spec.isZero, Spec.isSpecial, Spec.sAligned, Src.unused, Src.isV, Src.isS, Src.isP, Src.isB, Src.isZero, Src.isExt, Src.waitOk, Src.sOrExt, Src.sExtZero, Src.sOrZero, Src.vsExt, Src.vsExtZero, Src.general, Src.typeCode] at h)
    (fun c b e => by
    simp [F3.legalFadd, F3.lane1, F3.lane2, F3.lane3, F3.cmp, F3.laneDst, F3.pairs, F3.bare, F3.unguarded, F3.noSources, F3.uniformSrc, e, Spec.isV, Spec.isS, Spec.isP, Spec.isB, Spec.isZero, Spec.isSpecial, Spec.sAligned, Src.unused, Src.isV, Src.isS, Src.isP, Src.isB, Src.isZero, Src.isExt, Src.waitOk, Src.sOrExt, Src.sExtZero, Src.sOrZero, Src.vsExt, Src.vsExtZero, Src.general, Src.typeCode] at h)
    (fun c b e => by
    simp [F3.legalFadd, F3.lane1, F3.lane2, F3.lane3, F3.cmp, F3.laneDst, F3.pairs, F3.bare, F3.unguarded, F3.noSources, F3.uniformSrc, e, Spec.isV, Spec.isS, Spec.isP, Spec.isB, Spec.isZero, Spec.isSpecial, Spec.sAligned, Src.unused, Src.isV, Src.isS, Src.isP, Src.isB, Src.isZero, Src.isExt, Src.waitOk, Src.sOrExt, Src.sExtZero, Src.sOrZero, Src.vsExt, Src.vsExtZero, Src.general, Src.typeCode] at h)

theorem FI.legalFadd_plain (w : FI) (h : w.legalFadd = true) : w.plain = true :=
  FI.plain_of w
    (fun c e => by
    simp [FI.legalFadd, FI.lane, FI.cmp, FI.laneDst, e, Spec.isV, Spec.isS, Spec.isP, Spec.isB, Spec.isZero, Spec.isSpecial, Spec.sAligned] at h)
    (fun c b e => by
    simp [FI.legalFadd, FI.lane, FI.cmp, FI.laneDst, e, Spec.isV, Spec.isS, Spec.isP, Spec.isB, Spec.isZero, Spec.isSpecial, Spec.sAligned, Src.unused, Src.isV, Src.isS, Src.isP, Src.isB, Src.isZero, Src.isExt, Src.waitOk, Src.sOrExt, Src.sExtZero, Src.sOrZero, Src.vsExt, Src.vsExtZero, Src.general, Src.typeCode] at h)

theorem F3.legalFfma_plain (w : F3) (h : w.legalFfma = true) : w.plain = true :=
  F3.plain_of w
    (fun c e => by
    simp [F3.legalFfma, F3.lane1, F3.lane2, F3.lane3, F3.cmp, F3.laneDst, F3.pairs, F3.bare, F3.unguarded, F3.noSources, F3.uniformSrc, e, Spec.isV, Spec.isS, Spec.isP, Spec.isB, Spec.isZero, Spec.isSpecial, Spec.sAligned] at h)
    (fun c b e => by
    simp [F3.legalFfma, F3.lane1, F3.lane2, F3.lane3, F3.cmp, F3.laneDst, F3.pairs, F3.bare, F3.unguarded, F3.noSources, F3.uniformSrc, e, Spec.isV, Spec.isS, Spec.isP, Spec.isB, Spec.isZero, Spec.isSpecial, Spec.sAligned, Src.unused, Src.isV, Src.isS, Src.isP, Src.isB, Src.isZero, Src.isExt, Src.waitOk, Src.sOrExt, Src.sExtZero, Src.sOrZero, Src.vsExt, Src.vsExtZero, Src.general, Src.typeCode] at h)
    (fun c b e => by
    simp [F3.legalFfma, F3.lane1, F3.lane2, F3.lane3, F3.cmp, F3.laneDst, F3.pairs, F3.bare, F3.unguarded, F3.noSources, F3.uniformSrc, e, Spec.isV, Spec.isS, Spec.isP, Spec.isB, Spec.isZero, Spec.isSpecial, Spec.sAligned, Src.unused, Src.isV, Src.isS, Src.isP, Src.isB, Src.isZero, Src.isExt, Src.waitOk, Src.sOrExt, Src.sExtZero, Src.sOrZero, Src.vsExt, Src.vsExtZero, Src.general, Src.typeCode] at h)
    (fun c b e => by
    simp [F3.legalFfma, F3.lane1, F3.lane2, F3.lane3, F3.cmp, F3.laneDst, F3.pairs, F3.bare, F3.unguarded, F3.noSources, F3.uniformSrc, e, Spec.isV, Spec.isS, Spec.isP, Spec.isB, Spec.isZero, Spec.isSpecial, Spec.sAligned, Src.unused, Src.isV, Src.isS, Src.isP, Src.isB, Src.isZero, Src.isExt, Src.waitOk, Src.sOrExt, Src.sExtZero, Src.sOrZero, Src.vsExt, Src.vsExtZero, Src.general, Src.typeCode] at h)

theorem F3.legalFmnx_plain (w : F3) (h : w.legalFmnx = true) : w.plain = true :=
  F3.plain_of w
    (fun c e => by
    simp [F3.legalFmnx, F3.lane1, F3.lane2, F3.lane3, F3.cmp, F3.laneDst, F3.pairs, F3.bare, F3.unguarded, F3.noSources, F3.uniformSrc, e, Spec.isV, Spec.isS, Spec.isP, Spec.isB, Spec.isZero, Spec.isSpecial, Spec.sAligned] at h)
    (fun c b e => by
    simp [F3.legalFmnx, F3.lane1, F3.lane2, F3.lane3, F3.cmp, F3.laneDst, F3.pairs, F3.bare, F3.unguarded, F3.noSources, F3.uniformSrc, e, Spec.isV, Spec.isS, Spec.isP, Spec.isB, Spec.isZero, Spec.isSpecial, Spec.sAligned, Src.unused, Src.isV, Src.isS, Src.isP, Src.isB, Src.isZero, Src.isExt, Src.waitOk, Src.sOrExt, Src.sExtZero, Src.sOrZero, Src.vsExt, Src.vsExtZero, Src.general, Src.typeCode] at h)
    (fun c b e => by
    simp [F3.legalFmnx, F3.lane1, F3.lane2, F3.lane3, F3.cmp, F3.laneDst, F3.pairs, F3.bare, F3.unguarded, F3.noSources, F3.uniformSrc, e, Spec.isV, Spec.isS, Spec.isP, Spec.isB, Spec.isZero, Spec.isSpecial, Spec.sAligned, Src.unused, Src.isV, Src.isS, Src.isP, Src.isB, Src.isZero, Src.isExt, Src.waitOk, Src.sOrExt, Src.sExtZero, Src.sOrZero, Src.vsExt, Src.vsExtZero, Src.general, Src.typeCode] at h)
    (fun c b e => by
    simp [F3.legalFmnx, F3.lane1, F3.lane2, F3.lane3, F3.cmp, F3.laneDst, F3.pairs, F3.bare, F3.unguarded, F3.noSources, F3.uniformSrc, e, Spec.isV, Spec.isS, Spec.isP, Spec.isB, Spec.isZero, Spec.isSpecial, Spec.sAligned, Src.unused, Src.isV, Src.isS, Src.isP, Src.isB, Src.isZero, Src.isExt, Src.waitOk, Src.sOrExt, Src.sExtZero, Src.sOrZero, Src.vsExt, Src.vsExtZero, Src.general, Src.typeCode] at h)

theorem FI.legalFmnx_plain (w : FI) (h : w.legalFmnx = true) : w.plain = true :=
  FI.plain_of w
    (fun c e => by
    simp [FI.legalFmnx, FI.lane, FI.cmp, FI.laneDst, e, Spec.isV, Spec.isS, Spec.isP, Spec.isB, Spec.isZero, Spec.isSpecial, Spec.sAligned] at h)
    (fun c b e => by
    simp [FI.legalFmnx, FI.lane, FI.cmp, FI.laneDst, e, Spec.isV, Spec.isS, Spec.isP, Spec.isB, Spec.isZero, Spec.isSpecial, Spec.sAligned, Src.unused, Src.isV, Src.isS, Src.isP, Src.isB, Src.isZero, Src.isExt, Src.waitOk, Src.sOrExt, Src.sExtZero, Src.sOrZero, Src.vsExt, Src.vsExtZero, Src.general, Src.typeCode] at h)

theorem F3.legalFcmp_plain (w : F3) (h : w.legalFcmp = true) : w.plain = true :=
  F3.plain_of w
    (fun c e => by
    simp [F3.legalFcmp, F3.lane1, F3.lane2, F3.lane3, F3.cmp, F3.laneDst, F3.pairs, F3.bare, F3.unguarded, F3.noSources, F3.uniformSrc, e, Spec.isV, Spec.isS, Spec.isP, Spec.isB, Spec.isZero, Spec.isSpecial, Spec.sAligned] at h)
    (fun c b e => by
    simp [F3.legalFcmp, F3.lane1, F3.lane2, F3.lane3, F3.cmp, F3.laneDst, F3.pairs, F3.bare, F3.unguarded, F3.noSources, F3.uniformSrc, e, Spec.isV, Spec.isS, Spec.isP, Spec.isB, Spec.isZero, Spec.isSpecial, Spec.sAligned, Src.unused, Src.isV, Src.isS, Src.isP, Src.isB, Src.isZero, Src.isExt, Src.waitOk, Src.sOrExt, Src.sExtZero, Src.sOrZero, Src.vsExt, Src.vsExtZero, Src.general, Src.typeCode] at h)
    (fun c b e => by
    simp [F3.legalFcmp, F3.lane1, F3.lane2, F3.lane3, F3.cmp, F3.laneDst, F3.pairs, F3.bare, F3.unguarded, F3.noSources, F3.uniformSrc, e, Spec.isV, Spec.isS, Spec.isP, Spec.isB, Spec.isZero, Spec.isSpecial, Spec.sAligned, Src.unused, Src.isV, Src.isS, Src.isP, Src.isB, Src.isZero, Src.isExt, Src.waitOk, Src.sOrExt, Src.sExtZero, Src.sOrZero, Src.vsExt, Src.vsExtZero, Src.general, Src.typeCode] at h)
    (fun c b e => by
    simp [F3.legalFcmp, F3.lane1, F3.lane2, F3.lane3, F3.cmp, F3.laneDst, F3.pairs, F3.bare, F3.unguarded, F3.noSources, F3.uniformSrc, e, Spec.isV, Spec.isS, Spec.isP, Spec.isB, Spec.isZero, Spec.isSpecial, Spec.sAligned, Src.unused, Src.isV, Src.isS, Src.isP, Src.isB, Src.isZero, Src.isExt, Src.waitOk, Src.sOrExt, Src.sExtZero, Src.sOrZero, Src.vsExt, Src.vsExtZero, Src.general, Src.typeCode] at h)

theorem FI.legalFcmp_plain (w : FI) (h : w.legalFcmp = true) : w.plain = true :=
  FI.plain_of w
    (fun c e => by
    simp [FI.legalFcmp, FI.lane, FI.cmp, FI.laneDst, e, Spec.isV, Spec.isS, Spec.isP, Spec.isB, Spec.isZero, Spec.isSpecial, Spec.sAligned] at h)
    (fun c b e => by
    simp [FI.legalFcmp, FI.lane, FI.cmp, FI.laneDst, e, Spec.isV, Spec.isS, Spec.isP, Spec.isB, Spec.isZero, Spec.isSpecial, Spec.sAligned, Src.unused, Src.isV, Src.isS, Src.isP, Src.isB, Src.isZero, Src.isExt, Src.waitOk, Src.sOrExt, Src.sExtZero, Src.sOrZero, Src.vsExt, Src.vsExtZero, Src.general, Src.typeCode] at h)

theorem F3.legalFsfu_plain (w : F3) (h : w.legalFsfu = true) : w.plain = true :=
  F3.plain_of w
    (fun c e => by
    simp [F3.legalFsfu, F3.lane1, F3.lane2, F3.lane3, F3.cmp, F3.laneDst, F3.pairs, F3.bare, F3.unguarded, F3.noSources, F3.uniformSrc, e, Spec.isV, Spec.isS, Spec.isP, Spec.isB, Spec.isZero, Spec.isSpecial, Spec.sAligned] at h)
    (fun c b e => by
    simp [F3.legalFsfu, F3.lane1, F3.lane2, F3.lane3, F3.cmp, F3.laneDst, F3.pairs, F3.bare, F3.unguarded, F3.noSources, F3.uniformSrc, e, Spec.isV, Spec.isS, Spec.isP, Spec.isB, Spec.isZero, Spec.isSpecial, Spec.sAligned, Src.unused, Src.isV, Src.isS, Src.isP, Src.isB, Src.isZero, Src.isExt, Src.waitOk, Src.sOrExt, Src.sExtZero, Src.sOrZero, Src.vsExt, Src.vsExtZero, Src.general, Src.typeCode] at h)
    (fun c b e => by
    simp [F3.legalFsfu, F3.lane1, F3.lane2, F3.lane3, F3.cmp, F3.laneDst, F3.pairs, F3.bare, F3.unguarded, F3.noSources, F3.uniformSrc, e, Spec.isV, Spec.isS, Spec.isP, Spec.isB, Spec.isZero, Spec.isSpecial, Spec.sAligned, Src.unused, Src.isV, Src.isS, Src.isP, Src.isB, Src.isZero, Src.isExt, Src.waitOk, Src.sOrExt, Src.sExtZero, Src.sOrZero, Src.vsExt, Src.vsExtZero, Src.general, Src.typeCode] at h)
    (fun c b e => by
    simp [F3.legalFsfu, F3.lane1, F3.lane2, F3.lane3, F3.cmp, F3.laneDst, F3.pairs, F3.bare, F3.unguarded, F3.noSources, F3.uniformSrc, e, Spec.isV, Spec.isS, Spec.isP, Spec.isB, Spec.isZero, Spec.isSpecial, Spec.sAligned, Src.unused, Src.isV, Src.isS, Src.isP, Src.isB, Src.isZero, Src.isExt, Src.waitOk, Src.sOrExt, Src.sExtZero, Src.sOrZero, Src.vsExt, Src.vsExtZero, Src.general, Src.typeCode] at h)

theorem F3.legalFclass_plain (w : F3) (h : w.legalFclass = true) : w.plain = true :=
  F3.plain_of w
    (fun c e => by
    simp [F3.legalFclass, F3.lane1, F3.lane2, F3.lane3, F3.cmp, F3.laneDst, F3.pairs, F3.bare, F3.unguarded, F3.noSources, F3.uniformSrc, e, Spec.isV, Spec.isS, Spec.isP, Spec.isB, Spec.isZero, Spec.isSpecial, Spec.sAligned] at h)
    (fun c b e => by
    simp [F3.legalFclass, F3.lane1, F3.lane2, F3.lane3, F3.cmp, F3.laneDst, F3.pairs, F3.bare, F3.unguarded, F3.noSources, F3.uniformSrc, e, Spec.isV, Spec.isS, Spec.isP, Spec.isB, Spec.isZero, Spec.isSpecial, Spec.sAligned, Src.unused, Src.isV, Src.isS, Src.isP, Src.isB, Src.isZero, Src.isExt, Src.waitOk, Src.sOrExt, Src.sExtZero, Src.sOrZero, Src.vsExt, Src.vsExtZero, Src.general, Src.typeCode] at h)
    (fun c b e => by
    simp [F3.legalFclass, F3.lane1, F3.lane2, F3.lane3, F3.cmp, F3.laneDst, F3.pairs, F3.bare, F3.unguarded, F3.noSources, F3.uniformSrc, e, Spec.isV, Spec.isS, Spec.isP, Spec.isB, Spec.isZero, Spec.isSpecial, Spec.sAligned, Src.unused, Src.isV, Src.isS, Src.isP, Src.isB, Src.isZero, Src.isExt, Src.waitOk, Src.sOrExt, Src.sExtZero, Src.sOrZero, Src.vsExt, Src.vsExtZero, Src.general, Src.typeCode] at h)
    (fun c b e => by
    simp [F3.legalFclass, F3.lane1, F3.lane2, F3.lane3, F3.cmp, F3.laneDst, F3.pairs, F3.bare, F3.unguarded, F3.noSources, F3.uniformSrc, e, Spec.isV, Spec.isS, Spec.isP, Spec.isB, Spec.isZero, Spec.isSpecial, Spec.sAligned, Src.unused, Src.isV, Src.isS, Src.isP, Src.isB, Src.isZero, Src.isExt, Src.waitOk, Src.sOrExt, Src.sExtZero, Src.sOrZero, Src.vsExt, Src.vsExtZero, Src.general, Src.typeCode] at h)

theorem F3.legalHfma2_plain (w : F3) (h : w.legalHfma2 = true) : w.plain = true :=
  F3.plain_of w
    (fun c e => by
    simp [F3.legalHfma2, F3.lane1, F3.lane2, F3.lane3, F3.cmp, F3.laneDst, F3.pairs, F3.bare, F3.unguarded, F3.noSources, F3.uniformSrc, e, Spec.isV, Spec.isS, Spec.isP, Spec.isB, Spec.isZero, Spec.isSpecial, Spec.sAligned] at h)
    (fun c b e => by
    simp [F3.legalHfma2, F3.lane1, F3.lane2, F3.lane3, F3.cmp, F3.laneDst, F3.pairs, F3.bare, F3.unguarded, F3.noSources, F3.uniformSrc, e, Spec.isV, Spec.isS, Spec.isP, Spec.isB, Spec.isZero, Spec.isSpecial, Spec.sAligned, Src.unused, Src.isV, Src.isS, Src.isP, Src.isB, Src.isZero, Src.isExt, Src.waitOk, Src.sOrExt, Src.sExtZero, Src.sOrZero, Src.vsExt, Src.vsExtZero, Src.general, Src.typeCode] at h)
    (fun c b e => by
    simp [F3.legalHfma2, F3.lane1, F3.lane2, F3.lane3, F3.cmp, F3.laneDst, F3.pairs, F3.bare, F3.unguarded, F3.noSources, F3.uniformSrc, e, Spec.isV, Spec.isS, Spec.isP, Spec.isB, Spec.isZero, Spec.isSpecial, Spec.sAligned, Src.unused, Src.isV, Src.isS, Src.isP, Src.isB, Src.isZero, Src.isExt, Src.waitOk, Src.sOrExt, Src.sExtZero, Src.sOrZero, Src.vsExt, Src.vsExtZero, Src.general, Src.typeCode] at h)
    (fun c b e => by
    simp [F3.legalHfma2, F3.lane1, F3.lane2, F3.lane3, F3.cmp, F3.laneDst, F3.pairs, F3.bare, F3.unguarded, F3.noSources, F3.uniformSrc, e, Spec.isV, Spec.isS, Spec.isP, Spec.isB, Spec.isZero, Spec.isSpecial, Spec.sAligned, Src.unused, Src.isV, Src.isS, Src.isP, Src.isB, Src.isZero, Src.isExt, Src.waitOk, Src.sOrExt, Src.sExtZero, Src.sOrZero, Src.vsExt, Src.vsExtZero, Src.general, Src.typeCode] at h)

theorem F3.legalHadd2_plain (w : F3) (h : w.legalHadd2 = true) : w.plain = true :=
  F3.plain_of w
    (fun c e => by
    simp [F3.legalHadd2, F3.lane1, F3.lane2, F3.lane3, F3.cmp, F3.laneDst, F3.pairs, F3.bare, F3.unguarded, F3.noSources, F3.uniformSrc, e, Spec.isV, Spec.isS, Spec.isP, Spec.isB, Spec.isZero, Spec.isSpecial, Spec.sAligned] at h)
    (fun c b e => by
    simp [F3.legalHadd2, F3.lane1, F3.lane2, F3.lane3, F3.cmp, F3.laneDst, F3.pairs, F3.bare, F3.unguarded, F3.noSources, F3.uniformSrc, e, Spec.isV, Spec.isS, Spec.isP, Spec.isB, Spec.isZero, Spec.isSpecial, Spec.sAligned, Src.unused, Src.isV, Src.isS, Src.isP, Src.isB, Src.isZero, Src.isExt, Src.waitOk, Src.sOrExt, Src.sExtZero, Src.sOrZero, Src.vsExt, Src.vsExtZero, Src.general, Src.typeCode] at h)
    (fun c b e => by
    simp [F3.legalHadd2, F3.lane1, F3.lane2, F3.lane3, F3.cmp, F3.laneDst, F3.pairs, F3.bare, F3.unguarded, F3.noSources, F3.uniformSrc, e, Spec.isV, Spec.isS, Spec.isP, Spec.isB, Spec.isZero, Spec.isSpecial, Spec.sAligned, Src.unused, Src.isV, Src.isS, Src.isP, Src.isB, Src.isZero, Src.isExt, Src.waitOk, Src.sOrExt, Src.sExtZero, Src.sOrZero, Src.vsExt, Src.vsExtZero, Src.general, Src.typeCode] at h)
    (fun c b e => by
    simp [F3.legalHadd2, F3.lane1, F3.lane2, F3.lane3, F3.cmp, F3.laneDst, F3.pairs, F3.bare, F3.unguarded, F3.noSources, F3.uniformSrc, e, Spec.isV, Spec.isS, Spec.isP, Spec.isB, Spec.isZero, Spec.isSpecial, Spec.sAligned, Src.unused, Src.isV, Src.isS, Src.isP, Src.isB, Src.isZero, Src.isExt, Src.waitOk, Src.sOrExt, Src.sExtZero, Src.sOrZero, Src.vsExt, Src.vsExtZero, Src.general, Src.typeCode] at h)

theorem F3.legalCvt_plain (w : F3) (h : w.legalCvt = true) : w.plain = true :=
  F3.plain_of w
    (fun c e => by
    simp [F3.legalCvt, F3.lane1, F3.lane2, F3.lane3, F3.cmp, F3.laneDst, F3.pairs, F3.bare, F3.unguarded, F3.noSources, F3.uniformSrc, e, Spec.isV, Spec.isS, Spec.isP, Spec.isB, Spec.isZero, Spec.isSpecial, Spec.sAligned] at h)
    (fun c b e => by
    simp [F3.legalCvt, F3.lane1, F3.lane2, F3.lane3, F3.cmp, F3.laneDst, F3.pairs, F3.bare, F3.unguarded, F3.noSources, F3.uniformSrc, e, Spec.isV, Spec.isS, Spec.isP, Spec.isB, Spec.isZero, Spec.isSpecial, Spec.sAligned, Src.unused, Src.isV, Src.isS, Src.isP, Src.isB, Src.isZero, Src.isExt, Src.waitOk, Src.sOrExt, Src.sExtZero, Src.sOrZero, Src.vsExt, Src.vsExtZero, Src.general, Src.typeCode] at h)
    (fun c b e => by
    simp [F3.legalCvt, F3.lane1, F3.lane2, F3.lane3, F3.cmp, F3.laneDst, F3.pairs, F3.bare, F3.unguarded, F3.noSources, F3.uniformSrc, e, Spec.isV, Spec.isS, Spec.isP, Spec.isB, Spec.isZero, Spec.isSpecial, Spec.sAligned, Src.unused, Src.isV, Src.isS, Src.isP, Src.isB, Src.isZero, Src.isExt, Src.waitOk, Src.sOrExt, Src.sExtZero, Src.sOrZero, Src.vsExt, Src.vsExtZero, Src.general, Src.typeCode] at h)
    (fun c b e => by
    simp [F3.legalCvt, F3.lane1, F3.lane2, F3.lane3, F3.cmp, F3.laneDst, F3.pairs, F3.bare, F3.unguarded, F3.noSources, F3.uniformSrc, e, Spec.isV, Spec.isS, Spec.isP, Spec.isB, Spec.isZero, Spec.isSpecial, Spec.sAligned, Src.unused, Src.isV, Src.isS, Src.isP, Src.isB, Src.isZero, Src.isExt, Src.waitOk, Src.sOrExt, Src.sExtZero, Src.sOrZero, Src.vsExt, Src.vsExtZero, Src.general, Src.typeCode] at h)

theorem F3.legalQcvt_plain (w : F3) (h : w.legalQcvt = true) : w.plain = true :=
  F3.plain_of w
    (fun c e => by
    simp [F3.legalQcvt, F3.lane1, F3.lane2, F3.lane3, F3.cmp, F3.laneDst, F3.pairs, F3.bare, F3.unguarded, F3.noSources, F3.uniformSrc, e, Spec.isV, Spec.isS, Spec.isP, Spec.isB, Spec.isZero, Spec.isSpecial, Spec.sAligned] at h)
    (fun c b e => by
    simp [F3.legalQcvt, F3.lane1, F3.lane2, F3.lane3, F3.cmp, F3.laneDst, F3.pairs, F3.bare, F3.unguarded, F3.noSources, F3.uniformSrc, e, Spec.isV, Spec.isS, Spec.isP, Spec.isB, Spec.isZero, Spec.isSpecial, Spec.sAligned, Src.unused, Src.isV, Src.isS, Src.isP, Src.isB, Src.isZero, Src.isExt, Src.waitOk, Src.sOrExt, Src.sExtZero, Src.sOrZero, Src.vsExt, Src.vsExtZero, Src.general, Src.typeCode] at h)
    (fun c b e => by
    simp [F3.legalQcvt, F3.lane1, F3.lane2, F3.lane3, F3.cmp, F3.laneDst, F3.pairs, F3.bare, F3.unguarded, F3.noSources, F3.uniformSrc, e, Spec.isV, Spec.isS, Spec.isP, Spec.isB, Spec.isZero, Spec.isSpecial, Spec.sAligned, Src.unused, Src.isV, Src.isS, Src.isP, Src.isB, Src.isZero, Src.isExt, Src.waitOk, Src.sOrExt, Src.sExtZero, Src.sOrZero, Src.vsExt, Src.vsExtZero, Src.general, Src.typeCode] at h)
    (fun c b e => by
    simp [F3.legalQcvt, F3.lane1, F3.lane2, F3.lane3, F3.cmp, F3.laneDst, F3.pairs, F3.bare, F3.unguarded, F3.noSources, F3.uniformSrc, e, Spec.isV, Spec.isS, Spec.isP, Spec.isB, Spec.isZero, Spec.isSpecial, Spec.sAligned, Src.unused, Src.isV, Src.isS, Src.isP, Src.isB, Src.isZero, Src.isExt, Src.waitOk, Src.sOrExt, Src.sExtZero, Src.sOrZero, Src.vsExt, Src.vsExtZero, Src.general, Src.typeCode] at h)

theorem FM.legalLd_plain (w : FM) (h : w.legalLd = true) : w.plain = true :=
  FM.plain_of w
    (fun c e => by
    simp [FM.legalLd, FM.loadDst, FM.baseOk, e, Spec.isV, Spec.isS, Spec.isP, Spec.isB, Spec.isZero, Spec.isSpecial, Spec.sAligned] at h)
    (fun c b e => by
    simp [FM.legalLd, FM.loadDst, FM.baseOk, e, Spec.isV, Spec.isS, Spec.isP, Spec.isB, Spec.isZero, Spec.isSpecial, Spec.sAligned, Src.unused, Src.isV, Src.isS, Src.isP, Src.isB, Src.isZero, Src.isExt, Src.waitOk, Src.sOrExt, Src.sExtZero, Src.sOrZero, Src.vsExt, Src.vsExtZero, Src.general, Src.typeCode] at h)
    (fun c b e => by
    simp [FM.legalLd, FM.loadDst, FM.baseOk, e, Spec.isV, Spec.isS, Spec.isP, Spec.isB, Spec.isZero, Spec.isSpecial, Spec.sAligned, Src.unused, Src.isV, Src.isS, Src.isP, Src.isB, Src.isZero, Src.isExt, Src.waitOk, Src.sOrExt, Src.sExtZero, Src.sOrZero, Src.vsExt, Src.vsExtZero, Src.general, Src.typeCode] at h)
    (fun c b e => by
    simp [FM.legalLd, FM.loadDst, FM.baseOk, e, Spec.isV, Spec.isS, Spec.isP, Spec.isB, Spec.isZero, Spec.isSpecial, Spec.sAligned, Src.unused, Src.isV, Src.isS, Src.isP, Src.isB, Src.isZero, Src.isExt, Src.waitOk, Src.sOrExt, Src.sExtZero, Src.sOrZero, Src.vsExt, Src.vsExtZero, Src.general, Src.typeCode] at h)

theorem FM.legalSt_plain (w : FM) (h : w.legalSt = true) : w.plain = true :=
  FM.plain_of w
    (fun c e => by
    simp [FM.legalSt, FM.loadDst, FM.baseOk, e, Spec.isV, Spec.isS, Spec.isP, Spec.isB, Spec.isZero, Spec.isSpecial, Spec.sAligned] at h)
    (fun c b e => by
    simp [FM.legalSt, FM.loadDst, FM.baseOk, e, Spec.isV, Spec.isS, Spec.isP, Spec.isB, Spec.isZero, Spec.isSpecial, Spec.sAligned, Src.unused, Src.isV, Src.isS, Src.isP, Src.isB, Src.isZero, Src.isExt, Src.waitOk, Src.sOrExt, Src.sExtZero, Src.sOrZero, Src.vsExt, Src.vsExtZero, Src.general, Src.typeCode] at h)
    (fun c b e => by
    simp [FM.legalSt, FM.loadDst, FM.baseOk, e, Spec.isV, Spec.isS, Spec.isP, Spec.isB, Spec.isZero, Spec.isSpecial, Spec.sAligned, Src.unused, Src.isV, Src.isS, Src.isP, Src.isB, Src.isZero, Src.isExt, Src.waitOk, Src.sOrExt, Src.sExtZero, Src.sOrZero, Src.vsExt, Src.vsExtZero, Src.general, Src.typeCode] at h)
    (fun c b e => by
    simp [FM.legalSt, FM.loadDst, FM.baseOk, e, Spec.isV, Spec.isS, Spec.isP, Spec.isB, Spec.isZero, Spec.isSpecial, Spec.sAligned, Src.unused, Src.isV, Src.isS, Src.isP, Src.isB, Src.isZero, Src.isExt, Src.waitOk, Src.sOrExt, Src.sExtZero, Src.sOrZero, Src.vsExt, Src.vsExtZero, Src.general, Src.typeCode] at h)

theorem FM.legalLds_plain (w : FM) (h : w.legalLds = true) : w.plain = true :=
  FM.plain_of w
    (fun c e => by
    simp [FM.legalLds, FM.loadDst, FM.baseOk, e, Spec.isV, Spec.isS, Spec.isP, Spec.isB, Spec.isZero, Spec.isSpecial, Spec.sAligned] at h)
    (fun c b e => by
    simp [FM.legalLds, FM.loadDst, FM.baseOk, e, Spec.isV, Spec.isS, Spec.isP, Spec.isB, Spec.isZero, Spec.isSpecial, Spec.sAligned, Src.unused, Src.isV, Src.isS, Src.isP, Src.isB, Src.isZero, Src.isExt, Src.waitOk, Src.sOrExt, Src.sExtZero, Src.sOrZero, Src.vsExt, Src.vsExtZero, Src.general, Src.typeCode] at h)
    (fun c b e => by
    simp [FM.legalLds, FM.loadDst, FM.baseOk, e, Spec.isV, Spec.isS, Spec.isP, Spec.isB, Spec.isZero, Spec.isSpecial, Spec.sAligned, Src.unused, Src.isV, Src.isS, Src.isP, Src.isB, Src.isZero, Src.isExt, Src.waitOk, Src.sOrExt, Src.sExtZero, Src.sOrZero, Src.vsExt, Src.vsExtZero, Src.general, Src.typeCode] at h)
    (fun c b e => by
    simp [FM.legalLds, FM.loadDst, FM.baseOk, e, Spec.isV, Spec.isS, Spec.isP, Spec.isB, Spec.isZero, Spec.isSpecial, Spec.sAligned, Src.unused, Src.isV, Src.isS, Src.isP, Src.isB, Src.isZero, Src.isExt, Src.waitOk, Src.sOrExt, Src.sExtZero, Src.sOrZero, Src.vsExt, Src.vsExtZero, Src.general, Src.typeCode] at h)

theorem FM.legalSts_plain (w : FM) (h : w.legalSts = true) : w.plain = true :=
  FM.plain_of w
    (fun c e => by
    simp [FM.legalSts, FM.loadDst, FM.baseOk, e, Spec.isV, Spec.isS, Spec.isP, Spec.isB, Spec.isZero, Spec.isSpecial, Spec.sAligned] at h)
    (fun c b e => by
    simp [FM.legalSts, FM.loadDst, FM.baseOk, e, Spec.isV, Spec.isS, Spec.isP, Spec.isB, Spec.isZero, Spec.isSpecial, Spec.sAligned, Src.unused, Src.isV, Src.isS, Src.isP, Src.isB, Src.isZero, Src.isExt, Src.waitOk, Src.sOrExt, Src.sExtZero, Src.sOrZero, Src.vsExt, Src.vsExtZero, Src.general, Src.typeCode] at h)
    (fun c b e => by
    simp [FM.legalSts, FM.loadDst, FM.baseOk, e, Spec.isV, Spec.isS, Spec.isP, Spec.isB, Spec.isZero, Spec.isSpecial, Spec.sAligned, Src.unused, Src.isV, Src.isS, Src.isP, Src.isB, Src.isZero, Src.isExt, Src.waitOk, Src.sOrExt, Src.sExtZero, Src.sOrZero, Src.vsExt, Src.vsExtZero, Src.general, Src.typeCode] at h)
    (fun c b e => by
    simp [FM.legalSts, FM.loadDst, FM.baseOk, e, Spec.isV, Spec.isS, Spec.isP, Spec.isB, Spec.isZero, Spec.isSpecial, Spec.sAligned, Src.unused, Src.isV, Src.isS, Src.isP, Src.isB, Src.isZero, Src.isExt, Src.waitOk, Src.sOrExt, Src.sExtZero, Src.sOrZero, Src.vsExt, Src.vsExtZero, Src.general, Src.typeCode] at h)

theorem FM.legalLdk_plain (w : FM) (h : w.legalLdk = true) : w.plain = true :=
  FM.plain_of w
    (fun c e => by
    simp [FM.legalLdk, FM.loadDst, FM.baseOk, e, Spec.isV, Spec.isS, Spec.isP, Spec.isB, Spec.isZero, Spec.isSpecial, Spec.sAligned] at h)
    (fun c b e => by
    simp [FM.legalLdk, FM.loadDst, FM.baseOk, e, Spec.isV, Spec.isS, Spec.isP, Spec.isB, Spec.isZero, Spec.isSpecial, Spec.sAligned, Src.unused, Src.isV, Src.isS, Src.isP, Src.isB, Src.isZero, Src.isExt, Src.waitOk, Src.sOrExt, Src.sExtZero, Src.sOrZero, Src.vsExt, Src.vsExtZero, Src.general, Src.typeCode] at h)
    (fun c b e => by
    simp [FM.legalLdk, FM.loadDst, FM.baseOk, e, Spec.isV, Spec.isS, Spec.isP, Spec.isB, Spec.isZero, Spec.isSpecial, Spec.sAligned, Src.unused, Src.isV, Src.isS, Src.isP, Src.isB, Src.isZero, Src.isExt, Src.waitOk, Src.sOrExt, Src.sExtZero, Src.sOrZero, Src.vsExt, Src.vsExtZero, Src.general, Src.typeCode] at h)
    (fun c b e => by
    simp [FM.legalLdk, FM.loadDst, FM.baseOk, e, Spec.isV, Spec.isS, Spec.isP, Spec.isB, Spec.isZero, Spec.isSpecial, Spec.sAligned, Src.unused, Src.isV, Src.isS, Src.isP, Src.isB, Src.isZero, Src.isExt, Src.waitOk, Src.sOrExt, Src.sExtZero, Src.sOrZero, Src.vsExt, Src.vsExtZero, Src.general, Src.typeCode] at h)

theorem FM.legalWld_plain (w : FM) (h : w.legalWld = true) : w.plain = true :=
  FM.plain_of w
    (fun c e => by
    simp [FM.legalWld, FM.loadDst, FM.baseOk, e, Spec.isV, Spec.isS, Spec.isP, Spec.isB, Spec.isZero, Spec.isSpecial, Spec.sAligned] at h)
    (fun c b e => by
    simp [FM.legalWld, FM.loadDst, FM.baseOk, e, Spec.isV, Spec.isS, Spec.isP, Spec.isB, Spec.isZero, Spec.isSpecial, Spec.sAligned, Src.unused, Src.isV, Src.isS, Src.isP, Src.isB, Src.isZero, Src.isExt, Src.waitOk, Src.sOrExt, Src.sExtZero, Src.sOrZero, Src.vsExt, Src.vsExtZero, Src.general, Src.typeCode] at h)
    (fun c b e => by
    simp [FM.legalWld, FM.loadDst, FM.baseOk, e, Spec.isV, Spec.isS, Spec.isP, Spec.isB, Spec.isZero, Spec.isSpecial, Spec.sAligned, Src.unused, Src.isV, Src.isS, Src.isP, Src.isB, Src.isZero, Src.isExt, Src.waitOk, Src.sOrExt, Src.sExtZero, Src.sOrZero, Src.vsExt, Src.vsExtZero, Src.general, Src.typeCode] at h)
    (fun c b e => by
    simp [FM.legalWld, FM.loadDst, FM.baseOk, e, Spec.isV, Spec.isS, Spec.isP, Spec.isB, Spec.isZero, Spec.isSpecial, Spec.sAligned, Src.unused, Src.isV, Src.isS, Src.isP, Src.isB, Src.isZero, Src.isExt, Src.waitOk, Src.sOrExt, Src.sExtZero, Src.sOrZero, Src.vsExt, Src.vsExtZero, Src.general, Src.typeCode] at h)

theorem F3.legalWstat_plain (w : F3) (h : w.legalWstat = true) : w.plain = true :=
  F3.plain_of w
    (fun c e => by
    simp [F3.legalWstat, F3.lane1, F3.lane2, F3.lane3, F3.cmp, F3.laneDst, F3.pairs, F3.bare, F3.unguarded, F3.noSources, F3.uniformSrc, e, Spec.isV, Spec.isS, Spec.isP, Spec.isB, Spec.isZero, Spec.isSpecial, Spec.sAligned] at h)
    (fun c b e => by
    simp [F3.legalWstat, F3.lane1, F3.lane2, F3.lane3, F3.cmp, F3.laneDst, F3.pairs, F3.bare, F3.unguarded, F3.noSources, F3.uniformSrc, e, Spec.isV, Spec.isS, Spec.isP, Spec.isB, Spec.isZero, Spec.isSpecial, Spec.sAligned, Src.unused, Src.isV, Src.isS, Src.isP, Src.isB, Src.isZero, Src.isExt, Src.waitOk, Src.sOrExt, Src.sExtZero, Src.sOrZero, Src.vsExt, Src.vsExtZero, Src.general, Src.typeCode] at h)
    (fun c b e => by
    simp [F3.legalWstat, F3.lane1, F3.lane2, F3.lane3, F3.cmp, F3.laneDst, F3.pairs, F3.bare, F3.unguarded, F3.noSources, F3.uniformSrc, e, Spec.isV, Spec.isS, Spec.isP, Spec.isB, Spec.isZero, Spec.isSpecial, Spec.sAligned, Src.unused, Src.isV, Src.isS, Src.isP, Src.isB, Src.isZero, Src.isExt, Src.waitOk, Src.sOrExt, Src.sExtZero, Src.sOrZero, Src.vsExt, Src.vsExtZero, Src.general, Src.typeCode] at h)
    (fun c b e => by
    simp [F3.legalWstat, F3.lane1, F3.lane2, F3.lane3, F3.cmp, F3.laneDst, F3.pairs, F3.bare, F3.unguarded, F3.noSources, F3.uniformSrc, e, Spec.isV, Spec.isS, Spec.isP, Spec.isB, Spec.isZero, Spec.isSpecial, Spec.sAligned, Src.unused, Src.isV, Src.isS, Src.isP, Src.isB, Src.isZero, Src.isExt, Src.waitOk, Src.sOrExt, Src.sExtZero, Src.sOrZero, Src.vsExt, Src.vsExtZero, Src.general, Src.typeCode] at h)

theorem F3.legalTrb_plain (w : F3) (h : w.legalTrb = true) : w.plain = true :=
  F3.plain_of w
    (fun c e => by
    simp [F3.legalTrb, F3.lane1, F3.lane2, F3.lane3, F3.cmp, F3.laneDst, F3.pairs, F3.bare, F3.unguarded, F3.noSources, F3.uniformSrc, e, Spec.isV, Spec.isS, Spec.isP, Spec.isB, Spec.isZero, Spec.isSpecial, Spec.sAligned] at h)
    (fun c b e => by
    simp [F3.legalTrb, F3.lane1, F3.lane2, F3.lane3, F3.cmp, F3.laneDst, F3.pairs, F3.bare, F3.unguarded, F3.noSources, F3.uniformSrc, e, Spec.isV, Spec.isS, Spec.isP, Spec.isB, Spec.isZero, Spec.isSpecial, Spec.sAligned, Src.unused, Src.isV, Src.isS, Src.isP, Src.isB, Src.isZero, Src.isExt, Src.waitOk, Src.sOrExt, Src.sExtZero, Src.sOrZero, Src.vsExt, Src.vsExtZero, Src.general, Src.typeCode] at h)
    (fun c b e => by
    simp [F3.legalTrb, F3.lane1, F3.lane2, F3.lane3, F3.cmp, F3.laneDst, F3.pairs, F3.bare, F3.unguarded, F3.noSources, F3.uniformSrc, e, Spec.isV, Spec.isS, Spec.isP, Spec.isB, Spec.isZero, Spec.isSpecial, Spec.sAligned, Src.unused, Src.isV, Src.isS, Src.isP, Src.isB, Src.isZero, Src.isExt, Src.waitOk, Src.sOrExt, Src.sExtZero, Src.sOrZero, Src.vsExt, Src.vsExtZero, Src.general, Src.typeCode] at h)
    (fun c b e => by
    simp [F3.legalTrb, F3.lane1, F3.lane2, F3.lane3, F3.cmp, F3.laneDst, F3.pairs, F3.bare, F3.unguarded, F3.noSources, F3.uniformSrc, e, Spec.isV, Spec.isS, Spec.isP, Spec.isB, Spec.isZero, Spec.isSpecial, Spec.sAligned, Src.unused, Src.isV, Src.isS, Src.isP, Src.isB, Src.isZero, Src.isExt, Src.waitOk, Src.sOrExt, Src.sExtZero, Src.sOrZero, Src.vsExt, Src.vsExtZero, Src.general, Src.typeCode] at h)

theorem FM.legalPref_plain (w : FM) (h : w.legalPref = true) : w.plain = true :=
  FM.plain_of w
    (fun c e => by
    simp [FM.legalPref, FM.loadDst, FM.baseOk, e, Spec.isV, Spec.isS, Spec.isP, Spec.isB, Spec.isZero, Spec.isSpecial, Spec.sAligned] at h)
    (fun c b e => by
    simp [FM.legalPref, FM.loadDst, FM.baseOk, e, Spec.isV, Spec.isS, Spec.isP, Spec.isB, Spec.isZero, Spec.isSpecial, Spec.sAligned, Src.unused, Src.isV, Src.isS, Src.isP, Src.isB, Src.isZero, Src.isExt, Src.waitOk, Src.sOrExt, Src.sExtZero, Src.sOrZero, Src.vsExt, Src.vsExtZero, Src.general, Src.typeCode] at h)
    (fun c b e => by
    simp [FM.legalPref, FM.loadDst, FM.baseOk, e, Spec.isV, Spec.isS, Spec.isP, Spec.isB, Spec.isZero, Spec.isSpecial, Spec.sAligned, Src.unused, Src.isV, Src.isS, Src.isP, Src.isB, Src.isZero, Src.isExt, Src.waitOk, Src.sOrExt, Src.sExtZero, Src.sOrZero, Src.vsExt, Src.vsExtZero, Src.general, Src.typeCode] at h)
    (fun c b e => by
    simp [FM.legalPref, FM.loadDst, FM.baseOk, e, Spec.isV, Spec.isS, Spec.isP, Spec.isB, Spec.isZero, Spec.isSpecial, Spec.sAligned, Src.unused, Src.isV, Src.isS, Src.isP, Src.isB, Src.isZero, Src.isExt, Src.waitOk, Src.sOrExt, Src.sExtZero, Src.sOrZero, Src.vsExt, Src.vsExtZero, Src.general, Src.typeCode] at h)

theorem FM.legalAtom_plain (w : FM) (h : w.legalAtom = true) : w.plain = true :=
  FM.plain_of w
    (fun c e => by
    simp [FM.legalAtom, FM.loadDst, FM.baseOk, e, Spec.isV, Spec.isS, Spec.isP, Spec.isB, Spec.isZero, Spec.isSpecial, Spec.sAligned] at h)
    (fun c b e => by
    simp [FM.legalAtom, FM.loadDst, FM.baseOk, e, Spec.isV, Spec.isS, Spec.isP, Spec.isB, Spec.isZero, Spec.isSpecial, Spec.sAligned, Src.unused, Src.isV, Src.isS, Src.isP, Src.isB, Src.isZero, Src.isExt, Src.waitOk, Src.sOrExt, Src.sExtZero, Src.sOrZero, Src.vsExt, Src.vsExtZero, Src.general, Src.typeCode] at h)
    (fun c b e => by
    simp [FM.legalAtom, FM.loadDst, FM.baseOk, e, Spec.isV, Spec.isS, Spec.isP, Spec.isB, Spec.isZero, Spec.isSpecial, Spec.sAligned, Src.unused, Src.isV, Src.isS, Src.isP, Src.isB, Src.isZero, Src.isExt, Src.waitOk, Src.sOrExt, Src.sExtZero, Src.sOrZero, Src.vsExt, Src.vsExtZero, Src.general, Src.typeCode] at h)
    (fun c b e => by
    simp [FM.legalAtom, FM.loadDst, FM.baseOk, e, Spec.isV, Spec.isS, Spec.isP, Spec.isB, Spec.isZero, Spec.isSpecial, Spec.sAligned, Src.unused, Src.isV, Src.isS, Src.isP, Src.isB, Src.isZero, Src.isExt, Src.waitOk, Src.sOrExt, Src.sExtZero, Src.sOrZero, Src.vsExt, Src.vsExtZero, Src.general, Src.typeCode] at h)

theorem FM.legalCas_plain (w : FM) (h : w.legalCas = true) : w.plain = true :=
  FM.plain_of w
    (fun c e => by
    simp [FM.legalCas, FM.loadDst, FM.baseOk, e, Spec.isV, Spec.isS, Spec.isP, Spec.isB, Spec.isZero, Spec.isSpecial, Spec.sAligned] at h)
    (fun c b e => by
    simp [FM.legalCas, FM.loadDst, FM.baseOk, e, Spec.isV, Spec.isS, Spec.isP, Spec.isB, Spec.isZero, Spec.isSpecial, Spec.sAligned, Src.unused, Src.isV, Src.isS, Src.isP, Src.isB, Src.isZero, Src.isExt, Src.waitOk, Src.sOrExt, Src.sExtZero, Src.sOrZero, Src.vsExt, Src.vsExtZero, Src.general, Src.typeCode] at h)
    (fun c b e => by
    simp [FM.legalCas, FM.loadDst, FM.baseOk, e, Spec.isV, Spec.isS, Spec.isP, Spec.isB, Spec.isZero, Spec.isSpecial, Spec.sAligned, Src.unused, Src.isV, Src.isS, Src.isP, Src.isB, Src.isZero, Src.isExt, Src.waitOk, Src.sOrExt, Src.sExtZero, Src.sOrZero, Src.vsExt, Src.vsExtZero, Src.general, Src.typeCode] at h)
    (fun c b e => by
    simp [FM.legalCas, FM.loadDst, FM.baseOk, e, Spec.isV, Spec.isS, Spec.isP, Spec.isB, Spec.isZero, Spec.isSpecial, Spec.sAligned, Src.unused, Src.isV, Src.isS, Src.isP, Src.isB, Src.isZero, Src.isExt, Src.waitOk, Src.sOrExt, Src.sExtZero, Src.sOrZero, Src.vsExt, Src.vsExtZero, Src.general, Src.typeCode] at h)

theorem FM.legalLr_plain (w : FM) (h : w.legalLr = true) : w.plain = true :=
  FM.plain_of w
    (fun c e => by
    simp [FM.legalLr, FM.loadDst, FM.baseOk, e, Spec.isV, Spec.isS, Spec.isP, Spec.isB, Spec.isZero, Spec.isSpecial, Spec.sAligned] at h)
    (fun c b e => by
    simp [FM.legalLr, FM.loadDst, FM.baseOk, e, Spec.isV, Spec.isS, Spec.isP, Spec.isB, Spec.isZero, Spec.isSpecial, Spec.sAligned, Src.unused, Src.isV, Src.isS, Src.isP, Src.isB, Src.isZero, Src.isExt, Src.waitOk, Src.sOrExt, Src.sExtZero, Src.sOrZero, Src.vsExt, Src.vsExtZero, Src.general, Src.typeCode] at h)
    (fun c b e => by
    simp [FM.legalLr, FM.loadDst, FM.baseOk, e, Spec.isV, Spec.isS, Spec.isP, Spec.isB, Spec.isZero, Spec.isSpecial, Spec.sAligned, Src.unused, Src.isV, Src.isS, Src.isP, Src.isB, Src.isZero, Src.isExt, Src.waitOk, Src.sOrExt, Src.sExtZero, Src.sOrZero, Src.vsExt, Src.vsExtZero, Src.general, Src.typeCode] at h)
    (fun c b e => by
    simp [FM.legalLr, FM.loadDst, FM.baseOk, e, Spec.isV, Spec.isS, Spec.isP, Spec.isB, Spec.isZero, Spec.isSpecial, Spec.sAligned, Src.unused, Src.isV, Src.isS, Src.isP, Src.isB, Src.isZero, Src.isExt, Src.waitOk, Src.sOrExt, Src.sExtZero, Src.sOrZero, Src.vsExt, Src.vsExtZero, Src.general, Src.typeCode] at h)

theorem FM.legalSc_plain (w : FM) (h : w.legalSc = true) : w.plain = true :=
  FM.plain_of w
    (fun c e => by
    simp [FM.legalSc, FM.loadDst, FM.baseOk, e, Spec.isV, Spec.isS, Spec.isP, Spec.isB, Spec.isZero, Spec.isSpecial, Spec.sAligned] at h)
    (fun c b e => by
    simp [FM.legalSc, FM.loadDst, FM.baseOk, e, Spec.isV, Spec.isS, Spec.isP, Spec.isB, Spec.isZero, Spec.isSpecial, Spec.sAligned, Src.unused, Src.isV, Src.isS, Src.isP, Src.isB, Src.isZero, Src.isExt, Src.waitOk, Src.sOrExt, Src.sExtZero, Src.sOrZero, Src.vsExt, Src.vsExtZero, Src.general, Src.typeCode] at h)
    (fun c b e => by
    simp [FM.legalSc, FM.loadDst, FM.baseOk, e, Spec.isV, Spec.isS, Spec.isP, Spec.isB, Spec.isZero, Spec.isSpecial, Spec.sAligned, Src.unused, Src.isV, Src.isS, Src.isP, Src.isB, Src.isZero, Src.isExt, Src.waitOk, Src.sOrExt, Src.sExtZero, Src.sOrZero, Src.vsExt, Src.vsExtZero, Src.general, Src.typeCode] at h)
    (fun c b e => by
    simp [FM.legalSc, FM.loadDst, FM.baseOk, e, Spec.isV, Spec.isS, Spec.isP, Spec.isB, Spec.isZero, Spec.isSpecial, Spec.sAligned, Src.unused, Src.isV, Src.isS, Src.isP, Src.isB, Src.isZero, Src.isExt, Src.waitOk, Src.sOrExt, Src.sExtZero, Src.sOrZero, Src.vsExt, Src.vsExtZero, Src.general, Src.typeCode] at h)

theorem FM.legalFence_plain (w : FM) (h : w.legalFence = true) : w.plain = true :=
  FM.plain_of w
    (fun c e => by
    simp [FM.legalFence, FM.loadDst, FM.baseOk, e, Spec.isV, Spec.isS, Spec.isP, Spec.isB, Spec.isZero, Spec.isSpecial, Spec.sAligned] at h)
    (fun c b e => by
    simp [FM.legalFence, FM.loadDst, FM.baseOk, e, Spec.isV, Spec.isS, Spec.isP, Spec.isB, Spec.isZero, Spec.isSpecial, Spec.sAligned, Src.unused, Src.isV, Src.isS, Src.isP, Src.isB, Src.isZero, Src.isExt, Src.waitOk, Src.sOrExt, Src.sExtZero, Src.sOrZero, Src.vsExt, Src.vsExtZero, Src.general, Src.typeCode] at h)
    (fun c b e => by
    simp [FM.legalFence, FM.loadDst, FM.baseOk, e, Spec.isV, Spec.isS, Spec.isP, Spec.isB, Spec.isZero, Spec.isSpecial, Spec.sAligned, Src.unused, Src.isV, Src.isS, Src.isP, Src.isB, Src.isZero, Src.isExt, Src.waitOk, Src.sOrExt, Src.sExtZero, Src.sOrZero, Src.vsExt, Src.vsExtZero, Src.general, Src.typeCode] at h)
    (fun c b e => by
    simp [FM.legalFence, FM.loadDst, FM.baseOk, e, Spec.isV, Spec.isS, Spec.isP, Spec.isB, Spec.isZero, Spec.isSpecial, Spec.sAligned, Src.unused, Src.isV, Src.isS, Src.isP, Src.isB, Src.isZero, Src.isExt, Src.waitOk, Src.sOrExt, Src.sExtZero, Src.sOrZero, Src.vsExt, Src.vsExtZero, Src.general, Src.typeCode] at h)

theorem F3.legalXfence_plain (w : F3) (h : w.legalXfence = true) : w.plain = true :=
  F3.plain_of w
    (fun c e => by
    simp [F3.legalXfence, F3.lane1, F3.lane2, F3.lane3, F3.cmp, F3.laneDst, F3.pairs, F3.bare, F3.unguarded, F3.noSources, F3.uniformSrc, e, Spec.isV, Spec.isS, Spec.isP, Spec.isB, Spec.isZero, Spec.isSpecial, Spec.sAligned] at h)
    (fun c b e => by
    simp [F3.legalXfence, F3.lane1, F3.lane2, F3.lane3, F3.cmp, F3.laneDst, F3.pairs, F3.bare, F3.unguarded, F3.noSources, F3.uniformSrc, e, Spec.isV, Spec.isS, Spec.isP, Spec.isB, Spec.isZero, Spec.isSpecial, Spec.sAligned, Src.unused, Src.isV, Src.isS, Src.isP, Src.isB, Src.isZero, Src.isExt, Src.waitOk, Src.sOrExt, Src.sExtZero, Src.sOrZero, Src.vsExt, Src.vsExtZero, Src.general, Src.typeCode] at h)
    (fun c b e => by
    simp [F3.legalXfence, F3.lane1, F3.lane2, F3.lane3, F3.cmp, F3.laneDst, F3.pairs, F3.bare, F3.unguarded, F3.noSources, F3.uniformSrc, e, Spec.isV, Spec.isS, Spec.isP, Spec.isB, Spec.isZero, Spec.isSpecial, Spec.sAligned, Src.unused, Src.isV, Src.isS, Src.isP, Src.isB, Src.isZero, Src.isExt, Src.waitOk, Src.sOrExt, Src.sExtZero, Src.sOrZero, Src.vsExt, Src.vsExtZero, Src.general, Src.typeCode] at h)
    (fun c b e => by
    simp [F3.legalXfence, F3.lane1, F3.lane2, F3.lane3, F3.cmp, F3.laneDst, F3.pairs, F3.bare, F3.unguarded, F3.noSources, F3.uniformSrc, e, Spec.isV, Spec.isS, Spec.isP, Spec.isB, Spec.isZero, Spec.isSpecial, Spec.sAligned, Src.unused, Src.isV, Src.isS, Src.isP, Src.isB, Src.isZero, Src.isExt, Src.waitOk, Src.sOrExt, Src.sExtZero, Src.sOrZero, Src.vsExt, Src.vsExtZero, Src.general, Src.typeCode] at h)

theorem FX.legalCpy_plain (w : FX) (h : w.legalCpy = true) : w.plain = true :=
  FX.plain_of w
    (fun c e => by
    simp [FX.legalCpy, FX.fieldsOk, FX.oneOperand, e, Spec.isV, Spec.isS, Spec.isP, Spec.isB, Spec.isZero, Spec.isSpecial, Spec.sAligned] at h)
    (fun c b e => by
    simp [FX.legalCpy, FX.fieldsOk, FX.oneOperand, e, Spec.isV, Spec.isS, Spec.isP, Spec.isB, Spec.isZero, Spec.isSpecial, Spec.sAligned, Src.unused, Src.isV, Src.isS, Src.isP, Src.isB, Src.isZero, Src.isExt, Src.waitOk, Src.sOrExt, Src.sExtZero, Src.sOrZero, Src.vsExt, Src.vsExtZero, Src.general, Src.typeCode] at h)
    (fun c b e => by
    simp [FX.legalCpy, FX.fieldsOk, FX.oneOperand, e, Spec.isV, Spec.isS, Spec.isP, Spec.isB, Spec.isZero, Spec.isSpecial, Spec.sAligned, Src.unused, Src.isV, Src.isS, Src.isP, Src.isB, Src.isZero, Src.isExt, Src.waitOk, Src.sOrExt, Src.sExtZero, Src.sOrZero, Src.vsExt, Src.vsExtZero, Src.general, Src.typeCode] at h)
    (fun c b e => by
    simp [FX.legalCpy, FX.fieldsOk, FX.oneOperand, e, Spec.isV, Spec.isS, Spec.isP, Spec.isB, Spec.isZero, Spec.isSpecial, Spec.sAligned, Src.unused, Src.isV, Src.isS, Src.isP, Src.isB, Src.isZero, Src.isExt, Src.waitOk, Src.sOrExt, Src.sExtZero, Src.sOrZero, Src.vsExt, Src.vsExtZero, Src.general, Src.typeCode] at h)

theorem FX.legalCpyg_plain (w : FX) (h : w.legalCpyg = true) : w.plain = true :=
  FX.plain_of w
    (fun c e => by
    simp [FX.legalCpyg, FX.fieldsOk, FX.oneOperand, e, Spec.isV, Spec.isS, Spec.isP, Spec.isB, Spec.isZero, Spec.isSpecial, Spec.sAligned] at h)
    (fun c b e => by
    simp [FX.legalCpyg, FX.fieldsOk, FX.oneOperand, e, Spec.isV, Spec.isS, Spec.isP, Spec.isB, Spec.isZero, Spec.isSpecial, Spec.sAligned, Src.unused, Src.isV, Src.isS, Src.isP, Src.isB, Src.isZero, Src.isExt, Src.waitOk, Src.sOrExt, Src.sExtZero, Src.sOrZero, Src.vsExt, Src.vsExtZero, Src.general, Src.typeCode] at h)
    (fun c b e => by
    simp [FX.legalCpyg, FX.fieldsOk, FX.oneOperand, e, Spec.isV, Spec.isS, Spec.isP, Spec.isB, Spec.isZero, Spec.isSpecial, Spec.sAligned, Src.unused, Src.isV, Src.isS, Src.isP, Src.isB, Src.isZero, Src.isExt, Src.waitOk, Src.sOrExt, Src.sExtZero, Src.sOrZero, Src.vsExt, Src.vsExtZero, Src.general, Src.typeCode] at h)
    (fun c b e => by
    simp [FX.legalCpyg, FX.fieldsOk, FX.oneOperand, e, Spec.isV, Spec.isS, Spec.isP, Spec.isB, Spec.isZero, Spec.isSpecial, Spec.sAligned, Src.unused, Src.isV, Src.isS, Src.isP, Src.isB, Src.isZero, Src.isExt, Src.waitOk, Src.sOrExt, Src.sExtZero, Src.sOrZero, Src.vsExt, Src.vsExtZero, Src.general, Src.typeCode] at h)

theorem FX.legalCpys_plain (w : FX) (h : w.legalCpys = true) : w.plain = true :=
  FX.plain_of w
    (fun c e => by
    simp [FX.legalCpys, FX.fieldsOk, FX.oneOperand, e, Spec.isV, Spec.isS, Spec.isP, Spec.isB, Spec.isZero, Spec.isSpecial, Spec.sAligned] at h)
    (fun c b e => by
    simp [FX.legalCpys, FX.fieldsOk, FX.oneOperand, e, Spec.isV, Spec.isS, Spec.isP, Spec.isB, Spec.isZero, Spec.isSpecial, Spec.sAligned, Src.unused, Src.isV, Src.isS, Src.isP, Src.isB, Src.isZero, Src.isExt, Src.waitOk, Src.sOrExt, Src.sExtZero, Src.sOrZero, Src.vsExt, Src.vsExtZero, Src.general, Src.typeCode] at h)
    (fun c b e => by
    simp [FX.legalCpys, FX.fieldsOk, FX.oneOperand, e, Spec.isV, Spec.isS, Spec.isP, Spec.isB, Spec.isZero, Spec.isSpecial, Spec.sAligned, Src.unused, Src.isV, Src.isS, Src.isP, Src.isB, Src.isZero, Src.isExt, Src.waitOk, Src.sOrExt, Src.sExtZero, Src.sOrZero, Src.vsExt, Src.vsExtZero, Src.general, Src.typeCode] at h)
    (fun c b e => by
    simp [FX.legalCpys, FX.fieldsOk, FX.oneOperand, e, Spec.isV, Spec.isS, Spec.isP, Spec.isB, Spec.isZero, Spec.isSpecial, Spec.sAligned, Src.unused, Src.isV, Src.isS, Src.isP, Src.isB, Src.isZero, Src.isExt, Src.waitOk, Src.sOrExt, Src.sExtZero, Src.sOrZero, Src.vsExt, Src.vsExtZero, Src.general, Src.typeCode] at h)

theorem FX.legalCpyr_plain (w : FX) (h : w.legalCpyr = true) : w.plain = true :=
  FX.plain_of w
    (fun c e => by
    simp [FX.legalCpyr, FX.fieldsOk, FX.oneOperand, e, Spec.isV, Spec.isS, Spec.isP, Spec.isB, Spec.isZero, Spec.isSpecial, Spec.sAligned] at h)
    (fun c b e => by
    simp [FX.legalCpyr, FX.fieldsOk, FX.oneOperand, e, Spec.isV, Spec.isS, Spec.isP, Spec.isB, Spec.isZero, Spec.isSpecial, Spec.sAligned, Src.unused, Src.isV, Src.isS, Src.isP, Src.isB, Src.isZero, Src.isExt, Src.waitOk, Src.sOrExt, Src.sExtZero, Src.sOrZero, Src.vsExt, Src.vsExtZero, Src.general, Src.typeCode] at h)
    (fun c b e => by
    simp [FX.legalCpyr, FX.fieldsOk, FX.oneOperand, e, Spec.isV, Spec.isS, Spec.isP, Spec.isB, Spec.isZero, Spec.isSpecial, Spec.sAligned, Src.unused, Src.isV, Src.isS, Src.isP, Src.isB, Src.isZero, Src.isExt, Src.waitOk, Src.sOrExt, Src.sExtZero, Src.sOrZero, Src.vsExt, Src.vsExtZero, Src.general, Src.typeCode] at h)
    (fun c b e => by
    simp [FX.legalCpyr, FX.fieldsOk, FX.oneOperand, e, Spec.isV, Spec.isS, Spec.isP, Spec.isB, Spec.isZero, Spec.isSpecial, Spec.sAligned, Src.unused, Src.isV, Src.isS, Src.isP, Src.isB, Src.isZero, Src.isExt, Src.waitOk, Src.sOrExt, Src.sExtZero, Src.sOrZero, Src.vsExt, Src.vsExtZero, Src.general, Src.typeCode] at h)

theorem FX.legalCpyh_plain (w : FX) (h : w.legalCpyh = true) : w.plain = true :=
  FX.plain_of w
    (fun c e => by
    simp [FX.legalCpyh, FX.fieldsOk, FX.oneOperand, e, Spec.isV, Spec.isS, Spec.isP, Spec.isB, Spec.isZero, Spec.isSpecial, Spec.sAligned] at h)
    (fun c b e => by
    simp [FX.legalCpyh, FX.fieldsOk, FX.oneOperand, e, Spec.isV, Spec.isS, Spec.isP, Spec.isB, Spec.isZero, Spec.isSpecial, Spec.sAligned, Src.unused, Src.isV, Src.isS, Src.isP, Src.isB, Src.isZero, Src.isExt, Src.waitOk, Src.sOrExt, Src.sExtZero, Src.sOrZero, Src.vsExt, Src.vsExtZero, Src.general, Src.typeCode] at h)
    (fun c b e => by
    simp [FX.legalCpyh, FX.fieldsOk, FX.oneOperand, e, Spec.isV, Spec.isS, Spec.isP, Spec.isB, Spec.isZero, Spec.isSpecial, Spec.sAligned, Src.unused, Src.isV, Src.isS, Src.isP, Src.isB, Src.isZero, Src.isExt, Src.waitOk, Src.sOrExt, Src.sExtZero, Src.sOrZero, Src.vsExt, Src.vsExtZero, Src.general, Src.typeCode] at h)
    (fun c b e => by
    simp [FX.legalCpyh, FX.fieldsOk, FX.oneOperand, e, Spec.isV, Spec.isS, Spec.isP, Spec.isB, Spec.isZero, Spec.isSpecial, Spec.sAligned, Src.unused, Src.isV, Src.isS, Src.isP, Src.isB, Src.isZero, Src.isExt, Src.waitOk, Src.sOrExt, Src.sExtZero, Src.sOrZero, Src.vsExt, Src.vsExtZero, Src.general, Src.typeCode] at h)

theorem FX.legalCrel_plain (w : FX) (h : w.legalCrel = true) : w.plain = true :=
  FX.plain_of w
    (fun c e => by
    simp [FX.legalCrel, FX.fieldsOk, FX.oneOperand, e, Spec.isV, Spec.isS, Spec.isP, Spec.isB, Spec.isZero, Spec.isSpecial, Spec.sAligned] at h)
    (fun c b e => by
    simp [FX.legalCrel, FX.fieldsOk, FX.oneOperand, e, Spec.isV, Spec.isS, Spec.isP, Spec.isB, Spec.isZero, Spec.isSpecial, Spec.sAligned, Src.unused, Src.isV, Src.isS, Src.isP, Src.isB, Src.isZero, Src.isExt, Src.waitOk, Src.sOrExt, Src.sExtZero, Src.sOrZero, Src.vsExt, Src.vsExtZero, Src.general, Src.typeCode] at h)
    (fun c b e => by
    simp [FX.legalCrel, FX.fieldsOk, FX.oneOperand, e, Spec.isV, Spec.isS, Spec.isP, Spec.isB, Spec.isZero, Spec.isSpecial, Spec.sAligned, Src.unused, Src.isV, Src.isS, Src.isP, Src.isB, Src.isZero, Src.isExt, Src.waitOk, Src.sOrExt, Src.sExtZero, Src.sOrZero, Src.vsExt, Src.vsExtZero, Src.general, Src.typeCode] at h)
    (fun c b e => by
    simp [FX.legalCrel, FX.fieldsOk, FX.oneOperand, e, Spec.isV, Spec.isS, Spec.isP, Spec.isB, Spec.isZero, Spec.isSpecial, Spec.sAligned, Src.unused, Src.isV, Src.isS, Src.isP, Src.isB, Src.isZero, Src.isExt, Src.waitOk, Src.sOrExt, Src.sExtZero, Src.sOrZero, Src.vsExt, Src.vsExtZero, Src.general, Src.typeCode] at h)

theorem F3.legalBin_plain (w : F3) (h : w.legalBin = true) : w.plain = true :=
  F3.plain_of w
    (fun c e => by
    simp [F3.legalBin, F3.lane1, F3.lane2, F3.lane3, F3.cmp, F3.laneDst, F3.pairs, F3.bare, F3.unguarded, F3.noSources, F3.uniformSrc, e, Spec.isV, Spec.isS, Spec.isP, Spec.isB, Spec.isZero, Spec.isSpecial, Spec.sAligned] at h)
    (fun c b e => by
    simp [F3.legalBin, F3.lane1, F3.lane2, F3.lane3, F3.cmp, F3.laneDst, F3.pairs, F3.bare, F3.unguarded, F3.noSources, F3.uniformSrc, e, Spec.isV, Spec.isS, Spec.isP, Spec.isB, Spec.isZero, Spec.isSpecial, Spec.sAligned, Src.unused, Src.isV, Src.isS, Src.isP, Src.isB, Src.isZero, Src.isExt, Src.waitOk, Src.sOrExt, Src.sExtZero, Src.sOrZero, Src.vsExt, Src.vsExtZero, Src.general, Src.typeCode] at h)
    (fun c b e => by
    simp [F3.legalBin, F3.lane1, F3.lane2, F3.lane3, F3.cmp, F3.laneDst, F3.pairs, F3.bare, F3.unguarded, F3.noSources, F3.uniformSrc, e, Spec.isV, Spec.isS, Spec.isP, Spec.isB, Spec.isZero, Spec.isSpecial, Spec.sAligned, Src.unused, Src.isV, Src.isS, Src.isP, Src.isB, Src.isZero, Src.isExt, Src.waitOk, Src.sOrExt, Src.sExtZero, Src.sOrZero, Src.vsExt, Src.vsExtZero, Src.general, Src.typeCode] at h)
    (fun c b e => by
    simp [F3.legalBin, F3.lane1, F3.lane2, F3.lane3, F3.cmp, F3.laneDst, F3.pairs, F3.bare, F3.unguarded, F3.noSources, F3.uniformSrc, e, Spec.isV, Spec.isS, Spec.isP, Spec.isB, Spec.isZero, Spec.isSpecial, Spec.sAligned, Src.unused, Src.isV, Src.isS, Src.isP, Src.isB, Src.isZero, Src.isExt, Src.waitOk, Src.sOrExt, Src.sExtZero, Src.sOrZero, Src.vsExt, Src.vsExtZero, Src.general, Src.typeCode] at h)

theorem FX.legalBpatch_plain (w : FX) (h : w.legalBpatch = true) : w.plain = true :=
  FX.plain_of w
    (fun c e => by
    simp [FX.legalBpatch, FX.fieldsOk, FX.oneOperand, e, Spec.isV, Spec.isS, Spec.isP, Spec.isB, Spec.isZero, Spec.isSpecial, Spec.sAligned] at h)
    (fun c b e => by
    simp [FX.legalBpatch, FX.fieldsOk, FX.oneOperand, e, Spec.isV, Spec.isS, Spec.isP, Spec.isB, Spec.isZero, Spec.isSpecial, Spec.sAligned, Src.unused, Src.isV, Src.isS, Src.isP, Src.isB, Src.isZero, Src.isExt, Src.waitOk, Src.sOrExt, Src.sExtZero, Src.sOrZero, Src.vsExt, Src.vsExtZero, Src.general, Src.typeCode] at h)
    (fun c b e => by
    simp [FX.legalBpatch, FX.fieldsOk, FX.oneOperand, e, Spec.isV, Spec.isS, Spec.isP, Spec.isB, Spec.isZero, Spec.isSpecial, Spec.sAligned, Src.unused, Src.isV, Src.isS, Src.isP, Src.isB, Src.isZero, Src.isExt, Src.waitOk, Src.sOrExt, Src.sExtZero, Src.sOrZero, Src.vsExt, Src.vsExtZero, Src.general, Src.typeCode] at h)
    (fun c b e => by
    simp [FX.legalBpatch, FX.fieldsOk, FX.oneOperand, e, Spec.isV, Spec.isS, Spec.isP, Spec.isB, Spec.isZero, Spec.isSpecial, Spec.sAligned, Src.unused, Src.isV, Src.isS, Src.isP, Src.isB, Src.isZero, Src.isExt, Src.waitOk, Src.sOrExt, Src.sExtZero, Src.sOrZero, Src.vsExt, Src.vsExtZero, Src.general, Src.typeCode] at h)

theorem F3.legalAwset_plain (w : F3) (h : w.legalAwset = true) : w.plain = true :=
  F3.plain_of w
    (fun c e => by
    simp [F3.legalAwset, F3.lane1, F3.lane2, F3.lane3, F3.cmp, F3.laneDst, F3.pairs, F3.bare, F3.unguarded, F3.noSources, F3.uniformSrc, e, Spec.isV, Spec.isS, Spec.isP, Spec.isB, Spec.isZero, Spec.isSpecial, Spec.sAligned] at h)
    (fun c b e => by
    simp [F3.legalAwset, F3.lane1, F3.lane2, F3.lane3, F3.cmp, F3.laneDst, F3.pairs, F3.bare, F3.unguarded, F3.noSources, F3.uniformSrc, e, Spec.isV, Spec.isS, Spec.isP, Spec.isB, Spec.isZero, Spec.isSpecial, Spec.sAligned, Src.unused, Src.isV, Src.isS, Src.isP, Src.isB, Src.isZero, Src.isExt, Src.waitOk, Src.sOrExt, Src.sExtZero, Src.sOrZero, Src.vsExt, Src.vsExtZero, Src.general, Src.typeCode] at h)
    (fun c b e => by
    simp [F3.legalAwset, F3.lane1, F3.lane2, F3.lane3, F3.cmp, F3.laneDst, F3.pairs, F3.bare, F3.unguarded, F3.noSources, F3.uniformSrc, e, Spec.isV, Spec.isS, Spec.isP, Spec.isB, Spec.isZero, Spec.isSpecial, Spec.sAligned, Src.unused, Src.isV, Src.isS, Src.isP, Src.isB, Src.isZero, Src.isExt, Src.waitOk, Src.sOrExt, Src.sExtZero, Src.sOrZero, Src.vsExt, Src.vsExtZero, Src.general, Src.typeCode] at h)
    (fun c b e => by
    simp [F3.legalAwset, F3.lane1, F3.lane2, F3.lane3, F3.cmp, F3.laneDst, F3.pairs, F3.bare, F3.unguarded, F3.noSources, F3.uniformSrc, e, Spec.isV, Spec.isS, Spec.isP, Spec.isB, Spec.isZero, Spec.isSpecial, Spec.sAligned, Src.unused, Src.isV, Src.isS, Src.isP, Src.isB, Src.isZero, Src.isExt, Src.waitOk, Src.sOrExt, Src.sExtZero, Src.sOrZero, Src.vsExt, Src.vsExtZero, Src.general, Src.typeCode] at h)

theorem F3.legalAwwait_plain (w : F3) (h : w.legalAwwait = true) : w.plain = true :=
  F3.plain_of w
    (fun c e => by
    simp [F3.legalAwwait, F3.lane1, F3.lane2, F3.lane3, F3.cmp, F3.laneDst, F3.pairs, F3.bare, F3.unguarded, F3.noSources, F3.uniformSrc, e, Spec.isV, Spec.isS, Spec.isP, Spec.isB, Spec.isZero, Spec.isSpecial, Spec.sAligned] at h)
    (fun c b e => by
    simp [F3.legalAwwait, F3.lane1, F3.lane2, F3.lane3, F3.cmp, F3.laneDst, F3.pairs, F3.bare, F3.unguarded, F3.noSources, F3.uniformSrc, e, Spec.isV, Spec.isS, Spec.isP, Spec.isB, Spec.isZero, Spec.isSpecial, Spec.sAligned, Src.unused, Src.isV, Src.isS, Src.isP, Src.isB, Src.isZero, Src.isExt, Src.waitOk, Src.sOrExt, Src.sExtZero, Src.sOrZero, Src.vsExt, Src.vsExtZero, Src.general, Src.typeCode] at h)
    (fun c b e => by
    simp [F3.legalAwwait, F3.lane1, F3.lane2, F3.lane3, F3.cmp, F3.laneDst, F3.pairs, F3.bare, F3.unguarded, F3.noSources, F3.uniformSrc, e, Spec.isV, Spec.isS, Spec.isP, Spec.isB, Spec.isZero, Spec.isSpecial, Spec.sAligned, Src.unused, Src.isV, Src.isS, Src.isP, Src.isB, Src.isZero, Src.isExt, Src.waitOk, Src.sOrExt, Src.sExtZero, Src.sOrZero, Src.vsExt, Src.vsExtZero, Src.general, Src.typeCode] at h)
    (fun c b e => by
    simp [F3.legalAwwait, F3.lane1, F3.lane2, F3.lane3, F3.cmp, F3.laneDst, F3.pairs, F3.bare, F3.unguarded, F3.noSources, F3.uniformSrc, e, Spec.isV, Spec.isS, Spec.isP, Spec.isB, Spec.isZero, Spec.isSpecial, Spec.sAligned, Src.unused, Src.isV, Src.isS, Src.isP, Src.isB, Src.isZero, Src.isExt, Src.waitOk, Src.sOrExt, Src.sExtZero, Src.sOrZero, Src.vsExt, Src.vsExtZero, Src.general, Src.typeCode] at h)

theorem F3.legalAwgen_plain (w : F3) (h : w.legalAwgen = true) : w.plain = true :=
  F3.plain_of w
    (fun c e => by
    simp [F3.legalAwgen, F3.lane1, F3.lane2, F3.lane3, F3.cmp, F3.laneDst, F3.pairs, F3.bare, F3.unguarded, F3.noSources, F3.uniformSrc, e, Spec.isV, Spec.isS, Spec.isP, Spec.isB, Spec.isZero, Spec.isSpecial, Spec.sAligned] at h)
    (fun c b e => by
    simp [F3.legalAwgen, F3.lane1, F3.lane2, F3.lane3, F3.cmp, F3.laneDst, F3.pairs, F3.bare, F3.unguarded, F3.noSources, F3.uniformSrc, e, Spec.isV, Spec.isS, Spec.isP, Spec.isB, Spec.isZero, Spec.isSpecial, Spec.sAligned, Src.unused, Src.isV, Src.isS, Src.isP, Src.isB, Src.isZero, Src.isExt, Src.waitOk, Src.sOrExt, Src.sExtZero, Src.sOrZero, Src.vsExt, Src.vsExtZero, Src.general, Src.typeCode] at h)
    (fun c b e => by
    simp [F3.legalAwgen, F3.lane1, F3.lane2, F3.lane3, F3.cmp, F3.laneDst, F3.pairs, F3.bare, F3.unguarded, F3.noSources, F3.uniformSrc, e, Spec.isV, Spec.isS, Spec.isP, Spec.isB, Spec.isZero, Spec.isSpecial, Spec.sAligned, Src.unused, Src.isV, Src.isS, Src.isP, Src.isB, Src.isZero, Src.isExt, Src.waitOk, Src.sOrExt, Src.sExtZero, Src.sOrZero, Src.vsExt, Src.vsExtZero, Src.general, Src.typeCode] at h)
    (fun c b e => by
    simp [F3.legalAwgen, F3.lane1, F3.lane2, F3.lane3, F3.cmp, F3.laneDst, F3.pairs, F3.bare, F3.unguarded, F3.noSources, F3.uniformSrc, e, Spec.isV, Spec.isS, Spec.isP, Spec.isB, Spec.isZero, Spec.isSpecial, Spec.sAligned, Src.unused, Src.isV, Src.isS, Src.isP, Src.isB, Src.isZero, Src.isExt, Src.waitOk, Src.sOrExt, Src.sExtZero, Src.sOrZero, Src.vsExt, Src.vsExtZero, Src.general, Src.typeCode] at h)

theorem F3.legalLmm_plain (w : F3) (h : w.legalLmm = true) : w.plain = true :=
  F3.plain_of w
    (fun c e => by
    simp [F3.legalLmm, F3.lane1, F3.lane2, F3.lane3, F3.cmp, F3.laneDst, F3.pairs, F3.bare, F3.unguarded, F3.noSources, F3.uniformSrc, e, Spec.isV, Spec.isS, Spec.isP, Spec.isB, Spec.isZero, Spec.isSpecial, Spec.sAligned] at h)
    (fun c b e => by
    simp [F3.legalLmm, F3.lane1, F3.lane2, F3.lane3, F3.cmp, F3.laneDst, F3.pairs, F3.bare, F3.unguarded, F3.noSources, F3.uniformSrc, e, Spec.isV, Spec.isS, Spec.isP, Spec.isB, Spec.isZero, Spec.isSpecial, Spec.sAligned, Src.unused, Src.isV, Src.isS, Src.isP, Src.isB, Src.isZero, Src.isExt, Src.waitOk, Src.sOrExt, Src.sExtZero, Src.sOrZero, Src.vsExt, Src.vsExtZero, Src.general, Src.typeCode] at h)
    (fun c b e => by
    simp [F3.legalLmm, F3.lane1, F3.lane2, F3.lane3, F3.cmp, F3.laneDst, F3.pairs, F3.bare, F3.unguarded, F3.noSources, F3.uniformSrc, e, Spec.isV, Spec.isS, Spec.isP, Spec.isB, Spec.isZero, Spec.isSpecial, Spec.sAligned, Src.unused, Src.isV, Src.isS, Src.isP, Src.isB, Src.isZero, Src.isExt, Src.waitOk, Src.sOrExt, Src.sExtZero, Src.sOrZero, Src.vsExt, Src.vsExtZero, Src.general, Src.typeCode] at h)
    (fun c b e => by
    simp [F3.legalLmm, F3.lane1, F3.lane2, F3.lane3, F3.cmp, F3.laneDst, F3.pairs, F3.bare, F3.unguarded, F3.noSources, F3.uniformSrc, e, Spec.isV, Spec.isS, Spec.isP, Spec.isB, Spec.isZero, Spec.isSpecial, Spec.sAligned, Src.unused, Src.isV, Src.isS, Src.isP, Src.isB, Src.isZero, Src.isExt, Src.waitOk, Src.sOrExt, Src.sExtZero, Src.sOrZero, Src.vsExt, Src.vsExtZero, Src.general, Src.typeCode] at h)

theorem F3.legalMrd_plain (w : F3) (h : w.legalMrd = true) : w.plain = true :=
  F3.plain_of w
    (fun c e => by
    simp [F3.legalMrd, F3.lane1, F3.lane2, F3.lane3, F3.cmp, F3.laneDst, F3.pairs, F3.bare, F3.unguarded, F3.noSources, F3.uniformSrc, e, Spec.isV, Spec.isS, Spec.isP, Spec.isB, Spec.isZero, Spec.isSpecial, Spec.sAligned] at h)
    (fun c b e => by
    simp [F3.legalMrd, F3.lane1, F3.lane2, F3.lane3, F3.cmp, F3.laneDst, F3.pairs, F3.bare, F3.unguarded, F3.noSources, F3.uniformSrc, e, Spec.isV, Spec.isS, Spec.isP, Spec.isB, Spec.isZero, Spec.isSpecial, Spec.sAligned, Src.unused, Src.isV, Src.isS, Src.isP, Src.isB, Src.isZero, Src.isExt, Src.waitOk, Src.sOrExt, Src.sExtZero, Src.sOrZero, Src.vsExt, Src.vsExtZero, Src.general, Src.typeCode] at h)
    (fun c b e => by
    simp [F3.legalMrd, F3.lane1, F3.lane2, F3.lane3, F3.cmp, F3.laneDst, F3.pairs, F3.bare, F3.unguarded, F3.noSources, F3.uniformSrc, e, Spec.isV, Spec.isS, Spec.isP, Spec.isB, Spec.isZero, Spec.isSpecial, Spec.sAligned, Src.unused, Src.isV, Src.isS, Src.isP, Src.isB, Src.isZero, Src.isExt, Src.waitOk, Src.sOrExt, Src.sExtZero, Src.sOrZero, Src.vsExt, Src.vsExtZero, Src.general, Src.typeCode] at h)
    (fun c b e => by
    simp [F3.legalMrd, F3.lane1, F3.lane2, F3.lane3, F3.cmp, F3.laneDst, F3.pairs, F3.bare, F3.unguarded, F3.noSources, F3.uniformSrc, e, Spec.isV, Spec.isS, Spec.isP, Spec.isB, Spec.isZero, Spec.isSpecial, Spec.sAligned, Src.unused, Src.isV, Src.isS, Src.isP, Src.isB, Src.isZero, Src.isExt, Src.waitOk, Src.sOrExt, Src.sExtZero, Src.sOrZero, Src.vsExt, Src.vsExtZero, Src.general, Src.typeCode] at h)

theorem F3.legalMwr_plain (w : F3) (h : w.legalMwr = true) : w.plain = true :=
  F3.plain_of w
    (fun c e => by
    simp [F3.legalMwr, F3.lane1, F3.lane2, F3.lane3, F3.cmp, F3.laneDst, F3.pairs, F3.bare, F3.unguarded, F3.noSources, F3.uniformSrc, e, Spec.isV, Spec.isS, Spec.isP, Spec.isB, Spec.isZero, Spec.isSpecial, Spec.sAligned] at h)
    (fun c b e => by
    simp [F3.legalMwr, F3.lane1, F3.lane2, F3.lane3, F3.cmp, F3.laneDst, F3.pairs, F3.bare, F3.unguarded, F3.noSources, F3.uniformSrc, e, Spec.isV, Spec.isS, Spec.isP, Spec.isB, Spec.isZero, Spec.isSpecial, Spec.sAligned, Src.unused, Src.isV, Src.isS, Src.isP, Src.isB, Src.isZero, Src.isExt, Src.waitOk, Src.sOrExt, Src.sExtZero, Src.sOrZero, Src.vsExt, Src.vsExtZero, Src.general, Src.typeCode] at h)
    (fun c b e => by
    simp [F3.legalMwr, F3.lane1, F3.lane2, F3.lane3, F3.cmp, F3.laneDst, F3.pairs, F3.bare, F3.unguarded, F3.noSources, F3.uniformSrc, e, Spec.isV, Spec.isS, Spec.isP, Spec.isB, Spec.isZero, Spec.isSpecial, Spec.sAligned, Src.unused, Src.isV, Src.isS, Src.isP, Src.isB, Src.isZero, Src.isExt, Src.waitOk, Src.sOrExt, Src.sExtZero, Src.sOrZero, Src.vsExt, Src.vsExtZero, Src.general, Src.typeCode] at h)
    (fun c b e => by
    simp [F3.legalMwr, F3.lane1, F3.lane2, F3.lane3, F3.cmp, F3.laneDst, F3.pairs, F3.bare, F3.unguarded, F3.noSources, F3.uniformSrc, e, Spec.isV, Spec.isS, Spec.isP, Spec.isB, Spec.isZero, Spec.isSpecial, Spec.sAligned, Src.unused, Src.isV, Src.isS, Src.isP, Src.isB, Src.isZero, Src.isExt, Src.waitOk, Src.sOrExt, Src.sExtZero, Src.sOrZero, Src.vsExt, Src.vsExtZero, Src.general, Src.typeCode] at h)

theorem F3.legalCapo_plain (w : F3) (h : w.legalCapo = true) : w.plain = true :=
  F3.plain_of w
    (fun c e => by
    simp [F3.legalCapo, F3.lane1, F3.lane2, F3.lane3, F3.cmp, F3.laneDst, F3.pairs, F3.bare, F3.unguarded, F3.noSources, F3.uniformSrc, e, Spec.isV, Spec.isS, Spec.isP, Spec.isB, Spec.isZero, Spec.isSpecial, Spec.sAligned] at h)
    (fun c b e => by
    simp [F3.legalCapo, F3.lane1, F3.lane2, F3.lane3, F3.cmp, F3.laneDst, F3.pairs, F3.bare, F3.unguarded, F3.noSources, F3.uniformSrc, e, Spec.isV, Spec.isS, Spec.isP, Spec.isB, Spec.isZero, Spec.isSpecial, Spec.sAligned, Src.unused, Src.isV, Src.isS, Src.isP, Src.isB, Src.isZero, Src.isExt, Src.waitOk, Src.sOrExt, Src.sExtZero, Src.sOrZero, Src.vsExt, Src.vsExtZero, Src.general, Src.typeCode] at h)
    (fun c b e => by
    simp [F3.legalCapo, F3.lane1, F3.lane2, F3.lane3, F3.cmp, F3.laneDst, F3.pairs, F3.bare, F3.unguarded, F3.noSources, F3.uniformSrc, e, Spec.isV, Spec.isS, Spec.isP, Spec.isB, Spec.isZero, Spec.isSpecial, Spec.sAligned, Src.unused, Src.isV, Src.isS, Src.isP, Src.isB, Src.isZero, Src.isExt, Src.waitOk, Src.sOrExt, Src.sExtZero, Src.sOrZero, Src.vsExt, Src.vsExtZero, Src.general, Src.typeCode] at h)
    (fun c b e => by
    simp [F3.legalCapo, F3.lane1, F3.lane2, F3.lane3, F3.cmp, F3.laneDst, F3.pairs, F3.bare, F3.unguarded, F3.noSources, F3.uniformSrc, e, Spec.isV, Spec.isS, Spec.isP, Spec.isB, Spec.isZero, Spec.isSpecial, Spec.sAligned, Src.unused, Src.isV, Src.isS, Src.isP, Src.isB, Src.isZero, Src.isExt, Src.waitOk, Src.sOrExt, Src.sExtZero, Src.sOrZero, Src.vsExt, Src.vsExtZero, Src.general, Src.typeCode] at h)

theorem F3.legalSpawn_plain (w : F3) (h : w.legalSpawn = true) : w.plain = true :=
  F3.plain_of w
    (fun c e => by
    simp [F3.legalSpawn, F3.lane1, F3.lane2, F3.lane3, F3.cmp, F3.laneDst, F3.pairs, F3.bare, F3.unguarded, F3.noSources, F3.uniformSrc, e, Spec.isV, Spec.isS, Spec.isP, Spec.isB, Spec.isZero, Spec.isSpecial, Spec.sAligned] at h)
    (fun c b e => by
    simp [F3.legalSpawn, F3.lane1, F3.lane2, F3.lane3, F3.cmp, F3.laneDst, F3.pairs, F3.bare, F3.unguarded, F3.noSources, F3.uniformSrc, e, Spec.isV, Spec.isS, Spec.isP, Spec.isB, Spec.isZero, Spec.isSpecial, Spec.sAligned, Src.unused, Src.isV, Src.isS, Src.isP, Src.isB, Src.isZero, Src.isExt, Src.waitOk, Src.sOrExt, Src.sExtZero, Src.sOrZero, Src.vsExt, Src.vsExtZero, Src.general, Src.typeCode] at h)
    (fun c b e => by
    simp [F3.legalSpawn, F3.lane1, F3.lane2, F3.lane3, F3.cmp, F3.laneDst, F3.pairs, F3.bare, F3.unguarded, F3.noSources, F3.uniformSrc, e, Spec.isV, Spec.isS, Spec.isP, Spec.isB, Spec.isZero, Spec.isSpecial, Spec.sAligned, Src.unused, Src.isV, Src.isS, Src.isP, Src.isB, Src.isZero, Src.isExt, Src.waitOk, Src.sOrExt, Src.sExtZero, Src.sOrZero, Src.vsExt, Src.vsExtZero, Src.general, Src.typeCode] at h)
    (fun c b e => by
    simp [F3.legalSpawn, F3.lane1, F3.lane2, F3.lane3, F3.cmp, F3.laneDst, F3.pairs, F3.bare, F3.unguarded, F3.noSources, F3.uniformSrc, e, Spec.isV, Spec.isS, Spec.isP, Spec.isB, Spec.isZero, Spec.isSpecial, Spec.sAligned, Src.unused, Src.isV, Src.isS, Src.isP, Src.isB, Src.isZero, Src.isExt, Src.waitOk, Src.sOrExt, Src.sExtZero, Src.sOrZero, Src.vsExt, Src.vsExtZero, Src.general, Src.typeCode] at h)

theorem F3.legalArm_plain (w : F3) (h : w.legalArm = true) : w.plain = true :=
  F3.plain_of w
    (fun c e => by
    simp [F3.legalArm, F3.lane1, F3.lane2, F3.lane3, F3.cmp, F3.laneDst, F3.pairs, F3.bare, F3.unguarded, F3.noSources, F3.uniformSrc, e, Spec.isV, Spec.isS, Spec.isP, Spec.isB, Spec.isZero, Spec.isSpecial, Spec.sAligned] at h)
    (fun c b e => by
    simp [F3.legalArm, F3.lane1, F3.lane2, F3.lane3, F3.cmp, F3.laneDst, F3.pairs, F3.bare, F3.unguarded, F3.noSources, F3.uniformSrc, e, Spec.isV, Spec.isS, Spec.isP, Spec.isB, Spec.isZero, Spec.isSpecial, Spec.sAligned, Src.unused, Src.isV, Src.isS, Src.isP, Src.isB, Src.isZero, Src.isExt, Src.waitOk, Src.sOrExt, Src.sExtZero, Src.sOrZero, Src.vsExt, Src.vsExtZero, Src.general, Src.typeCode] at h)
    (fun c b e => by
    simp [F3.legalArm, F3.lane1, F3.lane2, F3.lane3, F3.cmp, F3.laneDst, F3.pairs, F3.bare, F3.unguarded, F3.noSources, F3.uniformSrc, e, Spec.isV, Spec.isS, Spec.isP, Spec.isB, Spec.isZero, Spec.isSpecial, Spec.sAligned, Src.unused, Src.isV, Src.isS, Src.isP, Src.isB, Src.isZero, Src.isExt, Src.waitOk, Src.sOrExt, Src.sExtZero, Src.sOrZero, Src.vsExt, Src.vsExtZero, Src.general, Src.typeCode] at h)
    (fun c b e => by
    simp [F3.legalArm, F3.lane1, F3.lane2, F3.lane3, F3.cmp, F3.laneDst, F3.pairs, F3.bare, F3.unguarded, F3.noSources, F3.uniformSrc, e, Spec.isV, Spec.isS, Spec.isP, Spec.isB, Spec.isZero, Spec.isSpecial, Spec.sAligned, Src.unused, Src.isV, Src.isS, Src.isP, Src.isB, Src.isZero, Src.isExt, Src.waitOk, Src.sOrExt, Src.sExtZero, Src.sOrZero, Src.vsExt, Src.vsExtZero, Src.general, Src.typeCode] at h)

theorem F3.legalTdec_plain (w : F3) (h : w.legalTdec = true) : w.plain = true :=
  F3.plain_of w
    (fun c e => by
    simp [F3.legalTdec, F3.lane1, F3.lane2, F3.lane3, F3.cmp, F3.laneDst, F3.pairs, F3.bare, F3.unguarded, F3.noSources, F3.uniformSrc, e, Spec.isV, Spec.isS, Spec.isP, Spec.isB, Spec.isZero, Spec.isSpecial, Spec.sAligned] at h)
    (fun c b e => by
    simp [F3.legalTdec, F3.lane1, F3.lane2, F3.lane3, F3.cmp, F3.laneDst, F3.pairs, F3.bare, F3.unguarded, F3.noSources, F3.uniformSrc, e, Spec.isV, Spec.isS, Spec.isP, Spec.isB, Spec.isZero, Spec.isSpecial, Spec.sAligned, Src.unused, Src.isV, Src.isS, Src.isP, Src.isB, Src.isZero, Src.isExt, Src.waitOk, Src.sOrExt, Src.sExtZero, Src.sOrZero, Src.vsExt, Src.vsExtZero, Src.general, Src.typeCode] at h)
    (fun c b e => by
    simp [F3.legalTdec, F3.lane1, F3.lane2, F3.lane3, F3.cmp, F3.laneDst, F3.pairs, F3.bare, F3.unguarded, F3.noSources, F3.uniformSrc, e, Spec.isV, Spec.isS, Spec.isP, Spec.isB, Spec.isZero, Spec.isSpecial, Spec.sAligned, Src.unused, Src.isV, Src.isS, Src.isP, Src.isB, Src.isZero, Src.isExt, Src.waitOk, Src.sOrExt, Src.sExtZero, Src.sOrZero, Src.vsExt, Src.vsExtZero, Src.general, Src.typeCode] at h)
    (fun c b e => by
    simp [F3.legalTdec, F3.lane1, F3.lane2, F3.lane3, F3.cmp, F3.laneDst, F3.pairs, F3.bare, F3.unguarded, F3.noSources, F3.uniformSrc, e, Spec.isV, Spec.isS, Spec.isP, Spec.isB, Spec.isZero, Spec.isSpecial, Spec.sAligned, Src.unused, Src.isV, Src.isS, Src.isP, Src.isB, Src.isZero, Src.isExt, Src.waitOk, Src.sOrExt, Src.sExtZero, Src.sOrZero, Src.vsExt, Src.vsExtZero, Src.general, Src.typeCode] at h)

theorem F3.legalPark_plain (w : F3) (h : w.legalPark = true) : w.plain = true :=
  F3.plain_of w
    (fun c e => by
    simp [F3.legalPark, F3.lane1, F3.lane2, F3.lane3, F3.cmp, F3.laneDst, F3.pairs, F3.bare, F3.unguarded, F3.noSources, F3.uniformSrc, e, Spec.isV, Spec.isS, Spec.isP, Spec.isB, Spec.isZero, Spec.isSpecial, Spec.sAligned] at h)
    (fun c b e => by
    simp [F3.legalPark, F3.lane1, F3.lane2, F3.lane3, F3.cmp, F3.laneDst, F3.pairs, F3.bare, F3.unguarded, F3.noSources, F3.uniformSrc, e, Spec.isV, Spec.isS, Spec.isP, Spec.isB, Spec.isZero, Spec.isSpecial, Spec.sAligned, Src.unused, Src.isV, Src.isS, Src.isP, Src.isB, Src.isZero, Src.isExt, Src.waitOk, Src.sOrExt, Src.sExtZero, Src.sOrZero, Src.vsExt, Src.vsExtZero, Src.general, Src.typeCode] at h)
    (fun c b e => by
    simp [F3.legalPark, F3.lane1, F3.lane2, F3.lane3, F3.cmp, F3.laneDst, F3.pairs, F3.bare, F3.unguarded, F3.noSources, F3.uniformSrc, e, Spec.isV, Spec.isS, Spec.isP, Spec.isB, Spec.isZero, Spec.isSpecial, Spec.sAligned, Src.unused, Src.isV, Src.isS, Src.isP, Src.isB, Src.isZero, Src.isExt, Src.waitOk, Src.sOrExt, Src.sExtZero, Src.sOrZero, Src.vsExt, Src.vsExtZero, Src.general, Src.typeCode] at h)
    (fun c b e => by
    simp [F3.legalPark, F3.lane1, F3.lane2, F3.lane3, F3.cmp, F3.laneDst, F3.pairs, F3.bare, F3.unguarded, F3.noSources, F3.uniformSrc, e, Spec.isV, Spec.isS, Spec.isP, Spec.isB, Spec.isZero, Spec.isSpecial, Spec.sAligned, Src.unused, Src.isV, Src.isS, Src.isP, Src.isB, Src.isZero, Src.isExt, Src.waitOk, Src.sOrExt, Src.sExtZero, Src.sOrZero, Src.vsExt, Src.vsExtZero, Src.general, Src.typeCode] at h)

theorem F3.legalHalloc_plain (w : F3) (h : w.legalHalloc = true) : w.plain = true :=
  F3.plain_of w
    (fun c e => by
    simp [F3.legalHalloc, F3.lane1, F3.lane2, F3.lane3, F3.cmp, F3.laneDst, F3.pairs, F3.bare, F3.unguarded, F3.noSources, F3.uniformSrc, e, Spec.isV, Spec.isS, Spec.isP, Spec.isB, Spec.isZero, Spec.isSpecial, Spec.sAligned] at h)
    (fun c b e => by
    simp [F3.legalHalloc, F3.lane1, F3.lane2, F3.lane3, F3.cmp, F3.laneDst, F3.pairs, F3.bare, F3.unguarded, F3.noSources, F3.uniformSrc, e, Spec.isV, Spec.isS, Spec.isP, Spec.isB, Spec.isZero, Spec.isSpecial, Spec.sAligned, Src.unused, Src.isV, Src.isS, Src.isP, Src.isB, Src.isZero, Src.isExt, Src.waitOk, Src.sOrExt, Src.sExtZero, Src.sOrZero, Src.vsExt, Src.vsExtZero, Src.general, Src.typeCode] at h)
    (fun c b e => by
    simp [F3.legalHalloc, F3.lane1, F3.lane2, F3.lane3, F3.cmp, F3.laneDst, F3.pairs, F3.bare, F3.unguarded, F3.noSources, F3.uniformSrc, e, Spec.isV, Spec.isS, Spec.isP, Spec.isB, Spec.isZero, Spec.isSpecial, Spec.sAligned, Src.unused, Src.isV, Src.isS, Src.isP, Src.isB, Src.isZero, Src.isExt, Src.waitOk, Src.sOrExt, Src.sExtZero, Src.sOrZero, Src.vsExt, Src.vsExtZero, Src.general, Src.typeCode] at h)
    (fun c b e => by
    simp [F3.legalHalloc, F3.lane1, F3.lane2, F3.lane3, F3.cmp, F3.laneDst, F3.pairs, F3.bare, F3.unguarded, F3.noSources, F3.uniformSrc, e, Spec.isV, Spec.isS, Spec.isP, Spec.isB, Spec.isZero, Spec.isSpecial, Spec.sAligned, Src.unused, Src.isV, Src.isS, Src.isP, Src.isB, Src.isZero, Src.isExt, Src.waitOk, Src.sOrExt, Src.sExtZero, Src.sOrZero, Src.vsExt, Src.vsExtZero, Src.general, Src.typeCode] at h)

theorem F3.legalHandleStatus_plain (w : F3) (h : w.legalHandleStatus = true) : w.plain = true :=
  F3.plain_of w
    (fun c e => by
    simp [F3.legalHandleStatus, F3.lane1, F3.lane2, F3.lane3, F3.cmp, F3.laneDst, F3.pairs, F3.bare, F3.unguarded, F3.noSources, F3.uniformSrc, e, Spec.isV, Spec.isS, Spec.isP, Spec.isB, Spec.isZero, Spec.isSpecial, Spec.sAligned] at h)
    (fun c b e => by
    simp [F3.legalHandleStatus, F3.lane1, F3.lane2, F3.lane3, F3.cmp, F3.laneDst, F3.pairs, F3.bare, F3.unguarded, F3.noSources, F3.uniformSrc, e, Spec.isV, Spec.isS, Spec.isP, Spec.isB, Spec.isZero, Spec.isSpecial, Spec.sAligned, Src.unused, Src.isV, Src.isS, Src.isP, Src.isB, Src.isZero, Src.isExt, Src.waitOk, Src.sOrExt, Src.sExtZero, Src.sOrZero, Src.vsExt, Src.vsExtZero, Src.general, Src.typeCode] at h)
    (fun c b e => by
    simp [F3.legalHandleStatus, F3.lane1, F3.lane2, F3.lane3, F3.cmp, F3.laneDst, F3.pairs, F3.bare, F3.unguarded, F3.noSources, F3.uniformSrc, e, Spec.isV, Spec.isS, Spec.isP, Spec.isB, Spec.isZero, Spec.isSpecial, Spec.sAligned, Src.unused, Src.isV, Src.isS, Src.isP, Src.isB, Src.isZero, Src.isExt, Src.waitOk, Src.sOrExt, Src.sExtZero, Src.sOrZero, Src.vsExt, Src.vsExtZero, Src.general, Src.typeCode] at h)
    (fun c b e => by
    simp [F3.legalHandleStatus, F3.lane1, F3.lane2, F3.lane3, F3.cmp, F3.laneDst, F3.pairs, F3.bare, F3.unguarded, F3.noSources, F3.uniformSrc, e, Spec.isV, Spec.isS, Spec.isP, Spec.isB, Spec.isZero, Spec.isSpecial, Spec.sAligned, Src.unused, Src.isV, Src.isS, Src.isP, Src.isB, Src.isZero, Src.isExt, Src.waitOk, Src.sOrExt, Src.sExtZero, Src.sOrZero, Src.vsExt, Src.vsExtZero, Src.general, Src.typeCode] at h)

theorem F3.legalHweak_plain (w : F3) (h : w.legalHweak = true) : w.plain = true :=
  F3.plain_of w
    (fun c e => by
    simp [F3.legalHweak, F3.lane1, F3.lane2, F3.lane3, F3.cmp, F3.laneDst, F3.pairs, F3.bare, F3.unguarded, F3.noSources, F3.uniformSrc, e, Spec.isV, Spec.isS, Spec.isP, Spec.isB, Spec.isZero, Spec.isSpecial, Spec.sAligned] at h)
    (fun c b e => by
    simp [F3.legalHweak, F3.lane1, F3.lane2, F3.lane3, F3.cmp, F3.laneDst, F3.pairs, F3.bare, F3.unguarded, F3.noSources, F3.uniformSrc, e, Spec.isV, Spec.isS, Spec.isP, Spec.isB, Spec.isZero, Spec.isSpecial, Spec.sAligned, Src.unused, Src.isV, Src.isS, Src.isP, Src.isB, Src.isZero, Src.isExt, Src.waitOk, Src.sOrExt, Src.sExtZero, Src.sOrZero, Src.vsExt, Src.vsExtZero, Src.general, Src.typeCode] at h)
    (fun c b e => by
    simp [F3.legalHweak, F3.lane1, F3.lane2, F3.lane3, F3.cmp, F3.laneDst, F3.pairs, F3.bare, F3.unguarded, F3.noSources, F3.uniformSrc, e, Spec.isV, Spec.isS, Spec.isP, Spec.isB, Spec.isZero, Spec.isSpecial, Spec.sAligned, Src.unused, Src.isV, Src.isS, Src.isP, Src.isB, Src.isZero, Src.isExt, Src.waitOk, Src.sOrExt, Src.sExtZero, Src.sOrZero, Src.vsExt, Src.vsExtZero, Src.general, Src.typeCode] at h)
    (fun c b e => by
    simp [F3.legalHweak, F3.lane1, F3.lane2, F3.lane3, F3.cmp, F3.laneDst, F3.pairs, F3.bare, F3.unguarded, F3.noSources, F3.uniformSrc, e, Spec.isV, Spec.isS, Spec.isP, Spec.isB, Spec.isZero, Spec.isSpecial, Spec.sAligned, Src.unused, Src.isV, Src.isS, Src.isP, Src.isB, Src.isZero, Src.isExt, Src.waitOk, Src.sOrExt, Src.sExtZero, Src.sOrZero, Src.vsExt, Src.vsExtZero, Src.general, Src.typeCode] at h)

theorem F3.legalHupg_plain (w : F3) (h : w.legalHupg = true) : w.plain = true :=
  F3.plain_of w
    (fun c e => by
    simp [F3.legalHupg, F3.lane1, F3.lane2, F3.lane3, F3.cmp, F3.laneDst, F3.pairs, F3.bare, F3.unguarded, F3.noSources, F3.uniformSrc, e, Spec.isV, Spec.isS, Spec.isP, Spec.isB, Spec.isZero, Spec.isSpecial, Spec.sAligned] at h)
    (fun c b e => by
    simp [F3.legalHupg, F3.lane1, F3.lane2, F3.lane3, F3.cmp, F3.laneDst, F3.pairs, F3.bare, F3.unguarded, F3.noSources, F3.uniformSrc, e, Spec.isV, Spec.isS, Spec.isP, Spec.isB, Spec.isZero, Spec.isSpecial, Spec.sAligned, Src.unused, Src.isV, Src.isS, Src.isP, Src.isB, Src.isZero, Src.isExt, Src.waitOk, Src.sOrExt, Src.sExtZero, Src.sOrZero, Src.vsExt, Src.vsExtZero, Src.general, Src.typeCode] at h)
    (fun c b e => by
    simp [F3.legalHupg, F3.lane1, F3.lane2, F3.lane3, F3.cmp, F3.laneDst, F3.pairs, F3.bare, F3.unguarded, F3.noSources, F3.uniformSrc, e, Spec.isV, Spec.isS, Spec.isP, Spec.isB, Spec.isZero, Spec.isSpecial, Spec.sAligned, Src.unused, Src.isV, Src.isS, Src.isP, Src.isB, Src.isZero, Src.isExt, Src.waitOk, Src.sOrExt, Src.sExtZero, Src.sOrZero, Src.vsExt, Src.vsExtZero, Src.general, Src.typeCode] at h)
    (fun c b e => by
    simp [F3.legalHupg, F3.lane1, F3.lane2, F3.lane3, F3.cmp, F3.laneDst, F3.pairs, F3.bare, F3.unguarded, F3.noSources, F3.uniformSrc, e, Spec.isV, Spec.isS, Spec.isP, Spec.isB, Spec.isZero, Spec.isSpecial, Spec.sAligned, Src.unused, Src.isV, Src.isS, Src.isP, Src.isB, Src.isZero, Src.isExt, Src.waitOk, Src.sOrExt, Src.sExtZero, Src.sOrZero, Src.vsExt, Src.vsExtZero, Src.general, Src.typeCode] at h)

theorem F3.legalHpri_plain (w : F3) (h : w.legalHpri = true) : w.plain = true :=
  F3.plain_of w
    (fun c e => by
    simp [F3.legalHpri, F3.lane1, F3.lane2, F3.lane3, F3.cmp, F3.laneDst, F3.pairs, F3.bare, F3.unguarded, F3.noSources, F3.uniformSrc, e, Spec.isV, Spec.isS, Spec.isP, Spec.isB, Spec.isZero, Spec.isSpecial, Spec.sAligned] at h)
    (fun c b e => by
    simp [F3.legalHpri, F3.lane1, F3.lane2, F3.lane3, F3.cmp, F3.laneDst, F3.pairs, F3.bare, F3.unguarded, F3.noSources, F3.uniformSrc, e, Spec.isV, Spec.isS, Spec.isP, Spec.isB, Spec.isZero, Spec.isSpecial, Spec.sAligned, Src.unused, Src.isV, Src.isS, Src.isP, Src.isB, Src.isZero, Src.isExt, Src.waitOk, Src.sOrExt, Src.sExtZero, Src.sOrZero, Src.vsExt, Src.vsExtZero, Src.general, Src.typeCode] at h)
    (fun c b e => by
    simp [F3.legalHpri, F3.lane1, F3.lane2, F3.lane3, F3.cmp, F3.laneDst, F3.pairs, F3.bare, F3.unguarded, F3.noSources, F3.uniformSrc, e, Spec.isV, Spec.isS, Spec.isP, Spec.isB, Spec.isZero, Spec.isSpecial, Spec.sAligned, Src.unused, Src.isV, Src.isS, Src.isP, Src.isB, Src.isZero, Src.isExt, Src.waitOk, Src.sOrExt, Src.sExtZero, Src.sOrZero, Src.vsExt, Src.vsExtZero, Src.general, Src.typeCode] at h)
    (fun c b e => by
    simp [F3.legalHpri, F3.lane1, F3.lane2, F3.lane3, F3.cmp, F3.laneDst, F3.pairs, F3.bare, F3.unguarded, F3.noSources, F3.uniformSrc, e, Spec.isV, Spec.isS, Spec.isP, Spec.isB, Spec.isZero, Spec.isSpecial, Spec.sAligned, Src.unused, Src.isV, Src.isS, Src.isP, Src.isB, Src.isZero, Src.isExt, Src.waitOk, Src.sOrExt, Src.sExtZero, Src.sOrZero, Src.vsExt, Src.vsExtZero, Src.general, Src.typeCode] at h)

theorem FM.legalLdw_plain (w : FM) (h : w.legalLdw = true) : w.plain = true :=
  FM.plain_of w
    (fun c e => by
    simp [FM.legalLdw, FM.loadDst, FM.baseOk, e, Spec.isV, Spec.isS, Spec.isP, Spec.isB, Spec.isZero, Spec.isSpecial, Spec.sAligned] at h)
    (fun c b e => by
    simp [FM.legalLdw, FM.loadDst, FM.baseOk, e, Spec.isV, Spec.isS, Spec.isP, Spec.isB, Spec.isZero, Spec.isSpecial, Spec.sAligned, Src.unused, Src.isV, Src.isS, Src.isP, Src.isB, Src.isZero, Src.isExt, Src.waitOk, Src.sOrExt, Src.sExtZero, Src.sOrZero, Src.vsExt, Src.vsExtZero, Src.general, Src.typeCode] at h)
    (fun c b e => by
    simp [FM.legalLdw, FM.loadDst, FM.baseOk, e, Spec.isV, Spec.isS, Spec.isP, Spec.isB, Spec.isZero, Spec.isSpecial, Spec.sAligned, Src.unused, Src.isV, Src.isS, Src.isP, Src.isB, Src.isZero, Src.isExt, Src.waitOk, Src.sOrExt, Src.sExtZero, Src.sOrZero, Src.vsExt, Src.vsExtZero, Src.general, Src.typeCode] at h)
    (fun c b e => by
    simp [FM.legalLdw, FM.loadDst, FM.baseOk, e, Spec.isV, Spec.isS, Spec.isP, Spec.isB, Spec.isZero, Spec.isSpecial, Spec.sAligned, Src.unused, Src.isV, Src.isS, Src.isP, Src.isB, Src.isZero, Src.isExt, Src.waitOk, Src.sOrExt, Src.sExtZero, Src.sOrZero, Src.vsExt, Src.vsExtZero, Src.general, Src.typeCode] at h)

theorem FX.legalRebuild_plain (w : FX) (h : w.legalRebuild = true) : w.plain = true :=
  FX.plain_of w
    (fun c e => by
    simp [FX.legalRebuild, FX.fieldsOk, FX.oneOperand, e, Spec.isV, Spec.isS, Spec.isP, Spec.isB, Spec.isZero, Spec.isSpecial, Spec.sAligned] at h)
    (fun c b e => by
    simp [FX.legalRebuild, FX.fieldsOk, FX.oneOperand, e, Spec.isV, Spec.isS, Spec.isP, Spec.isB, Spec.isZero, Spec.isSpecial, Spec.sAligned, Src.unused, Src.isV, Src.isS, Src.isP, Src.isB, Src.isZero, Src.isExt, Src.waitOk, Src.sOrExt, Src.sExtZero, Src.sOrZero, Src.vsExt, Src.vsExtZero, Src.general, Src.typeCode] at h)
    (fun c b e => by
    simp [FX.legalRebuild, FX.fieldsOk, FX.oneOperand, e, Spec.isV, Spec.isS, Spec.isP, Spec.isB, Spec.isZero, Spec.isSpecial, Spec.sAligned, Src.unused, Src.isV, Src.isS, Src.isP, Src.isB, Src.isZero, Src.isExt, Src.waitOk, Src.sOrExt, Src.sExtZero, Src.sOrZero, Src.vsExt, Src.vsExtZero, Src.general, Src.typeCode] at h)
    (fun c b e => by
    simp [FX.legalRebuild, FX.fieldsOk, FX.oneOperand, e, Spec.isV, Spec.isS, Spec.isP, Spec.isB, Spec.isZero, Spec.isSpecial, Spec.sAligned, Src.unused, Src.isV, Src.isS, Src.isP, Src.isB, Src.isZero, Src.isExt, Src.waitOk, Src.sOrExt, Src.sExtZero, Src.sOrZero, Src.vsExt, Src.vsExtZero, Src.general, Src.typeCode] at h)

theorem F3.legalTrap_plain (w : F3) (h : w.legalTrap = true) : w.plain = true :=
  F3.plain_of w
    (fun c e => by
    simp [F3.legalTrap, F3.lane1, F3.lane2, F3.lane3, F3.cmp, F3.laneDst, F3.pairs, F3.bare, F3.unguarded, F3.noSources, F3.uniformSrc, e, Spec.isV, Spec.isS, Spec.isP, Spec.isB, Spec.isZero, Spec.isSpecial, Spec.sAligned] at h)
    (fun c b e => by
    simp [F3.legalTrap, F3.lane1, F3.lane2, F3.lane3, F3.cmp, F3.laneDst, F3.pairs, F3.bare, F3.unguarded, F3.noSources, F3.uniformSrc, e, Spec.isV, Spec.isS, Spec.isP, Spec.isB, Spec.isZero, Spec.isSpecial, Spec.sAligned, Src.unused, Src.isV, Src.isS, Src.isP, Src.isB, Src.isZero, Src.isExt, Src.waitOk, Src.sOrExt, Src.sExtZero, Src.sOrZero, Src.vsExt, Src.vsExtZero, Src.general, Src.typeCode] at h)
    (fun c b e => by
    simp [F3.legalTrap, F3.lane1, F3.lane2, F3.lane3, F3.cmp, F3.laneDst, F3.pairs, F3.bare, F3.unguarded, F3.noSources, F3.uniformSrc, e, Spec.isV, Spec.isS, Spec.isP, Spec.isB, Spec.isZero, Spec.isSpecial, Spec.sAligned, Src.unused, Src.isV, Src.isS, Src.isP, Src.isB, Src.isZero, Src.isExt, Src.waitOk, Src.sOrExt, Src.sExtZero, Src.sOrZero, Src.vsExt, Src.vsExtZero, Src.general, Src.typeCode] at h)
    (fun c b e => by
    simp [F3.legalTrap, F3.lane1, F3.lane2, F3.lane3, F3.cmp, F3.laneDst, F3.pairs, F3.bare, F3.unguarded, F3.noSources, F3.uniformSrc, e, Spec.isV, Spec.isS, Spec.isP, Spec.isB, Spec.isZero, Spec.isSpecial, Spec.sAligned, Src.unused, Src.isV, Src.isS, Src.isP, Src.isB, Src.isZero, Src.isExt, Src.waitOk, Src.sOrExt, Src.sExtZero, Src.sOrZero, Src.vsExt, Src.vsExtZero, Src.general, Src.typeCode] at h)

theorem F3.legalChkerr_plain (w : F3) (h : w.legalChkerr = true) : w.plain = true :=
  F3.plain_of w
    (fun c e => by
    simp [F3.legalChkerr, F3.lane1, F3.lane2, F3.lane3, F3.cmp, F3.laneDst, F3.pairs, F3.bare, F3.unguarded, F3.noSources, F3.uniformSrc, e, Spec.isV, Spec.isS, Spec.isP, Spec.isB, Spec.isZero, Spec.isSpecial, Spec.sAligned] at h)
    (fun c b e => by
    simp [F3.legalChkerr, F3.lane1, F3.lane2, F3.lane3, F3.cmp, F3.laneDst, F3.pairs, F3.bare, F3.unguarded, F3.noSources, F3.uniformSrc, e, Spec.isV, Spec.isS, Spec.isP, Spec.isB, Spec.isZero, Spec.isSpecial, Spec.sAligned, Src.unused, Src.isV, Src.isS, Src.isP, Src.isB, Src.isZero, Src.isExt, Src.waitOk, Src.sOrExt, Src.sExtZero, Src.sOrZero, Src.vsExt, Src.vsExtZero, Src.general, Src.typeCode] at h)
    (fun c b e => by
    simp [F3.legalChkerr, F3.lane1, F3.lane2, F3.lane3, F3.cmp, F3.laneDst, F3.pairs, F3.bare, F3.unguarded, F3.noSources, F3.uniformSrc, e, Spec.isV, Spec.isS, Spec.isP, Spec.isB, Spec.isZero, Spec.isSpecial, Spec.sAligned, Src.unused, Src.isV, Src.isS, Src.isP, Src.isB, Src.isZero, Src.isExt, Src.waitOk, Src.sOrExt, Src.sExtZero, Src.sOrZero, Src.vsExt, Src.vsExtZero, Src.general, Src.typeCode] at h)
    (fun c b e => by
    simp [F3.legalChkerr, F3.lane1, F3.lane2, F3.lane3, F3.cmp, F3.laneDst, F3.pairs, F3.bare, F3.unguarded, F3.noSources, F3.uniformSrc, e, Spec.isV, Spec.isS, Spec.isP, Spec.isB, Spec.isZero, Spec.isSpecial, Spec.sAligned, Src.unused, Src.isV, Src.isS, Src.isP, Src.isB, Src.isZero, Src.isExt, Src.waitOk, Src.sOrExt, Src.sExtZero, Src.sOrZero, Src.vsExt, Src.vsExtZero, Src.general, Src.typeCode] at h)

theorem FI.legalCrd_plain (w : FI) (h : w.legalCrd = true) : w.plain = true :=
  FI.plain_of w
    (fun c e => by
    simp [FI.legalCrd, FI.lane, FI.cmp, FI.laneDst, e, Spec.isV, Spec.isS, Spec.isP, Spec.isB, Spec.isZero, Spec.isSpecial, Spec.sAligned] at h)
    (fun c b e => by
    simp [FI.legalCrd, FI.lane, FI.cmp, FI.laneDst, e, Spec.isV, Spec.isS, Spec.isP, Spec.isB, Spec.isZero, Spec.isSpecial, Spec.sAligned, Src.unused, Src.isV, Src.isS, Src.isP, Src.isB, Src.isZero, Src.isExt, Src.waitOk, Src.sOrExt, Src.sExtZero, Src.sOrZero, Src.vsExt, Src.vsExtZero, Src.general, Src.typeCode] at h)

theorem FI.legalCwr_plain (w : FI) (h : w.legalCwr = true) : w.plain = true :=
  FI.plain_of w
    (fun c e => by
    simp [FI.legalCwr, FI.lane, FI.cmp, FI.laneDst, e, Spec.isV, Spec.isS, Spec.isP, Spec.isB, Spec.isZero, Spec.isSpecial, Spec.sAligned] at h)
    (fun c b e => by
    simp [FI.legalCwr, FI.lane, FI.cmp, FI.laneDst, e, Spec.isV, Spec.isS, Spec.isP, Spec.isB, Spec.isZero, Spec.isSpecial, Spec.sAligned, Src.unused, Src.isV, Src.isS, Src.isP, Src.isB, Src.isZero, Src.isExt, Src.waitOk, Src.sOrExt, Src.sExtZero, Src.sOrZero, Src.vsExt, Src.vsExtZero, Src.general, Src.typeCode] at h)

theorem F3.legalPmap_plain (w : F3) (h : w.legalPmap = true) : w.plain = true :=
  F3.plain_of w
    (fun c e => by
    simp [F3.legalPmap, F3.lane1, F3.lane2, F3.lane3, F3.cmp, F3.laneDst, F3.pairs, F3.bare, F3.unguarded, F3.noSources, F3.uniformSrc, e, Spec.isV, Spec.isS, Spec.isP, Spec.isB, Spec.isZero, Spec.isSpecial, Spec.sAligned] at h)
    (fun c b e => by
    simp [F3.legalPmap, F3.lane1, F3.lane2, F3.lane3, F3.cmp, F3.laneDst, F3.pairs, F3.bare, F3.unguarded, F3.noSources, F3.uniformSrc, e, Spec.isV, Spec.isS, Spec.isP, Spec.isB, Spec.isZero, Spec.isSpecial, Spec.sAligned, Src.unused, Src.isV, Src.isS, Src.isP, Src.isB, Src.isZero, Src.isExt, Src.waitOk, Src.sOrExt, Src.sExtZero, Src.sOrZero, Src.vsExt, Src.vsExtZero, Src.general, Src.typeCode] at h)
    (fun c b e => by
    simp [F3.legalPmap, F3.lane1, F3.lane2, F3.lane3, F3.cmp, F3.laneDst, F3.pairs, F3.bare, F3.unguarded, F3.noSources, F3.uniformSrc, e, Spec.isV, Spec.isS, Spec.isP, Spec.isB, Spec.isZero, Spec.isSpecial, Spec.sAligned, Src.unused, Src.isV, Src.isS, Src.isP, Src.isB, Src.isZero, Src.isExt, Src.waitOk, Src.sOrExt, Src.sExtZero, Src.sOrZero, Src.vsExt, Src.vsExtZero, Src.general, Src.typeCode] at h)
    (fun c b e => by
    simp [F3.legalPmap, F3.lane1, F3.lane2, F3.lane3, F3.cmp, F3.laneDst, F3.pairs, F3.bare, F3.unguarded, F3.noSources, F3.uniformSrc, e, Spec.isV, Spec.isS, Spec.isP, Spec.isB, Spec.isZero, Spec.isSpecial, Spec.sAligned, Src.unused, Src.isV, Src.isS, Src.isP, Src.isB, Src.isZero, Src.isExt, Src.waitOk, Src.sOrExt, Src.sExtZero, Src.sOrZero, Src.vsExt, Src.vsExtZero, Src.general, Src.typeCode] at h)

theorem F3.legalPreq_plain (w : F3) (h : w.legalPreq = true) : w.plain = true :=
  F3.plain_of w
    (fun c e => by
    simp [F3.legalPreq, F3.lane1, F3.lane2, F3.lane3, F3.cmp, F3.laneDst, F3.pairs, F3.bare, F3.unguarded, F3.noSources, F3.uniformSrc, e, Spec.isV, Spec.isS, Spec.isP, Spec.isB, Spec.isZero, Spec.isSpecial, Spec.sAligned] at h)
    (fun c b e => by
    simp [F3.legalPreq, F3.lane1, F3.lane2, F3.lane3, F3.cmp, F3.laneDst, F3.pairs, F3.bare, F3.unguarded, F3.noSources, F3.uniformSrc, e, Spec.isV, Spec.isS, Spec.isP, Spec.isB, Spec.isZero, Spec.isSpecial, Spec.sAligned, Src.unused, Src.isV, Src.isS, Src.isP, Src.isB, Src.isZero, Src.isExt, Src.waitOk, Src.sOrExt, Src.sExtZero, Src.sOrZero, Src.vsExt, Src.vsExtZero, Src.general, Src.typeCode] at h)
    (fun c b e => by
    simp [F3.legalPreq, F3.lane1, F3.lane2, F3.lane3, F3.cmp, F3.laneDst, F3.pairs, F3.bare, F3.unguarded, F3.noSources, F3.uniformSrc, e, Spec.isV, Spec.isS, Spec.isP, Spec.isB, Spec.isZero, Spec.isSpecial, Spec.sAligned, Src.unused, Src.isV, Src.isS, Src.isP, Src.isB, Src.isZero, Src.isExt, Src.waitOk, Src.sOrExt, Src.sExtZero, Src.sOrZero, Src.vsExt, Src.vsExtZero, Src.general, Src.typeCode] at h)
    (fun c b e => by
    simp [F3.legalPreq, F3.lane1, F3.lane2, F3.lane3, F3.cmp, F3.laneDst, F3.pairs, F3.bare, F3.unguarded, F3.noSources, F3.uniformSrc, e, Spec.isV, Spec.isS, Spec.isP, Spec.isB, Spec.isZero, Spec.isSpecial, Spec.sAligned, Src.unused, Src.isV, Src.isS, Src.isP, Src.isB, Src.isZero, Src.isExt, Src.waitOk, Src.sOrExt, Src.sExtZero, Src.sOrZero, Src.vsExt, Src.vsExtZero, Src.general, Src.typeCode] at h)

end Sys2Proof
end

