-- ==== Sys2Proof/Laws/PerInstr.lean ====
section
/-!
SUPPORT. The family RoundTrip: decoding the words of a well-formed instruction gives the instruction back, with one
lemma for each constructor.
-/

namespace Sys2Proof

/-! ### The family -/

/-- The words of a well-formed instruction decode to it, with the rest of the block left over: a group word with its
literals by `decode`, a tile-stream word by `decodeFT`, since the fetching agent decides which applies (R73). An event
of the machine has no words. -/
def Laws.RoundTrip.Statement (i : Instr) : Prop :=
  i.wellFormed = true → ∀ (w : Word64) (lits rest : List Word64), encode i = w :: lits →
    (if i.isStream then decodeFT w = some i ∧ lits = [] else decode w (lits ++ rest) = .ok (i, rest))

theorem Laws.RoundTrip.of_group {i : Instr} (hs : i.isStream = false)
    (h : i.wellFormed = true → ∀ rest, ∃ w lits, encode i = w :: lits ∧ decode w (lits ++ rest) = .ok (i, rest)) :
    Laws.RoundTrip.Statement i := by
  intro hw w lits rest he
  obtain ⟨w', lits', he', hd⟩ := h hw rest
  rw [he'] at he
  cases he
  simpa only [hs, Bool.false_eq_true, if_false] using hd

theorem Laws.RoundTrip.of_stream {i : Instr} {x : Word64} (hs : i.isStream = true) (he : encode i = [x])
    (h : decodeFT x = some i) : Laws.RoundTrip.Statement i := by
  intro _ w lits _ hw
  rw [he] at hw
  cases hw
  simp only [hs, if_true]
  exact ⟨h, trivial⟩

theorem Laws.RoundTrip.of_event {i : Instr} (he : encode i = []) : Laws.RoundTrip.Statement i := by
  intro _ w lits _ hw
  rw [he] at hw
  cases hw

namespace Laws.RoundTrip

theorem createKernelTask : ∀ a, Statement (.createKernelTask a) := fun _ => of_event rfl
theorem createJoinTask : ∀ a, Statement (.createJoinTask a) := fun _ => of_event rfl
theorem lpstatClear : ∀ a b, Statement (.lpstatClear a b) := fun _ _ => of_event rfl
theorem cqheadWrite : ∀ a b, Statement (.cqheadWrite a b) := fun _ _ => of_event rfl
theorem prqheadWrite : ∀ a b, Statement (.prqheadWrite a b) := fun _ _ => of_event rfl
theorem registerWrite : ∀ a b c, Statement (.registerWrite a b c) := fun _ _ _ => of_event rfl
theorem pageRequestAnswer : ∀ a b c, Statement (.pageRequestAnswer a b c) := fun _ _ _ => of_event rfl
theorem createPartition : ∀ a, Statement (.createPartition a) := fun _ => of_event rfl
theorem resizePartition : ∀ a, Statement (.resizePartition a) := fun _ => of_event rfl
theorem destroyPartition : ∀ a, Statement (.destroyPartition a) := fun _ => of_event rfl
theorem setBuckets : ∀ a, Statement (.setBuckets a) := fun _ => of_event rfl
theorem attest : ∀ a, Statement (.attest a) := fun _ => of_event rfl
theorem pwrcapWrite : ∀ a, Statement (.pwrcapWrite a) := fun _ => of_event rfl
theorem clockStepChange : ∀ a b c, Statement (.clockStepChange a b c) := fun _ _ _ => of_event rfl
theorem thermHot : ∀ a, Statement (.thermHot a) := fun _ => of_event rfl
theorem thermNormal : ∀ a, Statement (.thermNormal a) := fun _ => of_event rfl
theorem thermalTrip : ∀ a, Statement (.thermalTrip a) := fun _ => of_event rfl
theorem supplySag : Statement (.supplySag) := of_event rfl
theorem reset : ∀ a b c, Statement (.reset a b c) := fun _ _ _ => of_event rfl
theorem memUe : ∀ a, Statement (.memUe a) := fun _ => of_event rfl
theorem corrected : ∀ a, Statement (.corrected a) := fun _ => of_event rfl
theorem ctrlUe : ∀ a, Statement (.ctrlUe a) := fun _ => of_event rfl
theorem taskDecrement : ∀ a, Statement (.taskDecrement a) := fun _ => of_event rfl
theorem dispatch : ∀ a b, Statement (.dispatch a b) := fun _ _ => of_event rfl
theorem cohortPlacement : ∀ a, Statement (.cohortPlacement a) := fun _ => of_event rfl
theorem groupAdmit : ∀ a b, Statement (.groupAdmit a b) := fun _ _ => of_event rfl
theorem preemptionDiscard : ∀ a b, Statement (.preemptionDiscard a b) := fun _ _ => of_event rfl
theorem groupEnd : ∀ a, Statement (.groupEnd a) := fun _ => of_event rfl
theorem cohortExit : ∀ a, Statement (.cohortExit a) := fun _ => of_event rfl
theorem taskComplete : ∀ a b, Statement (.taskComplete a b) := fun _ _ => of_event rfl
theorem earlyRelease : ∀ a b, Statement (.earlyRelease a b) := fun _ _ => of_event rfl
theorem completionEntry : ∀ a, Statement (.completionEntry a) := fun _ => of_event rfl
theorem cohortKill : ∀ a, Statement (.cohortKill a) := fun _ => of_event rfl
theorem headerFetch : ∀ a b, Statement (.headerFetch a b) := fun _ _ => of_event rfl
theorem turn : ∀ a, Statement (.turn a) := fun _ => of_event rfl
theorem drain : ∀ a, Statement (.drain a) := fun _ => of_event rfl
theorem lift : ∀ a, Statement (.lift a) := fun _ => of_event rfl
theorem home : ∀ a, Statement (.home a) := fun _ => of_event rfl
theorem refresh : ∀ a b, Statement (.refresh a b) := fun _ _ => of_event rfl
theorem drop : ∀ a b, Statement (.drop a b) := fun _ _ => of_event rfl
theorem fillComplete : ∀ a b, Statement (.fillComplete a b) := fun _ _ => of_event rfl
theorem bucketPieceLeave : ∀ a b, Statement (.bucketPieceLeave a b) := fun _ _ => of_event rfl
theorem activate : ∀ a b, Statement (.activate a b) := fun _ _ => of_event rfl
theorem move : ∀ a b c, Statement (.move a b c) := fun _ _ _ => of_event rfl
theorem earrive : ∀ a b c, Statement (.earrive a b c) := fun _ _ _ => of_event rfl
theorem eend : ∀ a b, Statement (.eend a b) := fun _ _ => of_event rfl
theorem peerChunkReceive : ∀ a, Statement (.peerChunkReceive a) := fun _ => of_event rfl
theorem peerNackReceive : ∀ a b c, Statement (.peerNackReceive a b c) := fun _ _ _ => of_event rfl
theorem ackTimeout : ∀ a b, Statement (.ackTimeout a b) := fun _ _ => of_event rfl
theorem targetChunkTimeout : ∀ a, Statement (.targetChunkTimeout a) := fun _ => of_event rfl
theorem reduceApply : ∀ a, Statement (.reduceApply a) := fun _ => of_event rfl
theorem parityDeltaApply : ∀ a, Statement (.parityDeltaApply a) := fun _ => of_event rfl
theorem parityAck : ∀ a, Statement (.parityAck a) := fun _ => of_event rfl
theorem parityDrop : ∀ a, Statement (.parityDrop a) := fun _ => of_event rfl
theorem landingPermitGrant : ∀ a, Statement (.landingPermitGrant a) := fun _ => of_event rfl
theorem tilePush : ∀ a, Statement (.tilePush a) := fun _ => of_event rfl
theorem multicastDelivery : ∀ a, Statement (.multicastDelivery a) := fun _ => of_event rfl
theorem operandFetch : ∀ a, Statement (.operandFetch a) := fun _ => of_event rfl
theorem lmmServe : ∀ a, Statement (.lmmServe a) := fun _ => of_event rfl
theorem engineHandover : ∀ a, Statement (.engineHandover a) := fun _ => of_event rfl
theorem streamOvertake : ∀ a, Statement (.streamOvertake a) := fun _ => of_event rfl
theorem replay : ∀ a b, Statement (.replay a b) := fun _ _ => of_event rfl
theorem reclaim : ∀ a b, Statement (.reclaim a b) := fun _ _ => of_event rfl
theorem nop (w : F3) : Statement (.nop w) :=
  of_group rfl fun h rest => decode_F3 0x000 .nop w rest (F3.legalBare_plain w h) (by decide) rfl
theorem bra (w : FB) : Statement (.bra w) :=
  of_group rfl fun h rest => decode_FB 0x001 .bra w rest (FB.legalBra_dst w h) (by decide) rfl rfl rfl rfl rfl
theorem brp (w : FB) : Statement (.brp w) :=
  of_group rfl fun h rest => decode_FB 0x002 .brp w rest (FB.legalBrp_dst w h) (by decide) rfl rfl rfl rfl rfl
theorem bru (w : FB) : Statement (.bru w) :=
  of_group rfl fun h rest => decode_FB 0x003 .bru w rest (FB.legalBru_dst w h) (by decide) rfl rfl rfl rfl rfl
theorem brx (w : F3) : Statement (.brx w) :=
  of_group rfl fun h rest => decode_F3 0x004 .brx w rest (F3.legalBrx_plain w h) (by decide) rfl
theorem call (w : FB) : Statement (.call w) :=
  of_group rfl fun h rest => decode_FB 0x005 .call w rest (FB.legalCall_dst w h) (by decide) rfl rfl rfl rfl rfl
theorem ret (w : F3) : Statement (.ret w) :=
  of_group rfl fun h rest => decode_F3 0x006 .ret w rest (F3.legalBrx_plain w h) (by decide) rfl
theorem exit (w : F3) : Statement (.exit w) :=
  of_group rfl fun h rest => decode_F3 0x007 .exit w rest (F3.legalBare_plain w h) (by decide) rfl
theorem yield (w : F3) : Statement (.yield w) :=
  of_group rfl fun h rest => decode_F3 0x008 .yield w rest (F3.legalBareGroup_plain w h) (by decide) rfl
theorem regang (w : F3) : Statement (.regang w) :=
  of_group rfl fun h rest => decode_F3 0x009 .regang w rest (F3.legalRegang_plain w h) (by decide) rfl
theorem vote (w : F3) : Statement (.vote w) :=
  of_group rfl fun h rest => decode_F3 0x00A .vote w rest (F3.legalVote_plain w h) (by decide) rfl
theorem plop (w : F3) : Statement (.plop w) :=
  of_group rfl fun h rest => decode_F3 0x00B .plop w rest (F3.legalPlop_plain w h) (by decide) rfl
theorem maskrd (w : F3) : Statement (.maskrd w) :=
  of_group rfl fun h rest => decode_F3 0x00C .maskrd w rest (F3.legalMaskrd_plain w h) (by decide) rfl
theorem bar (w : F3) : Statement (.bar w) :=
  of_group rfl fun h rest => decode_F3 0x00D .bar w rest (F3.legalBar_plain w h) (by decide) rfl
theorem loopb (w : F3) : Statement (.loopb w) :=
  of_group rfl fun h rest => decode_F3 0x00E .loopb w rest (F3.legalLoopb_plain w h) (by decide) rfl
theorem refill (w : F3) : Statement (.refill w) :=
  of_group rfl fun h rest => decode_F3 0x00F .refill w rest (F3.legalRefill_plain w h) (by decide) rfl
theorem bkpt (w : F3) : Statement (.bkpt w) :=
  of_group rfl fun h rest => decode_F3 0x010 .bkpt w rest (F3.legalBkpt_plain w h) (by decide) rfl
theorem commit (w : F3) : Statement (.commit w) :=
  of_group rfl fun h rest => decode_F3 0x011 .commit w rest (F3.legalBareGroup_plain w h) (by decide) rfl
theorem iadd (w : F3) : Statement (.iadd w) :=
  of_group rfl fun h rest => decode_F3 0x040 .iadd w rest (F3.legalIntSat_plain w h) (by decide) rfl
theorem iaddI (w : FI) : Statement (.iaddI w) :=
  of_group rfl fun h rest => decode_FI 0x060 .iaddI w rest (FI.legalIntSat_plain w h) (by decide) rfl rfl
theorem isub (w : F3) : Statement (.isub w) :=
  of_group rfl fun h rest => decode_F3 0x041 .isub w rest (F3.legalIntSat_plain w h) (by decide) rfl
theorem isubI (w : FI) : Statement (.isubI w) :=
  of_group rfl fun h rest => decode_FI 0x061 .isubI w rest (FI.legalIntSat_plain w h) (by decide) rfl rfl
theorem imul (w : F3) : Statement (.imul w) :=
  of_group rfl fun h rest => decode_F3 0x042 .imul w rest (F3.legalIntSat_plain w h) (by decide) rfl
theorem imulI (w : FI) : Statement (.imulI w) :=
  of_group rfl fun h rest => decode_FI 0x062 .imulI w rest (FI.legalIntSat_plain w h) (by decide) rfl rfl
theorem imad (w : F3) : Statement (.imad w) :=
  of_group rfl fun h rest => decode_F3 0x043 .imad w rest (F3.legalImad_plain w h) (by decide) rfl
theorem imulh (w : F3) : Statement (.imulh w) :=
  of_group rfl fun h rest => decode_F3 0x044 .imulh w rest (F3.legalImulh_plain w h) (by decide) rfl
theorem imulhI (w : FI) : Statement (.imulhI w) :=
  of_group rfl fun h rest => decode_FI 0x064 .imulhI w rest (FI.legalImulh_plain w h) (by decide) rfl rfl
theorem imnx (w : F3) : Statement (.imnx w) :=
  of_group rfl fun h rest => decode_F3 0x045 .imnx w rest (F3.legalImnx_plain w h) (by decide) rfl
theorem imnxI (w : FI) : Statement (.imnxI w) :=
  of_group rfl fun h rest => decode_FI 0x065 .imnxI w rest (FI.legalImnx_plain w h) (by decide) rfl rfl
theorem iabs (w : F3) : Statement (.iabs w) :=
  of_group rfl fun h rest => decode_F3 0x046 .iabs w rest (F3.legalIabs_plain w h) (by decide) rfl
theorem icmp (w : F3) : Statement (.icmp w) :=
  of_group rfl fun h rest => decode_F3 0x047 .icmp w rest (F3.legalIcmp_plain w h) (by decide) rfl
theorem icmpI (w : FI) : Statement (.icmpI w) :=
  of_group rfl fun h rest => decode_FI 0x067 .icmpI w rest (FI.legalIcmp_plain w h) (by decide) rfl rfl
theorem sel (w : F3) : Statement (.sel w) :=
  of_group rfl fun h rest => decode_F3 0x048 .sel w rest (F3.legalSel_plain w h) (by decide) rfl
theorem mov (w : F3) : Statement (.mov w) :=
  of_group rfl fun h rest => decode_F3 0x049 .mov w rest (F3.legalMov_plain w h) (by decide) rfl
theorem movi (w : FI) : Statement (.movi w) :=
  of_group rfl fun h rest => decode_FI 0x069 .movi w rest (FI.legalMovi_plain w h) (by decide) rfl rfl
theorem lea (w : F3) : Statement (.lea w) :=
  of_group rfl fun h rest => decode_F3 0x04A .lea w rest (F3.legalLea_plain w h) (by decide) rfl
theorem leaI (w : FI) : Statement (.leaI w) :=
  of_group rfl fun h rest => decode_FI 0x06A .leaI w rest (FI.legalLea_plain w h) (by decide) rfl rfl
theorem idot4 (w : F3) : Statement (.idot4 w) :=
  of_group rfl fun h rest => decode_F3 0x04B .idot4 w rest (F3.legalIdot_plain w h) (by decide) rfl
theorem idot8 (w : F3) : Statement (.idot8 w) :=
  of_group rfl fun h rest => decode_F3 0x04C .idot8 w rest (F3.legalIdot_plain w h) (by decide) rfl
theorem lop (w : F3) : Statement (.lop w) :=
  of_group rfl fun h rest => decode_F3 0x080 .lop w rest (F3.legalLop_plain w h) (by decide) rfl
theorem lopI (w : FI) : Statement (.lopI w) :=
  of_group rfl fun h rest => decode_FI 0x0A0 .lopI w rest (FI.legalLop_plain w h) (by decide) rfl rfl
theorem shf (w : F3) : Statement (.shf w) :=
  of_group rfl fun h rest => decode_F3 0x081 .shf w rest (F3.legalShf_plain w h) (by decide) rfl
theorem shfI (w : FI) : Statement (.shfI w) :=
  of_group rfl fun h rest => decode_FI 0x0A1 .shfI w rest (FI.legalShf_plain w h) (by decide) rfl rfl
theorem bfx (w : F3) : Statement (.bfx w) :=
  of_group rfl fun h rest => decode_F3 0x082 .bfx w rest (F3.legalBfx_plain w h) (by decide) rfl
theorem bfi (w : F3) : Statement (.bfi w) :=
  of_group rfl fun h rest => decode_F3 0x083 .bfi w rest (F3.legalBfi_plain w h) (by decide) rfl
theorem popc (w : F3) : Statement (.popc w) :=
  of_group rfl fun h rest => decode_F3 0x084 .popc w rest (F3.legalCount_plain w h) (by decide) rfl
theorem clz (w : F3) : Statement (.clz w) :=
  of_group rfl fun h rest => decode_F3 0x085 .clz w rest (F3.legalCount_plain w h) (by decide) rfl
theorem brev (w : F3) : Statement (.brev w) :=
  of_group rfl fun h rest => decode_F3 0x086 .brev w rest (F3.legalBrev_plain w h) (by decide) rfl
theorem lxch (w : F3) : Statement (.lxch w) :=
  of_group rfl fun h rest => decode_F3 0x087 .lxch w rest (F3.legalLxch_plain w h) (by decide) rfl
theorem fadd (w : F3) : Statement (.fadd w) :=
  of_group rfl fun h rest => decode_F3 0x0C0 .fadd w rest (F3.legalFadd_plain w h) (by decide) rfl
theorem faddI (w : FI) : Statement (.faddI w) :=
  of_group rfl fun h rest => decode_FI 0x0E0 .faddI w rest (FI.legalFadd_plain w h) (by decide) rfl rfl
theorem fmul (w : F3) : Statement (.fmul w) :=
  of_group rfl fun h rest => decode_F3 0x0C1 .fmul w rest (F3.legalFadd_plain w h) (by decide) rfl
theorem fmulI (w : FI) : Statement (.fmulI w) :=
  of_group rfl fun h rest => decode_FI 0x0E1 .fmulI w rest (FI.legalFadd_plain w h) (by decide) rfl rfl
theorem ffma (w : F3) : Statement (.ffma w) :=
  of_group rfl fun h rest => decode_F3 0x0C2 .ffma w rest (F3.legalFfma_plain w h) (by decide) rfl
theorem fmnx (w : F3) : Statement (.fmnx w) :=
  of_group rfl fun h rest => decode_F3 0x0C3 .fmnx w rest (F3.legalFmnx_plain w h) (by decide) rfl
theorem fmnxI (w : FI) : Statement (.fmnxI w) :=
  of_group rfl fun h rest => decode_FI 0x0E3 .fmnxI w rest (FI.legalFmnx_plain w h) (by decide) rfl rfl
theorem fcmp (w : F3) : Statement (.fcmp w) :=
  of_group rfl fun h rest => decode_F3 0x0C4 .fcmp w rest (F3.legalFcmp_plain w h) (by decide) rfl
theorem fcmpI (w : FI) : Statement (.fcmpI w) :=
  of_group rfl fun h rest => decode_FI 0x0E4 .fcmpI w rest (FI.legalFcmp_plain w h) (by decide) rfl rfl
theorem fsfu (w : F3) : Statement (.fsfu w) :=
  of_group rfl fun h rest => decode_F3 0x0C5 .fsfu w rest (F3.legalFsfu_plain w h) (by decide) rfl
theorem fclass (w : F3) : Statement (.fclass w) :=
  of_group rfl fun h rest => decode_F3 0x0C6 .fclass w rest (F3.legalFclass_plain w h) (by decide) rfl
theorem hfma2 (w : F3) : Statement (.hfma2 w) :=
  of_group rfl fun h rest => decode_F3 0x100 .hfma2 w rest (F3.legalHfma2_plain w h) (by decide) rfl
theorem hadd2 (w : F3) : Statement (.hadd2 w) :=
  of_group rfl fun h rest => decode_F3 0x101 .hadd2 w rest (F3.legalHadd2_plain w h) (by decide) rfl
theorem hmul2 (w : F3) : Statement (.hmul2 w) :=
  of_group rfl fun h rest => decode_F3 0x102 .hmul2 w rest (F3.legalHadd2_plain w h) (by decide) rfl
theorem cvt (w : F3) : Statement (.cvt w) :=
  of_group rfl fun h rest => decode_F3 0x103 .cvt w rest (F3.legalCvt_plain w h) (by decide) rfl
theorem qcvt (w : F3) : Statement (.qcvt w) :=
  of_group rfl fun h rest => decode_F3 0x104 .qcvt w rest (F3.legalQcvt_plain w h) (by decide) rfl
theorem ld (w : FM) : Statement (.ld w) :=
  of_group rfl fun h rest => decode_FM 0x140 .ld w rest (FM.legalLd_plain w h) (by decide) rfl rfl rfl
theorem st (w : FM) : Statement (.st w) :=
  of_group rfl fun h rest => decode_FM 0x141 .st w rest (FM.legalSt_plain w h) (by decide) rfl rfl rfl
theorem lds (w : FM) : Statement (.lds w) :=
  of_group rfl fun h rest => decode_FM 0x142 .lds w rest (FM.legalLds_plain w h) (by decide) rfl rfl rfl
theorem sts (w : FM) : Statement (.sts w) :=
  of_group rfl fun h rest => decode_FM 0x143 .sts w rest (FM.legalSts_plain w h) (by decide) rfl rfl rfl
theorem ldk (w : FM) : Statement (.ldk w) :=
  of_group rfl fun h rest => decode_FM 0x144 .ldk w rest (FM.legalLdk_plain w h) (by decide) rfl rfl rfl
theorem wld (w : FM) : Statement (.wld w) :=
  of_group rfl fun h rest => decode_FM 0x145 .wld w rest (FM.legalWld_plain w h) (by decide) rfl rfl rfl
theorem wstat (w : F3) : Statement (.wstat w) :=
  of_group rfl fun h rest => decode_F3 0x146 .wstat w rest (F3.legalWstat_plain w h) (by decide) rfl
theorem trb (w : F3) : Statement (.trb w) :=
  of_group rfl fun h rest => decode_F3 0x147 .trb w rest (F3.legalTrb_plain w h) (by decide) rfl
theorem pref (w : FM) : Statement (.pref w) :=
  of_group rfl fun h rest => decode_FM 0x148 .pref w rest (FM.legalPref_plain w h) (by decide) rfl rfl rfl
theorem atom (w : FM) : Statement (.atom w) :=
  of_group rfl fun h rest => decode_FM 0x180 .atom w rest (FM.legalAtom_plain w h) (by decide) rfl rfl rfl
theorem cas (w : FM) : Statement (.cas w) :=
  of_group rfl fun h rest => decode_FM 0x181 .cas w rest (FM.legalCas_plain w h) (by decide) rfl rfl rfl
theorem lr (w : FM) : Statement (.lr w) :=
  of_group rfl fun h rest => decode_FM 0x182 .lr w rest (FM.legalLr_plain w h) (by decide) rfl rfl rfl
theorem sc (w : FM) : Statement (.sc w) :=
  of_group rfl fun h rest => decode_FM 0x183 .sc w rest (FM.legalSc_plain w h) (by decide) rfl rfl rfl
theorem fence (w : FM) : Statement (.fence w) :=
  of_group rfl fun h rest => decode_FM 0x184 .fence w rest (FM.legalFence_plain w h) (by decide) rfl rfl rfl
theorem xfence (w : F3) : Statement (.xfence w) :=
  of_group rfl fun h rest => decode_F3 0x185 .xfence w rest (F3.legalXfence_plain w h) (by decide) rfl
theorem cpy (w : FX) : Statement (.cpy w) :=
  of_group rfl fun h rest => decode_FX 0x1C0 .cpy w rest (FX.legalCpy_plain w h) (by decide) rfl rfl rfl rfl
theorem cpyg (w : FX) : Statement (.cpyg w) :=
  of_group rfl fun h rest => decode_FX 0x1C1 .cpyg w rest (FX.legalCpyg_plain w h) (by decide) rfl rfl rfl rfl
theorem cpys (w : FX) : Statement (.cpys w) :=
  of_group rfl fun h rest => decode_FX 0x1C2 .cpys w rest (FX.legalCpys_plain w h) (by decide) rfl rfl rfl rfl
theorem cpyr (w : FX) : Statement (.cpyr w) :=
  of_group rfl fun h rest => decode_FX 0x1C3 .cpyr w rest (FX.legalCpyr_plain w h) (by decide) rfl rfl rfl rfl
theorem cpyh (w : FX) : Statement (.cpyh w) :=
  of_group rfl fun h rest => decode_FX 0x1C4 .cpyh w rest (FX.legalCpyh_plain w h) (by decide) rfl rfl rfl rfl
theorem crel (w : FX) : Statement (.crel w) :=
  of_group rfl fun h rest => decode_FX 0x1C5 .crel w rest (FX.legalCrel_plain w h) (by decide) rfl rfl rfl rfl
theorem bin (w : F3) : Statement (.bin w) :=
  of_group rfl fun h rest => decode_F3 0x1C6 .bin w rest (F3.legalBin_plain w h) (by decide) rfl
theorem bpatch (w : FX) : Statement (.bpatch w) :=
  of_group rfl fun h rest => decode_FX 0x1C7 .bpatch w rest (FX.legalBpatch_plain w h) (by decide) rfl rfl rfl rfl
theorem awset (w : F3) : Statement (.awset w) :=
  of_group rfl fun h rest => decode_F3 0x1C8 .awset w rest (F3.legalAwset_plain w h) (by decide) rfl
theorem awadd (w : F3) : Statement (.awadd w) :=
  of_group rfl fun h rest => decode_F3 0x1C9 .awadd w rest (F3.legalAwset_plain w h) (by decide) rfl
theorem awwait (w : F3) : Statement (.awwait w) :=
  of_group rfl fun h rest => decode_F3 0x1CA .awwait w rest (F3.legalAwwait_plain w h) (by decide) rfl
theorem awgen (w : F3) : Statement (.awgen w) :=
  of_group rfl fun h rest => decode_F3 0x1CB .awgen w rest (F3.legalAwgen_plain w h) (by decide) rfl
theorem lmm (w : F3) : Statement (.lmm w) :=
  of_group rfl fun h rest => decode_F3 0x200 .lmm w rest (F3.legalLmm_plain w h) (by decide) rfl
theorem mrd (w : F3) : Statement (.mrd w) :=
  of_group rfl fun h rest => decode_F3 0x201 .mrd w rest (F3.legalMrd_plain w h) (by decide) rfl
theorem mwr (w : F3) : Statement (.mwr w) :=
  of_group rfl fun h rest => decode_F3 0x202 .mwr w rest (F3.legalMwr_plain w h) (by decide) rfl
theorem capo (w : F3) : Statement (.capo w) :=
  of_group rfl fun h rest => decode_F3 0x203 .capo w rest (F3.legalCapo_plain w h) (by decide) rfl
theorem spawn (w : F3) : Statement (.spawn w) :=
  of_group rfl fun h rest => decode_F3 0x240 .spawn w rest (F3.legalSpawn_plain w h) (by decide) rfl
theorem arm (w : F3) : Statement (.arm w) :=
  of_group rfl fun h rest => decode_F3 0x241 .arm w rest (F3.legalArm_plain w h) (by decide) rfl
theorem tdec (w : F3) : Statement (.tdec w) :=
  of_group rfl fun h rest => decode_F3 0x242 .tdec w rest (F3.legalTdec_plain w h) (by decide) rfl
theorem trig (w : F3) : Statement (.trig w) :=
  of_group rfl fun h rest => decode_F3 0x243 .trig w rest (F3.legalBare_plain w h) (by decide) rfl
theorem park (w : F3) : Statement (.park w) :=
  of_group rfl fun h rest => decode_F3 0x244 .park w rest (F3.legalPark_plain w h) (by decide) rfl
theorem acquire (w : F3) : Statement (.acquire w) :=
  of_group rfl fun h rest => decode_F3 0x245 .acquire w rest (F3.legalBareGroup_plain w h) (by decide) rfl
theorem shed (w : F3) : Statement (.shed w) :=
  of_group rfl fun h rest => decode_F3 0x246 .shed w rest (F3.legalBareGroup_plain w h) (by decide) rfl
theorem halloc (w : F3) : Statement (.halloc w) :=
  of_group rfl fun h rest => decode_F3 0x280 .halloc w rest (F3.legalHalloc_plain w h) (by decide) rfl
theorem hfree (w : F3) : Statement (.hfree w) :=
  of_group rfl fun h rest => decode_F3 0x281 .hfree w rest (F3.legalHandleStatus_plain w h) (by decide) rfl
theorem hweak (w : F3) : Statement (.hweak w) :=
  of_group rfl fun h rest => decode_F3 0x282 .hweak w rest (F3.legalHweak_plain w h) (by decide) rfl
theorem hupg (w : F3) : Statement (.hupg w) :=
  of_group rfl fun h rest => decode_F3 0x283 .hupg w rest (F3.legalHupg_plain w h) (by decide) rfl
theorem hrel (w : F3) : Statement (.hrel w) :=
  of_group rfl fun h rest => decode_F3 0x284 .hrel w rest (F3.legalHandleStatus_plain w h) (by decide) rfl
theorem hpri (w : F3) : Statement (.hpri w) :=
  of_group rfl fun h rest => decode_F3 0x285 .hpri w rest (F3.legalHpri_plain w h) (by decide) rfl
theorem ldw (w : FM) : Statement (.ldw w) :=
  of_group rfl fun h rest => decode_FM 0x286 .ldw w rest (FM.legalLdw_plain w h) (by decide) rfl rfl rfl
theorem rebuild (w : FX) : Statement (.rebuild w) :=
  of_group rfl fun h rest => decode_FX 0x287 .rebuild w rest (FX.legalRebuild_plain w h) (by decide) rfl rfl rfl rfl
theorem trap (w : F3) : Statement (.trap w) :=
  of_group rfl fun h rest => decode_F3 0x2C0 .trap w rest (F3.legalTrap_plain w h) (by decide) rfl
theorem rft (w : F3) : Statement (.rft w) :=
  of_group rfl fun h rest => decode_F3 0x2C1 .rft w rest (F3.legalBare_plain w h) (by decide) rfl
theorem chkerr (w : F3) : Statement (.chkerr w) :=
  of_group rfl fun h rest => decode_F3 0x2C2 .chkerr w rest (F3.legalChkerr_plain w h) (by decide) rfl
theorem crd (w : FI) : Statement (.crd w) :=
  of_group rfl fun h rest => decode_FI 0x2C3 .crd w rest (FI.legalCrd_plain w h) (by decide) rfl rfl
theorem cwr (w : FI) : Statement (.cwr w) :=
  of_group rfl fun h rest => decode_FI 0x2C4 .cwr w rest (FI.legalCwr_plain w h) (by decide) rfl rfl
theorem pmap (w : F3) : Statement (.pmap w) :=
  of_group rfl fun h rest => decode_F3 0x2C5 .pmap w rest (F3.legalPmap_plain w h) (by decide) rfl
theorem preq (w : F3) : Statement (.preq w) :=
  of_group rfl fun h rest => decode_F3 0x2C6 .preq w rest (F3.legalPreq_plain w h) (by decide) rfl
theorem mdesc (w : FT) : Statement (.mdesc w) := of_stream rfl rfl (decode_FT 0x01 .mdesc w (by decide) rfl)
theorem mld (w : FT) : Statement (.mld w) := of_stream rfl rfl (decode_FT 0x02 .mld w (by decide) rfl)
theorem mmul (w : FT) : Statement (.mmul w) := of_stream rfl rfl (decode_FT 0x03 .mmul w (by decide) rfl)
theorem msca (w : FT) : Statement (.msca w) := of_stream rfl rfl (decode_FT 0x04 .msca w (by decide) rfl)
theorem mzero (w : FT) : Statement (.mzero w) := of_stream rfl rfl (decode_FT 0x05 .mzero w (by decide) rfl)
theorem madd (w : FT) : Statement (.madd w) := of_stream rfl rfl (decode_FT 0x06 .madd w (by decide) rfl)
theorem mscl (w : FT) : Statement (.mscl w) := of_stream rfl rfl (decode_FT 0x07 .mscl w (by decide) rfl)
theorem mcvt (w : FT) : Statement (.mcvt w) := of_stream rfl rfl (decode_FT 0x08 .mcvt w (by decide) rfl)
theorem mpub (w : FT) : Statement (.mpub w) := of_stream rfl rfl (decode_FT 0x09 .mpub w (by decide) rfl)
theorem msettle (w : FT) : Statement (.msettle w) := of_stream rfl rfl (decode_FT 0x0A .msettle w (by decide) rfl)
theorem mst (w : FT) : Statement (.mst w) := of_stream rfl rfl (decode_FT 0x0B .mst w (by decide) rfl)
theorem mbar (w : FT) : Statement (.mbar w) := of_stream rfl rfl (decode_FT 0x0C .mbar w (by decide) rfl)
theorem mloop (w : FT) : Statement (.mloop w) := of_stream rfl rfl (decode_FT 0x0D .mloop w (by decide) rfl)
theorem mpri (w : FT) : Statement (.mpri w) := of_stream rfl rfl (decode_FT 0x0E .mpri w (by decide) rfl)
theorem mend (w : FT) : Statement (.mend w) := of_stream rfl rfl (decode_FT 0x0F .mend w (by decide) rfl)
theorem lflitWrite : ∀ a b c d e, Statement (.lflitWrite a b c d e) := fun _ _ _ _ _ => of_event rfl
theorem malformedWord : ∀ a, Statement (.malformedWord a) := fun _ => of_event rfl
theorem malformedFtWord : ∀ a, Statement (.malformedFtWord a) := fun _ => of_event rfl
theorem peerRead : ∀ a, Statement (.peerRead a) := fun _ => of_event rfl

end Laws.RoundTrip

end Sys2Proof
end

