-- ==== Sys2Proof/Safety.lean ====
section
/-!
DEFINITION. The terms in which claims are stated: a result that answers a next state, what an instruction word asks
before it acts, what a step leaves alone, and the canonical forms of the state.
-/

namespace Sys2Proof.Machine

/-- The result is a next state, and P holds of it. -/
def Answers (r : Result) (P : State → Prop) : Prop := ∃ t, r = .next t ∧ P t

/-- The word of need n passes the checks of its issue: it is legal, handler mode does not forbid it (R382), its v
registers lie in the allotment (R137), no register it names is empty (R143, R144), and its guard is clean in every
active lane (R160). -/
def Ctx.Passes (c : Ctx) (n : Need) : Prop :=
  n.legal = true ∧ (n.forbidden && c.handler) = false ∧ n.inRange c.g = true ∧ n.ready c.g c.handler = .ok ∧
  c.guardPoisoned n.guard = false

/-! ### What a step leaves alone -/

/-- A cohort without what any instruction may note: CHKIV (R395) and a kill condition that was met (R399). -/
def Cohort.sansNotes (c : Cohort) : Cohort := { c with chkiv := Chkiv.clear, kill := none }

/-- A partition without the CHKIV of its tasks (R396). -/
def Part.sansNotes (p : Part) : Part := { p with tasks := p.tasks.map (fun t => { t with chkiv := Chkiv.clear }) }

/-- t differs from s at most in group `gid`, in CHKIV, and in a kill condition that the word met: every other group,
all memory, every queue and every register outside the group is as it was (the model's counter of fresh numbers aside). -/
def OnlyGroup (s t : State) (gid : Nat) : Prop :=
  t = { s with groups := t.groups, cohorts := t.cohorts, parts := t.parts, waited := t.waited, nextUid := t.nextUid } ∧
  (∀ h, h ≠ gid → t.group? h = s.group? h) ∧
  (∀ u, (t.cohort? u).map Cohort.sansNotes = (s.cohort? u).map Cohort.sansNotes) ∧
  (∀ k, (t.part? k).map Part.sansNotes = (s.part? k).map Part.sansNotes) ∧
  ∀ a, t.readDM a = s.readDM a

/-- Every slice of the path stands at the next word with the OPC folded into SIGACC (R54, R110), and no other slice
moves. -/
def Advanced (c : Ctx) (g : Group) (opc words : Nat) : Prop :=
  (∀ i ∈ c.slices, g.sliceAt i =
    { c.g.sliceAt i with pc := c.next words, sig := c.folded opc, hdr := c.isLast words, wait := .none }) ∧
  ∀ i, i ∉ c.slices → g.sliceAt i = c.g.sliceAt i

/-- Every slice of the path stands at a header at `target`, and no other slice moves (R117). -/
def Jumped (c : Ctx) (g : Group) (opc : Nat) (target : Addr) : Prop :=
  (∀ i ∈ c.slices, g.sliceAt i =
    { c.g.sliceAt i with pc := target, sig := c.folded opc, hdr := true, wait := .none }) ∧
  ∀ i, i ∉ c.slices → g.sliceAt i = c.g.sliceAt i

/-- The word fell through: its group is `g` with the path past the word, and nothing outside the group changed. -/
def After (s t : State) (c : Ctx) (g : Group) (opc words : Nat) : Prop :=
  t.waited = false ∧ OnlyGroup s t c.g.gid ∧
  ∃ g', t.group? c.g.gid = some g' ∧ g' = { g with slices := g'.slices } ∧ Advanced c g' opc words

/-- The word moved the whole path to a header: its group is `g` with the path there, and nothing outside the group
changed. -/
def Goes (s t : State) (c : Ctx) (g : Group) (opc : Nat) (target : Addr) : Prop :=
  t.waited = false ∧ OnlyGroup s t c.g.gid ∧
  ∃ g', t.group? c.g.gid = some g' ∧ g' = { g with slices := g'.slices } ∧ Jumped c g' opc target

/-- A partition without notes and without the tokens its buckets hold (R52). -/
def Part.sansTokens (p : Part) : Part :=
  { p.sansNotes with buckets := p.buckets.map (fun x => (x.1, { x.2 with tokens := 0 })) }

/-- t differs from s at most as `OnlyGroup` says and in caches: TLBs (R199), copies of lines in the views (R330),
the free choices they took and the tokens of the buckets (R52). No byte of memory and no packet changes. -/
def OnlyCaches (s t : State) (gid : Nat) : Prop :=
  t = { s with groups := t.groups, cohorts := t.cohorts, parts := t.parts, waited := t.waited, nextUid := t.nextUid
               copies := t.copies, cores := t.cores, clusters := t.clusters, free := t.free } ∧
  (∀ h, h ≠ gid → t.group? h = s.group? h) ∧
  (∀ u, (t.cohort? u).map Cohort.sansNotes = (s.cohort? u).map Cohort.sansNotes) ∧
  (∀ k, (t.part? k).map Part.sansTokens = (s.part? k).map Part.sansTokens) ∧
  ∀ a, t.readDM a = s.readDM a

/-- The word fell through with its group as `g`, and outside the group at most caches changed. -/
def AfterCaches (s t : State) (c : Ctx) (g : Group) (opc words : Nat) : Prop :=
  t.waited = false ∧ OnlyCaches s t c.g.gid ∧
  ∃ g', t.group? c.g.gid = some g' ∧ g' = { g with slices := g'.slices } ∧ Advanced c g' opc words

/-- t has refreshed the copies of s as an acquire at a scope does (R330, R333). At CLU and DIE every copy of the core's view
holds the die's line as the core's partition reads it, but for the bytes that packets of the core not yet Lifted write; at
DEV and SYS every copy of the die's view first holds its line as memory does, but for the bytes that packets of the die not
yet Homed write. No other view changes, and at CORE none does. -/
def Refreshed (s t : State) (core : Nat) (scope : Scope) : Prop :=
  let die := dieOf core
  let wide := scope ≠ .clu ∧ scope ≠ .die
  let home := fun (line : Nat) => s.keep (s.homeLine (.die die) line) (s.df.filter (fun p => dieOf p.core == die))
  if scope = .core then t.copies = s.copies
  else
    (∀ v line, v ≠ .core core → v ≠ .die die → t.copy? v line = s.copy? v line) ∧
    (∀ line, (s.copy? (.core core) line).isSome → ∃ l2, t.copy? (.die die) line = some l2 ∧
      t.copy? (.core core) line =
        some (s.keep { (l2.opened (s.keyOfCore core)) with view := .core core, held := s.shownIn die line }
          (s.cfq.filter (fun p => p.core == core)))) ∧
    (∀ line, s.copy? (.core core) line = none → t.copy? (.core core) line = none ∧
      (s.copy? (.die die) line = none → t.copy? (.die die) line = none)) ∧
    ∀ line l2, s.copy? (.die die) line = some l2 → t.copy? (.die die) line = some (if wide then home line else l2)

/-- The operand passes the checks of R217 in state s: its lanes' bases and offsets are clean, its addresses are in range
and aligned, its b register is valid, every lane translates, and no range lock meets it. `s'` is the state with the TLBs
as the translations leave them, and `accs` are the accesses. -/
def Operand.Reaches (o : Operand) (c : Ctx) (s s' : State) (accs : List Access) : Prop :=
  (∀ x ∈ o.lanes, x.2.2.2 = none ∧ x.2.1 % o.size = 0 ∧ (o.space = .global → x.2.1 < 2 ^ 57) ∧
    (o.space = .scratch → x.2.1 + o.size ≤ if o.write then c.scratchBelow else c.scratchSize) ∧
    (o.space = .ws → x.2.1 + o.size ≤ c.p.wsSize) ∧ (o.base.map (·.valid)).getD true = true) ∧
  (o.space = .global → (s.translateLanes c o).bad = false ∧ (s.translateLanes c o).faults = [] ∧
    s' = (s.translateLanes c o).st ∧ accs = (s.translateLanes c o).ok) ∧
  (o.space ≠ .global → s' = s ∧ accs = o.lanes.map (fun x => { lane := x.1, va := x.2.1, pa := x.2.1 })) ∧
  ∀ a ∈ accs, o.locks = true → s.lockHit c.g o.write (o.space == .scratch) a.va o.size = false

/-- The store queue `g'` holds what `g` held and the new entries: at its end, or in a loop's retire section where their
iterations place them (R211, R406). -/
def Enqueued (g g' : Group) (committed : Bool) (es : List (Option Word32 × EntryOp)) : Prop :=
  let key := fun (e : SQEntry) => (e.committed, e.iter, e.op)
  let new := es.map (fun e => (committed && e.1.isNone, e.1, e.2))
  g'.sq.length = g.sq.length + es.length ∧ (∀ x ∈ new, x ∈ g'.sq.map key) ∧ (∀ e ∈ g.sq, e ∈ g'.sq) ∧
  ((∀ e ∈ es, e.1 = none) → g'.sq.map key = g.sq.map key ++ new)

/-- There is room for n more entries (R211). -/
def Ctx.hasRoom (c : Ctx) (n : Nat) : Prop := c.g.sqUncommitted + n ≤ 64 ∧ c.g.sqCount + n ≤ 64

/-- The trap x was taken at the issuing path (R380, R381): the frame is filled, the vectoring slices form the handler
path with the TMASK lanes only, and the path's other slices are held at the instruction. -/
def Vectored (s t : State) (c : Ctx) (x : Trap) : Prop :=
  t.waited = false ∧ OnlyGroup s t c.g.gid ∧ ∃ g, t.group? c.g.gid = some g ∧
  g = { c.g with slices := g.slices, frame := g.frame, ctl := { c.g.ctl with turns := g.ctl.turns }
                 resv := c.g.resv.filter (fun r => !x.lanes.contains r.lane) } ∧
  g.frame.busy = true ∧ g.frame.tcause = x.tcause ∧ g.frame.tpc = x.tpc ∧ g.frame.taddr = BitVec.ofNat 64 x.addr ∧
  g.frame.tmask = laneMask x.lanes ∧ g.frame.tsave0 = x.save0 ∧ g.frame.tsave1 = x.save1 ∧ g.frame.tsave2 = x.save2 ∧
  g.frame.tsave3 = x.save3 ∧
  (∀ i ∈ c.slices, if x.lanes.any (fun l => l / 4 == i)
    then (i, c.g.sliceAt i) ∈ g.frame.saved ∧ (g.sliceAt i).pc = c.p.ctl.thandler ∧ (g.sliceAt i).hdr = true ∧
      (g.sliceAt i).handler = true ∧ (g.sliceAt i).amask = bits (laneMask x.lanes) (4 * i) 4
    else i ∈ g.frame.heldSlices ∧ (g.sliceAt i).held = true ∧ (g.sliceAt i).pc = (c.g.sliceAt i).pc ∧
      (g.sliceAt i).amask = (c.g.sliceAt i).amask) ∧
  ∀ i, i ∉ c.slices → g.sliceAt i = c.g.sliceAt i

/-- The group can take a trap: the path is not in handler mode, the frame is free and THANDLER names a handler (R380). -/
def Ctx.mayTrap (c : Ctx) : Prop := c.handler = false ∧ c.g.frame.busy = false ∧ c.p.ctl.thandler ≠ 0

/-- The group `g` with a fill begun: its registers are empty until it completes (R143). -/
def Group.filling (g : Group) (f : Fill) : Group :=
  { g with fills := g.fills ++ [f]
           regs := { g.regs with vEmpty := g.regs.vEmpty ++ f.vregs, sEmpty := g.regs.sEmpty ++ f.sregs } }

/-- The group differs only in its slices and in the values of its v, s and p registers. -/
def ValuesOnly (g g' : Group) : Prop :=
  g' = { g with slices := g'.slices, regs := { g.regs with v := g'.regs.v, s := g'.regs.s, p := g'.regs.p } }

/-- The value that a list of written bytes leaves at an address, a later byte winning. -/
def lastByte (bytes : List WByte) (a : Nat) (old : Byte) : Byte :=
  (((bytes.filter (fun b => b.addr == a)).getLast?).map (·.val)).getD old

/-! ### The writes of a lane instruction (R163, R164) -/

/-- Word l of v register r after results were written to a destination. -/
def vAfter (g : Group) (dst : Spec) (wide : Bool) (rs : List LaneResult) (r l : Nat) : PWord :=
  match dst, rs.find? (fun x => x.1 == l) with
  | .v n, some (_, x, t) =>
    if r = n.toNat then ⟨x.setWidth 32, t⟩
    else if wide && r == n.toNat + 1 then ⟨(x >>> 32).setWidth 32, t⟩ else g.vWord r l
  | _, _ => g.vWord r l

/-- s register n of a bank after results were written: written once, and only if some lane acts. -/
def sAfter (g : Group) (h : Bool) (dst : Spec) (wide signed : Bool) (rs : List LaneResult) (h' : Bool) (n : Nat) : SVal :=
  match dst, rs with
  | .s d, (_, x, t) :: _ =>
    if sIndex h' n = sIndex h d.toNat then ⟨uniformResult wide signed x, t, t⟩ else g.sVal h' n
  | _, _ => g.sVal h' n

/-- Bit l of p register n, and whether it is poisoned, after results were written; p7 is never written (R139). -/
def pAfter (g : Group) (dst : Spec) (rs : List LaneResult) (n l : Nat) : Bool × Bool :=
  match dst, rs.find? (fun x => x.1 == l) with
  | .p d, some (_, x, t) =>
    if n = d.toNat ∧ n ≠ 7 then (x != 0, t.isSome) else (g.pBit n l, (g.pPois n l).isSome)
  | _, _ => (g.pBit n l, (g.pPois n l).isSome)

/-- Exactly the results are written. -/
def Written (g g' : Group) (h : Bool) (dst : Spec) (wide signed : Bool) (rs : List LaneResult) : Prop :=
  (∀ r l, l < 128 → g'.vWord r l = vAfter g dst wide rs r l) ∧
  (∀ h' n, n < 64 → g'.sVal h' n = sAfter g h dst wide signed rs h' n) ∧
  (∀ n l, l < 128 → (g'.pBit n l, (g'.pPois n l).isSome) = pAfter g dst rs n l)

/-- What a prompt lane instruction leaves: its results written, its path past the word, everything else as it was. -/
def LaneAfter (s t : State) (c : Ctx) (o : LaneOp) (rs : List LaneResult) : Prop :=
  t.waited = false ∧ OnlyGroup s t c.g.gid ∧ ∃ g, t.group? c.g.gid = some g ∧ ValuesOnly c.g g ∧
  Advanced c g o.opc o.words ∧ Written c.g g c.handler o.dst o.wide o.signed rs

/-- Instruction i, as the lane operation o, completes wherever it passes its checks, and each acting lane's result is
what f gives there. -/
def LaneCompletes (i : Instr) (o : LaneOp) (f : Ctx → LaneFn) : Prop :=
  ∀ (s : State) (c : Ctx), s.ctx? = some c → c.Passes o.need →
    Answers (exec i s) (fun t => LaneAfter s t c o ((c.acting o.guard).map (o.result c s (f c))))

/-! ### Steps outside the compute groups -/

/-- t differs from s in partition k, which is now p, and in messages; every other part of the device is as it was. -/
def PartAs (s t : State) (k : Nat) (p : Part) : Prop :=
  t = { s with parts := t.parts, msiOut := t.msiOut, waited := false } ∧ t.part? k = some p ∧ ∀ j, j ≠ k → t.part? j = s.part? j

/-! ### Objects destroyed (R362) -/

/-- The addresses of 8-byte words lie apart. -/
def Apart (a b : Nat) : Prop := a + 8 ≤ b ∨ b + 8 ≤ a

/-- Page i of object r is mapped by the level-3 entry e i to the frame f i, and the slot of its pool that takes the frame is
slot i: frames go back in order, a device frame to the page pool and a host frame to the host-frame list. -/
def State.ObjPages (s : State) (p : Part) (r : ObjRec) (e f slot : Nat → Nat) : Prop :=
  ∀ i < r.npg, (∃ x w, s.walk p p.firstAsid (r.va.toNat + 2 ^ 17 * i) = .leaf 3 (e i) (f i) x w) ∧
    let before := ((List.range i).filter (fun j => deviceOk (f j))).length
    slot i = if deviceOk (f i) then p.ctl.poolBase.toNat + 8 * (p.ctl.poolFree + before)
             else p.ctl.hpoolBase.toNat + 8 * (p.ctl.hpoolFree + (i - before))

/-- The words that the destruction of object r writes exist, lie apart, and are no words of the tables above its pages' entries. -/
def State.ObjApart (s : State) (p : Part) (r : ObjRec) (e slot : Nat → Nat) : Prop :=
  let words := (List.range 4).map (fun j => p.recAddr r.idx + 8 * j) ++ (List.range r.npg).map e ++ (List.range r.npg).map slot
  (∀ a ∈ words, ∀ j < 8, physOk (a + j) = true) ∧ words.Pairwise Apart ∧
  ∀ i < r.npg, ∀ a ∈ s.walkReads p.id (r.va.toNat + 2 ^ 17 * i) 4 0 (p.ptroot p.firstAsid).toNat,
    a ≠ e i → ∀ b ∈ words, Apart a b

/-- t is s with object r of partition p destroyed (R362): its record has the next GEN and is FREE, or RETIRED once GEN is
0xFFFFFF; the entry of each of its pages is 0 and no TLB of the partition still translates the page; and each page's frame
stands in its pool, whose count has grown by the frames it took. It is said of memory that no parity instance covers, with
the pages where `ObjPages` and `ObjApart` have them. -/
def Destroyed (s t : State) (p : Part) (r : ObjRec) : Prop :=
  p.prot = [] → ∀ e f slot, s.ObjPages p r e f slot → s.ObjApart p r e slot →
    let device := ((List.range r.npg).filter (fun j => deviceOk (f j))).length
    t.objRec p r.idx = { r with gen := r.gen + 1, state := if r.gen + 1 = 0xFFFFFF then 2 else 0 } ∧
    (∀ i < r.npg, t.readWordAs p.id (e i) = 0 ∧ t.readWordAs p.id (slot i) = BitVec.ofNat 64 (f i) ∧
      let gone := fun (x : TlbEntry) => x.hits p.firstAsid (r.va.toNat + 2 ^ 17 * i) = false
      (∀ n ∈ p.cores, ∀ x ∈ (t.core n).l1, gone x) ∧
      ∀ n ∈ p.clusters, (∀ x ∈ (t.cluster n).l2, gone x) ∧ ∀ x ∈ (t.cluster n).victim, gone x) ∧
    ∃ q, t.part? p.id = some q ∧ q.ctl.poolFree = p.ctl.poolFree + device ∧ q.ctl.hpoolFree = p.ctl.hpoolFree + (r.npg - device)

/-- Object a comes before b in reclaim order (R364): lower RPRI, then older STAMP, then lower INDEX. -/
def ReclaimedFirst (s : State) (a b : ObjRec) : Prop :=
  let age := fun (r : ObjRec) => (s.tick + 2 ^ 44 - r.stamp) % 2 ^ 44
  a.rpri.toNat < b.rpri.toNat ∨ (a.rpri = b.rpri ∧ (age b < age a ∨ (age a = age b ∧ a.idx < b.idx)))

/-! ### Completion entries (R30, R35, R46) -/

/-- An entry of the partition is written in the event it belongs to: none is held before it and the ring has room. -/
def Part.writesEntry (p : Part) : Prop := p.destroying = false ∧ p.entries = [] ∧ p.ports.cqFull = false
/-- An entry of the partition is held. -/
def Part.holdsEntry (p : Part) : Prop := p.destroying = false ∧ (p.entries ≠ [] ∨ p.ports.cqFull = true)
/-- Where the ring takes its next entry. -/
def Part.entryAddr (p : Part) : Nat := p.ports.cqBase.toNat + 16 * (p.ports.cqTail.toNat % 2 ^ p.ports.cqSize)

/-- The entry stands in device memory at the ring's old tail, as the partition's key reads it (said of memory that exists
and that no parity instance covers). -/
def EntryAt (t : State) (p : Part) (e : Entry) : Prop :=
  p.prot = [] → (∀ i < 16, physOk (p.entryAddr + i) = true) →
    t.readWordAs p.id p.entryAddr = put64 44 20 e.tid + put64 40 4 e.state + put64 32 8 e.cause ∧
    t.readWordAs p.id (p.entryAddr + 8) = e.chkv

/-- t is s with partition k as p and an entry e given out that frees no block: a partition that is being destroyed writes
none, a held entry comes last, and a written one stands in the ring, where no other byte changes. -/
def EntryGiven (s t : State) (k : Nat) (p : Part) (e : Entry) : Prop :=
  (p.destroying = true → PartAs s t k p) ∧
  (p.holdsEntry → PartAs s t k { p with entries := p.entries ++ [e] }) ∧
  (p.writesEntry → t.waited = false ∧ EntryAt t p e ∧ ∃ q, t.part? k = some q ∧ q.entries = [] ∧
    q.ports.cqTail = p.ports.cqTail + 1 ∧ q.tasks = p.tasks ∧ q.spawned = p.spawned ∧ q.decrements = p.decrements ∧
    q.ports.flits = p.ports.flits ∧ (p.prot = [] → ∀ a, (a < p.entryAddr ∨ p.entryAddr + 16 ≤ a) → t.readAs k a = s.readAs k a))

/-- Task e.tid of partition k, which was p, failed with the entry e: while the entry is held its block says FAILED; once it
is written the block is FREE. Of a task with no successors it is the one entry of the step. -/
def TaskFailed (t : State) (k : Nat) (p : Part) (u : Task) (e : Entry) : Prop :=
  (p.holdsEntry → (∃ u', t.task? k e.tid = some u' ∧ u'.state = .failed ∧ u'.reported = true) ∧
    ∃ q more, t.part? k = some q ∧ q.entries = p.entries ++ e :: more) ∧
  (p.writesEntry → t.task? k e.tid = none ∧ (u.nsucc = 0 →
    ((p.blockAddr e.tid + 64 ≤ p.entryAddr ∨ p.entryAddr + 16 ≤ p.blockAddr e.tid) → EntryAt t p e) ∧
    ∃ q, t.part? k = some q ∧ q.entries = [] ∧ q.ports.cqTail = p.ports.cqTail + 1))

/-- The group's own part of an instruction that acts outside it too: its group is `g` with the path past the word. -/
def GroupAfter (t : State) (c : Ctx) (g : Group) (opc words : Nat) : Prop :=
  t.waited = false ∧ ∃ g', t.group? c.g.gid = some g' ∧ g' = { g with slices := g'.slices } ∧ Advanced c g' opc words

/-- A group's store queue has drained, and what it sent has reached its home. -/
def Drained (s : State) (c : Ctx) : Prop := c.g.sq = [] ∧ s.unhomed c.g.gid = [] ∧ ∀ v i rs k, c.head.wait ≠ .held v i rs k

/-- The word's uniform operands are clean, it acts, and it does not stand in a retire section. -/
def Acts (s : State) (c : Ctx) (gd : Guard) (ops : List Src) : Prop :=
  c.acting gd ≠ [] ∧ c.inRetire = false ∧ ∀ x ∈ ops, (c.uniform s x).2 = none

/-- Element e of accumulator tile i. -/
def Cohort.elem (co : Cohort) (i e : Nat) : PWord := SMap.get PWord.zero co.tiles (1024 * i + e)

/-- A stream word was done: the sequencer stands at pc, its cohort is `co` but for its tiles and CHKIV, with
the lineages of its tiles as they were, and no group, no other cohort and no byte of memory changed. -/
def StreamAfter (s t : State) (c : SCtx) (co : Cohort) (pc : Addr) : Prop :=
  t.waited = false ∧ t.groups = s.groups ∧ (∀ u, u ≠ c.uid → t.cohort? u = s.cohort? u) ∧ (∀ a, t.readDM a = s.readDM a) ∧
  ∃ co', t.cohort? c.uid = some co' ∧ (∀ i, co'.maskOf i = co.maskOf i) ∧
    co' = { co with seq := { co.seq with pc := pc }, chkiv := co'.chkiv, tiles := co'.tiles, tileMask := co'.tileMask
                    tileDepth := co'.tileDepth }

/-- Tile i of the issuing cohort holds f, and every other tile what it held. -/
def TileHolds (t : State) (c : SCtx) (i : Nat) (f : Nat → PWord) : Prop :=
  ∃ co', t.cohort? c.uid = some co' ∧
    ∀ j e, e < 1024 → co'.elem j e = if j = i then f e else c.co.elem j e

/-- The stream holds the engine, no queued LMM goes first, and the word may use its objects (R279, R291, R293). -/
def SCtx.hasEngine (c : SCtx) (s : State) (t : Touch) : Prop :=
  (∀ x ∈ t.tiles, c.tileOk x = true) ∧ (∀ x ∈ t.reads ++ t.writes, c.slotOk x = true) ∧
  (s.core c.co.core).blocks c.co t = false ∧ (s.core c.co.core).lmmQueue.any LmmReq.ready = false ∧
  (s.core c.co.core).engine = some c.uid

/-! ### What every step keeps -/

/-- Memory, the weight store and their poison are in their canonical form, PWRCAP lies in 600 to 2,400 W, the clock in its
eight steps, BOOTSTAT in steps 0 to 6, and the reports stay within the signature count. -/
def State.canonical (s : State) : Bool :=
  Memory.wf s.mem && Memory.wf s.ws && SMap.wf none s.memPois && SMap.wf none s.wsPois &&
  decide (600 ≤ s.mgmt.pwrcap.toNat) && decide (s.mgmt.pwrcap.toNat ≤ 2400) && decide (8 ≤ s.mgmt.clockStep) &&
  decide (s.mgmt.clockStep ≤ 16) && decide (s.mgmt.bootStep.toNat ≤ 6) && decide (s.mgmt.reports ≤ 32768)

/-! ### Runs (R345) -/

/-- The states of a run, one step after another. -/
def IsRun (r : Nat → State) : Prop := ∀ n, step (r n) = .next (r (n + 1))

/-- The action is enabled: taken now, it changes the device, where an agent that waits or an event that is not due changes
nothing. -/
def State.enabled (s : State) (a : Action) : Prop :=
  ∃ t, ({ s with cur := .none, waited := false } : State).perform exec a = .next t ∧
    ({ t with cur := .none, waited := false } : State) ≠ { s with cur := .none, waited := false }

/-- R345: a step that stays enabled is eventually taken. The order of the agents' steps is otherwise free (log 1), so a claim
that something comes about is a claim about fair runs (log 101). -/
def FairRun (r : Nat → State) : Prop :=
  IsRun r ∧ ∀ a n, (∀ m, n ≤ m → (r m).enabled a) → ∃ m, n ≤ m ∧ (r m).takeAction.1 = a

/-- t holds what s held and a cohort of the task placed on the core with its groups at the seats (R48, R140, R280). -/
def CohortPlaced (s t : State) (p : Part) (u : Task) (index core : Nat) (seats : List (Nat × Nat)) (r : LaunchRec) : Prop :=
  t.waited = false ∧ ∃ co, t.cohorts = s.cohorts ++ [co] ∧ co = Cohort.fresh co.uid p.id u index core co.slot r.w2 r.w3 p.firstAsid ∧
    t.groups.length = s.groups.length + seats.length ∧
    ∀ n seat, seats[n]? = some seat → ∃ g ∈ t.groups, g = co.freshGroup g.gid u p.firstAsid r n seat.1 seat.2

end Sys2Proof.Machine
end

