-- ==== Sys2Proof/Certificates/Slice0/Obligations.lean ====
section
/-!
DEFINITION. The statements for the provers. Each names the rules of spec/ it formalises; where a clause rests on a
choice of the model, its docstring names the log entry.
-/

open Sys2Proof Sys2Proof.Machine

/-! ### Lane instructions -/

/-- R163, R165, R169: the integer arithmetic instructions complete, and each acting lane's result is the exact result at
TYPE's width, wrapped or clamped. -/
def Obligations.IntegerArithmeticCompletes : Prop :=
  (∀ w : F3,
    LaneCompletes (.iadd w) (laneF3 w 0x040 w.legalIntSat) (fun _ _ a b _ => intResult w.ty w.sat (intOf w.ty a + intOf w.ty b)) ∧
    LaneCompletes (.isub w) (laneF3 w 0x041 w.legalIntSat) (fun _ _ a b _ => intResult w.ty w.sat (intOf w.ty a - intOf w.ty b)) ∧
    LaneCompletes (.imul w) (laneF3 w 0x042 w.legalIntSat) (fun _ _ a b _ => intResult w.ty w.sat (intOf w.ty a * intOf w.ty b)) ∧
    LaneCompletes (.imad w) (laneF3 w 0x043 w.legalImad)
      (fun _ _ a b c => intResult w.ty w.sat (intOf w.ty a * intOf w.ty b + intOf w.ty c)) ∧
    LaneCompletes (.imulh w) (laneF3 w 0x044 w.legalImulh)
      (fun _ _ a b _ => intResult w.ty false (intOf w.ty a * intOf w.ty b / 2 ^ w.ty.width)) ∧
    LaneCompletes (.imnx w) (laneF3 w 0x045 w.legalImnx)
      (fun _ _ a b _ => intResult w.ty false (if w.sub = 0 then min (intOf w.ty a) (intOf w.ty b) else max (intOf w.ty a) (intOf w.ty b))) ∧
    LaneCompletes (.iabs w) (laneF3 w 0x046 w.legalIabs) (fun _ _ a _ _ => intResult w.ty w.sat (intOf w.ty a).natAbs)) ∧
  ∀ w : FI,
    LaneCompletes (.iaddI w) (laneFI w 0x060 w.legalIntSat) (fun _ _ a b _ => intResult w.ty w.sat (intOf w.ty a + intOf w.ty b)) ∧
    LaneCompletes (.isubI w) (laneFI w 0x061 w.legalIntSat) (fun _ _ a b _ => intResult w.ty w.sat (intOf w.ty a - intOf w.ty b)) ∧
    LaneCompletes (.imulI w) (laneFI w 0x062 w.legalIntSat) (fun _ _ a b _ => intResult w.ty w.sat (intOf w.ty a * intOf w.ty b)) ∧
    LaneCompletes (.imulhI w) (laneFI w 0x064 w.legalImulh)
      (fun _ _ a b _ => intResult w.ty false (intOf w.ty a * intOf w.ty b / 2 ^ w.ty.width)) ∧
    LaneCompletes (.imnxI w) (laneFI w 0x065 w.legalImnx)
      (fun _ _ a b _ => intResult w.ty false (if w.sub = 0 then min (intOf w.ty a) (intOf w.ty b) else max (intOf w.ty a) (intOf w.ty b)))

/-- R165: a source is taken at TYPE's width, its low bits extended by the type's signedness; a result is congruent to the
exact one modulo 2^n, or under SAT the nearest value of the type's range; up to 32 bits it is written as one 32-bit word
extended from n bits, and at 64 bits to a pair or an s register. -/
def Obligations.IntegerResultsWrapOrClamp : Prop :=
  ∀ (t : Ty) (sat : Bool) (x : Int), t.isInt = true →
    let n := t.width
    let lo : Int := if t.signed then -(2 ^ (n - 1)) else 0
    let hi : Int := if t.signed then 2 ^ (n - 1) - 1 else 2 ^ n - 1
    let y := intResult t sat x
    let r := intOf t y
    (∀ a : Word64, intOf t a = if t.signed then (a.setWidth n).toInt else ((a.setWidth n).toNat : Int)) ∧
    lo ≤ r ∧ r ≤ hi ∧
    (sat = false → (2 ^ n : Int) ∣ r - x) ∧
    (sat = true → r = max lo (min hi x)) ∧
    (n ≤ 32 → r = if t.signed then (y.setWidth 32).toInt else ((y.setWidth 32).toNat : Int)) ∧
    ∀ (g : Group) (h : Bool) (l : Nat) (p : Option Tag), l < 128 →
      let written := fun (d : Spec) => g.writeDst h d t.wide t.signed [(l, y, p)]
      (∀ d : BitVec 7, d.toNat < 127 → (written (.v d)).vWord d.toNat l = ⟨y.setWidth 32, p⟩ ∧
        (written (.v d)).vWord (d.toNat + 1) l = if n = 64 then ⟨(y >>> 32).setWidth 32, p⟩ else g.vWord (d.toNat + 1) l) ∧
      ∀ d : BitVec 6, ((written (.s d)).sVal h d.toNat).val.setWidth 32 = y.setWidth 32 ∧
        (n = 64 → ((written (.s d)).sVal h d.toNat).val = y)

/-- R163, R170, R171, R176, R177, R179: comparisons, selection, moves, address arithmetic and dot products complete with
the result each rule gives in each acting lane. -/
def Obligations.CompareMoveAddressComplete : Prop :=
  (∀ w : F3,
    LaneCompletes (.icmp w) (laneF3 w 0x047 w.legalIcmp) (fun _ _ a b _ => boolWord (condInt w.sub (intOf w.ty a) (intOf w.ty b))) ∧
    LaneCompletes (.sel w) (laneF3 w 0x048 w.legalSel) (fun _ _ a b p => if (p != 0) != w.negC then a else b) ∧
    LaneCompletes (.mov w) (laneF3 w 0x049 w.legalMov) (fun _ _ a _ _ => a) ∧
    LaneCompletes (.lea w) { laneF3 w 0x04A w.legalLea with wide := true, aWide := true }
      (fun _ _ a b _ => a + extAddr w.ty b <<< w.sub.toNat) ∧
    LaneCompletes (.idot4 w) (laneF3 w 0x04B w.legalIdot) (fun _ => idotOp 4 w.sat w.sub) ∧
    LaneCompletes (.idot8 w) (laneF3 w 0x04C w.legalIdot) (fun _ => idotOp 8 w.sat w.sub)) ∧
  ∀ w : FI,
    LaneCompletes (.icmpI w) (laneFI w 0x067 w.legalIcmp) (fun _ _ a b _ => boolWord (condInt w.sub (intOf w.ty a) (intOf w.ty b))) ∧
    LaneCompletes (.movi w) (laneFI w 0x069 w.legalMovi) (fun _ _ _ b _ => b) ∧
    LaneCompletes (.leaI w) { laneFI w 0x06A w.legalLea with wide := true, aWide := true }
      (fun _ _ a b _ => a + extAddr w.ty b <<< w.sub.toNat)

/-- R163, R172 to R175, R178: logic, shifts, bit fields, counts, reversal and lane exchange complete with the result each
rule gives in each acting lane. LXCH takes a from the source lane where that lane is one of the path's, and else its
own. -/
def Obligations.LogicShiftFieldComplete : Prop :=
  (∀ w : F3,
    LaneCompletes (.lop w) (laneF3 w 0x080 w.legalLop) (fun _ => lopOp w.negA w.negB w.sub) ∧
    LaneCompletes (.shf w) (laneF3 w 0x081 w.legalShf) (fun _ => shfOp w.ty w.sub) ∧
    LaneCompletes (.bfx w) (laneF3 w 0x082 w.legalBfx) (fun _ => bfxOp w.ty) ∧
    LaneCompletes (.bfi w) (laneF3 w 0x083 w.legalBfi) (fun _ => bfiOp) ∧
    LaneCompletes (.popc w) { laneF3 w 0x084 w.legalCount with wide := false }
      (fun _ _ a _ _ => BitVec.ofNat 64 ((List.range w.ty.width).filter (fun i => bit a i)).length) ∧
    LaneCompletes (.clz w) { laneF3 w 0x085 w.legalCount with wide := false }
      (fun _ _ a _ _ => BitVec.ofNat 64 (leadingZeros w.ty.width a)) ∧
    LaneCompletes (.brev w) (laneF3 w 0x086 w.legalBrev) (fun _ _ a _ _ => reverseBits w.ty.width a) ∧
    ∀ (s : State) (c : Ctx), s.ctx? = some c → c.Passes { laneF3 w 0x087 w.legalLxch with bWide := false }.need →
      Answers (exec (.lxch w) s) (fun t => LaneAfter s t c { laneF3 w 0x087 w.legalLxch with bWide := false }
        ((c.acting w.guard).map (fun l =>
          let b := c.read s w.sb false l
          let from_ := match lxchSource w.sub l b.1.toNat with
            | some x => if c.active.contains x then x else l
            | none => l
          let a := c.read s w.sa w.ty.wide from_
          (l, a.1, mergePois a.2 b.2))))) ∧
  ∀ w : FI,
    LaneCompletes (.lopI w) (laneFI w 0x0A0 w.legalLop) (fun _ => lopOp w.negA w.negB w.sub) ∧
    LaneCompletes (.shfI w) (laneFI w 0x0A1 w.legalShf) (fun _ => shfOp w.ty w.sub)

/-- R163, R180 to R182, R185, R186: the floating-point and packed-half instructions complete, and each acting lane's
result is the operation of its rule on the operands after NEG and FTZ, rounded by RND, SAT and FTZ. That RSD into an s register
rounds with the random word of the lowest acting lane is the model's log 113. -/
def Obligations.FloatArithmeticCompletes : Prop :=
  (∀ w : F3,
    LaneCompletes (.fadd w) (laneF3 w 0x0C0 w.legalFadd)
      (fun c l a b _ => BitVec.ofNat 64 (fAdd fmtF32 (fmodsF3 w) (c.random l 0) a.toNat b.toNat)) ∧
    LaneCompletes (.fmul w) (laneF3 w 0x0C1 w.legalFadd)
      (fun c l a b _ => BitVec.ofNat 64 (fMul fmtF32 (fmodsF3 w) (c.random l 0) a.toNat b.toNat)) ∧
    LaneCompletes (.ffma w) (laneF3 w 0x0C2 w.legalFfma)
      (fun c l a b d => BitVec.ofNat 64 (fFma fmtF32 (fmodsF3 w) (c.random l 0) a.toNat b.toNat d.toNat)) ∧
    LaneCompletes (.fmnx w) (laneF3 w 0x0C3 w.legalFmnx) (fun _ => fmnxOp (fmodsF3 w) w.sub) ∧
    LaneCompletes (.fcmp w) (laneF3 w 0x0C4 w.legalFcmp) (fun _ => fcmpOp (fmodsF3 w) w.sub) ∧
    LaneCompletes (.fclass w) (laneF3 w 0x0C6 w.legalFclass)
      (fun _ _ a _ _ => BitVec.ofNat 64 (classOf (fmtOf w.ty) a.toNat)) ∧
    LaneCompletes (.hfma2 w) (laneF3 w 0x100 w.legalHfma2)
      (fun c l a b d => packed (fun e x y z => fFma (fmtOf w.ty) (fmodsF3 w) (c.random l e) x y z) a b d) ∧
    LaneCompletes (.hadd2 w) (laneF3 w 0x101 w.legalHadd2)
      (fun c l a b d => packed (fun e x y _ => fAdd (fmtOf w.ty) (fmodsF3 w) (c.random l e) x y) a b d) ∧
    LaneCompletes (.hmul2 w) (laneF3 w 0x102 w.legalHadd2)
      (fun c l a b d => packed (fun e x y _ => fMul (fmtOf w.ty) (fmodsF3 w) (c.random l e) x y) a b d)) ∧
  ∀ w : FI,
    LaneCompletes (.faddI w) (laneFI w 0x0E0 w.legalFadd)
      (fun c l a b _ => BitVec.ofNat 64 (fAdd fmtF32 (fmodsFI w) (c.random l 0) a.toNat b.toNat)) ∧
    LaneCompletes (.fmulI w) (laneFI w 0x0E1 w.legalFadd)
      (fun c l a b _ => BitVec.ofNat 64 (fMul fmtF32 (fmodsFI w) (c.random l 0) a.toNat b.toNat)) ∧
    LaneCompletes (.fmnxI w) (laneFI w 0x0E3 w.legalFmnx) (fun _ => fmnxOp (fmodsFI w) w.sub) ∧
    LaneCompletes (.fcmpI w) (laneFI w 0x0E4 w.legalFcmp) (fun _ => fcmpOp (fmodsFI w) w.sub)

/-- R143, R183, R187, R188: CVT completes with each acting lane's converted element; FSFU and QCVT complete by beginning
a fill that holds what they will write, or nothing when no lane acts. Which lane's random word rounds into an s register is the
model's log 113, and the zero point of an unsigned block whose scale rounds to 0 its log 114. -/
def Obligations.ConvertAndFunctionsComplete : Prop :=
  ∀ w : F3,
    LaneCompletes (.cvt w) { laneF3 w 0x103 w.legalCvt with aWide := (cvtFrom w).wide, b := .reg .zero false, bWide := false }
      (fun c l a _ _ => cvtOp (cvtFrom w) w.ty w.rnd w.sat w.ftz w.sub.toNat (c.random l 0) a) ∧
    (∀ (s : State) (c : Ctx), s.ctx? = some c → c.Passes (laneF3 w 0x0C5 w.legalFsfu).need →
      let o := laneF3 w 0x0C5 w.legalFsfu
      let rs := (c.acting w.guard).map (o.result c s (fun _ a _ _ =>
        (fsfuValue w.sub.toNat w.ftz (BitVec.ofNat 32 (floatIn fmtF32 w.negA false a.toNat))).setWidth 64))
      Answers (exec (.fsfu w) s) (fun t => After s t c
        (if rs.isEmpty then c.g
         else c.g.filling ⟨s.nextUid, vRegsOf w.dst 1, sRegsOf c.handler w.dst, regWrites c.handler w.dst false false rs, .ready, false⟩)
        0x0C5 w.words)) ∧
    ∀ (s : State) (c : Ctx), s.ctx? = some c → c.Passes ⟨w.legalQcvt, false, w.guard, [(w.dst, 2)], [(w.sa, 1)]⟩ →
      let lanes := c.acting w.guard
      let block := fun (j : Nat) => qBlock c s w (lanes.filter (fun l => l / 32 == j))
      Answers (exec (.qcvt w) s) (fun t => After s t c
        (if lanes.isEmpty then c.g
         else c.g.filling ⟨s.nextUid, vRegsOf w.dst 2, [], (block 0).1 ++ (block 1).1 ++ (block 2).1 ++ (block 3).1, .ready, false⟩)
        0x104 w.words)

/-! ### Control -/

/-- R117, R118, R120, R121: BRA, BRU, BRX, RET and CALL complete where the target holds a header. The whole path goes to
the target, or past the word where BRU's condition fails; CALL writes the address of the next block's header to DST and
pushes it on the return predictor, which RET pops. The fetch of the target may fill the TLBs (R199) before that. -/
def Obligations.BranchesGoToHeaders : Prop :=
  ∀ (s : State) (c : Ctx), s.ctx? = some c →
    (∀ (w : FB) (h : Word64) (s1 : State), s.headerAt c.p c.g (c.pc + 8 * w.offset.signExtend 57) = (.header h, s1) →
      (c.Passes (Need.bare w.legalBra false w.guard) →
        Answers (exec (.bra w) s) (fun t => Goes s1 t c c.g 0x001 (c.pc + 8 * w.offset.signExtend 57))) ∧
      (c.Passes ⟨w.legalBru, false, w.guard, [], [(bruSrc w, 1)]⟩ → (c.uniform s1 (bruSrc w)).2 = none →
        Answers (exec (.bru w) s) (fun t =>
          if condZero (bits w.low 4 3).toNat (c.uniform s1 (bruSrc w)).1
          then Goes s1 t c c.g 0x003 (c.pc + 8 * w.offset.signExtend 57) else After s1 t c c.g 0x003 1)) ∧
      (c.Passes ⟨w.legalCall && c.isLast 1, false, w.guard, [(w.dst, 1)], []⟩ →
        Answers (exec (.call w) s) (fun t => Goes s1 t c
          { c.g.writeS c.handler w.dst ((c.next 1).setWidth 64, none) with
            ctl := { c.g.ctl with predictor := (c.next 1 :: c.g.ctl.predictor).take 16 } }
          0x005 (c.pc + 8 * w.offset.signExtend 57)))) ∧
    ∀ (w : F3) (h : Word64) (s1 : State), c.Passes ⟨w.legalBrx, false, w.guard, [], [(w.sa, 1)]⟩ →
      (c.uniform s w.sa).2 = none → bits (c.uniform s w.sa).1 57 7 = 0 → bits (c.uniform s w.sa).1 0 3 = 0 →
      s.headerAt c.p c.g ((c.uniform s w.sa).1.setWidth 57) = (.header h, s1) →
      Answers (exec (.brx w) s) (fun t => Goes s1 t c c.g 0x004 ((c.uniform s w.sa).1.setWidth 57)) ∧
      Answers (exec (.ret w) s) (fun t => Goes s1 t c
        { c.g with ctl := { c.g.ctl with predictor := c.g.ctl.predictor.tail } } 0x006 ((c.uniform s w.sa).1.setWidth 57))

/-- R95, R96, R99, R117: BRP sends the acting lanes to the target. A slice whose lanes are all taken goes there, one with
none taken falls through, and one that parts pushes a lane entry and runs its fall-through lanes first. When whole slices
part from the rest and RCV names a header, the path gets a split entry. -/
def Obligations.PredicatedBranchParts : Prop :=
  ∀ (w : FB) (s s1 s2 : State) (c : Ctx) (h : Word64), s.ctx? = some c →
    let target := c.pc + 8 * w.offset.signExtend 57
    let taken := fun (i : Nat) => sliceLanes i (c.acting w.guard)
    let parted := c.slices.filter (fun i => taken i != 0 && taken i != (c.g.sliceAt i).amask)
    let splits := c.slices.any (fun i => taken i == (c.g.sliceAt i).amask) &&
      c.slices.any (fun i => taken i != (c.g.sliceAt i).amask) && target != c.next 1
    s.headerAt c.p c.g target = (.header h, s1) → c.Passes (Need.bare w.legalBrp false w.guard) →
    (match c.rcv with
      | some rpc => if !parted.isEmpty || splits then ∃ h2, s1.headerAt c.p c.g rpc = (.header h2, s2) else s2 = s1
      | none => s2 = s1) →
    (∀ i ∈ parted, (c.g.sliceAt i).lstk.length < 16) →
    (splits = true → c.rcv.isSome = true → c.g.freeSplit.isSome = true) →
    Answers (exec (.brp w) s) (fun t => t.waited = false ∧ OnlyGroup s2 t c.g.gid ∧ ∃ g, t.group? c.g.gid = some g ∧
      g = { c.g with slices := g.slices, splits := g.splits
                     ctl := { c.g.ctl with turns := g.ctl.turns, curPath := g.ctl.curPath } } ∧
      (∀ i ∈ c.slices,
        let x := c.g.sliceAt i
        let y := g.sliceAt i
        y.sig = c.folded 0x002 ∧ y.wait = .none ∧
        y.spl = (if splits && c.rcv.isSome then c.g.freeSplit else x.spl) ∧
        (taken i = x.amask → y.pc = target ∧ y.hdr = true ∧ y.amask = x.amask ∧ y.lstk = x.lstk) ∧
        (taken i ≠ x.amask → y.pc = c.next 1 ∧ y.hdr = c.isLast 1 ∧
          (taken i = 0 → y.amask = x.amask ∧ y.lstk = x.lstk) ∧
          (taken i ≠ 0 → y.amask = x.amask &&& ~~~(taken i) ∧
            y.lstk = ⟨.branch, c.rcv, x.amask, taken i, 0, target, false, none⟩ :: x.lstk))) ∧
      (∀ i, i ∉ c.slices → g.sliceAt i = c.g.sliceAt i) ∧
      ∀ k, g.split? k = if splits && c.rcv.isSome && c.g.freeSplit == some k
        then some ⟨c.rcv.getD 0, gangMask c.slices, laneMask c.active, 0, c.head.spl⟩ else c.g.split? k)

/-- R115, R123, R126 to R128, R404: NOP, YIELD, COMMIT, VOTE, PLOP and MASKRD complete. YIELD ends the path's turn; COMMIT
commits every store-queue entry but a held retire entry, clears the reservations and starts a region at the next word;
VOTE, PLOP and MASKRD write the value of their SUB.
R98, R122: EXIT outside a loop's sections completes: the acting lanes join XMASK, no lane outside the path does, and a
committed trigger marker for the lanes enters the store queue (R32). In a group with no loop, no split entry and no REGANG
in wait the group's work commits, its region goes on at the next word (R212), and each slice of the path goes on there with
the lanes that are left; one with none left is idle, or starts the lanes that wait in its top entry. -/
def Obligations.StraightControlCompletes : Prop :=
  (∀ (w : F3) (s : State) (c : Ctx), s.ctx? = some c →
     (c.Passes (Need.bare w.legalBare false w.guard) →
       Answers (exec (.nop w) s) (fun t => After s t c c.g 0x000 w.words)) ∧
     (c.Passes (Need.bare w.legalBareGroup false w.guard) →
       Answers (exec (.yield w) s) (fun t => After s t c { c.g with ctl := { c.g.ctl with turns := 2 ^ 16 } } 0x008 w.words)) ∧
     (c.Passes (Need.bare w.legalBareGroup true w.guard) →
       Answers (exec (.commit w) s) (fun t => After s t c
         { c.g with
           sq := c.g.sq.map (fun e => if e.iter.isNone then { e with committed := true } else e)
           resv := []
           ctl := { c.g.ctl with rgnpc := c.next w.words, rgnsig := c.folded 0x011 } } 0x011 w.words)) ∧
     (c.Passes ⟨w.legalVote, false, w.guard, [(w.dst, 1)], []⟩ →
       let lanes := c.acting w.guard
       let v := voteValue c (srcP w.sa) w.sub.toNat lanes
       let t := mergeAll (lanes.map (fun l => c.g.pPois (srcP w.sa) l))
       Answers (exec (.vote w) s) (fun u => After s u c
         (match w.dst with
           | .p d => c.g.writeP d.toNat (lanes.map (fun l => (l, v != 0, t)))
           | d => c.g.writeS c.handler d (v, t)) 0x00A w.words)) ∧
     (c.Passes (Need.bare w.legalPlop false w.guard) →
       let a := fun (l : Nat) => c.g.pBit (srcP w.sa) l != w.negA
       let b := fun (l : Nat) => c.g.pBit (srcP w.sb) l != w.negB
       let v := fun (l : Nat) => match w.sub.toNat with
         | 0 => a l && b l
         | 1 => a l || b l
         | _ => a l != b l
       let t := fun (l : Nat) => mergePois (c.g.pPois (srcP w.sa) l) (c.g.pPois (srcP w.sb) l)
       Answers (exec (.plop w) s) (fun u => After s u c
         (match w.dst with
           | .p d => c.g.writeP d.toNat ((c.acting w.guard).map (fun l => (l, v l, t l)))
           | _ => c.g) 0x00B w.words)) ∧
     (c.Passes ⟨w.legalMaskrd, false, w.guard, [(w.dst, 1)], []⟩ →
       Answers (exec (.maskrd w) s) (fun t => After s t c
         (c.g.writeS c.handler w.dst (maskValue c w.sub.toNat, none)) 0x00C w.words))) ∧
  (∀ (w : F3) (s : State) (c : Ctx), s.ctx? = some c → c.Passes (Need.bare w.legalBare true w.guard) →
     (c.sec = 0 ∨ c.g.loop = none) →
     Answers (exec (.exit w) s) (fun t => ∃ g, t.group? c.g.gid = some g ∧
       (∀ i ∈ c.slices, (g.sliceAt i).xmask = (c.g.sliceAt i).xmask ||| sliceLanes i (c.acting w.guard)) ∧
       (∀ i, i ∉ c.slices → (g.sliceAt i).xmask = (c.g.sliceAt i).xmask) ∧
       (c.acting w.guard ≠ [] → ∃ e ∈ g.sq, e.committed = true ∧ e.op = .trigMarker (laneMask (c.acting w.guard))) ∧
       ((∀ i, (c.g.sliceAt i).wait.isRegang = false) → t.waited = false ∧ OnlyGroup s t c.g.gid ∧ g.regs.v = c.g.regs.v ∧
         (c.g.loop = none → c.g.splits = [] →
           (∀ e ∈ c.g.sq, (if e.iter.isNone then { e with committed := true } else e) ∈ g.sq) ∧ g.resv = [] ∧
           g.ctl.rgnpc = c.next w.words ∧ g.regs = c.g.regs ∧ g.fills = c.g.fills ∧
           (∀ i, i ∉ c.slices → g.sliceAt i = c.g.sliceAt i) ∧
           ∀ i ∈ c.slices,
             let x := c.g.sliceAt i
             let y := g.sliceAt i
             let gone := sliceLanes i (c.acting w.guard)
             y.wait = .none ∧ y.sig = c.folded 0x007 ∧
             (gone ≠ x.amask → y.pc = c.next w.words ∧ y.hdr = c.isLast w.words ∧ y.amask = x.amask &&& ~~~gone ∧ y.lstk = x.lstk) ∧
             (gone = x.amask → x.lstk = [] → y.amask = 0 ∧ y.lstk = []) ∧
             ∀ e rest, gone = x.amask → x.lstk = e :: rest → e.kind ≠ .sideTrip → e.phase = false →
               e.taken &&& ~~~(x.xmask ||| gone) ≠ 0 → y.pc = e.tpc ∧ y.hdr = true ∧
                 y.amask = e.taken &&& ~~~(x.xmask ||| gone) ∧ y.lstk = { e with arr := 0, phase := true } :: rest))))

/-- R101: a REGANG whose effective gang names only slices of the path and dead slices is satisfied at once, in a group
with no split entry and no loop: the path goes past the word.
R129, R130: a BAR that its whole group reaches, with its committed stores drained and operands in range, acts in the
same step: arriving steps the barrier's count and completes the phase on the last arrival, and a WAIT changes no
barrier. -/
def Obligations.SlicesMeetAtRegangAndBarrier : Prop :=
  (∀ (w : F3) (s : State) (c : Ctx), s.ctx? = some c →
     c.Passes ⟨w.legalRegang, true, w.guard, [], [(w.sa, 1)]⟩ → (c.uniform s w.sa).2 = none →
     c.g.loop = none → c.g.splits = [] → (∀ i ∈ c.slices, (c.g.sliceAt i).pc = c.pc) →
     (∀ i, i ∉ c.slices → (c.g.sliceAt i).wait.isRegang = false) → (∀ i ∈ c.slices, (c.g.sliceAt i).spl = none) →
     ((c.uniform s w.sa).1.setWidth 32 ||| gangMask c.slices) &&& ~~~c.g.dead &&& ~~~(gangMask c.slices) = 0 →
     Answers (exec (.regang w) s) (fun t => t.waited = false ∧ OnlyGroup s t c.g.gid ∧ ∃ g, t.group? c.g.gid = some g ∧
       g.regs = c.g.regs ∧ g.sq = c.g.sq ∧
       (∀ i ∈ c.slices, (g.sliceAt i).pc = (c.g.sliceAt i).pc + 8 * BitVec.ofNat 57 w.words ∧ (g.sliceAt i).wait = .none ∧
         (g.sliceAt i).amask = (c.g.sliceAt i).amask) ∧
       ∀ i, i ∉ c.slices → g.sliceAt i = c.g.sliceAt i)) ∧
  (∀ (w : F3) (s : State) (c : Ctx), s.ctx? = some c →
     c.Passes ⟨w.legalBar, true, w.guard, [], [(w.sa, 1), (w.sb, 1)]⟩ → (∀ n m q ws a, c.head.wait ≠ .bar n m q ws a) →
     (c.uniform s w.sa).2 = none → (c.uniform s w.sb).2 = none → c.sec = 0 → c.g.sq = [] →
     (∀ i, (c.g.sliceAt i).live = true → i ∈ c.slices) → (∀ i ∈ c.slices, (c.g.sliceAt i).held = false) →
     let nb := (c.uniform s w.sa).1.toNat
     let count := (c.uniform s w.sb).1.toNat
     let cnt := if count = 0 then c.co.ngm1 + 1 else count
     let b := c.co.barrier nb
     nb ≤ 15 → count ≤ 17 → (w.sub ≠ 2 → b.cnt = 0 ∨ b.cnt = cnt) →
     Answers (exec (.bar w) s) (fun t => t.waited = false ∧ ∃ co, t.cohort? c.g.cohort = some co ∧
       (∀ m, m ≠ nb → co.barrier m = c.co.barrier m) ∧
       (w.sub = 2 → co.barrier nb = b) ∧
       (w.sub ≠ 2 → if b.arr + 1 = cnt
         then (co.barrier nb).phase = !b.phase ∧ (co.barrier nb).arr = 0 ∧ (co.barrier nb).cnt = 0
         else (co.barrier nb).phase = b.phase ∧ (co.barrier nb).arr = b.arr + 1 ∧ (co.barrier nb).cnt = cnt) ∧
       (w.sub = 1 ∨ (w.sub = 0 ∧ b.arr + 1 = cnt) → ∃ g, t.group? c.g.gid = some g ∧
         ∀ i ∈ c.slices, (g.sliceAt i).pc = (c.g.sliceAt i).pc + 8 * BitVec.ofNat 57 w.words ∧ (g.sliceAt i).wait = .none)))

/-- R135, R136: ACQUIRE completes at once in a group that holds its full allotment or whose full allotment is no larger
(FULLV 0), and after its admission; before that it commits and waits. SHED with no write outstanding above v15 gives the
registers above v15 up, and in a group at its prologue allotment it has no effect but the commit of its region, which is the
model's log 103. -/
def Obligations.AllotmentInstructions : Prop :=
  ∀ (w : F3) (s : State) (c : Ctx), s.ctx? = some c → c.Passes (Need.bare w.legalBareGroup true w.guard) →
    (c.head.wait = .acquire true → Answers (exec (.acquire w) s) (fun t => After s t c c.g 0x245 w.words)) ∧
    ((∀ b, c.head.wait ≠ .acquire b) → c.g.allot.full = true →
      Answers (exec (.acquire w) s) (fun t => After s t c (c.committed 0x245 w.words) 0x245 w.words)) ∧
    ((∀ b, c.head.wait ≠ .acquire b) → c.g.allot.full = false → c.g.allot.fullv = 0 → Answers (exec (.acquire w) s) (fun t =>
      t.waited = false ∧ OnlyGroup s t c.g.gid ∧ ∃ g, t.group? c.g.gid = some g ∧
      (∀ i ∈ c.slices, g.sliceAt i = { c.g.sliceAt i with
        pc := c.next w.words, sig := c.folded 0x245, hdr := c.isLast w.words, wait := .none }) ∧
      (∀ i, i ∉ c.slices → g.sliceAt i = if (c.g.sliceAt i).wait = .acquire false
        then { c.g.sliceAt i with wait := .acquire true } else c.g.sliceAt i) ∧
      g.allot.full = true ∧ g.allot.request = none ∧
      g = { c.committed 0x245 w.words with slices := g.slices, allot := g.allot })) ∧
    ((∀ b, c.head.wait ≠ .acquire b) → c.g.allot.full = false → c.g.allot.fullv ≠ 0 → Answers (exec (.acquire w) s) (fun t =>
      t.waited = false ∧ OnlyGroup s t c.g.gid ∧ ∃ g, t.group? c.g.gid = some g ∧
      g.allot = { c.g.allot with request := some (c.g.allot.request.getD s.cycle) } ∧
      (∀ i ∈ c.slices, g.sliceAt i = { c.g.sliceAt i with wait := .acquire false }) ∧
      ∀ i, i ∉ c.slices → g.sliceAt i = c.g.sliceAt i)) ∧
    ((∀ k a, c.head.wait ≠ .staged k a) → (c.g.allot.full = false ∨ c.g.highFills = false) →
      Answers (exec (.shed w) s) (fun t => t.waited = false ∧ OnlyGroup s t c.g.gid ∧ ∃ g, t.group? c.g.gid = some g ∧
        Advanced c g 0x246 w.words ∧ g.allot.full = false ∧
        (∀ r l, l < 128 → g.vWord r l = if c.g.allot.full = true ∧ 16 ≤ r then PWord.zero else c.g.vWord r l) ∧
        g = { c.committed 0x246 w.words with slices := g.slices, allot := g.allot, regs := { c.g.regs with v := g.regs.v } }))

/-! ### Memory -/

/-- R143, R216, R223, R224, R227, R234, R331: LD, LDS, LR and WLD complete by beginning the fill of what their accesses
read, and LR sets a reservation in each acting lane. No byte of memory changes; an acquire may refresh copies (R333).
From scratchpad each byte is the youngest store-queue entry's, or the scratchpad's; at DEV or SYS each byte is the
youngest store-queue entry's, or the youngest packet's of the core, or device memory's as the partition's key reads it. That a
forwarded byte carries the poison of its entry or packet alone is the model's log 109, and that of the CMTD entries the final one
of an exited loop forwards its log 36. -/
def Obligations.LoadsBeginFills : Prop :=
  ∀ (w : FM) (s s1 : State) (c : Ctx) (accs : List Access), s.ctx? = some c →
    let n := w.size.bytes
    let fill := fun (g : Group) (id : Nat) (reads : List (Nat × List PByte)) (wait : FillWait) =>
      if reads.isEmpty then g
      else g.filling ⟨id, vRegsOf w.dst (wordsFor n), sRegsOf c.handler w.dst, loadWrites c.handler w.dst n reads, wait, true⟩
    let scratch := accs.map (fun a => (a.lane, (List.range n).map (fun i =>
      (c.g.forward true (a.pa + i)).getD (c.co.readScratch (a.pa + i)))))
    let home := accs.map (fun a => (a.lane, (List.range n).map (fun i => (c.g.forward false (a.pa + i)).getD
      ((youngest (s.df.filter (fun p => p.core == c.g.core) ++ s.cfq.filter (fun p => p.core == c.g.core)) (a.pa + i)).getD
        (s.readUnder (s.keyOfCore c.g.core) (a.pa + i))))))
    (c.Passes (fmNeed w w.legalLd false (dstRegs n w.dst) 1) →
      (FmOperand c s w w.ioff.toNat false true (accessLanes w (c.acting w.guard))).Reaches c s s1 accs →
      Answers (exec (.ld w) s) (fun t => ∃ id reads, AfterCaches s t c (fill c.g id reads .ready) 0x140 w.words ∧
        reads.map (·.1) = accs.map (·.lane) ∧ (w.space = true → reads = scratch) ∧
        (w.space = false → w.scope = .dev ∨ w.scope = .sys → reads = home))) ∧
    (c.Passes (fmNeed w w.legalLds false (wordsFor n) 1) →
      (stridedOperand c s w false (c.acting w.guard)).Reaches c s s1 accs →
      Answers (exec (.lds w) s) (fun t => ∃ id, AfterCaches s t c (fill c.g id scratch .ready) 0x142 w.words)) ∧
    (c.Passes (fmNeed w w.legalLr true (wordsFor n) 1) → c.g.loop = none →
      (FmOperand c s w w.ioff.toNat false true (c.acting w.guard)).Reaches c s s1 accs →
      Answers (exec (.lr w) s) (fun t => ∃ id reads, AfterCaches s t c (fill { c.g with
          resv := c.g.resv.filter (fun r => !(accs.map (·.lane)).contains r.lane) ++
            accs.map (fun a => ⟨a.lane, a.pa / 64, w.space, w.size, w.scope, c.g.ctl.asid⟩) } id reads .ready) 0x182 w.words ∧
        reads.map (·.1) = accs.map (·.lane) ∧ (w.space = true → reads = scratch) ∧
        (w.space = false → w.scope = .dev ∨ w.scope = .sys → reads = home))) ∧
    (c.Passes (fmNeed w w.legalWld false (dstRegs n w.dst) 1) →
      ({ FmOperand c s w w.ioff.toNat false false (accessLanes w (c.acting w.guard)) with space := .ws }).Reaches c s s1 accs →
      Answers (exec (.wld w) s) (fun t => ∃ id wait, AfterCaches s t c (fill c.g id
        (accs.map (fun a => (a.lane, (List.range n).map (fun i => s.readWs c.p (a.pa + i))))) wait) 0x145 w.words))

/-- R211, R223 to R226: with room in the store queue, ST, STS and LDK complete by putting their entries into it as
uncommitted; no byte of memory changes before they drain (R329). That a word whose operands are all uniform makes one entry is
the model's log 112, and that the pieces of one beat share one place its log 20. -/
def Obligations.StoresEnterTheQueue : Prop :=
  ∀ (w : FM) (s s1 : State) (c : Ctx) (accs : List Access), s.ctx? = some c →
    let n := w.size.bytes
    let done := fun (opc : Nat) (es : List Beat) (t : State) =>
      t.waited = false ∧ OnlyCaches s t c.g.gid ∧ ∃ g, t.group? c.g.gid = some g ∧ g = { c.g with slices := g.slices, sq := g.sq } ∧
      Advanced c g opc w.words ∧ Enqueued c.g g false es.flatten
    (c.Passes (fmNeed w w.legalSt true 1 (dataRegs n w.sc)) →
      (FmOperand c s w w.ioff.toNat true true (c.acting w.guard)).Reaches c s s1 accs →
      c.hasRoom (c.storeEntries w accs w.space).length →
      Answers (exec (.st w) s) (done 0x141 (c.storeEntries w accs w.space))) ∧
    (c.Passes (fmNeed w w.legalSts true 1 (dataRegs n w.sc)) →
      (stridedOperand c s w true (c.acting w.guard)).Reaches c s s1 accs → c.hasRoom (c.storeEntries w accs true).length →
      Answers (exec (.sts w) s) (done 0x143 (c.storeEntries w accs true))) ∧
    (c.Passes (fmNeed w w.legalLdk true 1 1) →
      let sh := c.ldkShape s w
      (FmOperand c s w w.ioff.toNat false true (c.acting w.guard)).Reaches c s s1 accs →
      (ldkDest sh n (accs.map (·.lane))).Reaches c s1 s1 (accs.map (fun a => ⟨a.lane, sh.sdst + n * a.lane, sh.sdst + n * a.lane, 0, 0, none⟩)) →
      sh.pois = none → sh.sdst % n = 0 → (∀ aw, sh.aw = some aw → aw % 16 = 0 ∧ aw + 16 ≤ c.scratchSize) →
      (∀ l ∈ c.acting w.guard, sh.sdst + n * l + n ≤ c.scratchBelow) → c.hasRoom (c.ldkEntries w sh n accs).length →
      Answers (exec (.ldk w) s) (done 0x144 (c.ldkEntries w sh n accs)))

/-- R143, R218, R231 to R235, R334, R335: an atomic outside a loop that passes its checks commits and holds its accesses with
their operands; a CAS's DST is empty from then on. Once what stands ahead of it is performed, each issue takes the step
of one lane, in lane order. In scratchpad, ATOM writes its operation's result and gives the old value; CAS writes the
new value where the old one is the expected, and its fill will bring the old one; SC writes where the lane's reservation
holds, gives 0 or 1, and clears the reservation; no other byte changes. After the last lane's step the word falls through, a CAS
with a DST once its fill has completed; with no lane left to act it falls through at once. That SC's status word is clean also
with poisoned data is the model's log 108, and that SC's D is one register at W64 its log 105. -/
def Obligations.AtomicsComplete : Prop :=
  ∀ (w : FM) (s : State) (c : Ctx), s.ctx? = some c →
    let n := w.size.bytes
    let wide := w.size == .w64
    let begins := fun (i : Instr) (opc : Nat) (need : Need) (keep fills wide : Bool) (o : Operand) (load : Access → Access) =>
      ∀ s1 accs, c.Passes need → o.Reaches c s s1 accs →
        let regs := vRegsOf w.dst (regsFor wide)
        let g1 := { c.committed opc w.words with resv := if keep then c.g.resv else [] }
        Answers (exec i s) (fun t => t.waited = false ∧ OnlyCaches s t c.g.gid ∧ ∃ g id, t.group? c.g.gid = some g ∧
          (if fills && w.dst.isV && !accs.isEmpty then
            g = { g1.filling ⟨id, regs, [], [], .atomic, false⟩ with slices := g.slices } ∧
            ∀ j ∈ c.slices, g.sliceAt j = { c.g.sliceAt j with wait := .atomic id (accs.map load) (some id) false [] }
          else g = { g1 with slices := g.slices } ∧
            ∀ j ∈ c.slices, g.sliceAt j = { c.g.sliceAt j with wait := .atomic id (accs.map load) none false regs }) ∧
          ∀ j, j ∉ c.slices → g.sliceAt j = c.g.sliceAt j)
    (c.g.loop = none → (∀ m r f a k, c.head.wait ≠ .atomic m r f a k) → (∀ k, c.head.wait ≠ .filling k) →
      begins (.atom w) 0x180 (fmNeed w w.legalAtom true (wordsFor n) (dataRegs n w.sc)) false false wide
        (FmOperand c s w 0 true true (c.acting w.guard)) (c.dataOf s w w.sc) ∧
      begins (.cas w) 0x181 (fmNeed w w.legalCas true (wordsFor n) (2 * wordsFor n)) false true wide
        (FmOperand c s w 0 true true (c.acting w.guard)) (c.casOperands w) ∧
      begins (.sc w) 0x183 (fmNeed w w.legalSc true 1 (dataRegs n w.sc)) true false false
        (FmOperand c s w w.ioff.toNat true true (c.acting w.guard)) (c.dataOf s w w.sc)) ∧
    (∀ mark a rest fill acq regs, c.head.wait = .atomic mark (a :: rest) fill acq regs →
      s.atomicReady c.g mark w.scope = true → s.atomicBlocked c w a = false →
      let read := (s.pointRead c w a).1
      let old := numOfBytes read
      let data := a.x.toNat % 2 ^ (8 * n)
      let won := old = a.y.toNat % 2 ^ (8 * n)
      let good := c.g.resv.any (fun r => r.lane == a.lane && r.granule == a.pa / 64 && r.scratch == w.space && r.size == w.size &&
        r.scope == w.scope && r.asid == c.g.ctl.asid)
      let result := fun (wide : Bool) (x : Nat) (p : Option Tag) (g : Group) => match fill with
        | none => g.regs.v = (c.g.writeDst c.handler w.dst wide false [(a.lane, BitVec.ofNat 64 x, p)]).regs.v
        | some id => g.regs.v = c.g.regs.v ∧ g.fills = c.g.fills.map (fun f => if f.id = id then
            { f with writes := f.writes ++ regWrites c.handler w.dst wide false [(a.lane, BitVec.ofNat 64 x, p)]
                     wait := if rest = [] then .ready else f.wait } else f)
      let goes := fun (opc : Nat) (g : Group) =>
        (rest = [] → fill = none → Advanced c g opc w.words) ∧
        (rest = [] → ∀ id, fill = some id → ∀ i ∈ c.slices, g.sliceAt i = { c.g.sliceAt i with wait := .filling id }) ∧
        (rest ≠ [] → ∃ acq', ∀ i ∈ c.slices, g.sliceAt i = { c.g.sliceAt i with wait := .atomic mark rest fill acq' regs })
      let holds := fun (v : Nat) (t : State) => w.space = true → ∃ co, t.cohort? c.g.cohort = some co ∧
        (co.readScratchBytes a.pa n).map (·.val) = (List.range n).map (fun i => BitVec.ofNat 8 (v / 2 ^ (8 * i))) ∧
        ∀ b, (b < a.pa ∨ a.pa + n ≤ b) → (co.readScratch b).val = (c.co.readScratch b).val
      let acts := fun (i : Instr) (opc : Nat) (wide : Bool) (x : Nat) (p : Option Tag) (v : Nat) (P : Group → Prop) =>
        Answers (exec i s) (fun t => t.waited = false ∧ holds v t ∧ ∃ g, t.group? c.g.gid = some g ∧ result wide x p g ∧
          goes opc g ∧ P g)
      acts (.atom w) 0x180 wide old (poisOfBytes read) (atomOp w.ioff.toNat (8 * n) old data) (fun _ => True) ∧
      acts (.cas w) 0x181 wide old (poisOfBytes read) (if won then data else old) (fun _ => True) ∧
      acts (.sc w) 0x183 false (if good then 0 else 1) none (if good then data else old)
        (fun g => ∀ r ∈ g.resv, r.lane ≠ a.lane)) ∧
    (∀ mark acq regs, c.head.wait = .atomic mark [] none acq regs → s.atomicReady c.g mark w.scope = true →
      Answers (exec (.atom w) s) (fun t => AfterCaches s t c c.g 0x180 w.words) ∧
      Answers (exec (.cas w) s) (fun t => AfterCaches s t c c.g 0x181 w.words) ∧
      Answers (exec (.sc w) s) (fun t => AfterCaches s t c c.g 0x183 w.words)) ∧
    ∀ k, c.head.wait = .filling k → (∀ f ∈ c.g.fills, f.id ≠ k) →
      Answers (exec (.atom w) s) (fun t => After s t c c.g 0x180 w.words) ∧
      Answers (exec (.cas w) s) (fun t => After s t c c.g 0x181 w.words) ∧
      Answers (exec (.sc w) s) (fun t => After s t c c.g 0x183 w.words)

/-- R230 (WSTAT, R228; TRB, R196, R197, R229): WSTAT writes the mask of banks whose refresh window meets the cycles
asked; TRB fills its b register from the translation of its address; PREF changes no register and no copy that is there:
it may bring a line to the core's view at CORE and to the die's view, and for one lane whose access no check or lock stops it
brings that lane's line and no other. With no acting lane none of them does anything. -/
def Obligations.TranslationAndPrefetch : Prop :=
  ∀ (s : State) (c : Ctx), s.ctx? = some c →
    (∀ w : F3, c.Passes ⟨w.legalWstat, false, w.guard, [(w.dst, 1)], [(w.sa, 1), (w.sb, 1)]⟩ →
      let a := c.uniform s w.sa
      let b := c.uniform s w.sb
      Answers (exec (.wstat w) s) (fun t => After s t c
        (if c.acting w.guard = [] then c.g
         else c.g.writeS c.handler w.dst (wstatValue c.p w.sub.toNat a.1.toNat b.1.toNat, mergePois a.2 b.2)) 0x146 w.words)) ∧
    (∀ w : F3, c.Passes ⟨w.legalTrb, false, w.guard, [], [(w.sa, 1)]⟩ →
      let a := c.uniform s w.sa
      (c.acting w.guard = [] → Answers (exec (.trb w) s) (fun t => After s t c c.g 0x147 w.words)) ∧
      (∀ pa x u e, c.acting w.guard ≠ [] → a.2 = none → a.1.toNat < 2 ^ 57 →
        let r := s.translate c.p c.g.core c.g.ctl.asid a.1.toNat
        r.1 = .ok pa x u → (r.2.core c.g.core).l1.find? (fun e => e.hits c.g.ctl.asid a.1.toNat) = some e →
        Answers (exec (.trb w) s) (fun t => AfterCaches s t c (c.g.setB (srcB w.dst)
          { valid := true, asid := c.g.ctl.asid, vbase := BitVec.ofNat 57 a.1.toNat, frame := BitVec.ofNat 57 pa
            limit := BitVec.ofNat 30 (r.2.trbRun c.p e a.1.toNat), w := e.w }) 0x147 w.words))) ∧
    ∀ w : FM, c.Passes (fmNeed w w.legalPref false 1 1) →
      (∀ x ∈ (FmOperand c s w w.ioff.toNat false true (c.acting w.guard)).lanes, x.2.2.2 = none) →
      let o := FmOperand c s w w.ioff.toNat false true (c.acting w.guard)
      let die := View.die (dieOf c.g.core)
      let mine := View.core c.g.core
      Answers (exec (.pref w) s) (fun t => AfterCaches s t c c.g 0x148 w.words ∧
        (∀ v line, t.copy? v line ≠ s.copy? v line → s.copy? v line = none ∧ (v = die ∨ (v = mine ∧ w.scope = .core))) ∧
        (c.acting w.guard = [] → t.copies = s.copies) ∧
        ∀ x pa, o.lanes = [x] → x.2.1 < 2 ^ 57 → x.2.1 % o.size = 0 → (o.base.map (·.valid)).getD true = true →
          (s.translateLane c o x).1 = .ok pa → s.lockHit c.g true false x.2.1 o.size = false →
          (t.copy? (if w.scope = .core then mine else die) (pa / 64)).isSome ∧
          ∀ v line, line ≠ pa / 64 → t.copy? v line = s.copy? v line)

/-- R236, R237, R330, R332, R333, R338, R340: a fence with no acting lane falls through. One that has nothing to wait for
completes at once, and so does a release that is no acquire while loads are outstanding: a release puts its marker at the
end of the store queue, and an acquire refreshes the copies. One with something to wait for puts its marker there and waits
for the loads that are outstanding, and a survivable one for the committed entries ahead of its marker, by the marker's number,
and for their protected stores; it completes, and refreshes if it acquires, when they are gone. -/
def Obligations.FencesComplete : Prop :=
  ∀ (s : State) (c : Ctx), s.ctx? = some c →
    (∀ w : FM, c.Passes (Need.bare w.legalFence false w.guard) →
      (c.acting w.guard = [] → (w.scope ≠ .surv ∨ c.g.loop = none) →
        Answers (exec (.fence w) s) (fun t => After s t c c.g 0x184 w.words)) ∧
      let acquires := orderAcquires w.order
      let surv := w.scope == .surv
      let scope := if surv then .dev else w.scope
      let fresh := fun (t : State) => if acquires then Refreshed s t c.g.core scope else t.copies = s.copies
      let marker := if surv then [(none, EntryOp.survMarker)]
        else if orderReleases w.order then [(none, .relMarker w.scope)] else []
      c.acting w.guard ≠ [] → (surv = false ∨ c.g.loop = none) →
      ((∀ l m, c.head.wait ≠ .fence l m) → c.hasRoom 1 →
        let loads := if acquires then c.g.loadFills else []
        let mark := if surv then some s.nextUid else none
        let ready := s.fenceReady c.g loads mark
        (ready = true → Answers (exec (.fence w) s) (fun t => t.waited = false ∧ OnlyCaches s t c.g.gid ∧ fresh t ∧
          ∃ g, t.group? c.g.gid = some g ∧ g = { c.g with slices := g.slices, sq := g.sq } ∧ Advanced c g 0x184 w.words ∧
            Enqueued c.g g false marker)) ∧
        (loads = [] → surv = false → ready = true) ∧
        (surv = true → c.g.sq = [] → s.unhomed c.g.gid = [] → s.pq = [] → loads = [] → ready = true) ∧
        (ready = false → Answers (exec (.fence w) s) (fun t => t.waited = false ∧ OnlyGroup s t c.g.gid ∧
          ∃ g, t.group? c.g.gid = some g ∧ g = { c.g with slices := g.slices, sq := g.sq } ∧ Enqueued c.g g false marker ∧
            (surv = true → ∃ e ∈ g.sq, e.id = s.nextUid ∧ e.op = .survMarker) ∧
            (∀ i ∈ c.slices, g.sliceAt i = { c.g.sliceAt i with wait := .fence loads mark }) ∧
            ∀ i, i ∉ c.slices → g.sliceAt i = c.g.sliceAt i))) ∧
      ∀ l m, c.head.wait = .fence l m → s.fenceReady c.g l m = true →
        Answers (exec (.fence w) s) (fun t => AfterCaches s t c c.g 0x184 w.words ∧ fresh t)) ∧
    ∀ w : F3, c.Passes (Need.bare w.legalXfence false w.guard) →
      (c.acting w.guard = [] → Answers (exec (.xfence w) s) (fun t => After s t c c.g 0x185 w.words)) ∧
      let fresh := fun (t : State) => if w.sub = 0 then t.copies = s.copies else Refreshed s t c.g.core .dev
      let marker := if w.sub = 1 then [] else [(none, EntryOp.teMarker)]
      c.acting w.guard ≠ [] →
      ((∀ l m, c.head.wait ≠ .fence l m) → c.hasRoom 1 →
        (w.sub = 0 ∨ c.g.loadFills = [] →
          Answers (exec (.xfence w) s) (fun t => t.waited = false ∧ OnlyCaches s t c.g.gid ∧ fresh t ∧
            ∃ g, t.group? c.g.gid = some g ∧ g = { c.g with slices := g.slices, sq := g.sq } ∧ Advanced c g 0x185 w.words ∧
              Enqueued c.g g false marker)) ∧
        (w.sub ≠ 0 → c.g.loadFills ≠ [] → Answers (exec (.xfence w) s) (fun t => t.waited = false ∧ OnlyGroup s t c.g.gid ∧
          ∃ g, t.group? c.g.gid = some g ∧ g = { c.g with slices := g.slices, sq := g.sq } ∧ Enqueued c.g g false marker ∧
            (∀ i ∈ c.slices, g.sliceAt i = { c.g.sliceAt i with wait := .fence c.g.loadFills none }) ∧
            ∀ i, i ∉ c.slices → g.sliceAt i = c.g.sliceAt i))) ∧
      ∀ l m, c.head.wait = .fence l m → s.fenceReady c.g l m = true →
        Answers (exec (.xfence w) s) (fun t => AfterCaches s t c c.g 0x185 w.words ∧ fresh t)

/-- R213, R246, R329, R332, R341: DRAIN takes the oldest entry of a group's queue once it is committed and its marker's
condition holds. A scratchpad entry is written to the cohort's scratchpad and nowhere else; a global entry goes out as
packets, and device memory does not change yet; a trigger marker reports its lanes.
R327, R329, R334: LIFT moves a packet that no release holds, and that no earlier packet of its cluster meets, from the
cluster's fabric queue to the die's; HOME writes a packet that no earlier one meets to device memory: as its partition's key reads it,
each byte it writes reads as its last write, and every other byte as before (where the partition has no parity instance). -/
def Obligations.StoresReachMemory : Prop :=
  (∀ (s : State) (gid : Nat) (g : Group) (e : SQEntry) (rest : List SQEntry),
     s.group? gid = some g → g.sq = e :: rest → e.committed = true → s.drainable g e.op = true →
     Answers (exec (.drain gid) s) (fun t => t.waited = false ∧ ∃ g', t.group? gid = some g' ∧ g'.sq = rest ∧
       g'.regs = g.regs ∧ g'.slices = g.slices ∧
       (∀ bytes co, e.op = .scratch bytes → s.cohort? g.cohort = some co → ∃ co', t.cohort? g.cohort = some co' ∧
         ∀ a, (co'.readScratch a).val = lastByte bytes a (co.readScratch a).val) ∧
       (∀ bytes, e.op = .scratch bytes → ∀ a, t.readDM a = s.readDM a) ∧
       (∀ bytes rel, e.op = .global bytes rel → (∀ a, t.readDM a = s.readDM a) ∧
         ∃ new, t.cfq = s.cfq ++ new ∧ (∀ p ∈ new, p.gid = gid ∧ p.core = g.core) ∧
           ∀ b, b ∈ new.flatMap (·.bytes) ↔ b ∈ bytes) ∧
       (∀ lanes, e.op = .trigMarker lanes → g'.trig = g.trig ||| lanes))) ∧
  (∀ (s : State) (id : Nat) (p : Packet),
     (s.cfq.find? (fun q => q.id == id) = some p → s.isHeld p = false → firstFor p (s.cfqOf (clusterOf p.core)) = true →
       Answers (exec (.lift id) s) (fun t => t.waited = false ∧ t.cfq = s.cfq.filter (fun q => q.id != id) ∧ t.df = s.df ++ [p] ∧
         ∀ a, t.readDM a = s.readDM a)) ∧
     (s.df.find? (fun q => q.id == id) = some p → firstFor p s.df = true → (∀ q, s.part? p.part = some q → q.prot = []) →
       (∀ b ∈ p.bytes, physOk b.addr = true) →
       Answers (exec (.home id) s) (fun t => t.waited = false ∧ t.df = s.df.filter (fun q => q.id != id) ∧ t.cfq = s.cfq ∧
         (∀ a, (t.readAs p.part a).val = lastByte p.bytes a (s.readAs p.part a).val) ∧
         ∀ a, (∀ b ∈ p.bytes, b.addr / 64 ≠ a / 64) → t.readDM a = s.readDM a)))

/-- R329, R330: REFRESH renews a copy that is there: in a die's view each byte becomes device memory's, or the youngest that a
packet of the die not yet Homed wrote; in a core's view the die's copy's, or the youngest that a packet of the core not
yet Lifted wrote (where one key served them all). DROP removes a copy. Neither changes memory, a queue or a group, and
without the copy neither changes anything.
R143, R207: a fill that is ready, or whose refresh window has ended, completes: its words are written, its registers
are full, and it is gone. -/
def Obligations.CopiesAndFills : Prop :=
  (∀ (s : State) (v : View) (line : Nat),
     (s.copy? v line = none → exec (.refresh v line) s = .next { s with waited := false }) ∧
     (∀ x, s.copy? v line = some x → Answers (exec (.refresh v line) s) (fun t =>
       t = { s with copies := t.copies, waited := false } ∧ ∃ y, t.copy? v line = some y ∧
       ∀ k, (∀ p ∈ s.df ++ s.cfq, s.keyOf p.part = k) → SMap.get none s.memKey line = k → ∀ i, i < 64 →
         let a := 64 * line + i
         let upon := fun (ps : List Packet) (b : Byte) => ((youngest ps a).map (·.val)).getD b
         match v with
         | .die d => y.at_ a = upon (s.df.filter (fun p => dieOf p.core == d)) (s.readDM a).val
         | .core n => ∀ z, s.copy? (.die (dieOf n)) line = some z → z.key = k → s.keyOfCore n = k → z.bytes.length = 64 →
             y.at_ a = upon (s.cfq.filter (fun p => p.core == n)) (z.at_ a))) ∧
     Answers (exec (.drop v line) s) (fun t =>
       t = { s with copies := t.copies, waited := false } ∧ t.copy? v line = none ∧
       ∀ v' l', (v', l') ≠ (v, line) → t.copy? v' l' = s.copy? v' l')) ∧
  (∀ (s : State) (gid id : Nat) (g : Group) (f : Fill), s.group? gid = some g → g.fills.find? (fun x => x.id == id) = some f →
     (f.wait = .ready ∨ f.wait = .lmm true ∨ ∃ c, f.wait = .cycle c ∧ c ≤ s.cycle) →
     Answers (exec (.fillComplete gid id) s) (fun t => t.waited = false ∧ OnlyGroup s t gid ∧ ∃ g', t.group? gid = some g' ∧
       g' = { f.writes.foldl applyWrite g with
         fills := g.fills.filter (fun x => x.id != f.id)
         regs := { (f.writes.foldl applyWrite g).regs with vEmpty := g'.regs.vEmpty, sEmpty := g'.regs.sEmpty } } ∧
       (∀ r, r ∈ g'.regs.vEmpty ↔ r ∈ g.regs.vEmpty ∧ r ∉ f.vregs) ∧
       (∀ r, r ∈ g'.regs.sEmpty ↔ r ∈ g.regs.sEmpty ∧ r ∉ f.sregs)))

/-- R103, R105, R131, R132: LOOPB, with its three section headers where its literal says and a queue that holds an index,
begins the loop: the record names the sections, the exit, the queue and the lanes, and the path's first lane holds the
index at NEXT and stands at the prologue's header. No byte of memory changes, and outside the group nothing but the
scratchpad of its cohort and reservations in it.
R106, R131: REFILL in a loop's body completes. A slice with none of the refilling lanes falls through; in a slice
with some, the lowest of them starts its retire section, under a side-trip entry that holds the rest.
R406: TURN of the iteration that is next commits its held entries and puts its CMTD entry, with the index after it,
into the store queue. -/
def Obligations.LoopsRunTheirSections : Prop :=
  (∀ (w : F3) (s s1 s2 s3 : State) (c : Ctx) (h1 h2 h3 : Word64) (l0 : Nat) (ls : List Nat), s.ctx? = some c →
     c.Passes ⟨w.legalLoopb && c.isLast w.words, true, w.guard, [], [(w.sa, 1)]⟩ →
     (c.uniform s w.sa).2 = none → c.sec = 0 → c.g.loop = none →
     let q := (c.uniform s w.sa).1.toNat
     let lit := (c.uniform s w.sb).1
     q % 16 = 0 → q + 16 ≤ c.scratchBelow →
     s.headerAt c.p c.g (sectionTarget c lit 0) = (.header h1, s1) → bits h1 16 2 = 1 →
     s1.headerAt c.p c.g (sectionTarget c lit 21) = (.header h2, s2) → bits h2 16 2 = 2 →
     s2.headerAt c.p c.g (sectionTarget c lit 42) = (.header h3, s3) → bits h3 16 2 = 3 →
     c.active = l0 :: ls → (∀ i, (c.g.sliceAt i).imask = 0) → bit (c.g.sliceAt (l0 / 4)).xmask (l0 % 4) = false →
     ((c.co.scratchWord q).ult (c.co.scratchWord (q + 4)) = true) →
     let bare := fun (g : Group) => { g with resv := [] }
     let dry := fun (co : Cohort) => { co.sansNotes with scratch := [], scratchPois := [] }
     Answers (exec (.loopb w) s) (fun t => t.waited = false ∧ (∀ a, t.readDM a = s.readDM a) ∧
       (∀ h, h ≠ c.g.gid → (t.group? h).map bare = (s.group? h).map bare) ∧
       (∀ u, u ≠ c.co.uid → (t.cohort? u).map Cohort.sansNotes = (s.cohort? u).map Cohort.sansNotes) ∧
       (t.cohort? c.co.uid).map dry = (s.cohort? c.co.uid).map dry ∧ ∃ g lp, t.group? c.g.gid = some g ∧ g.loop = some lp ∧
       g = { c.g with slices := g.slices, splits := g.splits, loop := g.loop, resv := g.resv
                      regs := { c.g.regs with iter := g.regs.iter }
                      ctl := { c.g.ctl with turns := g.ctl.turns, curPath := g.ctl.curPath } } ∧
       (g.sliceAt (l0 / 4)).pc = lp.pro ∧ (g.sliceAt (l0 / 4)).hdr = true ∧ bit (g.sliceAt (l0 / 4)).amask (l0 % 4) = true ∧
       lp.pro = sectionTarget c lit 0 ∧ lp.body = sectionTarget c lit 21 ∧ lp.ret = sectionTarget c lit 42 ∧
       lp.exit = c.next w.words ∧ lp.queue = q ∧ lp.lmask = laneMask c.active ∧
       lp.taken.head? = some (c.co.scratchWord q) ∧ g.iterOf l0 = c.co.scratchWord q)) ∧
  (∀ (w : F3) (s : State) (c : Ctx) (lp : Loop), s.ctx? = some c → c.Passes (Need.bare w.legalRefill true w.guard) →
     c.g.loop = some lp → c.sec = 2 →
     (∀ l ∈ c.acting w.guard, c.g.pPois (srcP w.sa) l = none) →
     let r := fun (i : Nat) => sliceLanes i ((c.acting w.guard).filter (fun l => c.g.pBit (srcP w.sa) l))
     (∀ i ∈ c.slices, r i ≠ 0 → (c.g.sliceAt i).lstk.length < 16) →
     Answers (exec (.refill w) s) (fun t => t.waited = false ∧ OnlyGroup s t c.g.gid ∧ ∃ g, t.group? c.g.gid = some g ∧
       g = { c.g with slices := g.slices, ctl := { c.g.ctl with turns := g.ctl.turns, curPath := g.ctl.curPath } } ∧
       (∀ i ∈ c.slices,
         let x := c.g.sliceAt i
         let y := g.sliceAt i
         if r i = 0 then y.pc = c.next w.words ∧ y.hdr = c.isLast w.words ∧ y.amask = x.amask ∧ y.lstk = x.lstk
         else y.pc = lp.ret ∧ y.hdr = true ∧ y.amask = r i &&& (-r i) ∧
           ∃ e, y.lstk = e :: x.lstk ∧ e.kind = .sideTrip ∧ e.orig = x.amask ∧ e.taken = r i ∧ e.arr = r i ∧
             e.tpc = c.next w.words) ∧
       ∀ i, i ∉ c.slices → g.sliceAt i = c.g.sliceAt i)) ∧
  (∀ (s : State) (gid : Nat) (g : Group) (lp : Loop) (i : Word32) (co : Cohort) (p : Part), s.group? gid = some g →
     g.discarding = false → g.loop = some lp → lp.nextTurn = some i → s.cohort? g.cohort = some co → s.part? g.part = some p →
     (∀ j, (g.sliceAt j).wait.isRegang = false) →
     let kept := fun (e e' : SQEntry) => e'.id = e.id ∧ e'.place = e.place ∧ e'.iter = e.iter ∧
       e'.committed = (e.committed || e.iter == some i) ∧
       (e'.op = e.op ∨ ∃ off v b, e.op = .cmtd off v b ∧ e'.op = .cmtd off v true)
     Answers (exec (.turn gid) s) (fun t => ∃ g', t.group? gid = some g' ∧
       (∃ e ∈ g'.sq, e.committed = true ∧ ∃ b, e.op = .cmtd (lp.queue + 8) (i + 1) b) ∧
       ∀ e ∈ g.sq, ∃ e' ∈ g'.sq, kept e e'))

/-! ### Engine commands, binning and arrival words -/

/-- R240, R259 to R263, R267 (CPY, CPYG, CPYS, CPYR, CPYH), R377 (REBUILD): a command that passes its checks enters the
lowest free slot of its cluster's queue: QUEUED with its locks registered, or HELD under HOLD. The group's work commits
and the path goes on; no byte of memory changes before the command moves.
R240, R263: an engine command that fails a check traps as ENGINE_OP with the lowest code that fails in TSAVE0, and
nothing enters a queue. That TMASK is every active lane is the model's log 23. -/
def Obligations.EngineCommandsEnterOrTrap : Prop :=
  (∀ (w : FX) (s : State) (c : Ctx), s.ctx? = some c →
     (c.cmdRegs s w).pois = none → (∀ x, c.head.wait ≠ .command x) → c.acting w.guard ≠ [] → c.sec ≠ 3 →
     (∀ e ∈ c.g.sq, e.op ≠ .teMarker) →
     let r := c.cmdRegs s w
     let k := clusterOf c.g.core
     let enters := fun (i : Instr) (opc : Nat) (cmd : Cmd) =>
       ∀ slot, (s.cluster k).freeSlot = some slot → (cmd.hnum = none → s.locksFit { cmd with slot := slot } = true) →
       Answers (exec i s) (fun t => GroupAfter t c (c.committed opc w.words) opc w.words ∧ (∀ a, t.readDM a = s.readDM a) ∧
         (∀ j, j ≠ k → t.cluster j = s.cluster j) ∧ ∃ x, (t.cluster k).eq = (s.cluster k).eq ++ [x] ∧
         x = { cmd with slot := slot, uid := x.uid, order := x.order, state := if cmd.hnum = none then .queued else .held } ∧
         (t.cluster k).rlt.map (fun l => { l with seq := 0 }) = (s.cluster k).rlt.map (fun l => { l with seq := 0 }) ++
           (if cmd.hnum = none then s.locksOf { cmd with slot := slot } 0 else []))
     let copies := fun (i : Instr) (opc : Nat) (legal : Bool) (kind : CmdKind) =>
       c.Passes (cmdNeed w legal) → s.issueCode c (copyCode1 w kind r) false (c.copyCmd w kind r) = none →
       enters i opc (c.copyCmd w kind r)
     copies (.cpy w) 0x1C0 w.legalCpy .cpy ∧ copies (.cpyg w) 0x1C1 w.legalCpyg .cpyg ∧
     copies (.cpys w) 0x1C2 w.legalCpys .cpys ∧ copies (.cpyr w) 0x1C3 w.legalCpyr .cpyr ∧
     copies (.cpyh w) 0x1C4 w.legalCpyh .cpyh ∧
     (c.Passes (cmdNeed w w.legalRebuild) →
       s.issueCode c (rebuildCode1 w r) (rebuildCode15 r) (c.rebuildCmd w r) = none → enters (.rebuild w) 0x287 (c.rebuildCmd w r))) ∧
  (∀ (w : FX) (s : State) (c : Ctx) (code : Nat), s.ctx? = some c → c.mayTrap →
     (c.cmdRegs s w).pois = none → (∀ x, c.head.wait ≠ .command x) → c.acting w.guard ≠ [] → c.sec ≠ 3 →
     let r := c.cmdRegs s w
     let traps := fun (i : Instr) =>
       Answers (exec i s) (fun t => t.clusters = s.clusters ∧
         Vectored s t c ⟨0x17, c.active, 0, 0, false, false, BitVec.ofNat 64 code, 0, 0, 0, c.pc⟩)
     let copies := fun (i : Instr) (legal : Bool) (kind : CmdKind) =>
       c.Passes (cmdNeed w legal) → s.issueCode c (copyCode1 w kind r) false (c.copyCmd w kind r) = some code → traps i
     copies (.cpy w) w.legalCpy .cpy ∧ copies (.cpyg w) w.legalCpyg .cpyg ∧ copies (.cpys w) w.legalCpys .cpys ∧
     copies (.cpyr w) w.legalCpyr .cpyr ∧ copies (.cpyh w) w.legalCpyh .cpyh ∧
     (c.Passes (cmdNeed w w.legalRebuild) →
       s.issueCode c (rebuildCode1 w r) (rebuildCode15 r) (c.rebuildCmd w r) = some code → traps (.rebuild w)))

/-- R267 to R270 (CREL, BPATCH), R250, R271 (BIN): CREL releases the HELD command it names, which becomes QUEUED; BPATCH
gives each HELD command it names the count of its bin, and under .PFX moves it past the rows before it; BIN puts its additions into the store queue, and traps when a
lock meets its table, with every acting lane in TMASK and the table in TADDR, which is the model's log 23. -/
def Obligations.HeldCommandsAndBins : Prop :=
  ∀ (s : State) (c : Ctx), s.ctx? = some c → (∀ k v l, c.head.wait ≠ .patch k v l) →
    (∀ i k v l, (c.g.sliceAt i).wait ≠ .patch k v l) → c.g.sq = [] → c.sec ≠ 3 →
    (∀ (w : FX) (h : Nat) (cmd : Cmd), c.Passes ⟨w.legalCrel, true, w.guard, [], [(w.sa, 1)]⟩ → c.acting w.guard ≠ [] →
      c.uniform s w.sa = (BitVec.ofNat 64 (2 ^ h), none) → h < 32 →
      s.heldCmd? c.co.uid h = some cmd → s.cmd? cmd.cluster cmd.slot = some cmd → cmd.state = .held →
      cmd.poisonedCount = false → cmd.code c.p (s.cmdScratch cmd).1 (s.cmdScratch cmd).2 = none → s.locksFit cmd = true →
      Answers (exec (.crel w) s) (fun t => GroupAfter t c (c.committed 0x1C5 w.words) 0x1C5 w.words ∧
        (∀ a, t.readDM a = s.readDM a) ∧ ∃ x, t.cmd? cmd.cluster cmd.slot = some x ∧
          x = { cmd with state := .queued, order := x.order })) ∧
    (∀ (w : FX) (v : Word64) (f : Nat → Cmd), c.Passes ⟨w.legalBpatch, true, w.guard, [], [(w.sa, 1)]⟩ →
      c.acting w.guard ≠ [] → c.uniform s w.sa = (v, none) → patchReserved v = false →
      let x := Patch.ofWord v
      let table := x.ctoff + 4 * x.b0
      let bytes := fun (j : Nat) => c.co.readScratchBytes (table + 4 * j) 4
      let before := fun (j : Nat) => ((List.range j).map (fun i => numOfBytes (bytes i))).sum
      let pfx := bit w.cmd 8
      1 ≤ x.n → x.b0 + x.n ≤ 1024 → x.h0 + x.n ≤ 32 → x.ctoff % 16 = 0 → table + 4 * x.n ≤ c.scratchSize →
      (∀ j < x.n, s.heldCmd? c.co.uid (x.h0 + j) = some (f j) ∧ s.cmd? (f j).cluster (f j).slot = some (f j) ∧
        (f j).state = .held ∧ ∀ y ∈ s.allCmds, y.cohort = c.co.uid → y.hnum = some (x.h0 + j) → y = f j) →
      Answers (exec (.bpatch w) s) (fun t => GroupAfter t c (c.committed 0x1C7 w.words) 0x1C7 w.words ∧
        (∀ a, t.readDM a = s.readDM a) ∧ ∀ j < x.n, t.cmd? (f j).cluster (f j).slot = some { f j with
          rows := numOfBytes (bytes j), poisonedCount := (f j).poisonedCount || (poisOfBytes (bytes j)).isSome
          dst := if pfx && (f j).kind != .cpys then (f j).dst + BitVec.ofNat 64 (before j * (f j).dpitch) else (f j).dst
          src := if pfx && (f j).kind == .cpys then (f j).src + BitVec.ofNat 64 (before j * (f j).spitch) else (f j).src
          idxoff := if pfx && (f j).indexed then (f j).idxoff + 4 * before j else (f j).idxoff })) ∧
    ∀ w : F3, c.Passes ⟨w.legalBin, true, w.guard, [], [(w.sa, 1), (w.sb, 1), (w.sc, 1)]⟩ →
      let lanes := c.acting w.guard
      let table := (c.uniform s w.sa).1.toNat
      let bin := fun (l : Nat) => (c.read s w.sb false l).1.toNat
      let amount := fun (l : Nat) => if w.sc.isZero then (1, none) else c.read s w.sc false l
      let es := c.binBeat table (lanes.map (fun l => (bin l, (amount l).1.setWidth 32, (amount l).2, l)))
      lanes ≠ [] → (c.uniform s w.sa).2 = none → (∀ l ∈ lanes, (c.read s w.sb false l).2 = none ∧ bin l < 1024) →
      table % 16 = 0 → table + 4096 ≤ c.scratchBelow →
      (s.lockHit c.g true true table 4096 = true → c.mayTrap → Answers (exec (.bin w) s) (fun t =>
        Vectored s t c ⟨0x15, lanes, table, 0, true, false, 0, 0, 0, 0, c.pc⟩)) ∧
      (s.lockHit c.g true true table 4096 = false → c.hasRoom 1 →
        Answers (exec (.bin w) s) (fun t => t.waited = false ∧ OnlyGroup s t c.g.gid ∧ ∃ g, t.group? c.g.gid = some g ∧
          g = { c.g with slices := g.slices, sq := g.sq } ∧ Advanced c g 0x1C6 w.words ∧ Enqueued c.g g false es))

/-- R246, R272, R273: AWSET and AWADD commit and put one committed entry into the store queue; AWWAIT completes once GEN
has left the generation named, and AWGEN at once, with FLAGS and GEN in their destination.
R246, R247: Arrive(n) on an arrival word whose counted cohort is placed: COUNT grows by n below TARGET; at TARGET or
above it COUNT is 0 and GEN steps by one, and an excess sets ERR and OVER. -/
def Obligations.ArrivalWordsComplete : Prop :=
  (∀ (w : F3) (s : State) (c : Ctx), s.ctx? = some c → c.acting w.guard ≠ [] →
     (c.uniform s w.sa).2 = none → (c.read s w.sb false 0).2 = none →
     let off := (c.uniform s w.sa).1.toNat
     let val := (c.read s w.sb false 0).1.setWidth 32
     off % 16 = 0 → off + 16 ≤ c.scratchBelow →
     let sets := fun (i : Instr) (opc : Nat) (op : EntryOp) =>
       c.Passes ⟨w.legalAwset, true, w.guard, [], [(w.sa, 1), (w.sb, 1)]⟩ → (∀ v l rs k, c.head.wait ≠ .held v l rs k) →
       let it := c.retireIter ((c.acting w.guard).head?.getD 0)
       s.lockHit c.g true true off 16 = false → c.g.sqCount < 64 →
       (it = none ∨ placesOf (c.g.sq.filter (fun e => e.iter.isSome && !e.committed)) < 64) →
       Answers (exec i s) (fun t => t.waited = false ∧ OnlyGroup s t c.g.gid ∧ ∃ g, t.group? c.g.gid = some g ∧
         g = { c.committed opc w.words with slices := g.slices, sq := g.sq } ∧ Advanced c g opc w.words ∧
         Enqueued (c.committed opc w.words) g true [(it, op)])
     let status := ((c.co.scratchWord (off + 12)).setWidth 64 <<< 32) ||| (c.co.scratchWord (off + 8)).setWidth 64
     let written := c.g.writeS c.handler w.dst (status, none)
     sets (.awset w) 0x1C8 (.awset off val) ∧ sets (.awadd w) 0x1C9 (.awadd off val) ∧
     (c.Passes ⟨w.legalAwwait, true, w.guard, [(w.dst, 1)], [(w.sa, 1), (w.sb, 1)]⟩ → c.co.scratchWord (off + 8) ≠ val →
       Answers (exec (.awwait w) s) (fun t => AfterCaches s t c written 0x1CA w.words)) ∧
     (c.Passes ⟨w.legalAwgen, true, w.guard, [(w.dst, 1)], [(w.sa, 1), (w.sb, 1)]⟩ →
       Answers (exec (.awgen w) s) (fun t => After s t c written 0x1CB w.words))) ∧
  (∀ (s : State) (uid off n : Nat) (co : Cohort), s.cohort? uid = some co →
     let target := (co.scratchWord off).toNat
     let count := (co.scratchWord (off + 4)).toNat + n
     ∃ co', (s.arrive uid off n).cohort? uid = some co' ∧ co'.scratchWord off = co.scratchWord off ∧
       (count < target → (co'.scratchWord (off + 4)).toNat = count ∧ co'.scratchWord (off + 8) = co.scratchWord (off + 8) ∧
         co'.scratchWord (off + 12) = co.scratchWord (off + 12)) ∧
       (target ≤ count → co'.scratchWord (off + 4) = 0 ∧ co'.scratchWord (off + 8) = co.scratchWord (off + 8) + 1 ∧
         co'.scratchWord (off + 12) = if target < count then co.scratchWord (off + 12) ||| 3 else co.scratchWord (off + 12)))

/-! ### Group matrix words -/

/-- R300, R320 to R323: LMM joins the engine's queue with the operands it read, its destination empty until the engine
has served it; MRD begins the fill of its register with the tile's elements, or, while a lineage is open on the tile, to
be read as it closes; MWR writes each acting lane's word into the tile and nothing else; CAPO passes the quarter's token
to the group its operand names.
R288, R293, R321: LMM_SERVE takes the oldest request whose operands are ready (that order among ready requests is the
model's choice, log 81), and its fill will bring the sums of R321 to its two registers: D(i, j) rounds C(i, j) plus the F32 sum of the 16 products. -/
def Obligations.GroupMatrixCompletes : Prop :=
  (∀ (w : F3) (s : State) (c : Ctx), s.ctx? = some c →
     let a := (c.uniform s w.sa)
     let tile := (bits a.1 0 6).toNat
     let part := (bits a.1 8 3).toNat
     let lanes := c.acting w.guard
     let named := a.2 = none ∧ a.1 &&& ~~~tselMask = 0 ∧ c.tileOk tile = true
     (c.Passes ⟨w.legalMrd, true, w.guard, [(w.dst, 1)], [(w.sa, 1)]⟩ → lanes ≠ [] → named →
       ∀ d, w.dst = .v d → Answers (exec (.mrd w) s) (fun t => ∃ id, After s t c (c.g.filling (if c.co.maskOf tile = 0
         then ⟨id, [d.toNat], [], ((List.range 128).filter lanes.contains).map (fun l =>
           .v d.toNat l (c.co.elem tile (128 * part + l))), .ready, false⟩
         else ⟨id, [d.toNat], [], [], .mrd tile part (laneMask lanes) d.toNat, false⟩)) 0x201 w.words)) ∧
     (c.Passes ⟨w.legalMwr, true, w.guard, [], [(w.sa, 1), (w.sb, 1)]⟩ → lanes ≠ [] → named →
       c.co.maskOf tile = 0 →
       Answers (exec (.mwr w) s) (fun t => GroupAfter t c c.g 0x202 w.words ∧ (∀ x, t.readDM x = s.readDM x) ∧
         ∃ co, t.cohort? c.g.cohort = some co ∧ ∀ i e, e < 1024 → co.elem i e =
           if i = tile ∧ e / 128 = part ∧ e % 128 ∈ lanes
           then ⟨(c.read s w.sb false (e % 128)).1.setWidth 32, (c.read s w.sb false (e % 128)).2⟩ else c.co.elem i e)) ∧
     (c.Passes ⟨w.legalCapo, false, w.guard, [], [(w.sa, 1)]⟩ → lanes ≠ [] → a.2 = none →
       let holder := SMap.get none (s.core c.g.core).capo c.g.quarter
       (holder = none ∨ holder = some c.g.gid →
         Answers (exec (.capo w) s) (fun t => GroupAfter t c c.g 0x203 w.words ∧ ∃ next,
           SMap.get none (t.core c.g.core).capo c.g.quarter = next ∧
           (next = holder → SMap.get 0 (t.core c.g.core).capoPicks c.g.quarter = SMap.get 0 (s.core c.g.core).capoPicks c.g.quarter) ∧
           (∀ n, next = some n → ∃ g ∈ s.groups, g.gid = n ∧ g.cohort = c.g.cohort ∧ g.core = c.g.core ∧
             g.quarter = c.g.quarter ∧ g.stopped = false ∧ g.sp.grp.toNat = a.1.toNat) ∧
           (next = none → ∀ g ∈ s.groups, g.cohort = c.g.cohort → g.core = c.g.core → g.quarter = c.g.quarter →
             g.stopped = false → g.sp.grp.toNat ≠ a.1.toNat))) ∧
       (∀ n, holder = some n → n ≠ c.g.gid → Answers (exec (.capo w) s) (fun t => After s t c c.g 0x203 w.words))) ∧
     (c.Passes ⟨w.legalLmm, true, Guard.always, [(w.dst, 2)],
         [(w.sa, 1), (w.sb, 1), (w.sc, if w.sub == 1 then 1 else 2)]⟩ → c.wholeGroup = true → c.g.lmmCount < 2 →
       let v := c.uniform s w.sc
       let src := (bits v.1 0 6).toNat
       let quad := (bits v.1 6 2).toNat
       let live := w.sub = 1 ∧ c.co.maskOf src ≠ 0
       (w.sub = 1 → v.2 = none ∧ v.1 &&& ~~~lmmMask = 0 ∧ c.tileOk src = true) →
       ∀ d, w.dst = .v d → Answers (exec (.lmm w) s) (fun t => ∃ id,
         GroupAfter t c (c.g.filling ⟨id, [d.toNat, d.toNat + 1], [], [], .lmm false, false⟩) 0x200 w.words ∧
         (t.core c.g.core).lmmQueue = (s.core c.g.core).lmmQueue ++ [⟨c.g.gid, id, w.ty == .bf16, c.g.vWords (srcSpec w.sa) 0,
           c.g.vWords (srcSpec w.sb) 0,
           if w.sub ≠ 1 then c.g.vWords (srcSpec w.sc) 0 ++ c.g.vWords (srcSpec w.sc) 1
           else if live then [] else quadrant (c.co.tile src) quad,
           if live then some (src, quad) else none, d.toNat⟩]))) ∧
  (∀ (s : State) (core : Nat) (q : LmmReq) (g : Group),
     (s.core core).lmmQueue.find? LmmReq.ready = some q → s.group? q.gid = some g →
     Answers (exec (.lmmServe core) s) (fun t => t.waited = false ∧
       (t.core core).lmmQueue = (s.core core).lmmQueue.filter (fun x => x.fill != q.fill) ∧ (∀ a, t.readDM a = s.readDM a) ∧
       ∃ g', t.group? q.gid = some g' ∧ g' = { g with fills := g'.fills } ∧
         (∀ f ∈ g.fills, f.id ≠ q.fill → f ∈ g'.fills) ∧
         (∀ f ∈ g.fills, f.id = q.fill → ∃ f' ∈ g'.fills, f'.id = f.id ∧ f'.wait = .lmm true ∧ f'.vregs = f.vregs ∧
           ∀ i j, i < 16 → j < 16 → RegWrite.v (q.dst + j / 8) (16 * (j % 8) + i) (q.output i j) ∈ f'.writes)))

/-! ### Task instructions -/

/-- R349: SPAWN, with nothing of its group on the way, commits, and its flit, read at DM, enters the port queue; once the
scheduler has taken the flit, SPAWN completes with the result word in its destination.
R29, R31, R350 to R352: ARM reads and, on a task that waits for decrements, raises its counter in the same step; TDEC
sends one decrement to the home scheduler; TRIG puts a trigger marker for its lanes into the store queue. -/
def Obligations.TaskInstructionsComplete : Prop :=
  (∀ (w : F3) (s : State) (c : Ctx), s.ctx? = some c →
     (∀ k l g p r, c.head.wait = .staged k l → c.p.spawned.find? (fun x => x.1 == c.g.gid && x.2.1 == c.path) = some (g, p, r) →
       Answers (exec (.spawn w) s) (fun t => GroupAfter t c (c.g.writeS c.handler w.dst (r, none)) 0x240 w.words ∧
         (∀ a, t.readDM a = s.readDM a) ∧ ∃ q, t.part? c.p.id = some q ∧
           q.spawned = c.p.spawned.filter (fun x => !(x.1 == g && x.2.1 == p)))) ∧
     (c.Passes ⟨w.legalSpawn, true, w.guard, [(w.dst, 1)], [(w.sa, 1)]⟩ → Drained s c → Acts s c w.guard [w.sa] →
       (∀ k l, c.head.wait ≠ .staged k l) → c.p.ports.flits.length < 256 →
       let a := (c.uniform s w.sa).1
       ∀ pa x u, bits a 57 7 = 0 → a.toNat % 32 = 0 → (s.translate c.p c.g.core c.g.ctl.asid a.toNat).1 = .ok pa x u →
         Answers (exec (.spawn w) s) (fun t => t.waited = false ∧ (∀ y, t.readDM y = s.readDM y) ∧
           (∃ q, t.part? c.p.id = some q ∧ q.ports.flits = c.p.ports.flits ++
             [⟨s.readWordAs c.p.id pa, s.readWordAs c.p.id (pa + 8), s.readWordAs c.p.id (pa + 16), s.readWordAs c.p.id (pa + 24),
               some (c.g.gid, c.path)⟩]) ∧
           ∃ g, t.group? c.g.gid = some g ∧ g = { c.committed 0x240 w.words with slices := g.slices } ∧
             ∀ i ∈ c.slices, g.sliceAt i = { c.g.sliceAt i with wait := .staged 2 [] }))) ∧
  (∀ (w : F3) (s : State) (c : Ctx), s.ctx? = some c →
     let tid := (c.uniform s w.sa).1
     let n := (c.uniform s w.sb).1
     (c.Passes ⟨w.legalArm, true, w.guard, [(w.dst, 1)], [(w.sa, 1), (w.sb, 1)]⟩ → Acts s c w.guard [w.sa, w.sb] →
       bits tid 20 44 = 0 → n ≠ 0 → bits n 16 48 = 0 → ∀ k, s.task? c.p.id tid.toNat = some k →
       let armed := (k.state = .waiting ∨ (k.state = .parked ∧ k.wake = some .dep)) ∧ k.depc + n.toNat ≤ 65535
       Answers (exec (.arm w) s) (fun t => ∃ x k', t.task? c.p.id tid.toNat = some k' ∧
         GroupAfter t c ((c.committed 0x241 w.words).writeS c.handler w.dst (x, none)) 0x241 w.words ∧
         (armed → k' = { k with depc := k.depc + n.toNat } ∧
           x = put64 44 20 tid.toNat + put64 40 4 k.state.code + put64 16 16 (k.depc + n.toNat) + 1) ∧
         (¬ armed → k' = k ∧ x = put64 44 20 tid.toNat + put64 40 4 k.state.code + put64 16 16 k.depc))) ∧
     (c.Passes ⟨w.legalTdec, true, w.guard, [], [(w.sa, 1)]⟩ → Drained s c → Acts s c w.guard [w.sa] → bits tid 20 44 = 0 →
       Answers (exec (.tdec w) s) (fun t => GroupAfter t c (c.committed 0x242 w.words) 0x242 w.words ∧
         (∀ y, t.readDM y = s.readDM y) ∧ t.part? c.p.id = some { c.p with decrements := c.p.decrements ++ [(tid.toNat, none)] })) ∧
     (c.Passes (Need.bare w.legalBare true w.guard) → (c.g.loop = none ∨ c.sec = 0) →
       Answers (exec (.trig w) s) (fun t => t.waited = false ∧ OnlyGroup s t c.g.gid ∧ ∃ g, t.group? c.g.gid = some g ∧
         g = { c.committed 0x243 w.words with slices := g.slices, sq := g.sq } ∧ Advanced c g 0x243 w.words ∧
         Enqueued (c.committed 0x243 w.words) g true
           (if c.acting w.guard = [] then [] else [(none, .trigMarker (laneMask (c.acting w.guard)))]))))

/-- R36, R353 to R356: PARK in a group with nothing outstanding, with a TID free and room for its parity deltas (R374):
the group's slot and registers are free, the task table holds a continuation with the wake that the form names, and its
record holds the group's special registers, masks, PCs and selected registers, byte for byte; SB, where it is not ZERO,
names the word that takes the TID. ORIG and PRI of a resumed group are its cohort's task's (log 98). -/
def Obligations.ParkWritesTheContinuation : Prop :=
  ∀ (w : F3) (s : State) (c : Ctx) (tid pa : Nat) (k : Task), s.ctx? = some c →
    c.Passes ⟨w.legalPark, false, w.guard, [(w.dst, 1)], [(w.sa, 1), (w.sb, 1), (w.sc, 2)]⟩ →
    (∀ j l, c.head.wait ≠ .staged j l) → c.g.loop = none → c.g.parted = false →
    let op := c.uniform s w.sa
    let addr := c.uniform s w.sb
    let m0 := c.uniformAt w.sc 0
    let m1 := c.uniformAt w.sc 1
    let regs := bitmapRegs (m1.1 ++ m0.1)
    op.2 = none → addr.2 = none → m0.2 = none → m1.2 = none → regs.length ≤ 16 → (∀ r ∈ regs, r < c.g.vCount) →
    c.badWake w.sub.toNat op.1 w.sa.isZero = false →
    (w.sb.isZero = false → bits addr.1 57 7 = 0 ∧ addr.1.toNat % 4 = 0 ∧
      (s.translate c.p c.g.core c.g.ctl.asid addr.1.toNat).1.forAcc .write = .ok pa) →
    c.g.fills = [] → c.g.sq = [] → s.unhomed c.g.gid = [] → (∀ i, (c.g.sliceAt i).wait.midway = false) →
    (c.isLast w.words = true → c.folded 0x244 = bits c.head.blk 0 12) →
    c.p.freeCont = some tid → s.task? c.p.id c.co.tid = some k → c.g.cont ≠ some tid →
    let a := c.p.recordAt tid
    let record := recordBytes ((c.committed 0x244 w.words).parkedAt c w.words) a w.sub.toNat (BitVec.ofNat 8 w.dst.code) op.1 m0.1 m1.1
    s.parityRoom c.p.id record = true → s.evalWake c w.sub.toNat op.1 ≠ .fails →
    Answers (exec (.park w) s) (fun t => t.waited = false ∧ t.group? c.g.gid = none ∧
      (∃ b, t.task? c.p.id tid = some b ∧ b.kind = .continuation ∧ b.orig = c.co.tid ∧ b.parkCohort = c.co.uid ∧
        b.pri = k.pri ∧ b.depc = (if w.sub = 1 then op.1.toNat else 0) ∧
        (∀ x, s.evalWake c w.sub.toNat op.1 = .parked x → b.state = .parked ∧ b.wake = some x) ∧
        (∀ x, s.evalWake c w.sub.toNat op.1 = .ready x → b.state = .ready ∧ b.wakeStatus = x ∧ b.rstamp = s.tick)) ∧
      (c.p.prot = [] → physOk a = true → physOk (a + 8575) = true →
        let apart := fun (y : Nat) (k : Nat) => y < c.p.blockAddr k ∨ c.p.blockAddr k + 64 ≤ y
        ∀ y, apart y tid → (∀ j, c.g.cont = some j → apart y j) →
          ((w.sb.isZero = true ∨ y < pa ∨ pa + 4 ≤ y) → (t.readAs c.p.id y).val = lastByte record y (s.readAs c.p.id y).val) ∧
          (w.sb.isZero = false → pa ≤ y → y < pa + 4 → physOk y = true →
            (t.readAs c.p.id y).val = BitVec.ofNat 8 (tid / 2 ^ (8 * (y - pa))))))

/-! ### Handle instructions -/

/-- R359, R362, R366, R369 to R371: a handle instruction whose group has nothing on the way completes on every handle
that is well formed. A stale handle gives its stale answer and changes no record. On a matching one HWEAK and HUPG count
one more handle of their kind, HPRI sets the priority, HREL counts one fewer, and HFREE, and HREL of the last handle,
destroy the object: its record has the next GEN and is FREE or RETIRED, its pages are unmapped, and its frames go back to
their pools (what memory holds is said of memory that exists and that no parity instance covers, in tables apart). The ascending
page order in which the frames go back, and that the pages are mapped under the partition's first ASID, are the model's log 52. -/
def Obligations.HandleInstructionsComplete : Prop :=
  ∀ (w : F3) (s : State) (c : Ctx), s.ctx? = some c → Drained s c → Acts s c w.guard [w.sa, w.sb] →
    let v := (c.uniform s w.sa).1
    let p := (c.uniform s w.sb).1
    let h := Handle.ofWord v
    malformedHandle c.p v = false →
    let passes := fun (legal : Bool) (dst : Nat) => c.Passes ⟨legal, true, w.guard, [(w.dst, dst)], [(w.sa, 1), (w.sb, 1)]⟩
    let ends := fun (i : Instr) (opc : Nat) (regs : Group) (P : State → Prop) =>
      Answers (exec i s) (fun t => t.waited = false ∧ (∃ g, t.group? c.g.gid = some g ∧ Advanced c g opc w.words ∧
        g.regs.s = regs.regs.s ∧ g.regs.v = c.g.regs.v ∧ g.regs.p = c.g.regs.p) ∧ P t)
    let one := fun (x : Word64) => c.g.writeS c.handler w.dst (x, none)
    let pair := fun (x y : Word64) => c.g.writePair c.handler w.dst x y
    let same := fun (t : State) => ∀ a, t.readDM a = s.readDM a
    let holds := fun (r : ObjRec) (t : State) => c.p.prot = [] → (∀ i < 32, physOk (c.p.recAddr h.idx + i) = true) →
      t.objRec c.p h.idx = r
    (s.match? c.p h = none →
      (passes w.legalHandleStatus 1 → ends (.hfree w) 0x281 (one 1) same) ∧
      (passes w.legalHandleStatus 1 → ends (.hrel w) 0x284 (one 1) same) ∧
      (passes w.legalHweak 1 → ends (.hweak w) 0x282 (one 0) same) ∧
      (passes w.legalHupg 2 → ends (.hupg w) 0x283 (pair 0 0) same) ∧
      (passes w.legalHpri 1 → p.toNat ≤ 15 → ends (.hpri w) 0x285 c.g same)) ∧
    ∀ r, s.match? c.p h = some r →
      (passes w.legalHandleStatus 1 → ends (.hfree w) 0x281 (one 4) (fun t => Destroyed s t c.p r)) ∧
      (passes w.legalHweak 1 → r.wcnt < 65535 →
        ends (.hweak w) 0x282 (one (Handle.word { h with hk := 2 })) (holds { r with wcnt := r.wcnt + 1 })) ∧
      (passes w.legalHupg 2 → r.scnt < 65535 →
        ends (.hupg w) 0x283 (pair (Handle.word { h with hk := 1 }) (r.va.setWidth 64))
          (holds { r with scnt := r.scnt + 1, stamp := s.tick })) ∧
      (passes w.legalHpri 1 → p.toNat ≤ 15 → ends (.hpri w) 0x285 c.g (holds { r with rpri := p.setWidth 4 })) ∧
      (passes w.legalHandleStatus 1 → let strong := h.hk == 1
        ((if strong then r.scnt else r.wcnt) = 0 → ends (.hrel w) 0x284 (one 2) same) ∧
        ((if strong then r.scnt else r.wcnt) ≠ 0 → r.scnt + r.wcnt = 1 → ends (.hrel w) 0x284 (one 4)
          (fun t => Destroyed s t c.p { r with scnt := 0, wcnt := 0 })) ∧
        ((if strong then r.scnt else r.wcnt) ≠ 0 → r.scnt + r.wcnt ≠ 1 → ends (.hrel w) 0x284 (one 0)
          (holds (if strong then { r with scnt := r.scnt - 1 } else { r with wcnt := r.wcnt - 1 }))))

/-- R363, R368: HALLOC of a legal size and priority completes. Of an object that fits its tier's quota and pool it takes
the lowest free index and the lowest free run of the heap window, and the record, in memory that exists and that no
parity instance covers, is LIVE with one strong handle; with no free index it answers 2, and with no free run 3.
R364, R366, R372: LDW of a stale handle gives zeros and sets its gone bit, and of a live one gives the object's bytes and
renews its stamp. -/
def Obligations.HeapObjectsComplete : Prop :=
  ∀ (s : State) (c : Ctx), s.ctx? = some c → Drained s c →
    (∀ w : F3, c.Passes ⟨w.legalHalloc, true, w.guard, [(w.dst, 2)], [(w.sa, 1), (w.sb, 1)]⟩ → Acts s c w.guard [w.sa, w.sb] →
      let size := (c.uniform s w.sa).1
      let rpri := (c.uniform s w.sb).1
      let tier := bit w.sub 0
      let n := (size.toNat + 2 ^ 17 - 1) / 2 ^ 17
      let ends := fun (P : State → Word64 → Word64 → Prop) => Answers (exec (.halloc w) s) (fun t => t.waited = false ∧
        ∃ g x y, t.group? c.g.gid = some g ∧ Advanced c g 0x280 w.words ∧ g.regs.s = (c.g.writePair c.handler w.dst x y).regs.s ∧
          P t x y)
      let refused := fun (code : Word64) => ends (fun t x y => x = 0 ∧ y = code ∧ ∀ a, t.readDM a = s.readDM a)
      size ≠ 0 → size.toNat ≤ 2 ^ 38 → rpri.toNat ≤ 15 →
      ends (fun _ _ _ => True) ∧
      (s.use c.p tier + n ≤ c.p.quota tier + c.p.borrow tier → n ≤ c.p.poolCount tier →
        (∀ i va, s.freeIndex c.p = some i → s.lowestRun c.p n = some va → ends (fun t x y =>
          x = Handle.word ⟨i, (s.objRec c.p i).gen, tier, 1⟩ ∧ y = BitVec.ofNat 64 va ∧
          (c.p.prot = [] → (∀ j < 32, physOk (c.p.recAddr i + j) = true) →
            t.objRec c.p i = { s.objRec c.p i with state := 1, tier := tier, scnt := 1, wcnt := 0, va := BitVec.ofNat 57 va
                                                   npg := n, rpri := rpri.setWidth 4, stamp := s.tick }))) ∧
        (s.freeIndex c.p = none → refused 2) ∧
        (s.freeIndex c.p ≠ none → s.lowestRun c.p n = none → refused 3)) ∧
      (c.p.quota tier + c.p.borrow tier < s.use c.p tier + n → s.reclaimHead c.p tier = none → refused 1)) ∧
    ∀ w : FM, c.Passes (fmNeed w w.legalLdw true (dstRegs w.size.bytes w.dst) 1) → c.inRetire = false →
      let v := c.uniform s w.sa
      let h := Handle.ofWord v.1
      let lanes := c.acting w.guard
      let off := fun (l : Nat) => (c.ldwOffset s w l).1
      let n := w.size.bytes
      v.2 = none → (∀ l ∈ lanes, (c.ldwOffset s w l).2 = none ∧ off l < 2 ^ 64) → malformedHandle c.p v.1 = false →
      let ends := fun (reads : List (Nat × List PByte)) (gone : Bool) (P : State → Prop) =>
        Answers (exec (.ldw w) s) (fun t => t.waited = false ∧ P t ∧ ∃ g, t.group? c.g.gid = some g ∧
          Advanced c g 0x286 w.words ∧ g.regs = (c.g.writeLdw c.handler w reads gone).regs)
      (s.match? c.p h = none →
        ends (lanes.map (fun l => (l, List.replicate n ⟨0, none⟩))) true (fun t => ∀ a, t.readDM a = s.readDM a)) ∧
      ∀ r reads, s.match? c.p h = some r → (∀ l ∈ lanes, off l % n = 0 ∧ off l + n ≤ r.npg * 2 ^ 17) →
        lanes.mapM (fun l => (s.heapBytes c.p (r.va.toNat + off l) n).map (fun bs => (l, bs))) = some reads →
        ends reads false (fun t => c.p.prot = [] → (∀ i < 32, physOk (c.p.recAddr h.idx + i) = true) →
          t.objRec c.p h.idx = { r with stamp := s.tick })

/-! ### Traps and system instructions -/

/-- R380, R381: a trap at a path of a group whose frame is free vectors: the frame records cause, return point, address,
lanes and the values of its cause, the slices that hold a TMASK lane form the handler path at THANDLER with those lanes
only, and the path's other slices are held at the instruction. In handler mode it is a double trap, which kills the
cohort (R382); while the frame is busy the path is held at the instruction, without effect (R93, R380); with THANDLER 0 the task
fails (R380). -/
def Obligations.TrapEntry : Prop :=
  ∀ (s : State) (c : Ctx) (x : Trap), s.ctx? = some c →
    (c.mayTrap → Answers (s.takeTrap c x) (fun t => Vectored s t c x)) ∧
    (c.handler = true → Answers (s.takeTrap c x) (fun t => t.groups = s.groups ∧ t.mem = s.mem ∧
      ∃ co, t.cohort? c.g.cohort = some co ∧ co = { c.co with kill := co.kill } ∧ co.kill.isSome = true)) ∧
    (c.handler = false → c.g.frame.busy = true → Answers (s.takeTrap c x) (fun t => t.waited = false ∧ OnlyGroup s t c.g.gid ∧
      ∃ g, t.group? c.g.gid = some g ∧ g = { c.g with slices := g.slices, ctl := { c.g.ctl with turns := g.ctl.turns } } ∧
        (∀ i ∈ c.slices, g.sliceAt i = { c.g.sliceAt i with held := true }) ∧ ∀ i, i ∉ c.slices → g.sliceAt i = c.g.sliceAt i)) ∧
    (c.handler = false → c.g.frame.busy = false → c.p.ctl.thandler = 0 → ∀ k, s.task? c.p.id c.co.tid = some k →
      k.kind ≠ .continuation → k.state = .running → k.reported = false →
      Answers (s.takeTrap c x) (fun t => TaskFailed t c.p.id c.p k
        ⟨c.co.tid, 6, if x.cause = 0x14 then 6 else 7, k.chkiv.word, true⟩))

/-- R137, R143, R144, R382: the checks of an issued word, in their order: an illegal word traps as ILLEGAL_OP, an
instruction that handler mode forbids is a double trap there, a v register outside the allotment traps as REG_RANGE, an
empty register that the word may not wait for traps as EMPTY_READ, and a poisoned guard kills the cohort. The order of the last
three among themselves is the model's log 115, and that TMASK of a trap of the whole word is every active lane its log 23. -/
def Obligations.IssueChecksInOrder : Prop :=
  ∀ (s : State) (c : Ctx) (n : Need) (k : List Nat → Result), s.ctx? = some c →
    let traps := fun (cause : Nat) => c.mayTrap →
      Answers (s.gate c n k) (fun t => Vectored s t c ⟨cause, c.active, 0, 0, false, false, 0, 0, 0, 0, c.pc⟩)
    let kills := Answers (s.gate c n k) (fun t => t.groups = s.groups ∧ ∃ co, t.cohort? c.g.cohort = some co ∧ co.kill.isSome = true)
    let may := (n.forbidden && c.handler) = false
    (n.legal = false → traps 0x01) ∧ (n.legal = true → may → n.inRange c.g = false → traps 0x06) ∧
    (n.legal = true → may → n.inRange c.g = true → n.ready c.g c.handler = .emptyRead → traps 0x05) ∧
    (n.legal = true → may → n.inRange c.g = true → n.ready c.g c.handler = .wait → s.gate c n k = .next { s with waited := true }) ∧
    (n.legal = true → may → n.inRange c.g = true → n.ready c.g c.handler = .ok → c.guardPoisoned n.guard = true → kills) ∧
    (n.legal = true → n.forbidden = true → c.handler = true → kills) ∧
    (c.Passes n → s.gate c n k = k (c.acting n.guard))

/-- R124, R379 to R381: BKPT takes BREAKPOINT in the lanes whose guard holds, with n in DETAIL and the return point past
the word; where no guard holds it falls through.
R387, R388: TRAP takes SOFT in its acting lanes with its code in TSAVE0 and the return point past it (a poisoned code
with its bits: the model's log 61); in handler mode it fails the task instead. RFT by the whole handler path leaves handler mode: every saved slice stands at TPC with
its saved masks and SIGACC, the held slices join it there, HMODE is 0 and the frame is free. -/
def Obligations.BreakpointTrapAndReturn : Prop :=
  (∀ (w : F3) (s : State) (c : Ctx), s.ctx? = some c → c.Passes (Need.bare w.legalBkpt false w.guard) →
     (c.acting w.guard = [] → Answers (exec (.bkpt w) s) (fun t => After s t c c.g 0x010 w.words)) ∧
     (c.acting w.guard ≠ [] → c.mayTrap → Answers (exec (.bkpt w) s) (fun t =>
       Vectored s t c ⟨0x0D, c.acting w.guard, 0, w.sub.toNat, false, false, 0, 0, 0, 0, c.next w.words⟩))) ∧
  (∀ (w : F3) (s : State) (c : Ctx), s.ctx? = some c → c.acting w.guard ≠ [] →
     let v := c.uniform s w.sa
     (c.Passes ⟨w.legalTrap, false, w.guard, [], [(w.sa, 1)]⟩ →
       (c.mayTrap → Answers (exec (.trap w) s) (fun t => Vectored s t c
         ⟨0x0E, c.acting w.guard, 0, 0, false, false, (bits v.1 0 16).setWidth 64, 0, 0, 0, c.next w.words⟩)) ∧
       (c.handler = true → ∀ k, s.task? c.p.id c.co.tid = some k → k.kind ≠ .continuation → k.state = .running →
         k.reported = false → v.2 = none →
         Answers (exec (.trap w) s) (fun t => TaskFailed t c.p.id c.p k ⟨c.co.tid, 6, 7, k.chkiv.word, true⟩))) ∧
     (c.Passes (Need.bare (w.legalBare && c.handler) false w.guard) → c.wholeHandler = true →
       Answers (exec (.rft w) s) (fun t => t.waited = false ∧ OnlyGroup s t c.g.gid ∧ ∃ g, t.group? c.g.gid = some g ∧
         g = { c.g with slices := g.slices, frame := g.frame, ctl := { c.g.ctl with turns := g.ctl.turns } } ∧
         g.frame.busy = false ∧ g.frame.tcause = c.g.frame.tcause &&& 0x7FFFFFFFFFFFFFFF ∧
         (∀ i x, c.g.frame.saved.find? (fun y => y.1 == i) = some (i, x) → i < c.g.slices.length → i ∉ c.g.frame.heldSlices →
           let y := g.sliceAt i
           y.pc = c.g.frame.tpc ∧ y.handler = false ∧ y.held = false ∧ y.wait = .none ∧ y.amask = x.amask ∧ y.sig = x.sig ∧
           y.blk = x.blk ∧ y.lstk = x.lstk ∧ y.xmask = (c.g.sliceAt i).xmask) ∧
         (∀ i ∈ c.g.frame.heldSlices, i < c.g.slices.length → (∀ y ∈ c.g.frame.saved, y.1 ≠ i) →
           let y := g.sliceAt i
           y.pc = c.g.frame.tpc ∧ y.handler = false ∧ y.held = false ∧ y.wait = .none ∧ y.amask = (c.g.sliceAt i).amask))))

/-- R383, R385, R386, R395, R397: CHKERR reads the merged CHKIV once no fill is outstanding; CRD reads the register it
names; CWR of an allowed value writes it; CWR of a supervisor register by other code, and of a value that its rule does
not allow, traps as ILLEGAL_OP, in every active lane (the model's log 23). -/
def Obligations.ControlRegistersComplete : Prop :=
  ∀ (s : State) (c : Ctx), s.ctx? = some c →
    (∀ w : F3, c.Passes ⟨w.legalChkerr, false, w.guard, [(w.dst, 1)], []⟩ → c.acting w.guard ≠ [] → c.g.fills = [] →
      Answers (exec (.chkerr w) s) (fun t => After s t c
        (c.g.writeS c.handler w.dst ((c.co.chkiv.merge (((c.p.task? c.co.tid).map (·.chkiv)).getD Chkiv.clear)).word, none)) 0x2C2 w.words)) ∧
    ∀ w : FI, c.acting w.guard ≠ [] →
      let n := w.regNumber
      let v := c.uniform s w.sa
      (c.Passes ⟨w.legalCrd, false, w.guard, [(w.dst, 1)], []⟩ → Answers (exec (.crd w) s) (fun t =>
        After s t c (c.g.writeS c.handler w.dst (c.control n, none)) 0x2C3 w.words)) ∧
      (c.Passes ⟨w.legalCwr, false, w.guard, [], [(w.sa, 1)]⟩ →
        (svRegister n = true → c.supervisor = false → c.mayTrap → Answers (exec (.cwr w) s) (fun t =>
          Vectored s t c ⟨0x01, c.active, 0, 0, false, false, 0, 0, 0, 0, c.pc⟩)) ∧
        ((svRegister n = false ∨ c.supervisor = true) → v.2 = none →
          (s.cwrAllows c.p n v.1 = false → c.mayTrap → Answers (exec (.cwr w) s) (fun t =>
            Vectored s t c ⟨0x01, c.active, 0, 0, false, false, 0, 0, 0, 0, c.pc⟩)) ∧
          (s.cwrAllows c.p n v.1 = true → Answers (exec (.cwr w) s) (fun t =>
            if n < 0x020 ∨ n = 0x021 then After s t c { c.g with ctl := c.g.ctl.write n v.1 } 0x2C4 w.words
            else GroupAfter t c c.g 0x2C4 w.words ∧ t.part? c.p.id = some { c.p with ctl := c.p.ctl.write n v.1 }))))

/-- R385, R386: a control register reads back the value that CWR wrote to it (ASIDCUR, whose value names an ASID of 8
bits, where the value has 8 bits), and no other register of its file changes with it. -/
def Obligations.ControlReadsBack : Prop :=
  ∀ (s : State) (c : Ctx) (n : Nat) (v : Word64), FI.writableRegister n = true → s.cwrAllows c.p n v = true →
    (n = 0x021 → v.toNat < 256) →
    let c' : Ctx := if n < 0x020 ∨ n = 0x021 then { c with g := { c.g with ctl := c.g.ctl.write n v } }
                    else { c with p := { c.p with ctl := c.p.ctl.write n v } }
    c'.control n = v ∧ ∀ m, m ≠ n → m ≠ 0x006 → FI.controlRegister m = true → c'.control m = c.control m

/-- R389: PMAP of a page with no level-3 entry maps the frame at the top of the page pool, zeroed, with W 1 and X 0, and
answers 0; of a page that is mapped it answers 0 and of a page it cannot map 1, 2 or 3, changing no memory. Under .UNMAP
the page's frame goes onto the pool.
R390, R391: PREQ of a mapped page answers at once; of another page it sends a request under the lowest free RID, or
joins the one that is kept for the page, be it outstanding or already answered (the latter is the model's log 62). What memory holds after is said of memory that exists, in a partition with no
parity instance, as the partition's key reads it. -/
def Obligations.PagesMappedAndRequested : Prop :=
  ∀ (w : F3) (s : State) (c : Ctx), s.ctx? = some c → c.acting w.guard ≠ [] → (c.uniform s w.sa).2 = none →
    let va := (c.uniform s w.sa).1
    let asid := c.g.ctl.asid
    let page := pageOf va.toNat
    let ok := bits va 57 7 = 0 ∧ c.p.inHeap page = false
    let ends := fun (i : Instr) (opc : Nat) (c' : Ctx) (x : Word64) (P : State → Prop) => Answers (exec i s) (fun t =>
      t.waited = false ∧ P t ∧ ∃ g, t.group? c.g.gid = some g ∧ Advanced c' g opc w.words ∧
        g.regs.s = (c.g.writeS c.handler w.dst (x, none)).regs.s ∧ g.regs.v = c.g.regs.v)
    let same := fun (t : State) => ∀ a, t.readDM a = s.readDM a
    let isThere := fun (a n : Nat) => c.p.prot = [] ∧ ∀ i < n, physOk (a + i) = true
    let maps := ends (.pmap w) 0x2C5 c
    let asks := fun (last : Option Nat) =>
      ends (.preq w) 0x2C6 { c with g := c.g.mapSlices c.slices (fun _ x => { x with preq := some last }) }
    (c.Passes ⟨w.legalPmap && c.supervisor, false, w.guard, [(w.dst, 1)], [(w.sa, 1)]⟩ →
      (¬ ok → maps 3 same) ∧
      (ok → w.sub = 0 →
        (∀ l e pp x y, s.walk c.p asid va.toNat = .leaf l e pp x y → maps 0 same) ∧
        (s.walk c.p asid va.toNat = .malformed → maps 3 same) ∧
        ((s.walk c.p asid va.toNat).noLevel3 = true → maps 2 same) ∧
        (∀ e, s.walk c.p asid va.toNat = .absent 3 e →
          (c.p.ctl.poolFree = 0 → maps 1 same) ∧
          (c.p.ctl.poolFree ≠ 0 →
            let frame := (s.readWordAs c.p.id (c.p.ctl.poolBase.toNat + 8 * (c.p.ctl.poolFree - 1))).toNat
            maps 0 (fun t => (isThere e 8 → t.readWordAs c.p.id e = Pte.leafWord frame) ∧
              (c.p.prot = [] → frame % 2 ^ 17 = 0 → ∀ a, frame ≤ a → a < frame + 2 ^ 17 → (a < e ∨ e + 8 ≤ a) → physOk a = true →
                t.readAs c.p.id a = ⟨0, none⟩) ∧
              ∃ q, t.part? c.p.id = some q ∧ q.ctl = { c.p.ctl with poolFree := c.p.ctl.poolFree - 1 })))) ∧
      (ok → w.sub ≠ 0 →
        (s.walk c.p asid va.toNat = .malformed → maps 3 same) ∧
        ((∀ e pp x y, s.walk c.p asid va.toNat ≠ .leaf 3 e pp x y) → s.walk c.p asid va.toNat ≠ .malformed → maps 4 same) ∧
        (∀ e pp x y, s.walk c.p asid va.toNat = .leaf 3 e pp x y →
          let top := c.p.ctl.poolBase.toNat + 8 * c.p.ctl.poolFree
          maps 0 (fun t => (isThere top 8 → t.readWordAs c.p.id top = BitVec.ofNat 64 pp) ∧
            (isThere e 8 → (top + 8 ≤ e ∨ e + 8 ≤ top) → t.readWordAs c.p.id e = 0) ∧
            ∃ q, t.part? c.p.id = some q ∧ q.ctl = { c.p.ctl with poolFree := c.p.ctl.poolFree + 1 })))) ∧
    (c.Passes ⟨w.legalPreq && c.handler, false, w.guard, [(w.dst, 1)], [(w.sa, 1)]⟩ → ok →
      (∀ l e pp x y, s.walk c.p asid page = .leaf l e pp x y → asks none 0x20000 same) ∧
      ((∀ l e pp x y, s.walk c.p asid page ≠ .leaf l e pp x y) → ∀ p, (s.sweepRequests c.p.id).part? c.p.id = some p →
        (∀ r, p.requests.find? (fun r => r.page == page && r.asid == asid) = some r →
          asks (some r.rid) (BitVec.ofNat 64 r.rid) same) ∧
        (p.requests.find? (fun r => r.page == page && r.asid == asid) = none → ∀ rid, p.freeRid = some rid →
          p.ports.prqFull = false → asks (some rid) (BitVec.ofNat 64 (rid + 0x10000)) (fun t =>
            (isThere p.ringAddr 32 → t.readWordAs c.p.id p.ringAddr = put64 56 8 rid + at64 48 asid ∧
              t.readWordAs c.p.id (p.ringAddr + 8) = BitVec.ofNat 64 page) ∧
            ∃ q, t.part? c.p.id = some q ∧ q.ports.prqTail = p.ports.prqTail + 1 ∧
              ∃ r ∈ q.requests, r.rid = rid ∧ r.page = page ∧ r.asid = asid ∧ r.outcome = none))))

/-! ### Tile streams -/

/-- R156, R288, R289, R295, R296, R310 (MMUL, MSCA): a k-step of a stream that holds the engine adds to its tile, element
by element, the partial sums of row m of the first slot and row n of the second; with a derived operand the tile joins
the operand's lineages and the step is recorded in every lineage of the tile; on a tile that a lineage is open on it goes to the lineage's
tail, and END ends the lineage. -/
def Obligations.KStepsAccumulate : Prop :=
  ∀ (w : FT) (s : State) (c : SCtx) (scaled : Bool), s.stream? = some c → w.legalMmul = true →
    c.hasEngine s ⟨[w.tile.toNat], [w.op1.toNat, w.op2.toNat], []⟩ →
    let i := if scaled then Instr.msca w else .mmul w
    let k := kfmtOf w
    let tile := w.tile.toNat
    let a := c.co.slotOf w.op1.toNat
    let b := c.co.slotOf w.op2.toNat
    let m := a.mask ||| b.mask
    let core := s.core c.co.core
    let ends := bit w.ops 28
    let step := fun (old : Nat → PWord) (e : Nat) =>
      let x := a.krow k (e / 32)
      let y := b.krow k (e % 32)
      (⟨BitVec.ofNat 32 (kElem scaled k x y (old e).val.toNat),
        mergePois (old e).pois (mergePois (x.tag scaled k) (y.tag scaled k))⟩ : PWord)
    a.badRecord k = false → b.badRecord k = false →
    (core.openOn c.uid tile = none → ends = false → m = 0 → Answers (exec i s) (fun t =>
      StreamAfter s t c c.co (c.pc + 8) ∧ TileHolds t c tile (step (c.co.elem tile)))) ∧
    (core.openOn c.uid tile = none → ends = false → m ≠ 0 → (a.mask = 0 ∨ b.mask = 0) →
      max (c.co.depthOf tile) (1 + if a.mask ≠ 0 then a.depth else b.depth) ≤ 4 → Answers (exec i s) (fun t =>
        t.waited = false ∧ TileHolds t c tile (step (c.co.elem tile)) ∧
        (∃ co', t.cohort? c.uid = some co' ∧ co'.seq.pc = c.pc + 8 ∧ co'.maskOf tile = c.co.maskOf tile ||| m) ∧
        ∀ l < 16, ((t.core c.co.core).lineage l).derived.map (fun d => (d.pc, d.word)) =
          (core.lineage l).derived.map (fun d => (d.pc, d.word)) ++ if bit (c.co.maskOf tile ||| m) l then [(c.pc, w)] else [])) ∧
    ∀ l, core.openOn c.uid tile = some l → m = 0 → (ends = true → w.lin.toNat = l) → Answers (exec i s) (fun t =>
      t.waited = false ∧ (∃ co', t.cohort? c.uid = some co' ∧ co'.seq.pc = c.pc + 8 ∧ co'.tiles = c.co.tiles) ∧
      let x := core.lineage l
      let y := (t.core c.co.core).lineage l
      let tail := fun (e : Nat) => step (matAt x.tail) e
      if ends then y.state = .ending ∧ y.tail = [] ∧ ∃ z, y.corrections = x.corrections ++ [z] ∧ ∀ e < 1024, matAt z e = tail e
      else y.state = x.state ∧ y.corrections = x.corrections ∧ ∀ e < 1024, matAt y.tail e = tail e)

/-- R156, R165, R288: for a plain integer format a k-step adds the exact sum of products of its codes, modulo 2^32. -/
def Obligations.IntegerKStepIsExact : Prop :=
  ∀ (k : KFmt) (a b : KRow) (acc : Word32), k.blk = false → k.ty.isFloat = false → k.ty.width ≤ 16 →
    a.codes.length = k.depth → b.codes.length = k.depth →
    let q := fun (x : Nat) => readInt k.ty.signed k.ty.width x
    BitVec.ofNat 32 (kElem false k a b acc.toNat) =
      acc + BitVec.ofInt 32 (((a.codes.zip b.codes).map (fun x => q x.1 * q x.2)).sum)

/-- R297, R311, R312, R314: MZERO clears its tile, MADD adds a tile to it, MSCL scales a tile into it, each element by
element and in no other tile, and MCVT converts a tile into a staging slot, for objects that hold no lineage. -/
def Obligations.TileOperationsComplete : Prop :=
  ∀ (w : FT) (s : State) (c : SCtx), s.stream? = some c → c.co.maskOf w.tile.toNat = 0 →
    let tile := w.tile.toNat
    let x := (bits w.ops 0 6).toNat
    let int := w.fmt != 0
    let old := c.co.elem tile
    let other := c.co.elem x
    let f32 := fun (n : Nat) => fmtF32.decode n
    let ends := fun (i : Instr) (f : Nat → PWord) =>
      Answers (exec i s) (fun t => StreamAfter s t c c.co (c.pc + 8) ∧ TileHolds t c tile f)
    (w.legalMzero = true → c.hasEngine s ⟨[tile], [], []⟩ → (s.core c.co.core).isSource c.uid tile = false →
      ends (.mzero w) (fun _ => PWord.zero)) ∧
    (w.legalMadd = true → c.hasEngine s ⟨[tile, x], [], []⟩ → c.co.maskOf x = 0 → (s.core c.co.core).openOn c.uid tile = none →
      ends (.madd w) (fun e => ⟨if int then (old e).val + (other e).val
        else BitVec.ofNat 32 (fmtF32.rne (FV.add .rne (f32 (old e).val.toNat) (f32 (other e).val.toNat))),
        mergePois (old e).pois (other e).pois⟩)) ∧
    (w.legalMscl = true → c.hasEngine s ⟨[tile, x], [], []⟩ → c.co.maskOf x = 0 →
      ends (.mscl w) (fun e => ⟨if int then (other e).val * (bits w.ops 11 18).signExtend 32
        else BitVec.ofNat 32 (fmtF32.rne (FV.mul (f32 (other e).val.toNat) (f32 ((bits w.ops 11 18).toNat * 2 ^ 14)))),
        (other e).pois⟩)) ∧
    (w.legalMcvt = true → c.hasEngine s ⟨[tile], [], [w.op1.toNat]⟩ →
      let y := c.co.slotOf w.op1.toNat
      y.mask = 0 → y.pins = 0 → Answers (exec (.mcvt w) s) (fun t =>
        let z := c.co.convert w c.pc (s.rsalt0 c.co) (c.co.tile tile) y
        StreamAfter s t c (c.co.setSlot w.op1.toNat { z with mask := 0, depth := 0 }) (c.pc + 8)))

/-- R294, R295, R300, R313: MPUB of a tile with no lineage opens one on it; of the tile its lineage is open on it
publishes the tail as a correction and clears it; MSETTLE passes once its lineage is CLOSED. -/
def Obligations.PublicationCompletes : Prop :=
  ∀ (w : FT) (s : State) (c : SCtx), s.stream? = some c →
    let tile := w.tile.toNat
    let l := w.lin.toNat
    let x := (s.core c.co.core).lineage l
    (w.legalMpub = true → c.hasEngine s ⟨[tile], [], []⟩ →
      (x.state = .closed → c.co.maskOf tile = 0 → Answers (exec (.mpub w) s) (fun t => t.waited = false ∧
        let y := (t.core c.co.core).lineage l
        y.state = .open ∧ y.owner = c.uid ∧ y.src = tile ∧ y.tail = [] ∧ y.corrections = [] ∧ y.derived = [] ∧
        ∃ co', t.cohort? c.uid = some co' ∧ co'.seq = { c.co.seq with pc := c.pc + 8 } ∧ co'.tiles = c.co.tiles ∧
          ∀ j, co'.maskOf j = if j = tile then 1#16 <<< l else c.co.maskOf j)) ∧
      (x.state = .open → x.owner = c.uid → x.src = tile → Answers (exec (.mpub w) s) (fun t =>
        StreamAfter s t c c.co (c.pc + 8) ∧
        (t.core c.co.core).lineage l = { x with corrections := x.corrections ++ [x.tail], tail := [] }))) ∧
    (w.legalMsettle = true → x.state = .closed →
      Answers (exec (.msettle w) s) (fun t => StreamAfter s t c c.co (c.pc + 8) ∧ t.cores = s.cores))

/-- R277, R285 to R287, R304 to R308: MDESC loads a descriptor register from the 32 bytes its offset names; MLD fills its
slot with the fragment that its form reads, stands a send where it names cores, or records a receive; in a push-mode
partition it takes the tile that the walk brought to landing slot 0, whose layout there (1,024 bytes of elements, then 256 of
scales) is the model's log 34. -/
def Obligations.OperandLoadsComplete : Prop :=
  ∀ (w : FT) (s : State) (c : SCtx), s.stream? = some c →
    let q := c.co.seq
    let slot := w.op1.toNat
    let tag := (bits w.ops 18 3).toNat
    let x := c.co.slotOf slot
    let core := s.core c.co.core
    (w.legalMdesc = true →
      let off := (bits w.ops 0 21).toNat
      let bs := c.co.readScratchBytes off 32
      let word := fun (i : Nat) => word64OfBytes (((bs.drop (8 * i)).take 8).map (·.val))
      let d : Desc := ⟨word 0, word 1, word 2, word 3, poisOfBytes bs⟩
      off + 32 ≤ c.co.allotted → (d.pois = none → d.legal = true) → Answers (exec (.mdesc w) s) (fun t =>
        StreamAfter s t c { c.co with desc := SMap.put none c.co.desc slot (some d) } (c.pc + 8))) ∧
    (w.legalMld = true → c.slotOk slot = true → (x.mask ||| x.pins) &&& core.linMask c.uid .open = 0 →
      core.blocks c.co ⟨[], [], [slot]⟩ = false →
      (w.mldSrc = 2 → (∀ n, (tag, n) ∉ q.recvs) → Answers (exec (.mld w) s) (fun t =>
        StreamAfter s t c { c.co with seq := { q with recvs := q.recvs ++ [(tag, slot)] } } (c.pc + 8))) ∧
      (w.mldSrc ≠ 2 → q.early.find? (fun e => e.1 == c.pc) = none → c.walks w = false → ∀ e sc s',
        s.readOperand c w = (.ok e sc, s') →
        (mldCores w = [] → Answers (exec (.mld w) s) (fun t =>
          StreamAfter s t c (c.co.setSlot slot { x with elems := e, scales := sc }) (c.pc + 8))) ∧
        (mldCores w ≠ [] → coreInCluster c.co.core ∈ mldCores w → (∀ n ∈ mldCores w, (s.mates c.co n).length = 1) →
          q.send = none → Answers (exec (.mld w) s) (fun t =>
            StreamAfter s t c { c.co with seq := { q with send := some ⟨slot, tag, mldCores w, e, sc⟩ } } (c.pc + 8)))) ∧
      (c.walks w = true → mldCores w = [] → ∀ k, q.walk = some k → k.word = c.pc → k.pushed = true →
        q.early.find? (fun e => e.1 == c.pc) = none → Answers (exec (.mld w) s) (fun t =>
          let b := c.co.landingBase 0
          StreamAfter s t c { (c.co.setSlot slot { x with elems := c.co.readScratchBytes b 1024
                                                          scales := c.co.readScratchBytes (b + 1024) 256 }) with
            seq := { q with walk := none }, landing := SMap.put Landing.free c.co.landing 0 .free } (c.pc + 8))))

/-- R290, R316: MST of a tile that holds no lineage. Into scratchpad it stores the 32 rows of codes one after another,
each row packed from its lowest bit on, and nothing outside the stored bytes; into a tensor it stores the rows and
columns that lie inside it, packed the same way (what each row's bytes then hold is said where its last element ends a
byte and no two bytes share an address), as the partition's key reads them, and nothing outside. -/
def Obligations.TileStoresComplete : Prop :=
  ∀ (w : FT) (s : State) (c : SCtx), s.stream? = some c → w.legalMst = true → c.tileOk w.tile.toNat = true →
    c.co.maskOf w.tile.toNat = 0 →
    let width := (ftTy w.fmt).width
    let row := fun (i : Nat) => c.co.storeRow w c.pc (s.rsalt0 c.co) (c.co.tile w.tile.toNat) i
    let at_ := fun (t : State) (co : Cohort) => t.cohort? c.uid = some co ∧ co.seq = { c.co.seq with pc := c.pc + 8 } ∧
      co.tiles = c.co.tiles
    let off := mstOffset w
    let size := 128 * width + if w.blk then 128 else 0
    (w.mstKind = 0 → off + size ≤ c.co.belowLanding → Answers (exec (.mst w) s) (fun t => t.waited = false ∧
      (∀ a, t.readDM a = s.readDM a) ∧ ∃ co, at_ t co ∧
        (∀ i b, i < 32 → b < 4 * width → (co.readScratch (off + 4 * width * i + b)).val = BitVec.ofNat 8
          (((row i).codes.zipIdx.map (fun x => x.1.1 % 2 ^ width * 2 ^ (width * x.2))).sum / 2 ^ (8 * b))) ∧
        ∀ a, (a < off ∨ off + size ≤ a) → (co.readScratch a).val = (c.co.readScratch a).val)) ∧
    ∀ d m s', w.mstKind = 1 → c.co.descOf w.op2.toNat = some d → d.pois = none → d.fields.spc = 0 →
      (w.blk = true → d.fields.sspc = 0) →
      let t := d.fields
      let b := mstBlock w c.co.seq
      let n := min 32 (t.cols - 32 * b.2)
      let rows := (List.range 32).filter (fun i => decide (32 * b.1 + i < t.rows) && decide (0 < n))
      let elemVas := fun (i : Nat) => (List.range ((n * width + 7) / 8)).map
        (fun k => t.base + (32 * b.1 + i) * t.pitch + 32 * b.2 * width / 8 + k)
      let scaleVas := fun (i : Nat) =>
        if w.blk then (List.range 4).map (fun k => t.sbase + (32 * b.1 + i) * t.spitch + 4 * b.2 + k) else []
      let vas := rows.flatMap (fun i => elemVas i ++ scaleVas i)
      s.mapPages c.p c.co .write vas = (some m, s') → c.p.prot = [] →
      Answers (exec (.mst w) s) (fun u => u.waited = false ∧ (∃ co, at_ u co ∧ co.scratch = c.co.scratch) ∧
        (n * width % 8 = 0 → (vas.map (mappedAt m)).Nodup → ∀ i ∈ rows, ∀ k < n * width / 8,
          let a := mappedAt m (t.base + (32 * b.1 + i) * t.pitch + 32 * b.2 * width / 8 + k)
          physOk a = true → (u.readAs c.p.id a).val = BitVec.ofNat 8
            ((((row i).codes.take n).zipIdx.map (fun x => x.1.1 % 2 ^ width * 2 ^ (width * x.2))).sum / 2 ^ (8 * k))) ∧
        ∀ a, (∀ va ∈ vas, a ≠ mappedAt m va) → (u.readAs c.p.id a).val = (s.readAs c.p.id a).val)

/-- R129, R130, R283, R317 to R319: MBAR arrives at its barrier and, where it does not wait, passes; MLOOP goes back
until its count is reached and then passes; MPRI sets the stream's priority; MEND ends a stream with no lineage open or
ending and gives the engine up. -/
def Obligations.StreamControlCompletes : Prop :=
  ∀ (w : FT) (s : State) (c : SCtx), s.stream? = some c →
    let q := c.co.seq
    let n := (bits w.ops 0 4).toNat
    let mode := (bits w.ops 8 2).toNat
    let count := if bits w.ops 16 5 = 0 then c.co.ngm1 + 2 else (bits w.ops 16 5).toNat
    let b := c.co.barrier n
    let cnt := (bits w.ops 14 14).toNat
    let back := 8 * (bits w.ops 0 14).toNat
    let one := bit w.ops 28
    let loop := fun (lc : Nat) (o : Option Addr) =>
      { c.co with seq := if one then { q with lc1 := lc, own1 := o } else { q with lc0 := lc, own0 := o } }
    (w.legalMbar = true →
      (∀ k, q.bar = some (k, true) → Answers (exec (.mbar w) s) (fun t =>
        StreamAfter s t c { c.co with seq := { q with bar := none } } (c.pc + 8))) ∧
      (q.bar = none → mode = 2 → b.seqSeen = true → b.phase ≠ b.seqLast →
        Answers (exec (.mbar w) s) (fun t => StreamAfter s t c c.co (c.pc + 8))) ∧
      (q.bar = none → mode ≠ 2 → q.settledWords = true → (b.cnt = 0 ∨ b.cnt = count) →
        Answers (exec (.mbar w) s) (fun t => t.waited = false ∧ ∃ co, t.cohort? c.uid = some co ∧
          (if b.arr + 1 = count
           then (co.barrier n).phase = !b.phase ∧ (co.barrier n).arr = 0 ∧ (co.barrier n).cnt = 0 ∧ co.seq.pc = c.pc + 8
           else (co.barrier n).phase = b.phase ∧ (co.barrier n).arr = b.arr + 1 ∧ (co.barrier n).cnt = count ∧
             co.seq.pc = if mode = 0 then c.pc else c.pc + 8) ∧
          ∀ k, k ≠ n → co.barrier k = c.co.barrier k))) ∧
    (w.legalMloop = true → q.strm.toNat + back ≤ c.pc.toNat →
      let lc := if one then q.lc1 else q.lc0
      let owner := if one then q.own1 else q.own0
      (owner = none ∨ owner = some c.pc) →
      (lc + 1 < cnt → Answers (exec (.mloop w) s) (fun t =>
        StreamAfter s t c (loop (lc + 1) (some c.pc)) (c.pc - BitVec.ofNat 57 back))) ∧
      (cnt ≤ lc + 1 → Answers (exec (.mloop w) s) (fun t => StreamAfter s t c (loop 0 none) (c.pc + 8)))) ∧
    (w.legalMpri = true → Answers (exec (.mpri w) s) (fun t =>
      StreamAfter s t c { c.co with seq := { q with mxpri := (bits w.ops 0 3).toNat } } (c.pc + 8))) ∧
    (w.legalMend = true → (s.core c.co.core).linMask c.uid .open = 0 → (s.core c.co.core).linMask c.uid .ending = 0 →
      q.settledWords = true → Answers (exec (.mend w) s) (fun t =>
        StreamAfter s t c { c.co with seq := { q with active := false, ended := true } } c.pc ∧
        (t.core c.co.core).engine ≠ some c.uid))

/-! ### Steps of the matrix engine -/

/-- R280, R291, R292: while no ready stream holds the engine, a ready one of the highest effective priority takes it; a
stream overtakes the running one when its effective priority is at least two above the running one's own, or when the
engine has been held for 32,768 cycles while another stream was ready (how that time is counted is log 93); an early fetch
keeps the fragment of an MLD for the word, or begins its walk.
R244, R287: the lowest FREE landing slot of a walking cohort becomes GRANTED; a push puts the walk's tile into landing
slot 0 (its layout there is the model's log 34), which is FULL then; a multicast is delivered into the slot of its issuer and of every receiver once all of them
have asked for it.
R284, R297, R298, R300: the replay of the last correction of a lineage with no derived instruction folds it into the
source tile, as integers where the steps of its tail were integer ones and in F32 otherwise (a tile carries no type: the
model's log 35), and closes the lineage; no tile keeps it in its mask, and an MRD that waited for
a tile which is settled now takes its value; after another correction the lineage goes on with the next. -/
def Obligations.EngineStepsComplete : Prop :=
  (∀ (s : State) (core : Nat),
     let ready := s.readyStreams core (s.core core).engine
     let takes := fun (i : Instr) => Answers (exec i s) (fun t => t.waited = false ∧ t.groups = s.groups ∧
       (∀ a, t.readDM a = s.readDM a) ∧ ∃ co ∈ ready, (t.core core).engine = some co.uid ∧ (t.core core).contested = none ∧
         ∀ x ∈ ready, s.streamPrio x ≤ s.streamPrio co)
     (s.running? core = none → ready ≠ [] → takes (.engineHandover core)) ∧
     (∀ run, s.running? core = some run → (∀ x ∈ ready, s.streamPrio x < run.seq.mxpri + 2) →
       s.cycle < s.contestedSince core + 32768 → exec (.streamOvertake core) s = .next { s with waited := false }) ∧
     (∀ run, s.running? core = some run → ready ≠ [] →
       (∃ x ∈ ready, run.seq.mxpri + 2 ≤ s.streamPrio x) ∨ s.contestedSince core + 32768 ≤ s.cycle →
       takes (.streamOvertake core)) ∧
     ∀ uid c pc w e sc s', ({ s with cur := .stream uid }).stream? = some c → c.co.seq.active = true → c.co.kill = none →
       c.co.killed = false → s.earlyWord c 64 c.pc ⟨c.p.totals.push, 0, [], []⟩ = some (pc, w) → s.readOperand c w = (.ok e sc, s') →
       (c.walks w = true → c.co.seq.walk = none) →
       Answers (exec (.operandFetch uid) s) (fun t => t.waited = false ∧ t.groups = s.groups ∧ ∃ co, t.cohort? uid = some co ∧
         (c.walks w = false → co = { c.co with seq := { c.co.seq with early := c.co.seq.early ++ [(pc, e, sc)] } }) ∧
         (c.walks w = true → ∃ n, co = { c.co with seq := { c.co.seq with walk := some ⟨pc, e, sc, false, none, some n⟩ } }))) ∧
  (∀ (s : State) (uid : Nat) (co : Cohort), s.cohort? uid = some co → co.killed = false →
     (∀ n, co.seq.walk.isSome = true → n < co.lslot → co.landingOf n = .free → (∀ k < n, co.landingOf k ≠ .free) →
       Answers (exec (.landingPermitGrant uid) s) (fun t => t = { s with cohorts := t.cohorts, waited := false } ∧
         ∃ co', t.cohort? uid = some co' ∧ co' = { co with landing := co'.landing } ∧
           ∀ k, co'.landingOf k = if k = n then .granted else co.landingOf k)) ∧
     (∀ k, co.seq.walk = some k → k.pushed = false → k.pieces = some 0 → co.landingOf 0 = .granted →
       Answers (exec (.tilePush uid) s) (fun t => t.waited = false ∧
         ∃ co', t.cohort? uid = some co' ∧ co'.landingOf 0 = .full ∧ co'.seq = { co.seq with walk := some { k with pushed := true } } ∧
           (k.aw = none → (∀ a, t.readDM a = s.readDM a) ∧ ∀ a, (co'.readScratch a).val = lastByte ((k.elems.zipIdx.map (fun (x, i) => ⟨co.landingBase 0 + i, x.val, x.pois, none⟩)) ++
             k.scales.zipIdx.map (fun (x, i) => ⟨co.landingBase 0 + 1024 + i, x.val, x.pois, none⟩)) a (co.readScratch a).val))) ∧
     ∀ m, co.seq.send = some m →
       let others := (m.cores.filter (· != coreInCluster co.core)).flatMap (fun n => s.mates co n)
       (∀ n ∈ m.cores, n ≠ coreInCluster co.core → (s.mates co n).length = 1) →
       (∀ x ∈ others, (m.tag, m.slot) ∈ x.seq.recvs) → (∀ x ∈ others, s.cohort? x.uid = some x ∧ x.uid ≠ uid) →
       (others.map (·.uid)).Nodup →
       let filled := fun (x y : Cohort) => (y.slotOf m.slot).elems = m.elems ∧ (y.slotOf m.slot).scales = m.scales ∧
         ∀ n, n ≠ m.slot → y.slotOf n = x.slotOf n
       Answers (exec (.multicastDelivery uid) s) (fun t => t = { s with cohorts := t.cohorts, waited := false } ∧
         (∃ co', t.cohort? uid = some co' ∧ filled co co' ∧ co'.seq.send = none) ∧
         ∀ x ∈ others, ∃ y, t.cohort? x.uid = some y ∧ filled x y ∧ (m.tag, m.slot) ∉ y.seq.recvs)) ∧
  (∀ (s : State) (core l : Nat) (co : Cohort) (corr : Mat), l < 16 →
     let k := s.core core
     let x := k.lineage l
     x.state = .ending → (∀ i < 16, (k.lineage i).state = .ending → (k.lineage i).owner = x.owner → x.endSeq ≤ (k.lineage i).endSeq) →
     s.cohort? x.owner = some co → co.kill = none → co.killed = false → x.corrections[x.replayed]? = some corr →
     let last := x.replayed + 1 = x.corrections.length
     Answers (exec (.replay core l) s) (fun t => t.waited = false ∧ (¬ last → t.groups = s.groups) ∧
       (∀ a, t.readDM a = s.readDM a) ∧ (∀ gid g, s.group? gid = some g → ∃ g', t.group? gid = some g' ∧
         g' = { g with fills := g'.fills } ∧ ∀ co', t.cohort? x.owner = some co' → last → g.cohort = x.owner → g.cont = none →
           ∀ f ∈ g.fills, ∀ tile part lanes reg, f.wait = .mrd tile part lanes reg → co'.maskOf tile = 0 →
             { f with wait := .ready, writes := mrdWrites (co'.tile tile) part lanes reg } ∈ g'.fills) ∧
       ∃ co', t.cohort? x.owner = some co' ∧
       (last → (t.core core).lineage l = Lineage.clear ∧
         ∀ j < 64, bit (co'.maskOf j) l = false ∧ ∀ i < 16, i ≠ l → bit (co'.maskOf j) i = bit (co.maskOf j) i) ∧
       (¬ last → (t.core core).lineage l = { x with replayed := x.replayed + 1 }) ∧
       (x.derived = [] → ∀ j e, e < 1024 → co'.elem j e = if j = x.src
         then ⟨if x.tailInt then (co.elem j e).val + (matAt corr e).val
               else BitVec.ofNat 32 (fmtF32.rne (FV.add .rne (fmtF32.decode (co.elem j e).val.toNat) (fmtF32.decode (matAt corr e).val.toNat))),
               mergePois (co.elem j e).pois (matAt corr e).pois⟩
         else co.elem j e)))

/-! ### Host writes, flits and decrements -/

/-- R21 to R23, R35, R391: a host write to a partition's register takes the bits the register has; a consumed count moves
only forward to its tail; a vector that is unmasked sends every message that was pending; a flit joins the port queue, and
one that finds it full or the port closed is discarded with OVF and the message on vector 33. That a pending message has the
address and data of the moment of unmasking is the model's log 25; that CQSIZE takes any value of its five bits, and that
CQBASE and PRQBASE drop the low 12 bits, is its choice (log 45). -/
def Obligations.HostPortsComplete : Prop :=
  ∀ (s : State) (k : Nat) (p : Part) (v : Word64), s.part? k = some p →
    let q := p.ports
    let takes := fun (i : Instr) (x : Ports) =>
      Answers (exec i s) (fun t => PartAs s t k { p with ports := x } ∧ t.msiOut = s.msiOut)
    let forward := fun (head tail : Word64) => if (v - head).toNat ≤ (tail - head).toNat then v else head
    let page := ((v.setWidth 57 : Addr) >>> 12) <<< 12
    let vec := fun (n : Nat) => SMap.get Vector.fresh q.vectors n
    let put := fun (n : Nat) (x : Vector) => { q with vectors := SMap.put Vector.fresh q.vectors n x }
    takes (.lpstatClear k v) { q with ovf := q.ovf && !bit v 0 } ∧
    takes (.cqheadWrite k v) { q with cqHead := forward q.cqHead q.cqTail } ∧
    takes (.prqheadWrite k v) { q with prqHead := forward q.prqHead q.prqTail } ∧
    takes (.registerWrite k .cqBase v) { q with cqBase := page } ∧ takes (.registerWrite k .prqBase v) { q with prqBase := page } ∧
    takes (.registerWrite k .cqSize v) { q with cqSize := v.toNat % 32 } ∧
    (∀ n, takes (.registerWrite k (.reserved n) v) q) ∧
    (∀ n < 36,
      let vector := fun (r : HostReg) (x : Vector) => Answers (exec (.registerWrite k r v) s) (fun t =>
        PartAs s t k { p with ports := put n { x with pending := if x.mask then x.pending else 0 } } ∧
        t.msiOut = s.msiOut ++ List.replicate (if x.mask then 0 else x.pending) (k, n, x.addr, x.data))
      vector (.msixAddr n) { vec n with addr := v } ∧ vector (.msixData n) { vec n with data := v.setWidth 32 } ∧
      vector (.msixMask n) { vec n with mask := bit v 0 }) ∧
    ∀ w0 w1 w2 w3, let room := q.closed = false ∧ q.flits.length < 256
      (room → takes (.lflitWrite k w0 w1 w2 w3) { q with flits := q.flits ++ [⟨w0, w1, w2, w3, none⟩] }) ∧
      (¬ room → Answers (exec (.lflitWrite k w0 w1 w2 w3) s) (fun t =>
        PartAs s t k { p with ports := { q with
          ovf := true
          vectors := if (vec 33).mask then SMap.put Vector.fresh q.vectors 33 { vec 33 with pending := (vec 33).pending + 1 } else q.vectors } } ∧
        t.msiOut = if (vec 33).mask then s.msiOut else s.msiOut ++ [(k, 33, (vec 33).addr, (vec 33).data)]))

/-- R24, R28, R29, R31: the oldest flit of the port creates its task, a join WAITING or DONE and a kernel task WAITING or
READY with its launch record's fields; a flit that R24 or R29 refuses leaves a rejection entry and no task, and an
illegal record, or one that does not translate, a failed task with cause 1. The oldest decrement lowers the counter of a
task that waits for it, which becomes READY, or DONE for a join, at 0; another decrement is rejected. R266: the message of a
CPYH follows the decrement it sent. -/
def Obligations.FlitsAndDecrements : Prop :=
  ∀ (s : State) (k : Nat) (p : Part), s.part? k = some p →
    (∀ (f : Flit) (rest : List Flit), p.ports.flits = f :: rest →
      let x := f.fields
      let p1 := { p with ports := { p.ports with flits := rest } }
      let s1 := s.setPart p1
      let i := if x.fop = 2 then Instr.createJoinTask k else .createKernelTask k
      let refusal := if f.wellFormed = false then some 0x0A else if p.totals.cbase ≤ x.tid then some 2
        else if (p.task? x.tid).isSome then some 3 else none
      let answered := fun (w : Word64) => p.spawned ++ (match f.origin with | some (g, y) => [(g, y, w)] | none => [])
      (∀ c, refusal = some c → Answers (exec i s) (fun t =>
        EntryGiven s t k { p1 with spawned := answered (resultWord x.tid 0 c) } ⟨x.tid, 0, c, 0, false⟩)) ∧
      (refusal = none → x.fop = 2 → Answers (exec i s) (fun t => t.waited = false ∧
        t.task? k x.tid = some { x.task .join with state := if x.depc = 0 then .done else .waiting } ∧
        ∃ q, t.part? k = some q ∧ q.ports.flits = rest ∧
          q.spawned = answered (resultWord x.tid (if x.depc = 0 then 5 else 1) 0))) ∧
      (refusal = none → x.fop = 1 → s1.launchRec? p1 x.recVa = none → Answers (exec i s) (fun t =>
        TaskFailed t k p1 (x.task .kernel) ⟨x.tid, 6, 1, Chkiv.clear.word, true⟩)) ∧
      ∀ r, refusal = none → x.fop = 1 → s1.launchRec? p1 x.recVa = some r →
        let u := (x.task .kernel).withRecord r
        (r.legal p.totals.push = true → (x.emask = 0 ∨ r.early = true) → Answers (exec i s) (fun t => t.waited = false ∧
          t.task? k x.tid = some (if x.depc = 0 then u.makeReady s.tick else u) ∧
          ∃ q, t.part? k = some q ∧ q.ports.flits = rest)) ∧
        ((r.legal p.totals.push = false ∨ (x.emask ≠ 0 ∧ r.early = false)) → Answers (exec i s) (fun t =>
          TaskFailed t k p1 u ⟨x.tid, 6, 1, Chkiv.clear.word, true⟩))) ∧
    ∀ (tid : Nat) (vec : Option Nat) (rest : List (Nat × Option Nat)), p.decrements = (tid, vec) :: rest →
      let rejects := fun (c : Nat) => Answers (exec (.taskDecrement k) s) (fun t =>
        EntryGiven s t k { p with decrements := rest } ⟨tid, 0, c, 0, false⟩)
      (p.task? tid = none → vec = none → rejects 8) ∧
      ∀ u, p.task? tid = some u →
        let armed := u.state = .waiting ∨ (u.state = .parked ∧ u.wake = some .dep)
        (u.state = .free → vec = none → rejects 8) ∧
        (¬ armed → u.state ≠ .free → vec = none → rejects 9) ∧
        (armed → u.depc ≠ 0 → Answers (exec (.taskDecrement k) s) (fun t => t.waited = false ∧
          t.task? k tid = some (
            let u := { u with depc := u.depc - 1 }
            if u.depc ≠ 0 then u else if u.kind = .join ∧ u.state = .waiting then { u with state := .done } else u.makeReady s.tick) ∧
          (∃ q, t.part? k = some q ∧ q.decrements = rest) ∧
          let sends := fun (v : Nat) => SMap.get Vector.fresh p.ports.vectors v
          t.msiOut = s.msiOut ++ match vec with
            | some v => if (sends v).mask then [] else [(k, v, (sends v).addr, (sends v).data)]
            | none => []))

/-! ### Placement, admission and pre-emption -/

/-- R33, R37, R48, R49: the head of the ready queue that fits a core leaves the queue: a kernel task by placing its first
cohort, and a continuation by resuming its group; the next cohort in order is placed on the first core with room. The order in which
a continuation asks the cores is the model's choice (log 43). R46: a partition that is being destroyed places nothing. -/
def Obligations.CohortsArePlaced : Prop :=
  ∀ (s : State) (k : Nat) (p : Part), s.part? k = some p →
    (∀ u, p.readyHead s.tick = some u → p.task? u.tid = some u → p.placementHead = none → p.destroying = false →
      (u.kind = .kernel → u.fitsEmpty = true → ∀ p1 core seats r,
        let u1 := { u with state := .running, nextCohort := 1 }
        let s1 := (s.putTask k u1).onPart k (fun p => { p with dispatched := p.dispatched ++ [u.tid] })
        s1.part? k = some p1 → s1.findCore p1 u1 none = some (core, seats) → s1.launchRec? p1 u.recVa = some r →
        Answers (exec (.dispatch k u.tid) s) (fun t => CohortPlaced s t p u1 0 core seats r ∧
          ∃ u', t.task? k u.tid = some u' ∧ u' = { u1 with gids := u'.gids, runs := u'.runs })) ∧
      (u.kind = .continuation → ∀ core q slot,
        s.findSeat p (8 * ((bits (s.contRec k (p.recordAt u.tid)).head 58 4).toNat + 2)) = some (core, q, slot) →
        Answers (exec (.dispatch k u.tid) s) (fun t => t.waited = false ∧ t.cohorts = s.cohorts ∧
          (∃ u', t.task? k u.tid = some u' ∧ u'.state = .running) ∧
          ∃ g ∈ t.groups, g.cont = some u.tid ∧ g.core = core ∧ g.quarter = q ∧ g.slot = slot ∧ g.cohort = u.parkCohort))) ∧
    (p.destroying = true → exec (.cohortPlacement k) s = .next { s with waited := false }) ∧
    ∀ u index again, p.destroying = false → p.placementHead = some (u, index, again) → p.task? u.tid = some u →
      let n := if again then SMap.get 0 u.killedOn index else 0
      let found := s.findCore p u (if n = 0 then none else some (n - 1))
      (found = none → exec (.cohortPlacement k) s = .next { s with waited := false }) ∧
      ∀ core seats r, found = some (core, seats) → s.launchRec? p u.recVa = some r →
        Answers (exec (.cohortPlacement k) s) (fun t => CohortPlaced s t p u index core seats r ∧
          ∃ u' q, t.task? k u.tid = some u' ∧ t.part? k = some q ∧ q.lastCore = some core ∧ u'.state = u.state ∧
            (again = true → q.relaunches = p.relaunches.tail ∧ u'.nextCohort = u.nextCohort) ∧
            (again = false → q.relaunches = p.relaunches ∧ u'.nextCohort = u.nextCohort + 1))

/-- R51, R393, R394: the head of a quarter's admission queue is admitted once the quarter's free registers cover its
growth, and every path that waits in its ACQUIRE may proceed (R135). A head that has waited its time has the victim of
lowest PRIO and latest admission discarded (R214): while a fill is outstanding nothing is dropped yet; then its
uncommitted stores go, it stands at its ACQUIRE again with its original request, and no other group and no memory changes;
of an active loop NEXT takes CMTD (R109). That a discard which has begun goes on in later steps, before another one
begins, is the model's log 59, and how the head's waited time is counted its log 76. -/
def Obligations.AdmissionAndPreemption : Prop :=
  ∀ (s : State) (core q : Nat),
    let ends := fun (v : Group) (w : Place) => Answers (exec (.preemptionDiscard core q) s) (fun t => t.waited = false ∧
      (∀ a, t.readDM a = s.readDM a) ∧
      (v.loop = none → t.cohorts = s.cohorts ∧ ∀ i, i ≠ v.gid → t.group? i = s.group? i) ∧
      (∀ lp co, v.loop = some lp → s.cohort? v.cohort = some co → ∃ co', t.cohort? v.cohort = some co' ∧
        co'.scratchWord lp.queue = co.scratchWord (lp.queue + 8)) ∧
      ∃ g, t.group? v.gid = some g ∧ g.sq = v.sq.filter (·.committed) ∧ g.resv = [] ∧ g.allot.full = false ∧ g.loop = none ∧
        g.allot.request = some v.allot.requestedCycle ∧ g.regs.s = v.regs.s ∧ g.regs.p = v.regs.p ∧ g.discarding = false ∧
        ∀ i < 32, (v.sliceAt i).live = true → (g.sliceAt i).pc = w.pc ∧ (g.sliceAt i).wait = .acquire false ∧
          (g.sliceAt i).xmask = (v.sliceAt i).xmask ∧ (g.sliceAt i).amask = ~~~(v.sliceAt i).xmask)
    let begun := s.groups.find? (fun g => g.core == core && g.quarter == q && g.discarding && !g.stopped && !s.leaving g.part)
    (∀ v w, begun = some v → v.allot.admittedAt = some w → v.fills = [] → v.resetReady = true → v.slices.length = 32 → ends v w) ∧
    ∀ h, s.admissionHead core q = some h →
      let used := (s.quarterOf core q).used
      let growth := 8 * (h.allot.fullv + 2) - 16
      (used + growth ≤ 768 → Answers (exec (.groupAdmit core q) s) (fun t => t.waited = false ∧ OnlyCaches s t h.gid ∧
        ∃ g, t.group? h.gid = some g ∧ g = { h with allot := g.allot, slices := g.slices } ∧ g.allot.full = true ∧
          g.allot.request = none ∧ g.allot.fullv = h.allot.fullv ∧ ∀ i, g.sliceAt i =
            if (h.sliceAt i).wait = .acquire false then { h.sliceAt i with wait := .acquire true } else h.sliceAt i)) ∧
      (768 < used + growth → exec (.groupAdmit core q) s = .next { s with waited := false }) ∧
      let victims := s.groups.filter (fun g => g.core == core && g.quarter == q && g.isVictim h.ctl.prio.toNat)
      (begun = none → (s.core core).headWaited q h s.cycle = false →
        exec (.preemptionDiscard core q) s = .next { s with waited := false }) ∧
      ∀ v w, begun = none → (s.core core).headWaited q h s.cycle = true → v ∈ victims →
        (∀ x ∈ victims, x ≠ v → victimBefore v x = true) → v.allot.admittedAt = some w →
        (v.fills ≠ [] → Answers (exec (.preemptionDiscard core q) s) (fun t => t.waited = false ∧ OnlyCaches s t v.gid ∧
          t.group? v.gid = some { v with discarding := true })) ∧
        (v.fills = [] → v.resetReady = true → v.slices.length = 32 → ends v w)

/-! ### Headers -/

/-- R54, R68, R74, R281: a word of the code that is no instruction traps: an unassigned OPC as ILLEGAL_OP, and a header
inside a block or literals past its end as BAD_WORD. A stream word that is none stops the stream: the cohort is killed
without relaunch.
R89, R110, R212, R382: the fetch of a header by the whole path, in a group with no lane entry, no split entry and no
loop, enters its block: every slice stands at the first word with SIGACC 0xFFF, and under R a region begins, which
commits the group's stores. A word that is no header, or one with a count of 0, traps as BAD_HEADER, and a set reserved
bit as ILLEGAL_OP. That TMASK of these traps is every active lane is the model's log 23. -/
def Obligations.HeadersAndMalformedWords : Prop :=
  ((∀ (s : State) (c : Ctx) (why : Malformed), s.ctx? = some c → c.mayTrap →
     Answers (exec (.malformedWord why) s) (fun t => Vectored s t c
       ⟨match why with | .unassignedOpc => 0x01 | .headerInBlock => 0x03 | .literalsPastEnd => 0x03, c.active, 0, 0, false, false,
         0, 0, 0, 0, c.pc⟩)) ∧
   ∀ (s : State) (c : SCtx) (x : Word64), s.stream? = some c → c.co.kill = none →
     Answers (exec (.malformedFtWord x) s) (fun t => t.waited = false ∧ t.groups = s.groups ∧ (∀ a, t.readDM a = s.readDM a) ∧
       ∃ co k, t.cohort? c.uid = some co ∧ co = { c.co with kill := some k } ∧ k.relaunch = false ∧
         (k.detail = 0x14 ∨ k.detail = 0x01))) ∧
  (∀ (s : State) (gid i : Nat) (c : Ctx) (x : HeaderAt) (s1 : State), ({ s with cur := .path gid i }).ctx? = some c →
     c.head.hdr = true → c.g.letsIssue c.head = true → s.mayIssue c.g = true → c.g.arrivals c.path = c.slices →
     (s.setGroup c.g).headerAt c.p c.g c.pc = (x, s1) →
     let traps := fun (cause : Nat) => c.mayTrap → Answers (exec (.headerFetch gid i) s) (fun t =>
       Vectored s1 t c ⟨cause, c.active, 0, 0, false, false, 0, 0, 0, 0, c.pc⟩)
     (x = .other → traps 0x02) ∧
     (∀ w, x = .header w →
       (bits w 52 8 = 0 → traps 0x02) ∧
       (bits w 52 8 ≠ 0 → bits w 12 3 ≠ 0 → traps 0x01) ∧
       (bits w 52 8 ≠ 0 → bits w 12 3 = 0 → (bit w 15 && c.handler) = false →
         (∀ j ∈ c.slices, (c.g.sliceAt j).lstk = []) → c.g.loop = none → c.g.splits = [] →
         (∀ j, (c.g.sliceAt j).wait.isRegang = false) →
         Answers (exec (.headerFetch gid i) s) (fun t => t.waited = false ∧ OnlyCaches s t gid ∧ ∃ g, t.group? gid = some g ∧
           g = (let h := if bit w 15 then c.g.beginRegion c.pc else c.g
                { h with slices := g.slices, ctl := { h.ctl with turns := g.ctl.turns, curPath := g.ctl.curPath } }) ∧
           (∀ j ∈ c.slices, g.sliceAt j = { c.g.sliceAt j with
             pc := c.pc + 8, hdr := false, blkPc := c.pc, blk := w, sig := 0xFFF, path := (g.sliceAt j).path }) ∧
           ∀ j, j ∉ c.slices → g.sliceAt j = { c.g.sliceAt j with path := (g.sliceAt j).path }))))

/-! ### The ends of groups, cohorts and tasks -/

/-- R30, R32, R35, R37, R46, R410 to R412: a group whose lanes have exited and whose queue and fills are empty ends; a
cohort whose groups and stream have ended exits and frees its storage; a complete task's successor's counter falls by one,
and its completion entry goes to the ring with its block freed in the same event, or is held while the ring is full or
others wait, with the block DONE; the early decrements go once every lane has triggered; the oldest held entry goes to the
ring at its tail, and frees the block it reports. That a cohort keeps RSALT and ASID of its group 0 is the model's log 31, and
that a continuation's block is freed in the step that ends its group its log 97. -/
def Obligations.GroupsCohortsAndTasksEnd : Prop :=
  ∀ (s : State),
    (∀ gid g co, s.group? gid = some g → g.allExited = true → g.stopped = false → g.sq = [] → g.fills = [] →
      s.cohort? g.cohort = some co → Answers (exec (.groupEnd gid) s) (fun t => t.waited = false ∧ t.group? gid = none ∧
        (∀ j, j ≠ gid → g.cont = none → t.group? j = s.group? j) ∧
        let zero := g.sp.grp = 0 ∧ g.cont = none
        t.cohort? g.cohort = some { co with
          ended := co.ended ||| 1#16 <<< g.sp.grp.toNat, triggered := co.triggered ||| 1#16 <<< g.sp.grp.toNat
          rsalt0 := if zero then g.ctl.rsalt else co.rsalt0, asid0 := if zero then g.ctl.asid else co.asid0 } ∧
        ∀ tid, g.cont = some tid → t.task? g.part tid = none)) ∧
    (∀ uid c, s.cohort? uid = some c → c.exited = false → c.killed = false → c.kill = none → c.seq.ended = true →
      c.ended &&& c.groupMask = c.groupMask → Answers (exec (.cohortExit uid) s) (fun t => t.waited = false ∧
        ((∀ x ∈ s.allCmds, x.usesScratch uid = false) → t.cohort? uid = none) ∧
        ((∃ x ∈ s.allCmds, x.usesScratch uid = true) → ∃ c', t.cohort? uid = some c' ∧ c'.exited = true ∧ c'.scratch = c.scratch) ∧
        ∀ u, s.task? c.part c.tid = some u → ∃ u', t.task? c.part c.tid = some u' ∧ u' = { u with
          chkiv := u.chkiv.merge c.chkiv, exited := u.exited + 1, trigCohorts := u.trigCohorts ++ [c.index] })) ∧
    (∀ k p tid u, s.part? k = some p → p.task? tid = some u → s.isComplete u = true → p.destroying = false →
      let e : Entry := ⟨tid, 5, 0, u.chkiv.word, true⟩
      let counts := fun (x : Nat) (v : Task) => u.successors = [(0, x)] ∧ x ≠ tid ∧ s.task? k x = some v ∧ v.state = .waiting ∧ 1 < v.depc
      Answers (exec (.taskComplete k tid) s) (fun t => t.waited = false ∧
        (p.holdsEntry → (∃ u', t.task? k tid = some u' ∧ u'.state = .done ∧ u'.reported = true) ∧
          ∃ q, t.part? k = some q ∧ q.entries.getLast? = some e) ∧
        (p.writesEntry → (u.successors = [] ∨ ∃ x v, counts x v) → t.task? k tid = none ∧
          ((p.blockAddr tid + 64 ≤ p.entryAddr ∨ p.entryAddr + 16 ≤ p.blockAddr tid) → EntryAt t p e) ∧
          ∃ q, t.part? k = some q ∧ q.entries = [] ∧ q.ports.cqTail = p.ports.cqTail + 1) ∧
        ∀ x v, counts x v → bit u.emask 0 = false → t.task? k x = some { v with depc := v.depc - 1 })) ∧
    (∀ k tid u, s.task? k tid = some u → u.state = .running → u.kind = .kernel → s.taskTriggered u = true →
      u.earlyDone = false → u.emask ≠ 0 → Answers (exec (.earlyRelease k tid) s) (fun t => t.waited = false ∧
        (∃ u', t.task? k tid = some u' ∧ u'.earlyDone = true ∧ u'.state = .running) ∧
        ∀ x v, u.successors = [(0, x)] → x ≠ tid → bit u.emask 0 = true → s.task? k x = some v → v.state = .waiting →
          1 < v.depc → t.task? k x = some { v with depc := v.depc - 1 })) ∧
    ∀ k p e rest, s.part? k = some p → p.entries = e :: rest →
      (p.ports.cqFull = true → exec (.completionEntry k) s = .next { s with waited := false }) ∧
      (p.ports.cqFull = false → Answers (exec (.completionEntry k) s) (fun t => t.waited = false ∧
        ((e.frees = true → p.blockAddr e.tid + 64 ≤ p.entryAddr ∨ p.entryAddr + 16 ≤ p.blockAddr e.tid) → EntryAt t p e) ∧
        (e.frees = true → t.task? k e.tid = none) ∧
        ∃ q, t.part? k = some q ∧ q.entries = rest ∧ q.ports.cqTail = p.ports.cqTail + 1))

/-- R399, R400: a cohort that meets a kill stops every group of it, with only its committed stores left, and its stream;
the task places it again when the kill and the task allow a relaunch and fewer than four kills have met it, and fails
otherwise, with the cause of the kill; once its stores have drained and no command writes its scratchpad, it and its groups are gone. An
uncorrectable error in control state is a kill. -/
def Obligations.KillsStopCohorts : Prop :=
  ∀ (s : State) (uid : Nat) (c : Cohort), s.cohort? uid = some c →
    (c.kill = none → Answers (exec (.ctrlUe uid) s) (fun t => t = { s with cohorts := t.cohorts, waited := false } ∧
      ∃ r, t.cohort? uid = some { c with kill := some r } ∧ r.type = 0x04 ∧ r.relaunch = true ∧ r.cause = 5)) ∧
    (∀ r, c.killed = false → c.kill = some r → Answers (exec (.cohortKill uid) s) (fun t => t.waited = false ∧
      (∃ c', t.cohort? uid = some c' ∧ c'.killed = true ∧ c'.seq.active = false) ∧
      (t.core c.core).engine ≠ some uid ∧
      (∀ g ∈ s.groups, g.cohort = uid → (∀ h ∈ s.groups, h.gid = g.gid → h = g) → ∃ g', t.group? g.gid = some g' ∧
        g'.stopped = true ∧ g'.fills = [] ∧ g'.sq = g.sq.filter (·.committed)) ∧
      ∀ p u, s.part? c.part = some p → p.task? c.tid = some u → uid ∈ u.runs → u.state = .running → u.kind = .kernel → u.reported = false →
        (∀ x ∈ p.tasks, x.kind = .continuation → x.tid ≠ c.tid) →
        let n := SMap.get 0 u.kills c.index + 1
        ((r.relaunch && u.relaunch && decide (n < 4)) = true → ∃ q u', t.part? c.part = some q ∧
          q.relaunches = p.relaunches ++ [(c.tid, c.index)] ∧ q.task? c.tid = some u' ∧ u'.state = .running ∧
          SMap.get 0 u'.kills c.index = n) ∧
        ((r.relaunch && u.relaunch && decide (n < 4)) = false →
          TaskFailed t c.part p u ⟨c.tid, 6, r.cause.toNat, u.chkiv.word, true⟩))) ∧
    (c.killed = true → (∀ g ∈ s.groups, g.cohort = uid → g.sq = []) → (∀ x ∈ s.allCmds, x.writesScratch uid = false) →
      Answers (exec (.cohortKill uid) s) (fun t => t.waited = false ∧ t.cohort? uid = none ∧ ∀ g ∈ t.groups, g.cohort ≠ uid))

/-! ### Engine commands in motion -/

/-- R52, R241, R242, R245 to R247, R249, R254, R264, R266: a QUEUED command that is the oldest of its cohort and meets no
earlier lock becomes ACTIVE with the indices it has read and, under MCAST, the cohorts that receive; its next chunk first
asks the buckets it passes, and a bucket lets the oldest piece go for its tokens, be it of a command, a delta, a pushed
tile or an answer to a peer; the chunk then writes the sectors of its destination that it reaches first, each whole, with the
source's bytes of the last row that has them, and nothing else; a performed or
acknowledged chunk counts into the arrival word; a delta to a member that is live no more leaves without being sent (R376); a command with all its bytes performed leaves the queue with its locks
and sends its decrement, and one that has failed, or whose MCAST missed a core, applies Fail to its arrival word first. Under
LINKU 0 nothing leaves a link's bucket. That a chunk writes each sector it reaches first whole and asks every bucket for its whole
size as one piece is the model's log 16, that the receiving cohorts are those at the activation its log 116, and that the Fail of
a missed core is a NACK its log 90. -/
def Obligations.CommandsRun : Prop :=
  ∀ (s : State) (k slot : Nat) (c : Cmd), s.cmd? k slot = some c → c.cluster = k →
    let size := c.len * c.rows
    (c.state = .queued → s.issuerGone c = false → (s.cluster k).isHead c = true →
      let idx := if c.indexed && c.len != 0 then s.indexList c else []
      (s.unlocked c = false → exec (.activate k slot) s = .next { s with waited := false }) ∧
      (s.unlocked c = true → Answers (exec (.activate k slot) s) (fun t =>
        t = { s with clusters := t.clusters, waited := false } ∧ t.cmd? k slot = some { c with
          state := .active, idx := idx, targets := if c.mcast then (s.mcastTargets c).filterMap id else []
          err := if idx.any (fun i => decide (c.idxmax ≤ i)) then some .nack else c.err }))) ∧
    (∀ p bytes, s.part? c.part = some p → c.state = .active → c.err = none → c.moved < size → c.kind ≠ .rebuild →
      let n := if c.asked = 0 then c.chunkSize bytes else c.asked
      let ids := s.bucketsOf p c
      (c.asked = 0 → ids ≠ [] → Answers (exec (.move k slot bytes) s) (fun t => t.waited = false ∧ t.mem = s.mem ∧
        t.cmd? k slot = some { c with asked := n, pieces := ids.length } ∧ ∃ q, t.part? c.part = some q ∧ ∀ id b,
          q.buckets.find? (fun x => x.1 == id) = some b → ∃ old, p.buckets.find? (fun x => x.1 == id) = some old ∧
            b.2 = { old.2 with pieces := old.2.pieces ++ List.replicate (ids.countP (· == id)) (.command k c.uid, n) })) ∧
      (∀ co (f : Nat → PByte), (c.asked = 0 → ids = []) → c.pieces = 0 → c.peer = false → c.ord = false → c.kind ≠ .cpyr →
        c.dsp = 1 → c.mcast = false → s.cohort? c.cohort = some co →
        let takes := c.chunkMoves n
        (∀ x ∈ takes, s.sourceByte p c x.2 = some (f x.1)) →
        Answers (exec (.move k slot bytes) s) (fun t => t.waited = false ∧ t.mem = s.mem ∧
          t.cmd? k slot = some { c.stepped n with done := c.done ++ [(c.chunks, n)] } ∧
          ∃ co', t.cohort? c.cohort = some co' ∧ co' = { co with scratch := co'.scratch, scratchPois := co'.scratchPois } ∧
            (∀ x ∈ takes, (co'.readScratch x.1).val = (f x.1).val) ∧
            ∀ a, (∀ x ∈ takes, x.1 ≠ a) → (co'.readScratch a).val = (co.readScratch a).val))) ∧
    (∀ n a b, 0 < n →
      let d := c.nextAddr.1
      let has := fun (i : Nat) => i < c.rows ∧ c.rowDst i ≤ a ∧ a < c.rowDst i + c.len
      ((a, b) ∈ c.chunkMoves n ↔ d / 64 ≤ a / 64 ∧ a / 64 ≤ (d + n - 1) / 64 ∧ c.moved ≤ c.firstIn (a / 64) ∧
        ∃ i, has i ∧ (∀ j, has j → j ≤ i) ∧ b = c.rowSrc i + (a - c.rowDst i))) ∧
    (∀ chunk n, c.state = .active →
      ((c.done.find? (fun x => x.1 == chunk)).map (·.2)).or ((c.sent.find? (fun x => x.num == chunk)).map (·.bytes)) = some n →
      s.deltasOf (.command c.uid chunk) = false →
      let left := { c with done := c.done.filter (fun x => x.1 != chunk), sent := c.sent.filter (fun x => x.num != chunk) }
      Answers (exec (.earrive k slot chunk) s) (fun t => t.waited = false ∧ t.cmd? k slot = some left ∧
        (c.err.isSome = true → t.cohorts = s.cohorts) ∧
        (c.err = none → c.moved = size → left.settled = true → ∀ l ∈ (t.cluster k).rlt, l.cmd ≠ slot) ∧
        (∀ off, c.err = none → c.mcast = false → c.aw = some off →
          t.cohort? c.cohort = (s.arrive c.cohort off n).cohort? c.cohort) ∧
        (c.aw = none → t.cohorts = s.cohorts))) ∧
    (c.state = .active → c.settled = true →
      let leaves := fun (t : State) => t.waited = false ∧ t.cmd? k slot = none ∧ (∀ l ∈ (t.cluster k).rlt, l.cmd ≠ slot) ∧
        ∀ p, s.part? c.part = some p → ∃ q, t.part? c.part = some q ∧ q.decrements = p.decrements ++
          if c.notify = 0 then [] else [(c.ntid, if c.kind = .cpyh then some c.vec else none)]
      (c.err = none → c.moved = size → c.missesCore = false → Answers (exec (.eend k slot) s) (fun t =>
        leaves t ∧ t.cohorts = s.cohorts ∧ t.groups = s.groups ∧ t.mem = s.mem)) ∧
      ∀ f, (c.err = some f ∨ (c.err = none ∧ c.moved = size ∧ c.missesCore = true ∧ f = .nack)) →
        Answers (exec (.eend k slot) s) (fun t => leaves t ∧ (c.aw = none → t.cohorts = s.cohorts) ∧
          ∀ off, c.aw = some off → c.mcast = false → t.cohort? c.cohort = (s.failWord c.cohort off f).cohort? c.cohort)) ∧
    ∀ kp p id b x n rest, s.part? kp = some p → p.buckets.find? (fun x => x.1 == id) = some (id, b) → b.pieces = (x, n) :: rest →
      let mute := p.totals.linku = 0 ∧ ∃ port, id = .link port
      (mute ∨ b.tokens < 11 * n → exec (.bucketPieceLeave kp id) s = .next { s with waited := false }) ∧
      (∀ did d, ¬ mute → 11 * n ≤ b.tokens → x = .delta did → s.pq.find? (fun d => d.id == did) = some d → s.deltaLive d = false →
        Answers (exec (.bucketPieceLeave kp id) s) (fun t => t.waited = false ∧ t.pq = s.pq.filter (fun y => y.id != did) ∧
          ((∀ o, d.source ≠ .peer o) → t.linkOut = s.linkOut) ∧ ∃ q, t.part? kp = some q ∧
            q.buckets.find? (fun x => x.1 == id) = some (id, { b with tokens := b.tokens - 11 * n, pieces := rest }))) ∧
      (¬ mute → 11 * n ≤ b.tokens → (∀ did d, x = .delta did → s.pq.find? (fun d => d.id == did) = some d → s.deltaLive d = true) →
        Answers (exec (.bucketPieceLeave kp id) s) (fun t => t.waited = false ∧ t.mem = s.mem ∧
        (∃ q, t.part? kp = some q ∧
          q.buckets.find? (fun x => x.1 == id) = some (id, { b with tokens := b.tokens - 11 * n, pieces := rest })) ∧
        (x = .command k c.uid → (∀ y ∈ (s.cluster k).eq, y.uid = c.uid → y = c) → t.cmd? k slot = some { c with pieces := c.pieces - 1 }) ∧
        (∀ did d, x = .delta did → s.pq.find? (fun d => d.id == did) = some d →
          t.linkOut = s.linkOut ++ [.delta d.id d.pgid d.member d.va d.bytes d.pois] ∧
          t.pq.find? (fun d => d.id == did) = some { d with sent := true, sentUs := s.refUs }) ∧
        (∀ va data, x = .reply va data → t.linkOut = s.linkOut ++ [.readReply va data]) ∧
        ∀ uid co w m, x = .push uid → s.cohort? uid = some co → co.seq.walk = some w → w.pieces = some m →
          ∃ co', t.cohort? uid = some co' ∧ co' = { co with seq := { co.seq with walk := some { w with pieces := some (m - 1) } } }))

/-! ### Peers and parity -/

/-- R255, R258, R339, R377, R401: a plain chunk of a peer that lies in one sector is written at its home and acknowledged; a
chunk for no partition is refused (its record is the model's choice, log 92); a NACK and a late acknowledgement end their
command with ERR; a received chunk that stays open past PEERTO is refused; a peer read of mapped bytes asks the link's
bucket for its answer in pieces of at most 4 KiB (R52), and takes the tokens of its memory channels at once as far as they go (the model's choice, log 16).
R256, R339, R374 to R376: an ordered chunk whose turn has come is combined with the bytes at its home and acknowledged;
a delta is XORed into this device's code bytes and acknowledged; a sent delta that is acknowledged leaves the queue; one
that is late leaves it too, with its member's LIVE bit cleared in the record. What memory then holds is said of memory that
exists, as the partition's key reads it. -/
def Obligations.PeersAndParityComplete : Prop :=
  (∀ (s : State),
     (∀ x : PeerChunk, (∀ k slot m, x.kind ≠ .readReply k slot m) → s.part? x.part = none →
       Answers (exec (.peerChunkReceive x) s) (fun t =>
         t = { s with linkOut := s.linkOut ++ [.nack x.id], errs := t.errs, errSeq := t.errSeq, waited := false } ∧
         ∃ n r, t.errs = SMap.put none s.errs n (some r) ∧ r.type = 0x07)) ∧
     (∀ (x : PeerChunk) p pa, x.kind = .write → s.part? x.part = some p →
       (∀ o ∈ s.opens, o.id < s.nextUid ∧ ¬ (o.num = x.id ∧ o.origin = none)) → x.off = 0 → x.data.length = x.len → 0 < x.len →
       x.va.toNat % 64 + x.len ≤ 64 → p.prot = [] → s.pq = [] → s.engXlat p p.firstAsid x.va.toNat .write = .ok pa →
       Answers (exec (.peerChunkReceive x) s) (fun t => t.waited = false ∧ t.linkOut = s.linkOut ++ [.ack x.id] ∧ t.opens = s.opens ∧
         (∀ i b, x.data[i]? = some b → physOk (pa + i) = true → (t.readAs p.id (pa + i)).val = b.val) ∧
         ∀ a, (a < pa ∨ pa + x.len ≤ a) → (t.readAs p.id a).val = (s.readAs p.id a).val)) ∧
     (∀ k slot c, s.cmd? k slot = some c → c.cluster = k → c.state = .active → c.err = none →
       let ends := fun (i : Instr) (f : FailKind) (out : SentChunk → Bool) => Answers (exec i s) (fun t => t.waited = false ∧
         t.mem = s.mem ∧ t.cmd? k slot = some { c with err := some f, sent := c.sent.filter (fun x => !out x) })
       (∀ chunk, c.sent.any (fun x => x.num == chunk) = true → ends (.peerNackReceive k slot chunk) .nack (fun x => x.num == chunk)) ∧
       ∀ p, s.part? c.part = some p → (∃ x ∈ c.sent, x.sentUs + p.ctl.peerto ≤ s.refUs) →
         ends (.ackTimeout k slot) .tout (fun x => decide (x.sentUs + p.ctl.peerto ≤ s.refUs))) ∧
     (∀ id o p, s.opens.find? (fun x => x.id == id) = some o → s.part? o.part = some p → o.origin = none → o.applied = false →
       o.openedUs + p.ctl.peerto ≤ s.refUs → Answers (exec (.targetChunkTimeout id) s) (fun t => t.waited = false ∧
         t.linkOut = s.linkOut ++ [.nack o.num] ∧ t.opens = s.opens.filter (fun x => x.id != id) ∧ t.mem = s.mem)) ∧
     ∀ (x : PeerReadReq) p pas, s.part? x.part = some p →
       (List.range x.len).mapM (fun i => s.instancePa p (x.va.toNat + i)) = some pas →
       Answers (exec (.peerRead x) s) (fun t => t = { s with parts := t.parts, waited := false } ∧ ∃ q, t.part? x.part = some q ∧
         let bs := pas.map (s.readAs p.id)
         let piece := fun (i : Nat) => (bs.drop (4096 * i)).take 4096
         ∀ id b, p.buckets.find? (fun y => y.1 == id) = some (id, b) → q.buckets.find? (fun y => y.1 == id) = some (id, { b with
           tokens := if id = channelGroup (pas.headD 0) then b.tokens - 11 * x.len else b.tokens
           pieces := b.pieces ++ if id = .link (x.port % 18) then (List.range ((x.len + 4095) / 4096)).map (fun i =>
             (.reply (x.va.toNat + 4096 * i) (piece i), (piece i).length)) else [] }))) ∧
  (∀ (s : State),
     (∀ id o num r p pa data rty a b rank total, s.opens.find? (fun x => x.id == id) = some o → o.set = some num →
       s.set? num = some r → o.full = true → o.applied = false → o.faulted = false → o.origin = none → o.space = none →
       o.kind = .ordered rty a b rank total → r.turnOf rank o.va o.len = true → s.part? o.part = some p → p.prot = [] →
       s.pq = [] → 0 < o.len → o.va % 64 + o.len ≤ 64 → o.piece? (0, o.len) = some data → s.engXlat p o.asid o.va .write = .ok pa →
       Answers (exec (.reduceApply id) s) (fun t => t.waited = false ∧ t.linkOut = s.linkOut ++ [.ack o.num] ∧
         t.opens = s.opens.filter (fun x => x.id != id) ∧
         ∀ i y, (reduceBytes rty (s.readBytesAs p.id pa o.len) data)[i]? = some y → physOk (pa + i) = true →
           (t.readAs p.id (pa + i)).val = y.val)) ∧
     (∀ (x : PeerDelta) p pa, s.part? x.part = some p → s.instancePa p x.va.toNat = some pa → p.prot = [] →
       Answers (exec (.parityDeltaApply x) s) (fun t => t.waited = false ∧ t.linkOut = s.linkOut ++ [.deltaAck x.pgid x.va.toNat] ∧
         (∀ i d, x.delta[i]? = some d → physOk (pa + i) = true →
           (t.readAs p.id (pa + i)).val = (s.readAs p.id (pa + i)).val ^^^ d) ∧
         ∀ a, (a < pa ∨ pa + x.delta.length ≤ a) → (t.readAs p.id a).val = (s.readAs p.id a).val)) ∧
     ∀ id d, s.pq.find? (fun x => x.id == id) = some d → d.sent = true →
       Answers (exec (.parityAck id) s) (fun t => t.waited = false ∧ t.pq = s.pq.filter (fun x => x.id != id)) ∧
       ∀ p r, s.part? d.part = some p → d.sentUs + p.ctl.peerto ≤ s.refUs → s.parityRecord? p d.pgid = some r → d.member < 16 →
         Answers (exec (.parityDrop id) s) (fun t => t.waited = false ∧ t.pq = s.pq.filter (fun x => x.id != id) ∧
           ((∀ i < 8, physOk (r.at_ + i) = true) →
             bits (t.readWordAs p.id r.at_) 20 16 = r.live &&& ~~~(1#16 <<< d.member))))

/-! ### The management controller -/

/-- R38, R41 to R46, R430, R431: a request before the boot completed or while firmware is busy is rejected; a well-formed one is
done: a created partition owns the lowest free units with its task table FREE and a key of its own in the lowest free
slot (R432), a resized one has its new totals, a
destroyed one with nothing resident and no decrement on its way (R266) is gone with its units free, its banks and its key's
slot zero (R433), SET_BUCKETS changes the shares and bursts alone, and ATTEST leaves a report of 5,572 bytes and counts it.
That an existing partition answers EXISTS whatever else fails, and that a new task table is zeroed, are the model's choice
(log 54). -/
def Obligations.RequestsAreServed : Prop :=
  ∀ (s : State) (req : Request), s.cur ≠ .firmware →
    let id := reqPart req
    let new := reqTotals req
    let answered := fun (i : Instr) (st : BitVec 8) => exec i s = .next { s with mgmt := { s.mgmt with status := st }, waited := false }
    let done := fun (t : State) => t.waited = false ∧ t.mgmt.status = 0x00
    let shut := s.mgmt.booted = false ∨ s.mgmt.busy ≠ none
    (shut → answered (.createPartition req) 6 ∧ answered (.resizePartition req) 6 ∧ answered (.destroyPartition req) 6 ∧
      answered (.setBuckets req) 6 ∧ answered (.attest req) 6) ∧
    (¬ shut → reqPlain req = true →
      (reqOp req = 1 → new.countsOk = true → new.tableOk = true →
        (s.part? id ≠ none → answered (.createPartition req) 5) ∧
        ∀ cs bs key as_, s.part? id = none → lowestFree s.cluOwner 72 new.nclu = some cs →
          lowestFree s.wsbOwner 256 new.nwsb = some bs → lowestFree s.keyOwner 128 1 = some [key] →
          lowestFree s.asidOwner 256 new.nasid = some as_ → s.sharesFit id new = true →
          Answers (exec (.createPartition req) s) (fun t => done t ∧ t.part? id = some (Part.fresh id new cs bs key as_ req) ∧
            (∀ u, SMap.get none t.cluOwner u = if u ∈ cs then some id else SMap.get none s.cluOwner u) ∧
            (∀ u, SMap.get none t.wsbOwner u = if u ∈ bs then some id else SMap.get none s.wsbOwner u) ∧
            (∀ u, SMap.get none t.asidOwner u = if u ∈ as_ then some id else SMap.get none s.asidOwner u) ∧
            (∀ u, SMap.get none t.keyOwner u = if u = key then some id else SMap.get none s.keyOwner u) ∧
            (∀ u, SMap.get none t.keySlots u = if u = key then some s.mgmt.draws else SMap.get none s.keySlots u) ∧
            t.mgmt.draws = s.mgmt.draws + 1 ∧
            ∀ a, t.readDM a = if new.ttbase ≤ a ∧ a < new.ttbase + 64 * new.ttsize then ⟨0, none⟩ else s.readDM a)) ∧
      ∀ p, s.part? id = some p →
        (reqOp req = 2 → new.countsOk = true → ∀ cs bs as_,
          let totals := { new with push := p.totals.push, ttsize := p.totals.ttsize, cbase := p.totals.cbase, ttbase := p.totals.ttbase }
          changeClass s.cluOwner 72 p.clusters.length new.nclu (p.clusters.filter s.clusterIdle) = .inr cs →
          changeClass s.wsbOwner 256 p.banks.length new.nwsb (p.banks.filter p.bankIdle) = .inr bs →
          changeClass s.asidOwner 256 p.asids.length new.nasid (p.asids.tail.filter (s.asidIdle p)) = .inr as_ →
          (∃ k ∈ p.clusters, dieOfCluster k = p.homeDie ∧ k ∉ cs.2) → s.sharesFit id totals = true →
          Answers (exec (.resizePartition req) s) (fun t => done t ∧ t.mem = s.mem ∧ ∃ q, t.part? id = some q ∧ q.totals = totals ∧
            q.request = req ∧ q.key = p.key ∧ q.tasks = p.tasks ∧ (∀ k, k ∈ q.clusters ↔ (k ∈ p.clusters ∧ k ∉ cs.2) ∨ k ∈ cs.1) ∧
            (∀ k, k ∈ q.banks ↔ (k ∈ p.banks ∧ k ∉ bs.2) ∨ k ∈ bs.1) ∧ ∀ k, k ∈ q.asids ↔ (k ∈ p.asids ∧ k ∉ as_.2) ∨ k ∈ as_.1)) ∧
        (reqOp req = 3 →
          let resident := (∃ g ∈ s.groups, g.part = id) ∨ (∃ c ∈ s.cohorts, c.part = id) ∨
            (∃ x ∈ s.cfq ++ s.df, x.part = id) ∨ (∃ x ∈ s.allCmds, x.part = id) ∨ p.decrements ≠ []
          (¬ resident → Answers (exec (.destroyPartition req) s) (fun t => done t ∧ t.mgmt.busy = none ∧ t.part? id = none ∧
            (∀ u, SMap.get none t.cluOwner u = if u ∈ p.clusters then none else SMap.get none s.cluOwner u) ∧
            (∀ u, SMap.get none t.wsbOwner u = if u ∈ p.banks then none else SMap.get none s.wsbOwner u) ∧
            (∀ u, SMap.get none t.asidOwner u = if u ∈ p.asids then none else SMap.get none s.asidOwner u) ∧
            (∀ u, SMap.get none t.keySlots u = if u = p.key then none else SMap.get none s.keySlots u) ∧
            ∀ a, Memory.read t.ws a = if a / 12582912 ∈ p.banks then 0 else Memory.read s.ws a)) ∧
          ((∃ x ∈ s.cfq, x.part = id) ∨ p.decrements ≠ [] → Answers (exec (.destroyPartition req) s) (fun t => t.waited = false ∧ t.mgmt.busy = some id ∧
            ∃ q, t.part? id = some q ∧ q.destroying = true ∧ q.ports.closed = true))) ∧
        (reqOp req = 4 → new.countsOk = true → new.idsOk = true →
          let totals := { p.totals with memu := new.memu, linku := new.linku, mburst := new.mburst, lburst := new.lburst }
          s.sharesFit id totals = true → Answers (exec (.setBuckets req) s) (fun t =>
            t = { s with parts := t.parts, mgmt := { s.mgmt with status := 0x00 }, waited := false } ∧
            t.part? id = some (({ p with totals := totals, request := req } : Part).refill 0)))) ∧
    (¬ shut → reqOp req = 5 → bits req.w0 0 48 = 0 → req.w5 = 0 → req.w6 = 0 → req.w7 = 0 → (id = 0xFF ∨ s.part? id ≠ none) →
      (32768 ≤ s.mgmt.reports → answered (.attest req) 7) ∧
      (s.mgmt.reports < 32768 → Answers (exec (.attest req) s) (fun t => done t ∧
        t = { s with mgmt := { s.mgmt with status := 0x00, report := t.mgmt.report, reports := s.mgmt.reports + 1 }, waited := false } ∧
        t.mgmt.report.length = 5572 ∧ t.mgmt.report.take 176 =
          reportBody s.mgmt req (if id = 0xFF then none else s.part? id))))

/-- R21, R402, R424, R425, R427, R428: PWRCAP takes its value within 600 to 2,400 W; firmware sets the highest clock step
within the limits, CAPPED while power is what keeps it from the next; at 105 degrees the clock stands at step 8, HOT, with a
record that names the junction temperature, and returns below; a trip stops the device and loses every task; a supply sag changes no state; before the boot
completed the management window answers BOOTSTAT only.
R398, R401: an uncorrectable memory error poisons the sector or word of its place with the tag of a new record and
changes no byte; a corrected one adds a record and changes nothing else. What a record says of its place is log 82. -/
def Obligations.PowerThermalAndErrors : Prop :=
  (∀ (s : State) (v : Word64) (step off : Nat) (here above : PowerPoint) (j : BitVec 8),
     let m := s.mgmt
     let sets := fun (i : Instr) (m' : Mgmt) => exec i s = .next { s with mgmt := m', waited := false }
     let within := fun (x : PowerPoint) => x.power.toNat ≤ m.pwrcap.toNat ∧ x.junction.toNat < 105
     let steps := fun (x : BitVec 2) => sets (.clockStepChange step here above)
       { m with clockStep := step, pwrnow := here.power, junction := here.junction, therm := x }
     (m.booted = true → sets (.pwrcapWrite v) { m with pwrcap := BitVec.ofNat 12 (max 600 (min 2400 (v.toNat % 4096))) }) ∧
     (m.therm ≠ 2 → m.therm ≠ 3 → 8 ≤ step → step ≤ 16 → here.junction.toNat < 105 → (within here ∨ step = 8) →
       (step = 16 ∨ ¬ within above) → steps (if step < 16 ∧ m.pwrcap.toNat < above.power.toNat then 1 else 0)) ∧
     (m.therm = 2 → step = 8 → 100 < here.junction.toNat → here.junction.toNat < 120 → steps 2) ∧
     (step < 16 → within above → m.therm ≠ 2 → sets (.clockStepChange step here above) m) ∧
     (105 ≤ j.toNat → j.toNat < 120 → m.therm ≠ 2 → m.therm ≠ 3 → Answers (exec (.thermHot j) s) (fun t =>
       t = { s with mgmt := { m with clockStep := 8, therm := 2, junction := j }, errs := t.errs, errSeq := t.errSeq, waited := false } ∧
       ∃ r n, t.errs = SMap.put none s.errs n (some r) ∧ r.type = 0x10 ∧ r.unit = 6 ∧
         r.part = 0xFF ∧ r.tid = 0 ∧ r.detail.toNat = j.toNat)) ∧
     (j.toNat ≤ 100 → m.therm = 2 → sets (.thermNormal j) { m with therm := 0, junction := j }) ∧
     (120 ≤ j.toNat → Answers (exec (.thermalTrip j) s) (fun t => t.mgmt = { m with therm := 3, junction := j, stopped := true } ∧
       t.groups = [] ∧ t.cohorts = [] ∧ t.mem = s.mem ∧ ∀ k q, t.part? k = some q → q.tasks = [])) ∧
     exec .supplySag s = .next { s with waited := false } ∧
     (m.stopped = false → s.windowRead 0x0D8 =
       some ((m.bootStep.setWidth 64 <<< 56) + (m.lastRst.setWidth 64 <<< 8) + m.bootCode.setWidth 64)) ∧
     (m.booted = false → off ≠ 0x0D8 → s.windowRead off = none) ∧
     (m.stopped = true → s.windowRead off = none ∧ ∀ k, s.launchRead k off = none ∧ s.pageRead k off = none)) ∧
  (∀ (s : State) (site : ErrSite),
     (s.errPlace site = none → exec (.memUe site) s = .next { s with waited := false } ∧
       exec (.corrected site) s = .next { s with waited := false }) ∧
     ∀ x, s.errPlace site = some x →
       let logs := fun (t : State) (n : Nat) (type : BitVec 8) => ∃ r : ErrRec, t.errs = SMap.put none s.errs n (some r) ∧
         r.type = type ∧ r.unit = x.unit ∧ r.part = x.part ∧ r.addr = BitVec.ofNat 64 x.addr
       Answers (exec (.memUe site) s) (fun t =>
         t = { s with memPois := t.memPois, wsPois := t.wsPois, copies := t.copies, cohorts := t.cohorts, groups := t.groups
                      errs := t.errs, errSeq := t.errSeq, waited := false } ∧
         ∃ tag : Tag, logs t (x.die * 1024 + (SMap.get 0 s.errSeq x.die).toNat % 1024) (errType site) ∧
           tag = BitVec.ofNat 12 (x.die * 1024 + (SMap.get 0 s.errSeq x.die).toNat % 1024) ∧
           (∀ pa, site = .memory pa → ∀ a,
             t.readDM a = ⟨(s.readDM a).val, if a / 64 = pa.toNat / 64 then some tag else (s.readDM a).pois⟩) ∧
           (∀ uid off co, site = .scratch uid off → s.cohort? uid = some co → ∃ co', t.cohort? uid = some co' ∧ ∀ a,
             co'.readScratch a = ⟨(co.readScratch a).val, if a / 64 = off / 64 then some tag else (co.readScratch a).pois⟩) ∧
           ∀ gid r l g, site = .vWord gid r l → l < 128 → s.group? gid = some g → ∃ g', t.group? gid = some g' ∧ ∀ r' l', l' < 128 →
             g'.vWord r' l' = if r' = r ∧ l' = l then ⟨(g.vWord r l).val, some tag⟩ else g.vWord r' l') ∧
       Answers (exec (.corrected site) s) (fun t => t = { s with errs := t.errs, errSeq := t.errSeq, waited := false } ∧
         ∃ n, logs t n 0x02))

/-- R205, R391, R392: an answer for no outstanding request does nothing, and one whose waiters' tasks have all failed or been
killed gives its RID up. A good frame for a page with no level-3 entry, for which a path waits, is zeroed and mapped and the
outcome kept; a refusal keeps a failure. What memory holds is said of memory that exists, in a partition with no parity
instance. R362, R364, R365: RECLAIM of a tier over its quota destroys the reclaimable object that comes first in reclaim
order, and counts it; with none it does nothing. The order in which a destroyed object's frames go back, and that its pages are
mapped under the partition's first ASID, are the model's log 52. -/
def Obligations.AnswersAndReclaim : Prop :=
  ∀ (s : State) (k : Nat) (p : Part), s.part? k = some p →
    (∀ w0 w1, let rid := (bits w0 56 8).toNat
      (p.requests.find? (fun r => r.rid == rid && r.outcome.isNone) = none →
        exec (.pageRequestAnswer k w0 w1) s = .next { s with waited := false }) ∧
      ∀ r, p.requests.find? (fun r => r.rid == rid && r.outcome.isNone) = some r →
        ((∀ x ∈ r.waiters, s.waiterLost k x = true) → Answers (exec (.pageRequestAnswer k w0 w1) s) (fun t => t.waited = false ∧
          ∃ q, t.part? k = some q ∧ q.requests = p.requests.filter (fun x => x.rid != r.rid))) ∧
        ∀ uid g path, r.waiters = [.path uid g path] → s.waiterLost k (.path uid g path) = false →
          let keeps := fun (good : Bool) (P : State → Prop) => Answers (exec (.pageRequestAnswer k w0 w1) s) (fun t =>
            t.waited = false ∧ P t ∧ ∃ q, t.part? k = some q ∧ { r with outcome := some good } ∈ q.requests)
          let same := fun (t : State) => ∀ a, t.readDM a = s.readDM a
          let frame := answerFrame w1
          (badAnswer w0 w1 = true → keeps false same) ∧
          (badAnswer w0 w1 = false → bits w0 48 8 = 1 → keeps false same) ∧
          (badAnswer w0 w1 = false → bits w0 48 8 = 0 →
            (∀ l e pp x y, s.walk p r.asid r.page = .leaf l e pp x y → keeps true (fun _ => True)) ∧
            (∀ e, s.walk p r.asid r.page = .absent 3 e → keeps true (fun t => p.prot = [] →
              ((∀ i < 8, physOk (e + i) = true) → t.readWordAs k e = Pte.leafWord frame) ∧
              ∀ a, frame ≤ a → a < frame + 2 ^ 17 → (a < e ∨ e + 8 ≤ a) → physOk a = true → t.readAs k a = ⟨0, none⟩)) ∧
            ((∀ l e pp x y, s.walk p r.asid r.page ≠ .leaf l e pp x y) → (∀ e, s.walk p r.asid r.page ≠ .absent 3 e) →
              keeps false (fun _ => True)))) ∧
    ∀ tier, tier < 2 →
      let x := tier == 1
      (s.use p x ≤ p.quota x → exec (.reclaim k tier) s = .next { s with waited := false }) ∧
      let out := (s.liveRecs p x).filter (fun r => r.scnt == 0 && decide (0 < r.wcnt))
      (p.quota x < s.use p x → out = [] → exec (.reclaim k tier) s = .next { s with waited := false }) ∧
      ∀ r ∈ out, p.quota x < s.use p x → (∀ y ∈ out, y ≠ r → ReclaimedFirst s r y) →
        Answers (exec (.reclaim k tier) s) (fun t => t.waited = false ∧ Destroyed s t p r ∧
          ∃ q, t.part? k = some q ∧ q.ctl.rcnt = p.ctl.rcnt + 1)

/-- R427 to R429, R433: after a reset whose boot completes, every partition, cohort and group is gone, every unit is free
and every key's slot zero, error records are clear, device memory and the weight store are zero and clean, host memory
keeps its bytes, PWRCAP is 2,400 and LASTRST names the cause; the running image is the one that was accepted, and its SVN is
fused where it is newer. Another reset changes nothing: one that follows a thermal trip without the host, or an image whose
root public key does not have the fused hash, whose signature of two levels of height 10 that key does not verify, or
which the fused SVN refuses, cannot have this outcome. The boot count, the bytes of a root public key and where an image
states its SVN are the model's log 7. -/
def Obligations.ResetStartsAnew : Prop :=
  ∀ (s : State) (cause : ResetCause) (image : Image),
    let m := s.mgmt
    let possible := (if m.therm = 3 then cause = .hostReset ∨ cause = .thermalTrip else cause ≠ .thermalTrip) ∧
      sha256 image.rootKey = m.rootKey ∧ hssVerify 10 image.rootKey image.bytes image.signature = true ∧
      m.svn.toNat ≤ (imageSvn image).toNat ∧ m.bootCount < 32768
    (¬ possible → exec (.reset cause image none) s = .next { s with waited := false }) ∧
    (possible → Answers (exec (.reset cause image none) s) (fun t => t.parts = [] ∧ t.cohorts = [] ∧ t.groups = [] ∧ t.cfq = [] ∧
      t.df = [] ∧ t.pq = [] ∧ t.copies = [] ∧ t.errs = [] ∧ t.errSeq = [] ∧ t.ws = [] ∧ t.wsPois = [] ∧ t.cores = [] ∧
      t.clusters = [] ∧ t.cluOwner = [] ∧ t.wsbOwner = [] ∧ t.asidOwner = [] ∧ t.keyOwner = [] ∧ t.keySlots = [] ∧
      t.waited = false ∧ (∀ a, t.readDM a = if deviceOk a then ⟨0, none⟩ else s.readDM a) ∧
      t.mgmt.pwrcap = 2400 ∧ t.mgmt.bootStep = 6 ∧ t.mgmt.bootCode = 0 ∧ t.mgmt.stopped = false ∧ t.mgmt.draws = m.draws ∧
      t.mgmt.image = some image.bytes ∧ t.mgmt.svn = imageSvn image ∧ t.mgmt.rootKey = m.rootKey ∧ t.mgmt.bootCount = m.bootCount + 1 ∧
      t.mgmt.lastRst = (if m.therm = 3 then 2 else match cause with
        | .powerOn => 0 | .hostReset => 1 | .thermalTrip => 2 | .watchdog => 3)))

/-! ### The whole machine -/

/-- R53, R61, R72, R73: every word of the spec's encoding that a well-formed instruction stands for decodes to it, with
every operand and modifier. -/
def Obligations.EncodeThenDecode : Prop := ∀ i : Instr, Laws.RoundTrip.Statement i

/-- R72: the MOPC of a stream word names its instruction, with the word's fields, and MOPC 0x00 and 0x10 to 0xFF name none.
A group word that decodes is the instruction of its OPC, and the words it takes are itself and its literals (R61). -/
def Obligations.DecodeReadsTheOpcode : Prop :=
  (∀ w : Word64, decodeFT w = (match (bits w 56 8).toNat with
    | 0x01 => some (.mdesc (readFT w)) | 0x02 => some (.mld (readFT w)) | 0x03 => some (.mmul (readFT w))
    | 0x04 => some (.msca (readFT w)) | 0x05 => some (.mzero (readFT w)) | 0x06 => some (.madd (readFT w))
    | 0x07 => some (.mscl (readFT w)) | 0x08 => some (.mcvt (readFT w)) | 0x09 => some (.mpub (readFT w))
    | 0x0A => some (.msettle (readFT w)) | 0x0B => some (.mst (readFT w)) | 0x0C => some (.mbar (readFT w))
    | 0x0D => some (.mloop (readFT w)) | 0x0E => some (.mpri (readFT w)) | 0x0F => some (.mend (readFT w))
    | _ => none)) ∧
  ∀ (w : Word64) (rest left : List Word64) (i : Instr), decode w rest = .ok (i, left) →
    i.opcode = (bits w 54 10).toNat ∧ rest.length + 1 = left.length + i.words ∧ ∃ lits, rest = lits ++ left

/-- The words that the spec writes out beside their assembly lines (R85 and the worked examples of its file on words): FFMA under
?!p2 with a negated B and a trapping wait bit on C, MOV of a literal, TRB, IADD of an immediate and of two lanes, ST, EXIT,
and the stream word MMUL; and an OPC that R68 does not assign. -/
def Obligations.WordsDecode : Prop :=
  let r := fun (x : Spec) => Src.reg x false
  let plain := fun (ty : Ty) (d : Spec) (a b c : Src) =>
    (⟨Guard.always, d, a, b, c, ty, .rne, false, false, false, false, false, 0⟩ : F3)
  decode 0x30A824080604C120 [] = .ok (.ffma ⟨⟨true, 2⟩, .v 9, r (.v 2), r (.v 3), .reg (.v 4) true, .f32, .rtz, false, false,
    true, false, false, 0⟩, []) ∧
  decode 0x125E07FDC0E03800 [0x0000010000400000, 7] =
    .ok (.mov (plain .n64 (.s 1) (.ext 0x0000010000400000 false) (r .zero) (r .zero)), [7]) ∧
  decode 0x51DF2605C0E00000 [] = .ok (.trb (plain .i8 (.b 1) (r (.s 1)) (r .zero) (r .zero)), []) ∧
  decode 0x181C078400019000 [] =
    .ok (.iaddI ⟨Guard.always, .v 1, r .lane, 3, .i32, .rne, false, false, false, false, false, 0⟩, []) ∧
  decode 0x101C0B85C2E01000 [] = .ok (.iadd (plain .i32 (.v 2) (r .lane) (r .lane) (r .zero)), []) ∧
  decode 0x505F832404011000 [] =
    .ok (.st ⟨Guard.always, .zero, r (.b 1), r (.v 2), r (.v 1), .w16, .core, .rlx, false, 0⟩, []) ∧
  decode 0x01DF8381C0E00000 [] = .ok (.exit (plain .i8 .zero (r .zero) (r .zero) (r .zero)), []) ∧
  decodeFT 0x030C850100000000 = some (.mmul ⟨3, 4, 5, 0, 1, false, 0, 0⟩) ∧
  decode (BitVec.ofNat 64 (0x012 * 2 ^ 54)) [] = .error .unassignedOpc

/-- R92 to R94, R280: a step whose agent is an event runs it; a quarter's pick with one group and one path, past its
header, runs the instruction at the path's PC with the path as its issuer, once a turn that cannot go on has ended; a
sequencer runs its stream's next word. First the clocks of R291 and R292 take down which streams wait (log 93), and time
passes. Which agent moves next (State.agenda) is the model's own (log 1). -/
def Obligations.StepRunsTheDecoded : Prop :=
  ∀ (s : State) (rest : List Action), s.mgmt.stopped = false →
    let later := fun (a : List Action) =>
      ({ s with agenda := a, choices := s.choices + 1, cur := .none, waited := false } : State).noteStreams.elapse
      (Config.cyclesPerStep s.choices) (Config.microsPerStep s.choices)
    let e := later rest
    (∀ i, s.agenda = .event i :: rest → isEvent i = true → step s = exec i e) ∧
    (∀ core q g path pt co i s1 w t lits left, s.agenda = .quarter core q :: rest → e.quarterGroups core q = [g] →
      (∀ h ∈ e.groups, h.gid = g.gid → h = g) →
      g.paths = [path] → SMap.get none (e.core core).capo q = none → (g.sliceAt path).hdr = false →
      e.part? g.part = some pt → e.cohort? g.cohort = some co →
      let picked := (e.endTurns exec [g]).onCore core (fun c => (c.withPicks q 0).withSlot q g.slot)
      let x := g.sliceAt path
      State.fetchWords pt g.core g.ctl.asid x.wordsLeft picked x.pc.toNat = ((w, t) :: lits, false, s1) →
      t = none → (∀ y ∈ lits, y.2 = none) → decode w (lits.map (·.1)) = .ok (i, left) →
      let run := exec i { s1.onGroup g.gid (fun g => g.countTurn path) with cur := .path g.gid path }
      (∀ u, run = .next u → u.waited = false) → step s = run) ∧
    ∀ uid co p w s1 i, s.agenda = .sequencer uid :: rest → e.cohort? uid = some co → e.part? co.part = some p →
      co.seq.active = true → co.seq.ended = false → co.kill = none → co.killed = false →
      e.streamWord p co co.seq.pc = (some (w, none), s1) → decodeFT w = some i →
      step s = exec i { s1 with cur := .stream uid }

/-- R428, R429: the machine right after reset, whose fused security version number is that of the image it runs. The values of logs
6 to 8 are the model's, among them that no fuse stood above that number before. -/
def Obligations.ResetLeaves : Prop :=
  let s := Sys2Proof.core.reset
  s.parts = [] ∧ s.cohorts = [] ∧ s.groups = [] ∧ s.errs = [] ∧ s.mgmt.pwrcap = 2400 ∧ s.mgmt.bootStep = 6 ∧
  s.mgmt.bootCode = 0 ∧ s.mgmt.lastRst = 0 ∧ (∀ a, s.readDM a = ⟨0, none⟩) ∧
  s.mgmt.svn = Config.imageSvn Config.bootImage ∧ s.canonical = true

/-- R424, R425, R428, R430: the management registers keep their ranges in every step: PWRCAP within 600 to 2,400 W, the clock in
its steps, the boot step to 6, and the reports within the signatures of one boot. The canonical form of memory and of the
weight store, which every step keeps too, is the model's own (log 1 gives its steps). -/
def Obligations.StepKeepsTheInvariant : Prop :=
  ∀ s t : State, s.canonical = true → Sys2Proof.core.step s = .next t → t.canonical = true
end

