-- ==== Sys2Proof/Laws/Crypto.lean ====
section
/-! SUPPORT. What the hash-based signatures of Machine/Crypto.lean answer: the length of a tree's root, and that a key whose
root is the one that a signature gives verifies that signature. -/

namespace Sys2Proof.Machine

theorem lmsClimb_length (id : List Byte) : ∀ (path : List (List Byte)) (node : Nat) (x : List Byte), x.length = 32 → (lmsClimb id path node x).length = 32
  | [], _, _, h => h
  | p :: rest, node, x, _ => by
    unfold lmsClimb; exact lmsClimb_length id rest _ _ (by split <;> exact hashBytes_length _)

/-- An LMS public key whose root is the one that a well-formed signature gives verifies it. -/
theorem lmsVerify_own (h : Nat) (id msg sig : List Byte) (hid : id.length = 16) (hf : lmsForm h sig = true) :
    lmsVerify h (lmsType h ++ otsType ++ id ++ lmsCandidate h id msg sig) msg sig = true := by
  have h4 : (lmsType h).length = 4 := bigBytes_length 4 _
  have ho : otsType.length = 4 := bigBytes_length 4 3
  have ht : (lmsType h).take 8 = lmsType h := List.take_of_length_le (by omega)
  have d8 : (lmsType h).drop 8 = [] := List.drop_of_length_le (by omega)
  have d24 : (lmsType h).drop 24 = [] := List.drop_of_length_le (by omega)
  have d20 : otsType.drop 20 = [] := rfl
  simp [lmsVerify, hf, List.take_append, List.drop_append, h4, ho, hid, ht, d8, d24, d20]

end Sys2Proof.Machine
end

