-- ==== Sys2Proof/Laws/Sparse.lean ====
section
/-!
SUPPORT. Sparse maps: reading after writing, for any map whatever its form, and the canonical form kept by a write.
-/

namespace Sys2Proof.Machine

variable {α : Type}

theorem SMap.get_insert_self (d : α) (m : SMap α) (k : Nat) (v : α) (h : ∀ e ∈ m, e.1 ≠ k) :
    SMap.get d (SMap.insert k v m) k = v := by
  induction m with
  | nil => simp [SMap.insert, SMap.get]
  | cons e rest ih =>
    have he : k ≠ e.1 := fun x => h e (by simp) x.symm
    simp only [SMap.insert]
    split
    · simp [SMap.get]
    · simp only [SMap.get, he, if_false]
      exact ih (fun e' he' => h e' (by simp [he']))

theorem SMap.get_insert_ne (d : α) (m : SMap α) (k j : Nat) (v : α) (h : j ≠ k) :
    SMap.get d (SMap.insert k v m) j = SMap.get d m j := by
  induction m with
  | nil => simp [SMap.insert, SMap.get, h]
  | cons e rest ih =>
    simp only [SMap.insert]
    split
    · simp [SMap.get, h]
    · simp only [SMap.get, ih]

theorem SMap.get_filter_self (d : α) (m : SMap α) (k : Nat) : SMap.get d (m.filter (fun e => e.1 != k)) k = d := by
  induction m with
  | nil => rfl
  | cons e rest ih =>
    by_cases he : e.1 = k
    · simp [he, ih]
    · have : k ≠ e.1 := fun x => he x.symm
      simp [he, SMap.get, this, ih]

theorem SMap.get_filter_ne (d : α) (m : SMap α) (k j : Nat) (h : j ≠ k) :
    SMap.get d (m.filter (fun e => e.1 != k)) j = SMap.get d m j := by
  induction m with
  | nil => rfl
  | cons e rest ih =>
    by_cases he : e.1 = k
    · have : j ≠ e.1 := fun x => h (x.trans he)
      simp [he, SMap.get, h, ih]
    · simp [he, SMap.get, ih]

variable [DecidableEq α]

/-- A read at the key written gives the value written. -/
@[simp] theorem SMap.get_put_self (d : α) (m : SMap α) (k : Nat) (v : α) : SMap.get d (SMap.put d m k v) k = v := by
  simp only [SMap.put]
  split
  · next h => rw [SMap.get_filter_self, h]
  · exact SMap.get_insert_self d _ k v (by simp)

/-- A write leaves every other key alone. -/
theorem SMap.get_put_ne (d : α) (m : SMap α) (k j : Nat) (v : α) (h : j ≠ k) :
    SMap.get d (SMap.put d m k v) j = SMap.get d m j := by
  simp only [SMap.put]
  split
  · exact SMap.get_filter_ne d m k j h
  · rw [SMap.get_insert_ne d _ k j v h, SMap.get_filter_ne d m k j h]

theorem SMap.get_put (d : α) (m : SMap α) (k j : Nat) (v : α) :
    SMap.get d (SMap.put d m k v) j = if j = k then v else SMap.get d m j := by
  split
  · next h => rw [h, SMap.get_put_self]
  · next h => exact SMap.get_put_ne d m k j v h

/-! ### The canonical form -/

theorem SMap.wfFrom_mono (d : α) (m : SMap α) (lo lo' : Nat) (h : lo' ≤ lo) (hm : SMap.wfFrom d lo m = true) :
    SMap.wfFrom d lo' m = true := by
  cases m with
  | nil => rfl
  | cons e rest =>
    simp only [SMap.wfFrom, Bool.and_eq_true, decide_eq_true_eq] at hm ⊢
    exact ⟨⟨by omega, hm.1.2⟩, hm.2⟩

theorem SMap.wfFrom_filter (d : α) (p : Nat × α → Bool) (m : SMap α) (lo : Nat) (hm : SMap.wfFrom d lo m = true) :
    SMap.wfFrom d lo (m.filter p) = true := by
  induction m generalizing lo with
  | nil => rfl
  | cons e rest ih =>
    simp only [SMap.wfFrom, Bool.and_eq_true, decide_eq_true_eq] at hm
    by_cases hp : p e = true
    · simp only [List.filter_cons, hp, if_true, SMap.wfFrom, Bool.and_eq_true, decide_eq_true_eq]
      exact ⟨hm.1, ih _ hm.2⟩
    · simp only [List.filter_cons, hp]
      exact SMap.wfFrom_mono d _ _ _ (by omega) (ih _ hm.2)

theorem SMap.wfFrom_insert (d : α) (m : SMap α) (lo k : Nat) (v : α) (hv : v ≠ d) (hk : lo ≤ k)
    (hm : SMap.wfFrom d lo m = true) (hn : ∀ e ∈ m, e.1 ≠ k) : SMap.wfFrom d lo (SMap.insert k v m) = true := by
  induction m generalizing lo with
  | nil => simp [SMap.insert, SMap.wfFrom, hv, hk]
  | cons e rest ih =>
    simp only [SMap.wfFrom, Bool.and_eq_true, decide_eq_true_eq] at hm
    have he : e.1 ≠ k := hn e (by simp)
    simp only [SMap.insert]
    split
    · simp only [SMap.wfFrom, Bool.and_eq_true, decide_eq_true_eq]
      exact ⟨⟨hk, hv⟩, ⟨by omega, hm.1.2⟩, hm.2⟩
    · simp only [SMap.wfFrom, Bool.and_eq_true, decide_eq_true_eq]
      exact ⟨hm.1, ih _ (by omega) hm.2 (fun e' he' => hn e' (by simp [he']))⟩

/-- A write keeps the canonical form. -/
theorem SMap.wf_put (d : α) (m : SMap α) (k : Nat) (v : α) (h : SMap.wf d m = true) :
    SMap.wf d (SMap.put d m k v) = true := by
  have hf := SMap.wfFrom_filter d (fun e => e.1 != k) m 0 h
  simp only [SMap.put]
  split
  · exact hf
  · next hv => exact SMap.wfFrom_insert d _ 0 k v hv (by omega) hf (by simp)

theorem SMap.wf_filter (d : α) (p : Nat × α → Bool) (m : SMap α) (h : SMap.wf d m = true) :
    SMap.wf d (m.filter p) = true := SMap.wfFrom_filter d p m 0 h

theorem Memory.wf_write (m : Memory) (a : Nat) (b : Byte) (h : m.wf = true) : (m.write a b).wf = true :=
  SMap.wf_put 0 m a b h

@[simp] theorem Memory.read_write_self (m : Memory) (a : Nat) (b : Byte) : (m.write a b).read a = b :=
  SMap.get_put_self 0 m a b

theorem Memory.read_write_ne (m : Memory) (a a' : Nat) (b : Byte) (h : a' ≠ a) : (m.write a b).read a' = m.read a' :=
  SMap.get_put_ne 0 m a a' b h

end Sys2Proof.Machine
end

