-- ==== Sys2Proof/Laws/State.lean ====
section
/-!
SUPPORT. The updates of State, field by field: each replaces one field and leaves every other as it was.
-/

namespace Sys2Proof.Machine

/-! ### setGroup -/

@[simp] theorem State.setGroup_cycle (s : State) (g : Group) : (s.setGroup g).cycle = s.cycle := rfl
@[simp] theorem State.setGroup_refUs (s : State) (g : Group) : (s.setGroup g).refUs = s.refUs := rfl
@[simp] theorem State.setGroup_mgmt (s : State) (g : Group) : (s.setGroup g).mgmt = s.mgmt := rfl
@[simp] theorem State.setGroup_mem (s : State) (g : Group) : (s.setGroup g).mem = s.mem := rfl
@[simp] theorem State.setGroup_memPois (s : State) (g : Group) : (s.setGroup g).memPois = s.memPois := rfl
@[simp] theorem State.setGroup_ws (s : State) (g : Group) : (s.setGroup g).ws = s.ws := rfl
@[simp] theorem State.setGroup_wsPois (s : State) (g : Group) : (s.setGroup g).wsPois = s.wsPois := rfl
@[simp] theorem State.setGroup_copies (s : State) (g : Group) : (s.setGroup g).copies = s.copies := rfl
@[simp] theorem State.setGroup_cfq (s : State) (g : Group) : (s.setGroup g).cfq = s.cfq := rfl
@[simp] theorem State.setGroup_df (s : State) (g : Group) : (s.setGroup g).df = s.df := rfl
@[simp] theorem State.setGroup_pq (s : State) (g : Group) : (s.setGroup g).pq = s.pq := rfl
@[simp] theorem State.setGroup_opens (s : State) (g : Group) : (s.setGroup g).opens = s.opens := rfl
@[simp] theorem State.setGroup_rsets (s : State) (g : Group) : (s.setGroup g).rsets = s.rsets := rfl
@[simp] theorem State.setGroup_parts (s : State) (g : Group) : (s.setGroup g).parts = s.parts := rfl
@[simp] theorem State.setGroup_cores (s : State) (g : Group) : (s.setGroup g).cores = s.cores := rfl
@[simp] theorem State.setGroup_clusters (s : State) (g : Group) : (s.setGroup g).clusters = s.clusters := rfl
@[simp] theorem State.setGroup_cohorts (s : State) (g : Group) : (s.setGroup g).cohorts = s.cohorts := rfl
@[simp] theorem State.setGroup_errs (s : State) (g : Group) : (s.setGroup g).errs = s.errs := rfl
@[simp] theorem State.setGroup_errSeq (s : State) (g : Group) : (s.setGroup g).errSeq = s.errSeq := rfl
@[simp] theorem State.setGroup_cluOwner (s : State) (g : Group) : (s.setGroup g).cluOwner = s.cluOwner := rfl
@[simp] theorem State.setGroup_wsbOwner (s : State) (g : Group) : (s.setGroup g).wsbOwner = s.wsbOwner := rfl
@[simp] theorem State.setGroup_keyOwner (s : State) (g : Group) : (s.setGroup g).keyOwner = s.keyOwner := rfl
@[simp] theorem State.setGroup_asidOwner (s : State) (g : Group) : (s.setGroup g).asidOwner = s.asidOwner := rfl
@[simp] theorem State.setGroup_keySlots (s : State) (g : Group) : (s.setGroup g).keySlots = s.keySlots := rfl
@[simp] theorem State.setGroup_memKey (s : State) (g : Group) : (s.setGroup g).memKey = s.memKey := rfl
@[simp] theorem State.setGroup_agenda (s : State) (g : Group) : (s.setGroup g).agenda = s.agenda := rfl
@[simp] theorem State.setGroup_choices (s : State) (g : Group) : (s.setGroup g).choices = s.choices := rfl
@[simp] theorem State.setGroup_free (s : State) (g : Group) : (s.setGroup g).free = s.free := rfl
@[simp] theorem State.setGroup_cur (s : State) (g : Group) : (s.setGroup g).cur = s.cur := rfl
@[simp] theorem State.setGroup_waited (s : State) (g : Group) : (s.setGroup g).waited = s.waited := rfl
@[simp] theorem State.setGroup_nextUid (s : State) (g : Group) : (s.setGroup g).nextUid = s.nextUid := rfl
@[simp] theorem State.setGroup_linkOut (s : State) (g : Group) : (s.setGroup g).linkOut = s.linkOut := rfl
@[simp] theorem State.setGroup_msiOut (s : State) (g : Group) : (s.setGroup g).msiOut = s.msiOut := rfl

/-! ### setCohort -/

@[simp] theorem State.setCohort_cycle (s : State) (c : Cohort) : (s.setCohort c).cycle = s.cycle := rfl
@[simp] theorem State.setCohort_refUs (s : State) (c : Cohort) : (s.setCohort c).refUs = s.refUs := rfl
@[simp] theorem State.setCohort_mgmt (s : State) (c : Cohort) : (s.setCohort c).mgmt = s.mgmt := rfl
@[simp] theorem State.setCohort_mem (s : State) (c : Cohort) : (s.setCohort c).mem = s.mem := rfl
@[simp] theorem State.setCohort_memPois (s : State) (c : Cohort) : (s.setCohort c).memPois = s.memPois := rfl
@[simp] theorem State.setCohort_ws (s : State) (c : Cohort) : (s.setCohort c).ws = s.ws := rfl
@[simp] theorem State.setCohort_wsPois (s : State) (c : Cohort) : (s.setCohort c).wsPois = s.wsPois := rfl
@[simp] theorem State.setCohort_copies (s : State) (c : Cohort) : (s.setCohort c).copies = s.copies := rfl
@[simp] theorem State.setCohort_cfq (s : State) (c : Cohort) : (s.setCohort c).cfq = s.cfq := rfl
@[simp] theorem State.setCohort_df (s : State) (c : Cohort) : (s.setCohort c).df = s.df := rfl
@[simp] theorem State.setCohort_pq (s : State) (c : Cohort) : (s.setCohort c).pq = s.pq := rfl
@[simp] theorem State.setCohort_opens (s : State) (c : Cohort) : (s.setCohort c).opens = s.opens := rfl
@[simp] theorem State.setCohort_rsets (s : State) (c : Cohort) : (s.setCohort c).rsets = s.rsets := rfl
@[simp] theorem State.setCohort_parts (s : State) (c : Cohort) : (s.setCohort c).parts = s.parts := rfl
@[simp] theorem State.setCohort_cores (s : State) (c : Cohort) : (s.setCohort c).cores = s.cores := rfl
@[simp] theorem State.setCohort_clusters (s : State) (c : Cohort) : (s.setCohort c).clusters = s.clusters := rfl
@[simp] theorem State.setCohort_groups (s : State) (c : Cohort) : (s.setCohort c).groups = s.groups := rfl
@[simp] theorem State.setCohort_errs (s : State) (c : Cohort) : (s.setCohort c).errs = s.errs := rfl
@[simp] theorem State.setCohort_errSeq (s : State) (c : Cohort) : (s.setCohort c).errSeq = s.errSeq := rfl
@[simp] theorem State.setCohort_cluOwner (s : State) (c : Cohort) : (s.setCohort c).cluOwner = s.cluOwner := rfl
@[simp] theorem State.setCohort_wsbOwner (s : State) (c : Cohort) : (s.setCohort c).wsbOwner = s.wsbOwner := rfl
@[simp] theorem State.setCohort_keyOwner (s : State) (c : Cohort) : (s.setCohort c).keyOwner = s.keyOwner := rfl
@[simp] theorem State.setCohort_asidOwner (s : State) (c : Cohort) : (s.setCohort c).asidOwner = s.asidOwner := rfl
@[simp] theorem State.setCohort_keySlots (s : State) (c : Cohort) : (s.setCohort c).keySlots = s.keySlots := rfl
@[simp] theorem State.setCohort_memKey (s : State) (c : Cohort) : (s.setCohort c).memKey = s.memKey := rfl
@[simp] theorem State.setCohort_agenda (s : State) (c : Cohort) : (s.setCohort c).agenda = s.agenda := rfl
@[simp] theorem State.setCohort_choices (s : State) (c : Cohort) : (s.setCohort c).choices = s.choices := rfl
@[simp] theorem State.setCohort_free (s : State) (c : Cohort) : (s.setCohort c).free = s.free := rfl
@[simp] theorem State.setCohort_cur (s : State) (c : Cohort) : (s.setCohort c).cur = s.cur := rfl
@[simp] theorem State.setCohort_waited (s : State) (c : Cohort) : (s.setCohort c).waited = s.waited := rfl
@[simp] theorem State.setCohort_nextUid (s : State) (c : Cohort) : (s.setCohort c).nextUid = s.nextUid := rfl
@[simp] theorem State.setCohort_linkOut (s : State) (c : Cohort) : (s.setCohort c).linkOut = s.linkOut := rfl
@[simp] theorem State.setCohort_msiOut (s : State) (c : Cohort) : (s.setCohort c).msiOut = s.msiOut := rfl

/-! ### setPart -/

@[simp] theorem State.setPart_cycle (s : State) (p : Part) : (s.setPart p).cycle = s.cycle := rfl
@[simp] theorem State.setPart_refUs (s : State) (p : Part) : (s.setPart p).refUs = s.refUs := rfl
@[simp] theorem State.setPart_mgmt (s : State) (p : Part) : (s.setPart p).mgmt = s.mgmt := rfl
@[simp] theorem State.setPart_mem (s : State) (p : Part) : (s.setPart p).mem = s.mem := rfl
@[simp] theorem State.setPart_memPois (s : State) (p : Part) : (s.setPart p).memPois = s.memPois := rfl
@[simp] theorem State.setPart_ws (s : State) (p : Part) : (s.setPart p).ws = s.ws := rfl
@[simp] theorem State.setPart_wsPois (s : State) (p : Part) : (s.setPart p).wsPois = s.wsPois := rfl
@[simp] theorem State.setPart_copies (s : State) (p : Part) : (s.setPart p).copies = s.copies := rfl
@[simp] theorem State.setPart_cfq (s : State) (p : Part) : (s.setPart p).cfq = s.cfq := rfl
@[simp] theorem State.setPart_df (s : State) (p : Part) : (s.setPart p).df = s.df := rfl
@[simp] theorem State.setPart_pq (s : State) (p : Part) : (s.setPart p).pq = s.pq := rfl
@[simp] theorem State.setPart_opens (s : State) (p : Part) : (s.setPart p).opens = s.opens := rfl
@[simp] theorem State.setPart_rsets (s : State) (p : Part) : (s.setPart p).rsets = s.rsets := rfl
@[simp] theorem State.setPart_cores (s : State) (p : Part) : (s.setPart p).cores = s.cores := rfl
@[simp] theorem State.setPart_clusters (s : State) (p : Part) : (s.setPart p).clusters = s.clusters := rfl
@[simp] theorem State.setPart_cohorts (s : State) (p : Part) : (s.setPart p).cohorts = s.cohorts := rfl
@[simp] theorem State.setPart_groups (s : State) (p : Part) : (s.setPart p).groups = s.groups := rfl
@[simp] theorem State.setPart_errs (s : State) (p : Part) : (s.setPart p).errs = s.errs := rfl
@[simp] theorem State.setPart_errSeq (s : State) (p : Part) : (s.setPart p).errSeq = s.errSeq := rfl
@[simp] theorem State.setPart_cluOwner (s : State) (p : Part) : (s.setPart p).cluOwner = s.cluOwner := rfl
@[simp] theorem State.setPart_wsbOwner (s : State) (p : Part) : (s.setPart p).wsbOwner = s.wsbOwner := rfl
@[simp] theorem State.setPart_keyOwner (s : State) (p : Part) : (s.setPart p).keyOwner = s.keyOwner := rfl
@[simp] theorem State.setPart_asidOwner (s : State) (p : Part) : (s.setPart p).asidOwner = s.asidOwner := rfl
@[simp] theorem State.setPart_keySlots (s : State) (p : Part) : (s.setPart p).keySlots = s.keySlots := rfl
@[simp] theorem State.setPart_memKey (s : State) (p : Part) : (s.setPart p).memKey = s.memKey := rfl
@[simp] theorem State.setPart_agenda (s : State) (p : Part) : (s.setPart p).agenda = s.agenda := rfl
@[simp] theorem State.setPart_choices (s : State) (p : Part) : (s.setPart p).choices = s.choices := rfl
@[simp] theorem State.setPart_free (s : State) (p : Part) : (s.setPart p).free = s.free := rfl
@[simp] theorem State.setPart_cur (s : State) (p : Part) : (s.setPart p).cur = s.cur := rfl
@[simp] theorem State.setPart_waited (s : State) (p : Part) : (s.setPart p).waited = s.waited := rfl
@[simp] theorem State.setPart_nextUid (s : State) (p : Part) : (s.setPart p).nextUid = s.nextUid := rfl
@[simp] theorem State.setPart_linkOut (s : State) (p : Part) : (s.setPart p).linkOut = s.linkOut := rfl
@[simp] theorem State.setPart_msiOut (s : State) (p : Part) : (s.setPart p).msiOut = s.msiOut := rfl

/-! ### setCore -/

@[simp] theorem State.setCore_cycle (s : State) (n : Nat) (c : Core) : (s.setCore n c).cycle = s.cycle := rfl
@[simp] theorem State.setCore_refUs (s : State) (n : Nat) (c : Core) : (s.setCore n c).refUs = s.refUs := rfl
@[simp] theorem State.setCore_mgmt (s : State) (n : Nat) (c : Core) : (s.setCore n c).mgmt = s.mgmt := rfl
@[simp] theorem State.setCore_mem (s : State) (n : Nat) (c : Core) : (s.setCore n c).mem = s.mem := rfl
@[simp] theorem State.setCore_memPois (s : State) (n : Nat) (c : Core) : (s.setCore n c).memPois = s.memPois := rfl
@[simp] theorem State.setCore_ws (s : State) (n : Nat) (c : Core) : (s.setCore n c).ws = s.ws := rfl
@[simp] theorem State.setCore_wsPois (s : State) (n : Nat) (c : Core) : (s.setCore n c).wsPois = s.wsPois := rfl
@[simp] theorem State.setCore_copies (s : State) (n : Nat) (c : Core) : (s.setCore n c).copies = s.copies := rfl
@[simp] theorem State.setCore_cfq (s : State) (n : Nat) (c : Core) : (s.setCore n c).cfq = s.cfq := rfl
@[simp] theorem State.setCore_df (s : State) (n : Nat) (c : Core) : (s.setCore n c).df = s.df := rfl
@[simp] theorem State.setCore_pq (s : State) (n : Nat) (c : Core) : (s.setCore n c).pq = s.pq := rfl
@[simp] theorem State.setCore_opens (s : State) (n : Nat) (c : Core) : (s.setCore n c).opens = s.opens := rfl
@[simp] theorem State.setCore_rsets (s : State) (n : Nat) (c : Core) : (s.setCore n c).rsets = s.rsets := rfl
@[simp] theorem State.setCore_parts (s : State) (n : Nat) (c : Core) : (s.setCore n c).parts = s.parts := rfl
@[simp] theorem State.setCore_clusters (s : State) (n : Nat) (c : Core) : (s.setCore n c).clusters = s.clusters := rfl
@[simp] theorem State.setCore_cohorts (s : State) (n : Nat) (c : Core) : (s.setCore n c).cohorts = s.cohorts := rfl
@[simp] theorem State.setCore_groups (s : State) (n : Nat) (c : Core) : (s.setCore n c).groups = s.groups := rfl
@[simp] theorem State.setCore_errs (s : State) (n : Nat) (c : Core) : (s.setCore n c).errs = s.errs := rfl
@[simp] theorem State.setCore_errSeq (s : State) (n : Nat) (c : Core) : (s.setCore n c).errSeq = s.errSeq := rfl
@[simp] theorem State.setCore_cluOwner (s : State) (n : Nat) (c : Core) : (s.setCore n c).cluOwner = s.cluOwner := rfl
@[simp] theorem State.setCore_wsbOwner (s : State) (n : Nat) (c : Core) : (s.setCore n c).wsbOwner = s.wsbOwner := rfl
@[simp] theorem State.setCore_keyOwner (s : State) (n : Nat) (c : Core) : (s.setCore n c).keyOwner = s.keyOwner := rfl
@[simp] theorem State.setCore_asidOwner (s : State) (n : Nat) (c : Core) : (s.setCore n c).asidOwner = s.asidOwner := rfl
@[simp] theorem State.setCore_keySlots (s : State) (n : Nat) (c : Core) : (s.setCore n c).keySlots = s.keySlots := rfl
@[simp] theorem State.setCore_memKey (s : State) (n : Nat) (c : Core) : (s.setCore n c).memKey = s.memKey := rfl
@[simp] theorem State.setCore_agenda (s : State) (n : Nat) (c : Core) : (s.setCore n c).agenda = s.agenda := rfl
@[simp] theorem State.setCore_choices (s : State) (n : Nat) (c : Core) : (s.setCore n c).choices = s.choices := rfl
@[simp] theorem State.setCore_free (s : State) (n : Nat) (c : Core) : (s.setCore n c).free = s.free := rfl
@[simp] theorem State.setCore_cur (s : State) (n : Nat) (c : Core) : (s.setCore n c).cur = s.cur := rfl
@[simp] theorem State.setCore_waited (s : State) (n : Nat) (c : Core) : (s.setCore n c).waited = s.waited := rfl
@[simp] theorem State.setCore_nextUid (s : State) (n : Nat) (c : Core) : (s.setCore n c).nextUid = s.nextUid := rfl
@[simp] theorem State.setCore_linkOut (s : State) (n : Nat) (c : Core) : (s.setCore n c).linkOut = s.linkOut := rfl
@[simp] theorem State.setCore_msiOut (s : State) (n : Nat) (c : Core) : (s.setCore n c).msiOut = s.msiOut := rfl

/-! ### setCluster -/

@[simp] theorem State.setCluster_cycle (s : State) (n : Nat) (c : Cluster) : (s.setCluster n c).cycle = s.cycle := rfl
@[simp] theorem State.setCluster_refUs (s : State) (n : Nat) (c : Cluster) : (s.setCluster n c).refUs = s.refUs := rfl
@[simp] theorem State.setCluster_mgmt (s : State) (n : Nat) (c : Cluster) : (s.setCluster n c).mgmt = s.mgmt := rfl
@[simp] theorem State.setCluster_mem (s : State) (n : Nat) (c : Cluster) : (s.setCluster n c).mem = s.mem := rfl
@[simp] theorem State.setCluster_memPois (s : State) (n : Nat) (c : Cluster) : (s.setCluster n c).memPois = s.memPois := rfl
@[simp] theorem State.setCluster_ws (s : State) (n : Nat) (c : Cluster) : (s.setCluster n c).ws = s.ws := rfl
@[simp] theorem State.setCluster_wsPois (s : State) (n : Nat) (c : Cluster) : (s.setCluster n c).wsPois = s.wsPois := rfl
@[simp] theorem State.setCluster_copies (s : State) (n : Nat) (c : Cluster) : (s.setCluster n c).copies = s.copies := rfl
@[simp] theorem State.setCluster_cfq (s : State) (n : Nat) (c : Cluster) : (s.setCluster n c).cfq = s.cfq := rfl
@[simp] theorem State.setCluster_df (s : State) (n : Nat) (c : Cluster) : (s.setCluster n c).df = s.df := rfl
@[simp] theorem State.setCluster_pq (s : State) (n : Nat) (c : Cluster) : (s.setCluster n c).pq = s.pq := rfl
@[simp] theorem State.setCluster_opens (s : State) (n : Nat) (c : Cluster) : (s.setCluster n c).opens = s.opens := rfl
@[simp] theorem State.setCluster_rsets (s : State) (n : Nat) (c : Cluster) : (s.setCluster n c).rsets = s.rsets := rfl
@[simp] theorem State.setCluster_parts (s : State) (n : Nat) (c : Cluster) : (s.setCluster n c).parts = s.parts := rfl
@[simp] theorem State.setCluster_cores (s : State) (n : Nat) (c : Cluster) : (s.setCluster n c).cores = s.cores := rfl
@[simp] theorem State.setCluster_cohorts (s : State) (n : Nat) (c : Cluster) : (s.setCluster n c).cohorts = s.cohorts := rfl
@[simp] theorem State.setCluster_groups (s : State) (n : Nat) (c : Cluster) : (s.setCluster n c).groups = s.groups := rfl
@[simp] theorem State.setCluster_errs (s : State) (n : Nat) (c : Cluster) : (s.setCluster n c).errs = s.errs := rfl
@[simp] theorem State.setCluster_errSeq (s : State) (n : Nat) (c : Cluster) : (s.setCluster n c).errSeq = s.errSeq := rfl
@[simp] theorem State.setCluster_cluOwner (s : State) (n : Nat) (c : Cluster) : (s.setCluster n c).cluOwner = s.cluOwner := rfl
@[simp] theorem State.setCluster_wsbOwner (s : State) (n : Nat) (c : Cluster) : (s.setCluster n c).wsbOwner = s.wsbOwner := rfl
@[simp] theorem State.setCluster_keyOwner (s : State) (n : Nat) (c : Cluster) : (s.setCluster n c).keyOwner = s.keyOwner := rfl
@[simp] theorem State.setCluster_asidOwner (s : State) (n : Nat) (c : Cluster) : (s.setCluster n c).asidOwner = s.asidOwner := rfl
@[simp] theorem State.setCluster_keySlots (s : State) (n : Nat) (c : Cluster) : (s.setCluster n c).keySlots = s.keySlots := rfl
@[simp] theorem State.setCluster_memKey (s : State) (n : Nat) (c : Cluster) : (s.setCluster n c).memKey = s.memKey := rfl
@[simp] theorem State.setCluster_agenda (s : State) (n : Nat) (c : Cluster) : (s.setCluster n c).agenda = s.agenda := rfl
@[simp] theorem State.setCluster_choices (s : State) (n : Nat) (c : Cluster) : (s.setCluster n c).choices = s.choices := rfl
@[simp] theorem State.setCluster_free (s : State) (n : Nat) (c : Cluster) : (s.setCluster n c).free = s.free := rfl
@[simp] theorem State.setCluster_cur (s : State) (n : Nat) (c : Cluster) : (s.setCluster n c).cur = s.cur := rfl
@[simp] theorem State.setCluster_waited (s : State) (n : Nat) (c : Cluster) : (s.setCluster n c).waited = s.waited := rfl
@[simp] theorem State.setCluster_nextUid (s : State) (n : Nat) (c : Cluster) : (s.setCluster n c).nextUid = s.nextUid := rfl
@[simp] theorem State.setCluster_linkOut (s : State) (n : Nat) (c : Cluster) : (s.setCluster n c).linkOut = s.linkOut := rfl
@[simp] theorem State.setCluster_msiOut (s : State) (n : Nat) (c : Cluster) : (s.setCluster n c).msiOut = s.msiOut := rfl

/-! ### dropGroup -/

@[simp] theorem State.dropGroup_cycle (s : State) (gid : Nat) : (s.dropGroup gid).cycle = s.cycle := rfl
@[simp] theorem State.dropGroup_refUs (s : State) (gid : Nat) : (s.dropGroup gid).refUs = s.refUs := rfl
@[simp] theorem State.dropGroup_mgmt (s : State) (gid : Nat) : (s.dropGroup gid).mgmt = s.mgmt := rfl
@[simp] theorem State.dropGroup_mem (s : State) (gid : Nat) : (s.dropGroup gid).mem = s.mem := rfl
@[simp] theorem State.dropGroup_memPois (s : State) (gid : Nat) : (s.dropGroup gid).memPois = s.memPois := rfl
@[simp] theorem State.dropGroup_ws (s : State) (gid : Nat) : (s.dropGroup gid).ws = s.ws := rfl
@[simp] theorem State.dropGroup_wsPois (s : State) (gid : Nat) : (s.dropGroup gid).wsPois = s.wsPois := rfl
@[simp] theorem State.dropGroup_copies (s : State) (gid : Nat) : (s.dropGroup gid).copies = s.copies := rfl
@[simp] theorem State.dropGroup_cfq (s : State) (gid : Nat) : (s.dropGroup gid).cfq = s.cfq := rfl
@[simp] theorem State.dropGroup_df (s : State) (gid : Nat) : (s.dropGroup gid).df = s.df := rfl
@[simp] theorem State.dropGroup_pq (s : State) (gid : Nat) : (s.dropGroup gid).pq = s.pq := rfl
@[simp] theorem State.dropGroup_opens (s : State) (gid : Nat) : (s.dropGroup gid).opens = s.opens := rfl
@[simp] theorem State.dropGroup_rsets (s : State) (gid : Nat) : (s.dropGroup gid).rsets = s.rsets := rfl
@[simp] theorem State.dropGroup_parts (s : State) (gid : Nat) : (s.dropGroup gid).parts = s.parts := rfl
@[simp] theorem State.dropGroup_cores (s : State) (gid : Nat) : (s.dropGroup gid).cores = s.cores := rfl
@[simp] theorem State.dropGroup_clusters (s : State) (gid : Nat) : (s.dropGroup gid).clusters = s.clusters := rfl
@[simp] theorem State.dropGroup_cohorts (s : State) (gid : Nat) : (s.dropGroup gid).cohorts = s.cohorts := rfl
@[simp] theorem State.dropGroup_errs (s : State) (gid : Nat) : (s.dropGroup gid).errs = s.errs := rfl
@[simp] theorem State.dropGroup_errSeq (s : State) (gid : Nat) : (s.dropGroup gid).errSeq = s.errSeq := rfl
@[simp] theorem State.dropGroup_cluOwner (s : State) (gid : Nat) : (s.dropGroup gid).cluOwner = s.cluOwner := rfl
@[simp] theorem State.dropGroup_wsbOwner (s : State) (gid : Nat) : (s.dropGroup gid).wsbOwner = s.wsbOwner := rfl
@[simp] theorem State.dropGroup_keyOwner (s : State) (gid : Nat) : (s.dropGroup gid).keyOwner = s.keyOwner := rfl
@[simp] theorem State.dropGroup_asidOwner (s : State) (gid : Nat) : (s.dropGroup gid).asidOwner = s.asidOwner := rfl
@[simp] theorem State.dropGroup_keySlots (s : State) (gid : Nat) : (s.dropGroup gid).keySlots = s.keySlots := rfl
@[simp] theorem State.dropGroup_memKey (s : State) (gid : Nat) : (s.dropGroup gid).memKey = s.memKey := rfl
@[simp] theorem State.dropGroup_agenda (s : State) (gid : Nat) : (s.dropGroup gid).agenda = s.agenda := rfl
@[simp] theorem State.dropGroup_choices (s : State) (gid : Nat) : (s.dropGroup gid).choices = s.choices := rfl
@[simp] theorem State.dropGroup_free (s : State) (gid : Nat) : (s.dropGroup gid).free = s.free := rfl
@[simp] theorem State.dropGroup_cur (s : State) (gid : Nat) : (s.dropGroup gid).cur = s.cur := rfl
@[simp] theorem State.dropGroup_waited (s : State) (gid : Nat) : (s.dropGroup gid).waited = s.waited := rfl
@[simp] theorem State.dropGroup_nextUid (s : State) (gid : Nat) : (s.dropGroup gid).nextUid = s.nextUid := rfl
@[simp] theorem State.dropGroup_linkOut (s : State) (gid : Nat) : (s.dropGroup gid).linkOut = s.linkOut := rfl
@[simp] theorem State.dropGroup_msiOut (s : State) (gid : Nat) : (s.dropGroup gid).msiOut = s.msiOut := rfl

/-! ### dropCohort -/

@[simp] theorem State.dropCohort_cycle (s : State) (uid : Nat) : (s.dropCohort uid).cycle = s.cycle := rfl
@[simp] theorem State.dropCohort_refUs (s : State) (uid : Nat) : (s.dropCohort uid).refUs = s.refUs := rfl
@[simp] theorem State.dropCohort_mgmt (s : State) (uid : Nat) : (s.dropCohort uid).mgmt = s.mgmt := rfl
@[simp] theorem State.dropCohort_mem (s : State) (uid : Nat) : (s.dropCohort uid).mem = s.mem := rfl
@[simp] theorem State.dropCohort_memPois (s : State) (uid : Nat) : (s.dropCohort uid).memPois = s.memPois := rfl
@[simp] theorem State.dropCohort_ws (s : State) (uid : Nat) : (s.dropCohort uid).ws = s.ws := rfl
@[simp] theorem State.dropCohort_wsPois (s : State) (uid : Nat) : (s.dropCohort uid).wsPois = s.wsPois := rfl
@[simp] theorem State.dropCohort_copies (s : State) (uid : Nat) : (s.dropCohort uid).copies = s.copies := rfl
@[simp] theorem State.dropCohort_cfq (s : State) (uid : Nat) : (s.dropCohort uid).cfq = s.cfq := rfl
@[simp] theorem State.dropCohort_df (s : State) (uid : Nat) : (s.dropCohort uid).df = s.df := rfl
@[simp] theorem State.dropCohort_pq (s : State) (uid : Nat) : (s.dropCohort uid).pq = s.pq := rfl
@[simp] theorem State.dropCohort_opens (s : State) (uid : Nat) : (s.dropCohort uid).opens = s.opens := rfl
@[simp] theorem State.dropCohort_rsets (s : State) (uid : Nat) : (s.dropCohort uid).rsets = s.rsets := rfl
@[simp] theorem State.dropCohort_parts (s : State) (uid : Nat) : (s.dropCohort uid).parts = s.parts := rfl
@[simp] theorem State.dropCohort_cores (s : State) (uid : Nat) : (s.dropCohort uid).cores = s.cores := rfl
@[simp] theorem State.dropCohort_clusters (s : State) (uid : Nat) : (s.dropCohort uid).clusters = s.clusters := rfl
@[simp] theorem State.dropCohort_groups (s : State) (uid : Nat) : (s.dropCohort uid).groups = s.groups := rfl
@[simp] theorem State.dropCohort_errs (s : State) (uid : Nat) : (s.dropCohort uid).errs = s.errs := rfl
@[simp] theorem State.dropCohort_errSeq (s : State) (uid : Nat) : (s.dropCohort uid).errSeq = s.errSeq := rfl
@[simp] theorem State.dropCohort_cluOwner (s : State) (uid : Nat) : (s.dropCohort uid).cluOwner = s.cluOwner := rfl
@[simp] theorem State.dropCohort_wsbOwner (s : State) (uid : Nat) : (s.dropCohort uid).wsbOwner = s.wsbOwner := rfl
@[simp] theorem State.dropCohort_keyOwner (s : State) (uid : Nat) : (s.dropCohort uid).keyOwner = s.keyOwner := rfl
@[simp] theorem State.dropCohort_asidOwner (s : State) (uid : Nat) : (s.dropCohort uid).asidOwner = s.asidOwner := rfl
@[simp] theorem State.dropCohort_keySlots (s : State) (uid : Nat) : (s.dropCohort uid).keySlots = s.keySlots := rfl
@[simp] theorem State.dropCohort_memKey (s : State) (uid : Nat) : (s.dropCohort uid).memKey = s.memKey := rfl
@[simp] theorem State.dropCohort_agenda (s : State) (uid : Nat) : (s.dropCohort uid).agenda = s.agenda := rfl
@[simp] theorem State.dropCohort_choices (s : State) (uid : Nat) : (s.dropCohort uid).choices = s.choices := rfl
@[simp] theorem State.dropCohort_free (s : State) (uid : Nat) : (s.dropCohort uid).free = s.free := rfl
@[simp] theorem State.dropCohort_cur (s : State) (uid : Nat) : (s.dropCohort uid).cur = s.cur := rfl
@[simp] theorem State.dropCohort_waited (s : State) (uid : Nat) : (s.dropCohort uid).waited = s.waited := rfl
@[simp] theorem State.dropCohort_nextUid (s : State) (uid : Nat) : (s.dropCohort uid).nextUid = s.nextUid := rfl
@[simp] theorem State.dropCohort_linkOut (s : State) (uid : Nat) : (s.dropCohort uid).linkOut = s.linkOut := rfl
@[simp] theorem State.dropCohort_msiOut (s : State) (uid : Nat) : (s.dropCohort uid).msiOut = s.msiOut := rfl

/-! ### Lookups -/

theorem State.group?_gid {s : State} {gid : Nat} {g : Group} (h : s.group? gid = some g) : g.gid = gid := by
  have := List.find?_some h
  simpa using this

theorem State.cohort?_uid {s : State} {uid : Nat} {c : Cohort} (h : s.cohort? uid = some c) : c.uid = uid := by
  have := List.find?_some h
  simpa using this

theorem State.part?_id {s : State} {id : Nat} {p : Part} (h : s.part? id = some p) : p.id = id := by
  have := List.find?_some h
  simpa using this

theorem find?_replace {α : Type} (key : α → Nat) (l : List α) (y : α) (k : Nat) :
    (l.map (fun x => if key x = key y then y else x)).find? (fun x => key x == k) =
      if k = key y then (l.find? (fun x => key x == k)).map (fun _ => y) else l.find? (fun x => key x == k) := by
  induction l with
  | nil => simp
  | cons a rest ih =>
    simp only [List.map_cons, List.find?_cons]
    by_cases ha : key a = key y
    · by_cases hk : k = key y
      · simp [ha, hk]
      · have h1 : (key y == k) = false := by simpa using fun h => hk h.symm
        simp only [ha, if_true, h1] at ih ⊢
        rw [ih]
    · by_cases hk : key a = k
      · have : k ≠ key y := fun h => ha (hk.trans h)
        simp [hk, this]
      · have h2 : (key a == k) = false := by simpa using hk
        simp only [ha, if_false, h2]
        rw [ih]

theorem State.group?_setGroup (s : State) (g : Group) (h : Nat) :
    (s.setGroup g).group? h = if h = g.gid then (s.group? h).map (fun _ => g) else s.group? h :=
  find?_replace Group.gid s.groups g h

theorem State.cohort?_setCohort (s : State) (c : Cohort) (h : Nat) :
    (s.setCohort c).cohort? h = if h = c.uid then (s.cohort? h).map (fun _ => c) else s.cohort? h :=
  find?_replace Cohort.uid s.cohorts c h

theorem State.part?_setPart (s : State) (p : Part) (h : Nat) :
    (s.setPart p).part? h = if h = p.id then (s.part? h).map (fun _ => p) else s.part? h :=
  find?_replace Part.id s.parts p h

@[simp] theorem State.group?_setCohort (s : State) (c : Cohort) (h : Nat) : (s.setCohort c).group? h = s.group? h := rfl
@[simp] theorem State.group?_setPart (s : State) (p : Part) (h : Nat) : (s.setPart p).group? h = s.group? h := rfl
@[simp] theorem State.cohort?_setGroup (s : State) (g : Group) (h : Nat) : (s.setGroup g).cohort? h = s.cohort? h := rfl
@[simp] theorem State.part?_setGroup (s : State) (g : Group) (h : Nat) : (s.setGroup g).part? h = s.part? h := rfl
@[simp] theorem State.part?_setCohort (s : State) (c : Cohort) (h : Nat) : (s.setCohort c).part? h = s.part? h := rfl
@[simp] theorem State.cohort?_setPart (s : State) (p : Part) (h : Nat) : (s.setPart p).cohort? h = s.cohort? h := rfl

/-- A group that is there, changed: the change shows under its number and nowhere else. -/
theorem State.group?_onGroup {s : State} {gid : Nat} {g : Group} (f : Group → Group) (hs : s.group? gid = some g)
    (hf : (f g).gid = g.gid) (h : Nat) :
    (s.onGroup gid f).group? h = if h = gid then some (f g) else s.group? h := by
  have hg := State.group?_gid hs
  simp only [State.onGroup, hs, State.group?_setGroup, hf, hg]
  split
  · next e => rw [e, hs]; rfl
  · rfl

/-- The context of an issue names parts of the state. -/
theorem State.ctx?_group {s : State} {c : Ctx} (h : s.ctx? = some c) : s.group? c.g.gid = some c.g := by
  unfold State.ctx? at h
  split at h
  · split at h
    · cases h
    · next g hg =>
      split at h
      · cases h
      · split at h
        · cases h
        · split at h
          · cases h
          · cases h; rw [State.group?_gid hg]; exact hg
  · cases h

theorem State.ctx?_cohort {s : State} {c : Ctx} (h : s.ctx? = some c) : s.cohort? c.g.cohort = some c.co := by
  unfold State.ctx? at h
  split at h
  · split at h
    · cases h
    · split at h
      · cases h
      · next co hc =>
        split at h
        · cases h
        · split at h
          · cases h
          · cases h; exact hc
  · cases h

theorem State.ctx?_part {s : State} {c : Ctx} (h : s.ctx? = some c) : s.part? c.g.part = some c.p := by
  unfold State.ctx? at h
  split at h
  · split at h
    · cases h
    · split at h
      · cases h
      · split at h
        · cases h
        · next p hp =>
          split at h
          · cases h
          · cases h; exact hp
  · cases h

theorem State.ctx?_slices {s : State} {c : Ctx} (h : s.ctx? = some c) : ∃ sl, c.slices = c.g.members sl ∧ c.slices ≠ [] := by
  unfold State.ctx? at h
  split at h
  · split at h
    · cases h
    · split at h
      · cases h
      · split at h
        · cases h
        · split at h
          · cases h
          · next e => cases h; exact ⟨_, e.symm, by simp⟩
  · cases h

end Sys2Proof.Machine
end

