-- ==== Sys2Proof/Laws/Lanes.lean ====
section
/-!
SUPPORT. What the shared operations of an issued word can do: notes and signature checks, a path's advance, results
written to a destination, and the run of a prompt lane instruction.
-/

namespace Sys2Proof.Machine

/-! ### Notes -/

theorem OnlyGroup.refl (s : State) (gid : Nat) : OnlyGroup s s gid :=
  ⟨rfl, fun _ _ => rfl, fun _ => rfl, fun _ => rfl, fun _ => rfl⟩

theorem OnlyGroup.trans {s t u : State} {gid : Nat} (h1 : OnlyGroup s t gid) (h2 : OnlyGroup t u gid) :
    OnlyGroup s u gid := by
  obtain ⟨a1, b1, c1, d1, e1⟩ := h1
  obtain ⟨a2, b2, c2, d2, e2⟩ := h2
  refine ⟨?_, fun h hh => (b2 h hh).trans (b1 h hh), fun u => (c2 u).trans (c1 u), fun k => (d2 k).trans (d1 k),
    fun a => (e2 a).trans (e1 a)⟩
  rw [a1] at a2
  exact a2

theorem OnlyGroup.of_cohort {s : State} {gid : Nat} {c co : Cohort} (hc : s.cohort? c.uid = some co)
    (h : c.sansNotes = co.sansNotes) : OnlyGroup s (s.setCohort c) gid := by
  refine ⟨rfl, fun _ _ => rfl, fun u => ?_, fun _ => rfl, fun _ => rfl⟩
  rw [State.cohort?_setCohort]
  split
  · next e => subst e; simp [hc, h]
  · rfl

theorem OnlyGroup.of_part {s : State} {gid : Nat} {p q : Part} (hc : s.part? p.id = some q)
    (h : p.sansNotes = q.sansNotes) : OnlyGroup s (s.setPart p) gid := by
  refine ⟨rfl, fun _ _ => rfl, fun _ => rfl, fun u => ?_, fun _ => rfl⟩
  rw [State.part?_setPart]
  split
  · next e => subst e; simp [hc, h]
  · rfl

theorem OnlyGroup.of_group {s : State} {g : Group} {gid : Nat} (h : g.gid = gid) : OnlyGroup s (s.setGroup g) gid := by
  refine ⟨rfl, fun k hk => ?_, fun _ => rfl, fun _ => rfl, fun _ => rfl⟩
  rw [State.group?_setGroup, if_neg (by rw [h]; exact hk)]

theorem OnlyGroup.waited (s : State) (gid : Nat) (b : Bool) : OnlyGroup s { s with waited := b } gid :=
  ⟨rfl, fun _ _ => rfl, fun _ => rfl, fun _ => rfl, fun _ => rfl⟩

theorem State.noteTask_only (s : State) (part tid : Nat) (k : Chkiv) (gid : Nat) :
    OnlyGroup s (s.noteTask part tid k) gid := by
  unfold State.noteTask State.onPart
  split
  · next p hp =>
    refine OnlyGroup.of_part (q := p) ?_ ?_
    · rw [← State.part?_id hp] at hp
      exact hp
    · simp only [Part.sansNotes, Part.onTask, List.map_map, Part.mk.injEq, true_and, and_true]
      apply List.map_congr_left
      intro x _
      simp only [Function.comp]
      split <;> rfl
  · exact OnlyGroup.refl s gid

@[simp] theorem State.noteTask_groups (s : State) (part tid : Nat) (k : Chkiv) :
    (s.noteTask part tid k).groups = s.groups := by
  unfold State.noteTask State.onPart
  split <;> rfl

theorem State.noteExited_only (s : State) (uid part tid : Nat) (k : Chkiv) (gid : Nat) :
    OnlyGroup s (s.noteExited uid part tid k) gid := by
  unfold State.noteExited
  split
  · split
    · exact State.noteTask_only s part tid k gid
    · exact OnlyGroup.refl s gid
  · exact OnlyGroup.refl s gid

@[simp] theorem State.noteExited_groups (s : State) (uid part tid : Nat) (k : Chkiv) :
    (s.noteExited uid part tid k).groups = s.groups := by
  unfold State.noteExited
  split
  · split <;> simp
  · rfl

theorem State.noteCohort_only (s : State) (uid part tid : Nat) (k : Chkiv) (gid : Nat) :
    OnlyGroup s (s.noteCohort uid part tid k) gid := by
  unfold State.noteCohort
  split
  · next co hc =>
    split
    · exact State.noteExited_only s uid part tid k gid
    · refine OnlyGroup.of_cohort (co := co) ?_ rfl
      have := State.cohort?_uid hc
      rw [← this] at hc
      exact hc
  · exact State.noteExited_only s uid part tid k gid

@[simp] theorem State.noteCohort_groups (s : State) (uid part tid : Nat) (k : Chkiv) :
    (s.noteCohort uid part tid k).groups = s.groups := by
  unfold State.noteCohort
  split
  · split
    · simp
    · rfl
  · simp

/-- Noting CHKIV touches no group and nothing but CHKIV. -/
theorem State.noteGroup_only (s : State) (g : Group) (k : Chkiv) (gid : Nat) : OnlyGroup s (s.noteGroup g k) gid := by
  unfold State.noteGroup
  split
  · exact OnlyGroup.refl s gid
  · split
    · exact OnlyGroup.refl s gid
    · split
      · exact State.noteTask_only s _ _ k gid
      · exact State.noteCohort_only s _ _ _ k gid

@[simp] theorem State.noteGroup_groups (s : State) (g : Group) (k : Chkiv) : (s.noteGroup g k).groups = s.groups := by
  unfold State.noteGroup
  split
  · rfl
  · split
    · rfl
    · split <;> simp

@[simp] theorem State.noteGroup_group? (s : State) (g : Group) (k : Chkiv) (h : Nat) :
    (s.noteGroup g k).group? h = s.group? h := by simp [State.group?]

theorem State.notePois_only (s : State) (g : Group) (t : Option Tag) (gid : Nat) : OnlyGroup s (s.notePois g t) gid :=
  State.noteGroup_only s g _ gid

@[simp] theorem State.notePois_group? (s : State) (g : Group) (t : Option Tag) (h : Nat) :
    (s.notePois g t).group? h = s.group? h := State.noteGroup_group? s g _ h

/-- A kill condition touches no group and nothing but the cohort's `kill`. -/
theorem State.requestKill_only (s : State) (uid : Nat) (r : KillReason) (gid : Nat) :
    OnlyGroup s (s.requestKill uid r) gid := by
  unfold State.requestKill State.onCohort
  split
  · next co hc =>
    have hu := State.cohort?_uid hc
    refine OnlyGroup.of_cohort (co := co) ?_ ?_
    · dsimp only
      rw [← hu] at hc
      split <;> exact hc
    · dsimp only
      split <;> rfl
  · exact OnlyGroup.refl s gid

@[simp] theorem State.requestKill_groups (s : State) (uid : Nat) (r : KillReason) :
    (s.requestKill uid r).groups = s.groups := by
  unfold State.requestKill State.onCohort
  split <;> rfl

theorem State.checkSig_only (s : State) (c : Ctx) (opc words gid : Nat) : OnlyGroup s (s.checkSig c opc words) gid := by
  unfold State.checkSig
  split
  · exact State.requestKill_only s _ _ gid
  · exact OnlyGroup.refl s gid

@[simp] theorem State.checkSig_group? (s : State) (c : Ctx) (opc words h : Nat) :
    (s.checkSig c opc words).group? h = s.group? h := by
  unfold State.checkSig
  split
  · simp [State.group?]
  · rfl

/-! ### Slices -/

theorem Group.sliceAt_mapSlices (g : Group) (is : List Nat) (f : Nat → Slice → Slice) (i : Nat) :
    (g.mapSlices is f).sliceAt i = if i ∈ is ∧ i < g.slices.length then f i (g.sliceAt i) else g.sliceAt i := by
  simp only [Group.sliceAt, Group.mapSlices, List.getD_eq_getElem?_getD, List.getElem?_map, List.getElem?_zipIdx]
  by_cases hi : i < g.slices.length
  · simp [hi]
  · simp [hi]

/-- A slice of a path is there. -/
theorem Group.mem_members {g : Group} {p i : Nat} (h : i ∈ g.members p) : i < g.slices.length ∧ i < 32 := by
  simp only [Group.members, List.mem_filter, List.mem_range, Bool.and_eq_true] at h
  refine ⟨?_, h.1⟩
  by_contra hn
  have : g.sliceAt i = Slice.gone := by
    simp [Group.sliceAt, List.getD_eq_getElem?_getD, List.getElem?_eq_none (Nat.le_of_not_lt hn)]
  rw [this] at h
  exact absurd h.2.1 (by decide)

theorem State.ctx?_mem {s : State} {c : Ctx} (h : s.ctx? = some c) {i : Nat} (hi : i ∈ c.slices) :
    i < c.g.slices.length ∧ i < 32 := by
  obtain ⟨sl, e, _⟩ := State.ctx?_slices h
  rw [e] at hi
  exact Group.mem_members hi

/-- A change of every slice of the issuing path, slice by slice. -/
theorem Ctx.mapSlices_spec {s : State} {c : Ctx} (h : s.ctx? = some c) (g : Group) (hg : g.slices = c.g.slices)
    (f : Nat → Slice → Slice) :
    (∀ i ∈ c.slices, (g.mapSlices c.slices f).sliceAt i = f i (c.g.sliceAt i)) ∧
    ∀ i, i ∉ c.slices → (g.mapSlices c.slices f).sliceAt i = c.g.sliceAt i := by
  have hs : ∀ i, g.sliceAt i = c.g.sliceAt i := fun i => by simp [Group.sliceAt, hg]
  refine ⟨fun i hi => ?_, fun i hi => ?_⟩
  · rw [Group.sliceAt_mapSlices, if_pos ⟨hi, by rw [hg]; exact (State.ctx?_mem h hi).1⟩, hs]
  · rw [Group.sliceAt_mapSlices, if_neg (fun x => hi x.1), hs]

theorem Ctx.slices_nodup {s : State} {c : Ctx} (h : s.ctx? = some c) : c.slices.Nodup := by
  obtain ⟨sl, e, _⟩ := State.ctx?_slices h
  rw [e]
  exact List.Nodup.filter _ List.nodup_range

/-! ### Changes of the issuing group -/

theorem State.onGroup_spec {s : State} {gid : Nat} {g : Group} (f : Group → Group) (h : s.group? gid = some g)
    (hf : (f g).gid = g.gid) :
    (s.onGroup gid f).group? gid = some (f g) ∧ OnlyGroup s (s.onGroup gid f) gid := by
  have := State.group?_onGroup f h hf gid
  rw [if_pos rfl] at this
  refine ⟨this, ?_⟩
  unfold State.onGroup
  rw [h]
  exact OnlyGroup.of_group (hf.trans (State.group?_gid h))

theorem State.setGroup_spec {s : State} {gid : Nat} {g : Group} (g' : Group) (h : s.group? gid = some g)
    (hf : g'.gid = gid) : (s.setGroup g').group? gid = some g' ∧ OnlyGroup s (s.setGroup g') gid := by
  refine ⟨?_, OnlyGroup.of_group hf⟩
  rw [State.group?_setGroup, if_pos hf.symm, h]
  rfl

/-! ### The end of an issued word -/

/-- What `finish` answers: `s` with the path moved on, and at most a kill condition met. -/
theorem State.finish_spec {s0 s : State} {c : Ctx} {g : Group} (opc words : Nat) (h0 : s0.ctx? = some c)
    (hs : s.group? c.g.gid = some g) (hg : g.slices = c.g.slices) (h : OnlyGroup s0 s c.g.gid) :
    Answers (s.finish c opc words) (fun t => After s0 t c g opc words) := by
  refine ⟨_, rfl, rfl, ?_, ?_⟩
  · refine (h.trans ?_).trans (OnlyGroup.waited _ _ _)
    refine OnlyGroup.trans ?_ (State.checkSig_only _ c opc words c.g.gid)
    have hgid : g.gid = c.g.gid := State.group?_gid hs
    have := OnlyGroup.of_group (s := s) (g := g.advance c opc words) (gid := c.g.gid) hgid
    simpa [State.onGroup, hs] using this
  · have hh := State.group?_onGroup (fun g => g.advance c opc words) hs rfl c.g.gid
    rw [if_pos rfl] at hh
    refine ⟨g.advance c opc words, ?_, rfl, ?_⟩
    · show (State.checkSig _ c opc words).group? c.g.gid = _
      rw [State.checkSig_group?]
      exact hh
    · exact Ctx.mapSlices_spec h0 g hg _

/-- What `finishAt` answers: `s` with the path at a header, and at most a kill condition met. -/
theorem State.finishAt_spec {s0 s : State} {c : Ctx} {g : Group} (opc words : Nat) (target : Addr)
    (h0 : s0.ctx? = some c) (hs : s.group? c.g.gid = some g) (hg : g.slices = c.g.slices)
    (h : OnlyGroup s0 s c.g.gid) :
    Answers (s.finishAt c opc words target) (fun t => Goes s0 t c g opc target) := by
  refine ⟨_, rfl, rfl, ?_, ?_⟩
  · refine (h.trans ?_).trans (OnlyGroup.waited _ _ _)
    refine OnlyGroup.trans ?_ (State.checkSig_only _ c opc words c.g.gid)
    have hgid : g.gid = c.g.gid := State.group?_gid hs
    unfold State.onGroup
    rw [hs]
    exact OnlyGroup.of_group hgid
  · refine ⟨g.mapSlices c.slices (fun _ x => { x with pc := target, sig := c.folded opc, hdr := true, wait := .none }), ?_,
      rfl, ?_⟩
    · show (State.checkSig _ c opc words).group? c.g.gid = _
      rw [State.checkSig_group?]
      have hh := State.group?_onGroup (fun g => g.mapSlices c.slices (fun _ x =>
        { x with pc := target, sig := c.folded opc, hdr := true, wait := .none })) hs rfl c.g.gid
      rw [if_pos rfl] at hh
      exact hh
    · exact Ctx.mapSlices_spec h0 g hg _

/-- A word that passes its checks runs its meaning on its acting lanes. -/
theorem State.gate_passes (s : State) (c : Ctx) (n : Need) (k : List Nat → Result) (h : c.Passes n) :
    s.gate c n k = k (c.acting n.guard) := by
  obtain ⟨h1, h2, h3, h4, h5⟩ := h
  simp [State.gate, h1, h2, h3, h4, h5]

theorem State.issue_ctx {s : State} {c : Ctx} (k : Ctx → Result) (h : s.ctx? = some c) : s.issue k = k c := by
  simp [State.issue, h]

/-! ### Lanes -/

theorem mem_lanesOf {i l : Nat} {m : BitVec 4} : l ∈ lanesOf i m ↔ l / 4 = i ∧ bit m (l % 4) = true := by
  simp only [lanesOf, List.mem_map, List.mem_filter, List.mem_range]
  constructor
  · rintro ⟨j, ⟨hj, hb⟩, rfl⟩
    refine ⟨by omega, ?_⟩
    rwa [show (4 * i + j) % 4 = j by omega]
  · rintro ⟨hi, hb⟩
    exact ⟨l % 4, ⟨by omega, hb⟩, by omega⟩

theorem lanesOf_nodup (i : Nat) (m : BitVec 4) : (lanesOf i m).Nodup := by
  apply List.Nodup.map
  · intro a b h
    simp only at h
    omega
  · exact List.Nodup.filter _ List.nodup_range

theorem Group.activeLanes_nodup (g : Group) (is : List Nat) (h : is.Nodup) : (g.activeLanes is).Nodup := by
  induction is with
  | nil => simp [Group.activeLanes]
  | cons a rest ih =>
    simp only [List.nodup_cons] at h
    simp only [Group.activeLanes, List.flatMap_cons] at ih ⊢
    refine List.Nodup.append (lanesOf_nodup _ _) (ih h.2) ?_
    intro l hl hr
    simp only [List.mem_flatMap] at hr
    obtain ⟨j, hj, hl'⟩ := hr
    rw [mem_lanesOf] at hl hl'
    exact h.1 (by rw [← hl.1, hl'.1]; exact hj)

theorem Ctx.active_nodup {s : State} {c : Ctx} (h : s.ctx? = some c) : c.active.Nodup :=
  Group.activeLanes_nodup _ _ (Ctx.slices_nodup h)

theorem Ctx.active_lt {s : State} {c : Ctx} (h : s.ctx? = some c) {l : Nat} (hl : l ∈ c.active) : l < 128 := by
  simp only [Ctx.active, Group.activeLanes, List.mem_flatMap] at hl
  obtain ⟨i, hi, hl⟩ := hl
  have := (State.ctx?_mem h hi).2
  rw [mem_lanesOf] at hl
  omega

theorem Ctx.acting_nodup {s : State} {c : Ctx} (h : s.ctx? = some c) (gd : Guard) : (c.acting gd).Nodup :=
  List.Nodup.filter _ (Ctx.active_nodup h)

theorem Ctx.acting_lt {s : State} {c : Ctx} (h : s.ctx? = some c) (gd : Guard) {l : Nat} (hl : l ∈ c.acting gd) :
    l < 128 := Ctx.active_lt h (List.mem_of_mem_filter hl)

end Sys2Proof.Machine
end

