-- ==== Sys2Proof/Laws/Memory.lean ====
section
/-!
SUPPORT. Device and host memory: every operation that writes it keeps its canonical form.
-/

namespace Sys2Proof.Machine

/-- A fold that keeps a property of its state has it at the end. -/
theorem foldl_keeps {α β : Type} (P : β → Prop) (f : β → α → β) (hf : ∀ s x, P s → P (f s x)) :
    ∀ (l : List α) (s : β), P s → P (l.foldl f s)
  | [], _, h => h
  | x :: l, s, h => foldl_keeps P f hf l (f s x) (hf s x h)

theorem storeBytes_wf (m : Memory) (bs : List WByte) (h : m.wf = true) : (storeBytes m bs).wf = true :=
  foldl_keeps (fun m : Memory => m.wf = true) _ (fun m b hm => Memory.wf_write m b.addr b.val hm) bs m h

@[simp] theorem State.onPart_mem (s : State) (id : Nat) (f : Part → Part) : (s.onPart id f).mem = s.mem := by
  unfold State.onPart
  split <;> rfl

@[simp] theorem State.askBucket_mem (s : State) (part : Nat) (id : BucketId) (t : Transfer) (n : Nat) :
    (s.askBucket part id t n).mem = s.mem := s.onPart_mem _ _

theorem State.claim_wf (s : State) (part : Nat) (secs : List Nat) (h : s.mem.wf = true) :
    (s.claim part secs).mem.wf = true := by
  unfold State.claim
  split
  · exact h
  · refine foldl_keeps (fun s : State => s.mem.wf = true) _ (fun s sec hs => ?_) secs s h
    split
    · exact hs
    · split
      · exact hs
      · exact storeBytes_wf _ _ hs

theorem State.writeHome_wf (s : State) (part : Nat) (bs : List WByte) (h : s.mem.wf = true) :
    (s.writeHome part bs).mem.wf = true :=
  storeBytes_wf _ _ (s.claim_wf part _ h)

theorem State.refreshPend_wf (s : State) (p : Part) (pgid : BitVec 16) (h : s.mem.wf = true) :
    (s.refreshPend p pgid).mem.wf = true := by
  unfold State.refreshPend
  split
  · exact h
  · exact s.writeHome_wf p.id _ h

theorem State.formDeltas_wf (s : State) (p : Part) (range : ProtRange) (sec : Nat) (old new : List Byte) (pois : Option Tag)
    (src : DeltaSource) (h : s.mem.wf = true) : (s.formDeltas p range sec old new pois src).mem.wf = true := by
  unfold State.formDeltas
  split
  · exact h
  · split
    · exact h
    · dsimp only
      split
      · exact h
      · refine State.refreshPend_wf _ p range.pgid ?_
        refine foldl_keeps (fun s : State => s.mem.wf = true) _ (fun s i hs => ?_) _ s h
        split
        · simpa [State.fresh] using hs
        · exact hs

theorem State.parityFor_wf (s0 s1 : State) (part : Nat) (bs : List WByte) (src : DeltaSource) (h : s1.mem.wf = true) :
    (s0.parityFor s1 part bs src).mem.wf = true := by
  unfold State.parityFor
  split
  · exact h
  · split
    · exact h
    · refine foldl_keeps (fun s : State => s.mem.wf = true) _ (fun s sec hs => ?_) _ s1 h
      split
      · exact hs
      · exact State.formDeltas_wf _ _ _ _ _ _ _ _ hs

/-- A write at DM, with the deltas that it forms, keeps memory in its canonical form. -/
theorem State.writeDM_wf (s : State) (part : Nat) (bs : List WByte) (src : DeltaSource) (h : s.mem.wf = true) :
    (s.writeDM part bs src).mem.wf = true :=
  State.parityFor_wf s _ part bs src (s.writeHome_wf part bs h)

/-- Zeroing a run keeps memory in its canonical form. -/
theorem State.zeroRun_wf (s : State) (pa len : Nat) (h : s.mem.wf = true) : (s.zeroRun pa len).mem.wf = true :=
  SMap.wf_filter _ _ _ h

end Sys2Proof.Machine
end

