-- ==== Sys2Proof/Laws/Shared.lean ====
section
/-!
SUPPORT. What the shared operations of memory, fences, the scheduler and the engines can answer.
-/

namespace Sys2Proof.Machine

/-- The task that placed a cohort stands under its TID and has placed it. -/
theorem State.taskOf_eq_some {s : State} {part tid uid : Nat} {t : Task} :
    s.taskOf part tid uid = some t ↔ s.task? part tid = some t ∧ t.placed uid = true := by
  simp [State.taskOf, Option.filter_eq_some_iff]

/-- The packets that a copy of a line shows are those of its die in DF that write into the line. -/
theorem mem_shownIn {s : State} {d line id : Nat} :
    id ∈ s.shownIn d line ↔ ∃ p ∈ s.df, dieOf p.core = d ∧ bytesIn line p.bytes ≠ [] ∧ p.id = id := by
  simp [State.shownIn, and_assoc]

/-- What stays over an atomic's write comes of later packets that are the view's own or that the copy held. -/
theorem newerIn_packets {c : Copy} {later : List Packet} {own : Packet → Bool} {bytes : List WByte} {q : Packet}
    (h : q ∈ c.newerIn later own bytes) : ∃ p ∈ later, (own p = true ∨ p.id ∈ c.held) ∧ q.id = p.id ∧ ∀ b ∈ q.bytes, b ∈ p.bytes := by
  simp only [Copy.newerIn, List.mem_map, List.mem_filter] at h
  obtain ⟨p, ⟨hp, ho⟩, rfl⟩ := h
  exact ⟨p, hp, by simpa using ho, rfl, fun b hb => (List.mem_filter.1 hb).1⟩

/-! ### Pieces (R52) -/

theorem piecesOf_length_le {va : Nat} {bs : List PByte} {x : Nat × List PByte} (h : x ∈ piecesOf va bs) : x.2.length ≤ 4096 := by
  simp only [piecesOf, List.mem_map] at h
  obtain ⟨i, -, rfl⟩ := h
  simp [List.length_take]

/-- Consecutive slices of k elements join to a prefix. -/
theorem flatten_slices {α : Type} (k n : Nat) (l : List α) :
    ((List.range n).map (fun i => (l.drop (k * i)).take k)).flatten = l.take (k * n) := by
  induction n with
  | zero => simp
  | succ n ih => simp [List.range_succ, ih, Nat.mul_succ, List.take_add]

/-- The pieces of a run of bytes are its bytes in order. -/
theorem piecesOf_flatten (va : Nat) (bs : List PByte) : ((piecesOf va bs).map (·.2)).flatten = bs := by
  rw [piecesOf, List.map_map]
  exact (flatten_slices 4096 _ bs).trans (List.take_of_length_le (by omega))

/-! ### Beats (R91) -/

theorem beats_one {c : Ctx} {lanes : List Nat} : (c.beats true lanes).length ≤ 1 := by
  simpa [Ctx.beats] using List.length_filter_le _ [c.byIter lanes]

/-! ### Loads and fences -/

/-- A load whose bytes all come from before the copies brings no copy (R331). -/
theorem State.loadGlobal_forwarded {s : State} {g : Group} {scope : Scope} {pa n : Nat}
    (h : ∀ i < n, s.beforeCopy g scope (pa + i) = true) : (s.loadGlobal g scope pa n).2 = s := by
  have : (List.range n).all (fun i => s.beforeCopy g scope (pa + i)) = true := by simpa using h
  simp [State.loadGlobal, this]

/-- A survivable fence is ready only when no committed entry ahead of its marker is left (R236). -/
theorem State.fenceReady_mark {s : State} {g : Group} {loads : List Nat} {m : Nat} (h : s.fenceReady g loads (some m) = true) :
    ∀ e ∈ g.sq, e.id < m → e.committed = false := by
  simp only [State.fenceReady, Bool.and_eq_true, Bool.not_eq_true', List.any_eq_false, decide_eq_true_eq] at h
  exact fun e he hm => by simpa using fun hc => h.2.1 e he ⟨hc, hm⟩

end Sys2Proof.Machine
end

