-- ==== Sys2Proof/Laws/Writes.lean ====
section
/-!
SUPPORT. Results written to a destination (R163, R164), register by register, and what a prompt lane instruction
answers.
-/

namespace Sys2Proof.Machine

/-! ### Lane masks -/

/-- Bit l of a lane mask. -/
theorem bit_laneMask (ls : List Nat) (h : ls.Nodup) : ∀ l, l < 128 → bit (laneMask ls) l = decide (l ∈ ls) := by
  induction ls with
  | nil => intro l hl; simp [laneMask, bit]
  | cons a rest ih =>
    intro l hl
    simp only [List.nodup_cons] at h
    have ih := ih h.2
    have hz : BitVec.ofNat 128 (2 ^ a) &&& laneMask rest = 0#128 := by
      apply BitVec.eq_of_getLsbD_eq
      intro i hi
      have h1 := ih i hi
      simp only [bit] at h1
      simp only [BitVec.getLsbD_and, h1, BitVec.getLsbD_ofNat, hi, Nat.testBit_two_pow, decide_true, Bool.true_and]
      by_cases hai : a = i
      · subst hai; simp [h.1]
      · simp [hai]
    have e : laneMask (a :: rest) = BitVec.ofNat 128 (2 ^ a) ||| laneMask rest := by
      rw [← BitVec.add_eq_or_of_and_eq_zero _ _ hz]
      simp [laneMask, BitVec.ofNat_add]
    have h1 := ih l hl
    simp only [bit] at h1 ⊢
    rw [e, BitVec.getLsbD_or, h1]
    simp only [BitVec.getLsbD_ofNat, hl, Nat.testBit_two_pow, decide_true, Bool.true_and, List.mem_cons]
    by_cases hal : a = l
    · simp [hal]
    · have : l ≠ a := fun x => hal x.symm
      simp [hal, this]

/-! ### Register writes -/

theorem Group.vWord_setV (g : Group) (n a r l : Nat) (w : PWord) (ha : a < 128) (hl : l < 128) :
    (g.setV n a w).vWord r l = if r = n ∧ l = a then w else g.vWord r l := by
  simp only [Group.vWord, Group.setV, SMap.get_put]
  by_cases h : r = n ∧ l = a
  · obtain ⟨rfl, rfl⟩ := h; simp
  · rw [if_neg h, if_neg (by omega)]

theorem Group.sVal_setS (g : Group) (h h' : Bool) (n m : Nat) (v : SVal) :
    (g.setS h n v).sVal h' m = if sIndex h' m = sIndex h n then v else g.sVal h' m := by
  simp only [Group.sVal, Group.setS, SMap.get_put]

/-- One lane's result in a v destination. -/
def putLane (n : Nat) (wide : Bool) (g : Group) (l : Nat) (x : Word64) (t : Option Tag) : Group :=
  let g := g.setV n l ⟨x.setWidth 32, t⟩
  if wide then g.setV (n + 1) l ⟨(x >>> 32).setWidth 32, t⟩ else g

theorem vWord_putLane (n : Nat) (wide : Bool) (g : Group) (a : Nat) (x : Word64) (t : Option Tag) (r l : Nat)
    (ha : a < 128) (hl : l < 128) : (putLane n wide g a x t).vWord r l =
      if l = a then (if r = n then ⟨x.setWidth 32, t⟩ else if wide && r == n + 1 then ⟨(x >>> 32).setWidth 32, t⟩
        else g.vWord r l) else g.vWord r l := by
  unfold putLane
  cases wide
  · simp only [Bool.false_eq_true, if_false, Group.vWord_setV _ _ _ _ _ _ ha hl, Bool.false_and]
    by_cases h1 : l = a <;> by_cases h2 : r = n <;> simp [h1, h2]
  · simp only [if_true, Group.vWord_setV _ _ _ _ _ _ ha hl, Bool.true_and]
    by_cases h1 : l = a <;> by_cases h2 : r = n <;> by_cases h3 : r = n + 1 <;> simp_all

theorem putLane_values (n : Nat) (wide : Bool) (g : Group) (l : Nat) (x : Word64) (t : Option Tag) :
    putLane n wide g l x t = { g with regs := { g.regs with v := (putLane n wide g l x t).regs.v } } := by
  unfold putLane; cases wide <;> rfl

theorem foldl_putLane_vWord (n : Nat) (wide : Bool) (rs : List LaneResult) (g : Group) (r l : Nat) (hl : l < 128)
    (hd : (rs.map (·.1)).Nodup) (hr : ∀ x ∈ rs, x.1 < 128) :
    (rs.foldl (fun g x => putLane n wide g x.1 x.2.1 x.2.2) g).vWord r l =
      match rs.find? (fun x => x.1 == l) with
      | some (_, x, t) => if r = n then ⟨x.setWidth 32, t⟩
          else if wide && r == n + 1 then ⟨(x >>> 32).setWidth 32, t⟩ else g.vWord r l
      | none => g.vWord r l := by
  induction rs generalizing g with
  | nil => rfl
  | cons e rest ih =>
    simp only [List.map_cons, List.nodup_cons] at hd
    have he := hr e (by simp)
    rw [List.foldl_cons, ih _ hd.2 (fun x hx => hr x (by simp [hx]))]
    rw [List.find?_cons]
    by_cases hel : e.1 = l
    · have hnone : rest.find? (fun x => x.1 == l) = none := by
        rw [List.find?_eq_none]
        intro x hx hxl
        exact hd.1 (List.mem_map.2 ⟨x, hx, by simpa [hel] using hxl⟩)
      rw [hnone]
      simp only [hel, beq_self_eq_true]
      rw [vWord_putLane _ _ _ _ _ _ _ _ (hel ▸ hl) hl]
      simp
    · have h2 : (e.1 == l) = false := by simpa using hel
      have h3 : ¬ l = e.1 := fun x => hel x.symm
      simp only [h2, vWord_putLane _ _ _ _ _ _ _ _ he hl, h3, if_false]

theorem foldl_putLane_values (n : Nat) (wide : Bool) (rs : List LaneResult) (g : Group) :
    rs.foldl (fun g x => putLane n wide g x.1 x.2.1 x.2.2) g =
      { g with regs := { g.regs with v := (rs.foldl (fun g x => putLane n wide g x.1 x.2.1 x.2.2) g).regs.v } } := by
  induction rs generalizing g with
  | nil => rfl
  | cons e rest ih =>
    simp only [List.foldl_cons]
    rw [ih, putLane_values]

theorem Group.writeDst_v (g : Group) (h : Bool) (n : BitVec 7) (wide signed : Bool) (rs : List LaneResult) :
    g.writeDst h (.v n) wide signed rs = rs.foldl (fun g x => putLane n.toNat wide g x.1 x.2.1 x.2.2) g := rfl

/-! ### Predicate writes (R139, R159) -/

theorem Group.setP_values (g : Group) (n : Nat) (r : PReg) :
    g.setP n r = { g with regs := { g.regs with p := (g.setP n r).regs.p } } := by
  unfold Group.setP; split <;> rfl

theorem Group.writeP_values (g : Group) (n : Nat) (ws : List (Nat × Bool × Option Tag)) :
    g.writeP n ws = { g with regs := { g.regs with p := (g.writeP n ws).regs.p } } := by
  unfold Group.writeP
  split
  · rfl
  · exact Group.setP_values _ _ _

theorem Group.pReg_setP (g : Group) (n m : Nat) (r : PReg) (hn : n ≠ 7) :
    (g.setP n r).pReg m = if m = n then r else g.pReg m := by
  simp only [Group.setP, hn, if_false, Group.pReg, SMap.get_put]

theorem nodup_filter_map {α : Type} (ws : List (Nat × α)) (q : Nat × α → Bool) (h : (ws.map (·.1)).Nodup) :
    ((ws.filter q).map (·.1)).Nodup := by
  exact List.Nodup.sublist (List.Sublist.map _ List.filter_sublist) h

theorem mem_filter_find {α : Type} (ws : List (Nat × α)) (q : Nat × α → Bool) (h : (ws.map (·.1)).Nodup) (l : Nat) :
    decide (l ∈ (ws.filter q).map (·.1)) = (match ws.find? (fun x => x.1 == l) with | some x => q x | none => false) := by
  induction ws with
  | nil => rfl
  | cons e rest ih =>
    simp only [List.map_cons, List.nodup_cons] at h
    rw [List.find?_cons]
    by_cases he : e.1 = l
    · have hb : (e.1 == l) = true := by simpa using he
      simp only [hb]
      by_cases hq : q e = true
      · simp [hq, he]
      · have : l ∉ (rest.filter q).map (·.1) := fun hm => by
          obtain ⟨x, hx, hxl⟩ := List.mem_map.1 hm
          exact h.1 (List.mem_map.2 ⟨x, List.mem_of_mem_filter hx, by simp [hxl, he]⟩)
        rw [List.filter_cons, if_neg hq]
        simp only [this, decide_false]
        simpa using hq
    · have hb : (e.1 == l) = false := by simpa using he
      simp only [hb]
      rw [← ih h.2]
      by_cases hq : q e = true
      · have : ¬ l = e.1 := fun x => he x.symm
        simp [hq, this]
      · rw [List.filter_cons, if_neg hq]

/-- Bits and poison bits of the p registers after lanes of one were written. -/
theorem Group.writeP_spec (g : Group) (d : Nat) (ws : List (Nat × Bool × Option Tag)) (hd : (ws.map (·.1)).Nodup)
    (n l : Nat) (hl : l < 128) :
    ((g.writeP d ws).pBit n l, ((g.writeP d ws).pPois n l).isSome) =
      match ws.find? (fun x => x.1 == l) with
      | some (_, b, t) => if n = d ∧ n ≠ 7 then (b, t.isSome) else (g.pBit n l, (g.pPois n l).isSome)
      | none => (g.pBit n l, (g.pPois n l).isSome) := by
  by_cases h7 : d = 7
  · have : g.writeP d ws = g := by simp [Group.writeP, h7]
    rw [this]
    split
    · rw [if_neg (by omega)]
    · rfl
  · by_cases hn : n = d
    · subst hn
      have hm := bit_laneMask (ws.map (·.1)) hd l hl
      have hv := bit_laneMask ((ws.filter (·.2.1)).map (·.1)) (nodup_filter_map ws _ hd) l hl
      have hp := bit_laneMask ((ws.filter (·.2.2.isSome)).map (·.1)) (nodup_filter_map ws _ hd) l hl
      rw [mem_filter_find ws _ hd] at hv hp
      have hm' := mem_filter_find ws (fun _ => true) hd l
      simp only [List.filter_true] at hm'
      rw [hm'] at hm
      have hval : bit ((g.writeP n ws).pReg n).val l = ((bit (g.pReg n).val l && !bit (laneMask (ws.map (·.1))) l) ||
          bit (laneMask ((ws.filter (·.2.1)).map (·.1))) l) := by
        unfold Group.writeP
        rw [if_neg h7, Group.pReg_setP _ _ _ _ h7, if_pos rfl]
        simp [bit, hl]
      have hpois : bit ((g.writeP n ws).pReg n).pois l = ((bit (g.pReg n).pois l && !bit (laneMask (ws.map (·.1))) l) ||
          bit (laneMask ((ws.filter (·.2.2.isSome)).map (·.1))) l) := by
        unfold Group.writeP
        rw [if_neg h7, Group.pReg_setP _ _ _ _ h7, if_pos rfl]
        simp [bit, hl]
      have hb7 : (n == 7) = false := by simpa using h7
      simp only [Group.pBit, Group.pPois, hval, hpois, hm, hv, hp, hb7, h7, if_false, Bool.false_or]
      cases ws.find? (fun x => x.1 == l) with
      | none => cases bit (g.pReg n).pois l <;> simp
      | some x => obtain ⟨a, b, t⟩ := x; cases t <;> simp [h7]
    · have hr : (g.writeP d ws).pReg n = g.pReg n := by
        unfold Group.writeP
        rw [if_neg h7]
        simp [Group.pReg_setP _ _ _ _ h7, hn]
      simp only [Group.pBit, Group.pPois, hr]
      cases ws.find? (fun x => x.1 == l) with
      | none => rfl
      | some x => simp [hn]

/-! ### The destination (R163, R164) -/

/-- The results of distinct lanes written to a destination: exactly they are written, and nothing but values. -/
theorem Group.writeDst_spec (g : Group) (h : Bool) (dst : Spec) (wide signed : Bool) (rs : List LaneResult)
    (hd : (rs.map (·.1)).Nodup) (hr : ∀ x ∈ rs, x.1 < 128) :
    Written g (g.writeDst h dst wide signed rs) h dst wide signed rs ∧
    (g.writeDst h dst wide signed rs).slices = g.slices ∧
    g.writeDst h dst wide signed rs = { g with regs := { g.regs with
      v := (g.writeDst h dst wide signed rs).regs.v, s := (g.writeDst h dst wide signed rs).regs.s
      p := (g.writeDst h dst wide signed rs).regs.p } } := by
  have hsame : ∀ d : Spec, g.writeDst h d wide signed rs = g →
      (∀ n, d ≠ .v n) → (∀ n, d ≠ .s n) → (∀ n, d ≠ .p n) →
      Written g (g.writeDst h d wide signed rs) h d wide signed rs := by
    intro d e hv hs hp
    rw [e]
    refine ⟨fun r l _ => ?_, fun h' n _ => ?_, fun n l _ => ?_⟩
    · cases d <;> first | rfl | exact absurd rfl (hv _)
    · cases d <;> first | rfl | exact absurd rfl (hs _)
    · cases d <;> first | rfl | exact absurd rfl (hp _)
  cases dst with
  | v n =>
    rw [Group.writeDst_v]
    have e := foldl_putLane_values n.toNat wide rs g
    refine ⟨⟨fun r l hl => ?_, fun h' m _ => ?_, fun m l _ => ?_⟩, ?_, ?_⟩
    · rw [foldl_putLane_vWord n.toNat wide rs g r l hl hd hr]
      unfold vAfter
      cases rs.find? (fun x => x.1 == l) with
      | none => rfl
      | some x => obtain ⟨a, x, t⟩ := x; rfl
    · rw [e]; cases rs <;> rfl
    · rw [e]; rfl
    · rw [e]
    · rw [e]
  | s n =>
    cases rs with
    | nil => exact ⟨⟨fun _ _ _ => rfl, fun _ _ _ => rfl, fun _ _ _ => rfl⟩, rfl, rfl⟩
    | cons x rest =>
      obtain ⟨a, x, t⟩ := x
      refine ⟨⟨fun r l _ => ?_, fun h' m _ => ?_, fun m l _ => ?_⟩, rfl, rfl⟩
      · unfold vAfter; rfl
      · simp only [Group.writeDst, Group.sVal_setS, sAfter]
      · unfold pAfter; rfl
  | p n =>
    have e := Group.writeP_values g n.toNat (rs.map (fun x => (x.1, x.2.1 != 0, x.2.2)))
    have hw : g.writeDst h (.p n) wide signed rs = g.writeP n.toNat (rs.map (fun x => (x.1, x.2.1 != 0, x.2.2))) := rfl
    rw [hw]
    have hd' : ((rs.map (fun x => (x.1, x.2.1 != 0, x.2.2))).map (·.1)).Nodup := by
      rw [List.map_map]; exact hd
    refine ⟨⟨fun r l _ => ?_, fun h' m _ => ?_, fun m l hl => ?_⟩, ?_, ?_⟩
    · rw [e]; unfold vAfter; rfl
    · rw [e]; cases rs <;> rfl
    · rw [Group.writeP_spec g n.toNat _ hd' m l hl]
      unfold pAfter
      rw [List.find?_map]
      have : ((fun x : Nat × Bool × Option Tag => x.1 == l) ∘ fun x : LaneResult => (x.1, x.2.1 != 0, x.2.2)) =
          fun x : LaneResult => x.1 == l := rfl
      rw [this]
      cases rs.find? (fun x => x.1 == l) with
      | none => rfl
      | some x => rfl
    · rw [e]
    · rw [e]
  | b n => exact ⟨hsame (.b n) rfl (by simp) (by simp) (by simp), rfl, rfl⟩
  | zero => exact ⟨hsame .zero rfl (by simp) (by simp) (by simp), rfl, rfl⟩
  | lane => exact ⟨hsame .lane rfl (by simp) (by simp) (by simp), rfl, rfl⟩
  | slice => exact ⟨hsame .slice rfl (by simp) (by simp) (by simp), rfl, rfl⟩
  | grp => exact ⟨hsame .grp rfl (by simp) (by simp) (by simp), rfl, rfl⟩
  | cx => exact ⟨hsame .cx rfl (by simp) (by simp) (by simp), rfl, rfl⟩
  | cy => exact ⟨hsame .cy rfl (by simp) (by simp) (by simp), rfl, rfl⟩
  | cz => exact ⟨hsame .cz rfl (by simp) (by simp) (by simp), rfl, rfl⟩
  | stage => exact ⟨hsame .stage rfl (by simp) (by simp) (by simp), rfl, rfl⟩
  | iter => exact ⟨hsame .iter rfl (by simp) (by simp) (by simp), rfl, rfl⟩
  | wclk => exact ⟨hsame .wclk rfl (by simp) (by simp) (by simp), rfl, rfl⟩
  | reserved c => exact ⟨hsame (.reserved c) rfl (by simp) (by simp) (by simp), rfl, rfl⟩

/-! ### Prompt lane instructions -/

theorem State.writeLanes_spec {s : State} {c : Ctx} (h : s.ctx? = some c) (o : LaneOp) (rs : List LaneResult)
    (hd : (rs.map (·.1)).Nodup) (hr : ∀ x ∈ rs, x.1 < 128) :
    Answers (s.writeLanes c o rs) (fun t => LaneAfter s t c o rs) := by
  have hg := State.ctx?_group h
  obtain ⟨hw, hs, hv⟩ := Group.writeDst_spec c.g c.handler o.dst o.wide o.signed rs hd hr
  have hgid : (c.g.writeDst c.handler o.dst o.wide o.signed rs).gid = c.g.gid := by rw [hv]
  have hlook := State.group?_onGroup (fun g => g.writeDst c.handler o.dst o.wide o.signed rs) hg hgid c.g.gid
  rw [if_pos rfl] at hlook
  have honly : OnlyGroup s (s.onGroup c.g.gid (fun g => g.writeDst c.handler o.dst o.wide o.signed rs)) c.g.gid := by
    unfold State.onGroup
    rw [hg]
    exact OnlyGroup.of_group hgid
  obtain ⟨t, ht, h1, h2, g', h3, h4, h5⟩ := State.finish_spec (s0 := s)
    (s := (s.onGroup c.g.gid (fun g => g.writeDst c.handler o.dst o.wide o.signed rs)).notePois c.g (poisonOf rs))
    (g := c.g.writeDst c.handler o.dst o.wide o.signed rs) o.opc o.words h
    (by rw [State.notePois_group?]; exact hlook) hs (honly.trans (State.notePois_only _ _ _ _))
  refine ⟨t, ht, h1, h2, g', h3, ?_, h5, ?_⟩
  · unfold ValuesOnly
    rw [h4, hv]
  · obtain ⟨w1, w2, w3⟩ := hw
    rw [h4]
    exact ⟨w1, w2, w3⟩

/-- A prompt lane instruction completes wherever it passes its checks. -/
theorem State.lane_completes {i : Instr} {o : LaneOp} {f : Ctx → LaneFn} (he : ∀ s, exec i s = s.lane o f) :
    LaneCompletes i o f := by
  intro s c hc hp
  rw [he]
  unfold State.lane
  rw [State.issue_ctx _ hc, State.gate_passes _ _ _ _ hp]
  apply State.writeLanes_spec hc
  · rw [List.map_map]
    have : (fun x => x.1) ∘ (o.result c s (f c)) = id := rfl
    rw [this, List.map_id]
    exact Ctx.acting_nodup hc _
  · intro x hx
    obtain ⟨l, hl, rfl⟩ := List.mem_map.1 hx
    exact Ctx.acting_lt hc _ hl

/-! ### Fills (R143) -/

theorem OnlyGroup.nextUid (s : State) (gid n : Nat) : OnlyGroup s { s with nextUid := n } gid :=
  ⟨rfl, fun _ _ => rfl, fun _ => rfl, fun _ => rfl, fun _ => rfl⟩

/-- A fill that begins: its group holds it and its registers are empty. -/
theorem State.beginFill_spec {s : State} {gid : Nat} {g : Group} (vs ss : List Nat) (ws : List RegWrite) (wait : FillWait)
    (load : Bool) (h : s.group? gid = some g) :
    (s.beginFill gid vs ss ws wait load).group? gid = some (g.filling ⟨s.nextUid, vs, ss, ws, wait, load⟩) ∧
    OnlyGroup s (s.beginFill gid vs ss ws wait load) gid := by
  have hg := State.group?_gid h
  have h' : ({ s with nextUid := s.nextUid + 1 } : State).group? gid = some g := h
  constructor
  · have := State.group?_onGroup (fun g => g.filling ⟨s.nextUid, vs, ss, ws, wait, load⟩) h' rfl gid
    rw [if_pos rfl] at this
    exact this
  · refine (OnlyGroup.nextUid s gid (s.nextUid + 1)).trans ?_
    show OnlyGroup _ (State.onGroup { s with nextUid := s.nextUid + 1 } gid
      (fun g => g.filling ⟨s.nextUid, vs, ss, ws, wait, load⟩)) gid
    unfold State.onGroup
    rw [h']
    exact OnlyGroup.of_group hg

end Sys2Proof.Machine
end

