-- ==== Sys2Proof/Tests/Slice0.lean ====
section
/-!
SUPPORT. Tests of this model: decoding of words that the spec writes out, results that the spec's own tables or hand
calculation give, terms that WellFormed refuses, and for each statement with hypotheses a witness that meets them.
-/

/-- Words in device memory, as partition 0 writes them. -/
def Sys2Proof.Machine.State.stored (s : Sys2Proof.Machine.State) (a : Nat) (ws : List Sys2Proof.Word64) : Sys2Proof.Machine.State :=
  s.writeHome 0 (Sys2Proof.Machine.deviceBytes a ws)

namespace Sys2Proof.Tests
open Sys2Proof Sys2Proof.Machine

set_option Elab.async false

/-! ### Helpers -/

/-- A register field with its wait bit 0, and an extension literal (R59, R61). -/
def r (x : Spec) : Src := .reg x false
def x (l : Word64) : Src := .ext l false

/-- A word of each format with every modifier 0, unguarded. -/
def word3 (d : Spec) (a b c : Src) : F3 := ⟨Guard.always, d, a, b, c, .i8, .rne, false, false, false, false, false, 0⟩
def wordI (d : Spec) (a : Src) (imm : BitVec 18) : FI := ⟨Guard.always, d, a, imm, .i8, .rne, false, false, false, false, false, 0⟩
def wordM (d : Spec) (a b c : Src) : FM := ⟨Guard.always, d, a, b, c, .w8, .core, .rlx, false, 0⟩
def wordX (d : Spec) (a b c : Src) : FX := ⟨Guard.always, d, a, b, c, false, false, false, 0, false, 0⟩

/-- The device with one group that has one live slice of four lanes, at a word of its block. -/
def tiny : State :=
  (({ State.reset.placeWord 64 0 with cur := .path 0 0 } : State)).onGroup 0 (fun g =>
    { g with slices := (List.range 32).map (fun i => { g.sliceAt i with xmask := if i = 0 then 0 else 0xF }) })

/-- The same with words in lane 0 of v registers, and with s registers. -/
def withV (s : State) (vs : List (Nat × Word32)) : State :=
  s.onGroup 0 (fun g => vs.foldl (fun g y => g.setV y.1 0 ⟨y.2, none⟩) g)
def withS (s : State) (vs : List (Nat × Word64)) : State :=
  s.onGroup 0 (fun g => vs.foldl (fun g y => g.setS false y.1 ⟨y.2, none, none⟩) g)

def next? (i : Instr) (s : State) : Option State := match exec i s with | .next t => some t | _ => none

/-- Group 0 after an instruction, and word 0 of its v8, or its s8. -/
def groupAfter (i : Instr) (s : State) : Option Group := (next? i s).bind (·.group? 0)
def v8 (i : Instr) (vs : List (Nat × Word32)) : Option Word32 := (groupAfter i (withV tiny vs)).map (fun g => (g.vWord 8 0).val)
def s8 (i : Instr) (vs : List (Nat × Word64)) : Option Word64 := (groupAfter i (withS tiny vs)).map (fun g => (g.sVal false 8).val)

/-- `d, v1, v2` and `d, v1, v2, v3` of type t. -/
def vv (t : Ty) : F3 := { word3 (.v 8) (r (.v 1)) (r (.v 2)) (r .zero) with ty := t }
def vvv (t : Ty) : F3 := { word3 (.v 8) (r (.v 1)) (r (.v 2)) (r (.v 3)) with ty := t }
def v1 (t : Ty) : F3 := { word3 (.v 8) (r (.v 1)) (r .zero) (r .zero) with ty := t }

/-- The checks of `Ctx.Passes` as a Bool. -/
def okNeed (c : Ctx) (n : Need) : Bool :=
  n.legal && !(n.forbidden && c.handler) && n.inRange c.g && decide (n.ready c.g c.handler = .ok) && !c.guardPoisoned n.guard

theorem okNeed_iff (c : Ctx) (n : Need) : okNeed c n = true ↔ c.Passes n := by
  cases hf : n.forbidden <;> cases hh : c.handler <;> simp [okNeed, Ctx.Passes, hf, hh, and_assoc]

/-- A path issues in s, and p holds of it. -/
def holds (s : State) (p : Ctx → Bool) : Bool := match s.ctx? with | some c => p c | none => false

theorem holds_meets {s : State} {p : Ctx → Bool} (h : holds s p = true) : ∃ c, s.ctx? = some c ∧ p c = true := by
  unfold holds at h
  split at h
  · exact ⟨_, ‹_›, h⟩
  · exact absurd h (by decide)

/-- A trap word may trap here. -/
def mayTrap (c : Ctx) : Bool := !c.handler && !c.g.frame.busy && decide (c.p.ctl.thandler ≠ 0)

/-- A sequencer issues in s, and p holds of it. -/
def streams (s : State) (p : SCtx → Bool) : Bool := match s.stream? with | some c => p c | none => false

/-- The instruction answers a next state in s. -/
def runs (i : Instr) (s : State) : Bool := (next? i s).isSome

/-- Group 0, its cohort, its partition or its slices changed. -/
def withG (s : State) (f : Group → Group) : State := s.onGroup 0 f
def withSlices (s : State) (f : Nat → Slice → Slice) : State :=
  withG s (fun g => { g with slices := (List.range 32).map (fun i => f i (g.sliceAt i)) })
def inBlock (s : State) (blk : Word64) : State := withSlices s (fun _ y => { y with blk := blk })
def withP (s : State) (n : Nat) (m : BitVec 128) : State := withG s (fun g => g.setP n ⟨m, 0, 0⟩)
def bare3 : F3 := word3 .zero (r .zero) (r .zero) (r .zero)

/-- A header of a block of one word, stored at 0x100. -/
def hdr1 : Word64 := 0xF010000000000000
def coded : State := tiny.stored 0x100 [hdr1]
def isHdr (s : State) (c : Ctx) (a : Addr) : Bool := match (s.headerAt c.p c.g a).1 with | .header _ => true | _ => false



/-! ### What WellFormed refuses: for each check a legal word beside one that breaks it -/

/-- The first of each pair is legal, and the second is not. -/
def refuses (ps : List (Instr × Instr)) : Bool := ps.all (fun p => p.1.wellFormed && !p.2.wellFormed)

theorem wellFormed_refuses_integer_words :
    let d := fun (t : Ty) => vv t
    let i := fun (t : Ty) => { wordI (.v 8) (r (.v 1)) 5 with ty := t }
    refuses [(.iadd (d .i32), .iadd (d .f32)), (.isub (d .i32), .isub { d .i32 with rnd := .rtz }), (.imul (d .i32), .imul { d .i32 with sc := r (.v 3) }),
      (.imad (vvv .i32), .imad { vvv .i32 with dst := .p 1 }), (.imulh (d .i32), .imulh { d .i32 with sat := true }),
      (.imnx { d .i32 with sub := 1 }, .imnx { d .i32 with sub := 2 }), (.iabs (v1 .i32), .iabs (v1 .n32)),
      (.icmp { d .i32 with dst := .p 1, sub := 5 }, .icmp { d .i32 with dst := .v 8, sub := 5 }),
      (.iaddI (i .i32), .iaddI (i .bf16)), (.isubI (i .i32), .isubI { i .i32 with negA := true }), (.imulI (i .i32), .imulI { i .i32 with sub := 1 }),
      (.imulhI (i .i32), .imulhI { i .i32 with sat := true }), (.imnxI (i .i32), .imnxI { i .i32 with sub := 2 }),
      (.icmpI { i .i32 with dst := .p 1 }, .icmpI { i .i32 with dst := .p 1, sub := 6 })] &&
    refuses [(.iadd { d .i64 with dst := .v 8, sa := r (.v 2), sb := r (.v 4) }, .iadd { d .i64 with dst := .v 9, sa := r (.v 2), sb := r (.v 4) }),
      (.iadd { d .i32 with dst := .s 3, sa := r (.s 1), sb := r .cx }, .iadd { d .i32 with dst := .s 3, sa := r (.s 1), sb := r .lane }),
      (.iadd { d .i32 with sa := .reg (.v 1) true }, .iadd { d .i32 with sa := .reg .lane true })] = true := by decide

theorem wellFormed_refuses_move_and_logic_words :
    let sel := { vv .n32 with sc := r (.p 2) }
    refuses [(.sel sel, .sel { sel with sc := r (.v 2) }), (.mov (v1 .n32), .mov (v1 .i32)), (.movi { wordI (.v 8) (r .zero) 5 with ty := .i32 }, .movi { wordI (.v 8) (r (.v 1)) 5 with ty := .i32 }),
      (.lea { vv .i32 with sa := r (.v 2), sub := 7 }, .lea { vv .i32 with sa := r (.v 1), sub := 7 }), (.leaI { wordI (.v 8) (r (.v 2)) 5 with ty := .n64 }, .leaI { wordI (.v 9) (r (.v 2)) 5 with ty := .n64 }),
      (.idot4 { vvv .i32 with sub := 3 }, .idot4 { vvv .n32 with sub := 3 }), (.idot8 (vvv .i32), .idot8 { vvv .i32 with sub := 4 }),
      (.lop { vv .n32 with sub := 2 }, .lop { vv .n32 with sub := 3 }), (.lopI { wordI (.v 8) (r (.v 1)) 5 with ty := .n32 }, .lopI { wordI (.v 8) (r (.v 1)) 5 with ty := .i32 }),
      (.shf { vv .i32 with sub := 3 }, .shf { vv .i8 with sub := 3 }), (.shfI { wordI (.v 8) (r (.v 1)) 5 with ty := .i32 }, .shfI { wordI (.v 8) (r (.v 1)) 5 with ty := .i32, sub := 4 }),
      (.bfx (vv .n32), .bfx (vv .n64)), (.bfi (vvv .n32), .bfi (vvv .i32)), (.popc (v1 .n32), .popc (v1 .i32)), (.clz (v1 .n32), .clz { v1 .n32 with sb := r (.v 1) }),
      (.brev (v1 .n32), .brev (v1 .n16)), (.lxch { vv .n32 with sub := 3 }, .lxch { vv .n32 with sub := 4 })] = true := by decide

theorem wellFormed_refuses_float_words :
    let cvt := { word3 (.v 8) (r (.v 2)) (r (.v 9)) (r .zero) with ty := .f32, sub := 1 }
    let q := { word3 (.v 8) (r (.v 2)) (r .zero) (r .zero) with ty := .e2m1 }
    let i := { wordI (.v 8) (r (.v 1)) 5 with ty := .f32 }
    refuses [(.fadd { vv .f32 with rnd := .rsd }, .fadd { vv .f32 with rnd := .res5 }), (.fmul (vv .f32), .fmul (vv .bf16)), (.ffma { vvv .f32 with negC := true }, .ffma { vvv .f32 with sub := 1 }),
      (.fmnx { vv .f32 with sub := 1 }, .fmnx { vv .f32 with rnd := .rtz }), (.fcmp { vv .f32 with dst := .p 6, sub := 7 }, .fcmp { vv .f32 with dst := .p 6, sat := true }),
      (.fsfu { v1 .f32 with sub := 7 }, .fsfu { v1 .f32 with negB := true }), (.fclass (v1 .f16), .fclass (v1 .e4m3)),
      (.hfma2 (vvv .bf16), .hfma2 (vvv .f32)), (.hadd2 (vv .f16), .hadd2 { vv .f16 with sc := r (.v 1) }), (.hmul2 (vv .f16), .hmul2 { vv .f16 with sub := 1 }),
      (.cvt cvt, .cvt { cvt with sub := 2 }), (.cvt cvt, .cvt { cvt with sb := r (.v 16) }), (.qcvt q, .qcvt { q with sub := 1 }), (.qcvt q, .qcvt { q with dst := .v 9 }),
      (.faddI i, .faddI { i with ty := .f16 }), (.fmulI i, .fmulI { i with sub := 1 }), (.fmnxI i, .fmnxI { i with sub := 2 }), (.fcmpI { i with dst := .p 1 }, .fcmpI i)] = true := by decide

theorem wellFormed_refuses_control_words :
    let b : FB := ⟨Guard.always, .zero, 5, 0⟩
    let s1 := { bare3 with sa := r (.s 1) }
    let plop := { bare3 with dst := .p 1, sa := r (.p 2), sb := r (.p 3) }
    let lp := { bare3 with sa := r (.s 1), sb := x 5 }
    refuses [(.nop bare3, .nop { bare3 with sub := 1 }), (.bra b, .bra { b with low := 1 }), (.bra b, .bra { b with guard := ⟨false, 1⟩ }), (.brp { b with guard := ⟨true, 1⟩ }, .brp { b with dst := .s 1 }),
      (.bru { b with low := 0x8150 }, .bru { b with low := 0x8160 }), (.bru { b with low := 0xBF00 }, .bru { b with low := 0x7F00 }), (.brx s1, .brx { s1 with sa := x 5 }),
      (.call { b with dst := .s 1 }, .call b), (.ret s1, .ret { s1 with guard := ⟨false, 1⟩ }), (.exit { bare3 with guard := ⟨false, 1⟩ }, .exit { bare3 with sa := r (.v 1) }),
      (.yield bare3, .yield { bare3 with guard := ⟨false, 1⟩ }), (.regang s1, .regang { s1 with sa := r .zero }),
      (.vote { bare3 with dst := .p 1, sa := r (.p 2), sub := 1 }, .vote { bare3 with dst := .p 1, sa := r (.p 2), sub := 2 }), (.plop { plop with sub := 2 }, .plop { plop with negC := true }),
      (.maskrd { bare3 with dst := .s 1, sub := 4 }, .maskrd { bare3 with dst := .s 1, sub := 5 }), (.bar { s1 with sub := 2 }, .bar { s1 with sub := 3 }),
      (.loopb lp, .loopb { lp with sb := x 0x8000000000000000 }), (.refill { bare3 with sa := r (.p 1) }, .refill { bare3 with sa := r (.s 1) }), (.bkpt { bare3 with sub := 7 }, .bkpt { bare3 with dst := .s 1 }),
      (.commit bare3, .commit { bare3 with ty := .i16 }), (.acquire bare3, .acquire { bare3 with guard := ⟨false, 1⟩ }), (.shed bare3, .shed { bare3 with dst := .v 0 }), (.trig bare3, .trig { bare3 with sb := x 0 }),
      (.rft bare3, .rft { bare3 with sub := 1 })] = true := by decide

theorem wellFormed_refuses_memory_words :
    let ld := { wordM (.v 8) (r (.s 2)) (x 4) (r .zero) with size := .w32 }
    let st := { wordM .zero (r (.b 1)) (r (.v 2)) (r (.v 4)) with size := .w64 }
    let lds := { wordM (.v 8) (r (.s 1)) (x 4) (r .zero) with space := true }
    let sts := { wordM .zero (r .zero) (x 4) (r (.v 1)) with space := true }
    let ldk := { wordM .zero (r (.b 1)) (x 4) (r (.s 3)) with size := .w32 }
    let atom := { wordM (.v 8) (r (.s 2)) (x 4) (r (.v 1)) with size := .w32, ioff := 11 }
    let cas := { atom with sc := r (.v 2), ioff := 1 }
    let fence := { wordM .zero (r .zero) (r .zero) (r .zero) with scope := .surv, order := .rel }
    let ldw := { wordM (.v 8) (r (.s 2)) (x 4) (r (.p 6)) with size := .w32, scope := .dev }
    refuses [(.ld ld, .ld { ld with order := .rel }), (.ld { ld with size := .w64 }, .ld { ld with size := .w64, dst := .v 9 }), (.ld ld, .ld { ld with scope := .surv }),
      (.ld { ld with space := true }, .ld { ld with space := true, scope := .clu }), (.st st, .st { st with sc := r (.v 5) }), (.st st, .st { st with order := .acq }),
      (.lds lds, .lds { lds with space := false }), (.sts sts, .sts { sts with scope := .clu }), (.ldk ldk, .ldk { ldk with size := .w16 }), (.wld { ld with sa := r .zero }, .wld { ld with sa := r (.b 1) }),
      (.pref { ldk with sc := r .zero, scope := .die }, .pref { ldk with sc := r .zero, scope := .dev }), (.atom atom, .atom { atom with size := .w64, sc := r (.v 2) }), (.atom atom, .atom { atom with ioff := 12 }),
      (.cas cas, .cas { cas with sc := r (.v 3) }), (.lr { atom with sc := r .zero, ioff := 0 }, .lr { atom with sc := r .zero, ioff := 0, order := .rel }), (.sc { atom with ioff := 0 }, .sc { atom with order := .acq }),
      (.fence fence, .fence { fence with order := .acq }), (.fence fence, .fence { fence with order := .rlx }), (.ldw ldw, .ldw { ldw with sc := r (.p 7) }), (.ldw ldw, .ldw { ldw with scope := .sys }),
      (.wstat { bare3 with dst := .s 1, sub := 3 }, .wstat { bare3 with dst := .s 1, sub := 4 }), (.trb { bare3 with dst := .b 1, sa := r (.s 1) }, .trb { bare3 with dst := .s 1, sa := r (.s 1) }),
      (.xfence { bare3 with sub := 2 }, .xfence { bare3 with sub := 3 })] = true := by decide

theorem wellFormed_refuses_engine_words :
    let w := { wordX (.s 1) (r (.s 2)) (r (.s 3)) (r (.s 4)) with notify := 2 }
    let one := wordX .zero (r (.s 2)) (r .zero) (r .zero)
    let aw := { bare3 with sa := r (.s 1), sb := x 5 }
    let t2 := { bare3 with sa := r .zero, sb := r (.s 1) }
    refuses [(.cpy w, .cpy { w with sc := r (.s 6) }), (.cpy { w with cmd := 0x100 }, .cpy { w with cmd := 0x180 }), (.cpy { w with cmd := 0x80, mcast := true }, .cpy { w with mcast := true }),
      (.cpyg w, .cpyg { w with cmd := 0x100 }), (.cpys w, .cpys { w with mcast := true, cmd := 0x80 }), (.cpyr { w with cmd := 0x10, ord := true }, .cpyr { w with cmd := 0x18 }),
      (.cpyh { w with cmd := 31 }, .cpyh { w with cmd := 0x20 }), (.crel one, .crel { one with cmd := 1 }), (.bpatch { one with cmd := 0x100 }, .bpatch { one with cmd := 1 }), (.rebuild w, .rebuild { w with hold := true }),
      (.cpy w, .cpy { w with notify := 3 }), (.cpy { w with dst := .zero, notify := 0 }, .cpy { w with dst := .zero }),
      (.bin t2, .bin { t2 with sa := r (.v 1) }), (.awset aw, .awset { aw with sb := r .zero }), (.awadd aw, .awadd { aw with dst := .s 1 }), (.awwait { aw with dst := .s 2 }, .awwait aw),
      (.awgen { bare3 with dst := .s 2 }, .awgen { bare3 with dst := .s 2, sb := x 1 })] = true := by decide

theorem wellFormed_refuses_matrix_task_and_system_words :
    let lmm := { word3 (.v 8) (r (.v 1)) (r (.v 2)) (r (.v 4)) with ty := .bf16 }
    let ts := { bare3 with sa := r (.s 1) }
    let st := { bare3 with dst := .s 4, sa := r (.s 1) }
    let park := { bare3 with dst := .s 4, sa := r .zero, sb := r .zero, sc := r (.s 2) }
    let crd := wordI (.s 1) (r .zero) 0x037
    refuses [(.lmm lmm, .lmm { lmm with sc := r (.v 5) }), (.lmm { lmm with sub := 1, sc := x 5 }, .lmm { lmm with sub := 1 }), (.mrd { word3 (.v 8) (r (.s 1)) (r .zero) (r .zero) with ty := .i32 }, .mrd { st with ty := .i32 }),
      (.mwr { word3 .zero (r (.s 1)) (r (.v 1)) (r .zero) with ty := .f32 }, .mwr { word3 .zero (r (.s 1)) (r (.v 1)) (r .zero) with ty := .bf16 }), (.capo { bare3 with sa := r .grp }, .capo { bare3 with sa := r .lane }),
      (.spawn st, .spawn ts), (.arm { st with sb := x 1 }, .arm st), (.tdec ts, .tdec st), (.park { park with sub := 2 }, .park { park with sc := r (.s 3) }), (.halloc { st with sub := 1 }, .halloc { st with dst := .s 5 }),
      (.hfree st, .hfree { st with sa := x 1 }), (.hweak st, .hweak ts), (.hupg st, .hupg { st with dst := .s 5 }), (.hrel ts, .hrel { ts with sub := 1 }), (.hpri { ts with sb := x 15 }, .hpri { st with sb := x 15 }),
      (.trap ts, .trap st), (.chkerr { bare3 with dst := .s 1 }, .chkerr ts), (.crd crd, .crd { crd with imm := 0x038 }), (.crd crd, .crd { crd with imm := 0x1037 }),
      (.cwr (wordI .zero (r (.s 1)) 0x036), .cwr (wordI .zero (r (.s 1)) 0x037)), (.pmap { st with sub := 1 }, .pmap { st with sub := 2 }), (.preq st, .preq { st with sub := 1 })] = true := by decide

theorem wellFormed_refuses_stream_words :
    let t := fun (ops : BitVec 29) => (⟨0, 0, 0, 0, 0, false, 0, ops⟩ : FT)
    let k : FT := ⟨3, 4, 5, 0, 6, true, 2, 0⟩
    let mst : FT := { t 0x08000000 with op2 := 15, fmt := 1 }
    refuses [(.mdesc { t 0xFE0 with op1 := 15 }, .mdesc { t 0xFE0 with op1 := 16 }), (.mld (t 0), .mld { t 0 with op2 := 1 }), (.mld { t 0x08000000 with op2 := 15 }, .mld { t 0x08000000 with op2 := 16 }),
      (.mmul k, .mmul { k with bgrp := 3 }), (.mmul k, .mmul { k with fmt := 0, blk := false, bgrp := 0 }), (.msca { k with ops := 0x10000000, lin := 2 }, .msca { k with lin := 2 }), (.mzero (t 0), .mzero (t 1)),
      (.madd { t 63 with fmt := 0xA }, .madd { t 64 with fmt := 0xA }), (.mscl (t 0x1F), .mscl (t 0x40)), (.mcvt { t 0x80 with fmt := 1 }, .mcvt { t 0x80 with fmt := 3 }), (.mcvt { t 0x4000 with fmt := 3 }, .mcvt { t 0x5000 with fmt := 3 }),
      (.mpub { t 0 with tile := 1 }, .mpub { t 0 with op1 := 1 }), (.msettle { t 0 with lin := 15 }, .msettle { t 0 with tile := 1 }), (.mst mst, .mst { mst with op2 := 16 }), (.mst mst, .mst { mst with ops := 0x10000000 }),
      (.mbar (t 0x0011020F), .mbar (t 0x0011030F)), (.mbar (t 0x0011000F), .mbar (t 0x0012000F)), (.mloop (t 0x4001), .mloop (t 0x4000)), (.mloop (t 0x4001), .mloop (t 1)), (.mpri (t 7), .mpri (t 8)),
      (.mend (t 0), .mend (t 1))] = true := by decide

theorem test_decode_control_1 :
    decode 0x005F83FFFFEC0000 [] = .ok (.bra ⟨⟨false, 7⟩, .zero, 0x3FFFFEC, 0x0⟩, []) ∧
    decode 0x0087800000060000 [] = .ok (.brp ⟨⟨false, 1⟩, .zero, 0x6, 0x0⟩, []) ∧
    decode 0x00DF800000098310 [] = .ok (.bru ⟨⟨false, 7⟩, .zero, 0x9, 0x8310⟩, []) ∧
    decode 0x015EF80000280000 [] = .ok (.call ⟨⟨false, 7⟩, .s 62, 0x28, 0x0⟩, []) ∧
    decode 0x011F8215C0E00000 [] = .ok (.brx (word3 .zero (r (.s 5)) (r .zero) (r .zero)), []) ∧
    decode 0x019F82F9C0E00000 [] = .ok (.ret (word3 .zero (r (.s 62)) (r .zero) (r .zero)), []) ∧
    decode 0x01DF8381C0E00000 [] = .ok (.exit (word3 .zero (r .zero) (r .zero) (r .zero)), []) ∧
    decode 0x021F8381C0E00000 [] = .ok (.yield (word3 .zero (r .zero) (r .zero) (r .zero)), []) := by decide +kernel

theorem test_decode_control_2 :
    decode 0x025F83FDC0E00000 [0xFFFF] = .ok (.regang (word3 .zero (x 0xFFFF) (r .zero) (r .zero)), []) ∧
    decode 0x029F0B05C0E00001 [] = .ok (.vote { word3 (.p 2) (r (.p 1)) (r .zero) (r .zero) with sub := 1 }, []) ∧
    decode 0x02DF0F0584E00020 [] = .ok (.plop { word3 (.p 3) (r (.p 1)) (r (.p 2)) (r .zero) with negB := true }, []) ∧
    decode 0x031E1381C0E00002 [] = .ok (.maskrd { word3 (.s 4) (r .zero) (r .zero) (r .zero) with sub := 2 }, []) ∧
    decode 0x035F83FDC0E00000 [0x3] = .ok (.bar (word3 .zero (x 0x3) (r .zero) (r .zero)), []) ∧
    decode 0x039F8215FEE00000 [0x68000200000A] = .ok (.loopb (word3 .zero (r (.s 5)) (x 0x68000200000A) (r .zero)), []) ∧
    decode 0x03DF830DC0E00000 [] = .ok (.refill (word3 .zero (r (.p 3)) (r .zero) (r .zero)), []) ∧
    decode 0x001F8381C0E00000 [] = .ok (.nop (word3 .zero (r .zero) (r .zero) (r .zero)), []) := by decide +kernel

theorem test_decode_control_3 :
    decode 0x041F8381C0E00005 [] = .ok (.bkpt { word3 .zero (r .zero) (r .zero) (r .zero) with sub := 5 }, []) ∧
    decode 0x045F8381C0E00000 [] = .ok (.commit (word3 .zero (r .zero) (r .zero) (r .zero)), []) := by decide +kernel

theorem test_decode_task :
    decode 0x915F8381C0E00000 [] = .ok (.acquire (word3 .zero (r .zero) (r .zero) (r .zero)), []) ∧
    decode 0x919F8381C0E00000 [] = .ok (.shed (word3 .zero (r .zero) (r .zero) (r .zero)), []) ∧
    decode 0x901E1609C0E00000 [] = .ok (.spawn (word3 (.s 5) (r (.s 2)) (r .zero) (r .zero)), []) ∧
    decode 0x905E1A0D08E00000 [] = .ok (.arm (word3 (.s 6) (r (.s 3)) (r (.s 4)) (r .zero)), []) ∧
    decode 0x909F8211C0E00000 [] = .ok (.tdec (word3 .zero (r (.s 4)) (r .zero) (r .zero)), []) ∧
    decode 0x90DF8381C0E00000 [] = .ok (.trig (word3 .zero (r .zero) (r .zero) (r .zero)), []) ∧
    decode 0x911E1E21128A0001 [] = .ok (.park { word3 (.s 7) (r (.s 8)) (r (.s 9)) (r (.s 10)) with sub := 1 }, []) := by decide +kernel

theorem test_decode_integer_1 :
    decode 0x101C140404E01080 [] = .ok (.iadd { word3 (.v 5) (r (.v 1)) (r (.v 2)) (r .zero) with ty := .i32, sat := true }, []) ∧
    decode 0x185C180C0000B000 [] = .ok (.isubI { wordI (.v 6) (r (.v 3)) 0x1 with ty := .n32 }, []) ∧
    decode 0x109C202818E01800 [] = .ok (.imul { word3 (.v 8) (r (.v 10)) (r (.v 12)) (r .zero) with ty := .i64 }, []) ∧
    decode 0x10DC1C0404033000 [] = .ok (.imad { word3 (.v 7) (r (.v 1)) (r (.v 2)) (r (.v 3)) with ty := .n32 }, []) ∧
    decode 0x111C100504E03000 [] = .ok (.imulh { word3 (.v 4) (r (.v 1)) (r (.s 2)) (r .zero) with ty := .n32 }, []) ∧
    decode 0x115C0809C0E01001 [] = .ok (.imnx { word3 (.v 2) (r (.v 2)) (r .zero) (r .zero) with ty := .i32, sub := 1 }, []) ∧
    decode 0x119C0C05C0E01080 [] = .ok (.iabs { word3 (.v 3) (r (.v 1)) (r .zero) (r .zero) with ty := .i32, sat := true }, []) ∧
    decode 0x11DF040404E01002 [] = .ok (.icmp { word3 (.p 1) (r (.v 1)) (r (.v 2)) (r .zero) with ty := .i32, sub := 2 }, []) := by decide +kernel

theorem test_decode_integer_2 :
    decode 0x121C100404C13000 [] = .ok (.sel { word3 (.v 4) (r (.v 1)) (r (.v 2)) (r (.p 1)) with ty := .n32 }, []) ∧
    decode 0x125C0E11C0E03000 [] = .ok (.mov { word3 (.v 3) (r (.s 4)) (r .zero) (r .zero) with ty := .n32 }, []) ∧
    decode 0x1A5C17807F804000 [] = .ok (.movi { wordI (.v 5) (r .zero) 0xFF00 with ty := .f32 }, []) ∧
    decode 0x129C120802E03003 [] = .ok (.lea { word3 (.v 4) (r (.s 2)) (r (.v 1)) (r .zero) with ty := .n32, sub := 3 }, []) ∧
    decode 0x12DC200404081080 [] = .ok (.idot4 { word3 (.v 8) (r (.v 1)) (r (.v 2)) (r (.v 8)) with ty := .i32, sat := true }, []) ∧
    decode 0x131C240404091001 [] = .ok (.idot8 { word3 (.v 9) (r (.v 1)) (r (.v 2)) (r (.v 9)) with ty := .i32, sub := 1 }, []) := by decide +kernel

theorem test_decode_logic :
    decode 0x201C180404E03022 [] = .ok (.lop { word3 (.v 6) (r (.v 1)) (r (.v 2)) (r .zero) with ty := .n32, negB := true, sub := 2 }, []) ∧
    decode 0x285C0C0400021001 [] = .ok (.shfI { wordI (.v 3) (r (.v 1)) 0x4 with ty := .i32, sub := 1 }, []) ∧
    decode 0x209C0805FEE01000 [0x804] = .ok (.bfx { word3 (.v 2) (r (.v 1)) (x 0x804) (r .zero) with ty := .i32 }, []) ∧
    decode 0x20DC140906053000 [] = .ok (.bfi { word3 (.v 5) (r (.v 2)) (r (.s 3)) (r (.v 5)) with ty := .n32 }, []) ∧
    decode 0x211C1C09C0E03800 [] = .ok (.popc { word3 (.v 7) (r (.v 2)) (r .zero) (r .zero) with ty := .n64 }, []) ∧
    decode 0x215C0C05C0E03000 [] = .ok (.clz { word3 (.v 3) (r (.v 1)) (r .zero) (r .zero) with ty := .n32 }, []) ∧
    decode 0x219C1005C0E03000 [] = .ok (.brev { word3 (.v 4) (r (.v 1)) (r .zero) (r .zero) with ty := .n32 }, []) ∧
    decode 0x21DC18050AE03002 [] = .ok (.lxch { word3 (.v 6) (r (.v 1)) (r (.s 5)) (r .zero) with ty := .n32, sub := 2 }, []) := by decide +kernel

theorem test_decode_float :
    decode 0x301C0C0404E04020 [] = .ok (.fadd { word3 (.v 3) (r (.v 1)) (r (.v 2)) (r .zero) with ty := .f32, negB := true }, []) ∧
    decode 0x385C10047E004400 [] = .ok (.fmulI { wordI (.v 4) (r (.v 1)) 0xFC00 with ty := .f32, rnd := .rsd }, []) ∧
    decode 0x309C1C0404074008 [] = .ok (.ffma { word3 (.v 7) (r (.v 1)) (r (.v 2)) (r (.v 7)) with ty := .f32, ftz := true }, []) ∧
    decode 0x30DC140404E04001 [] = .ok (.fmnx { word3 (.v 5) (r (.v 1)) (r (.v 2)) (r .zero) with ty := .f32, sub := 1 }, []) ∧
    decode 0x391F080400004005 [] = .ok (.fcmpI { wordI (.p 2) (r (.v 1)) 0x0 with ty := .f32, sub := 5 }, []) ∧
    decode 0x315C1815C0E04001 [] = .ok (.fsfu { word3 (.v 6) (r (.v 5)) (r .zero) (r .zero) with ty := .f32, sub := 1 }, []) ∧
    decode 0x319C0805C0E04000 [] = .ok (.fclass { word3 (.v 2) (r (.v 1)) (r .zero) (r .zero) with ty := .f32 }, []) := by decide +kernel

theorem test_decode_half :
    decode 0x401C100404034800 [] = .ok (.hfma2 { word3 (.v 4) (r (.v 1)) (r (.v 2)) (r (.v 3)) with ty := .bf16 }, []) ∧
    decode 0x405C140404E05080 [] = .ok (.hadd2 { word3 (.v 5) (r (.v 1)) (r (.v 2)) (r .zero) with ty := .f16, sat := true }, []) ∧
    decode 0x409C180404E04820 [] = .ok (.hmul2 { word3 (.v 6) (r (.v 1)) (r (.v 2)) (r .zero) with ty := .bf16, negB := true }, []) ∧
    decode 0x40DC0C0410E04800 [] = .ok (.cvt { word3 (.v 3) (r (.v 1)) (r (.v 8)) (r .zero) with ty := .bf16 }, []) ∧
    decode 0x411C2005C0E05800 [] = .ok (.qcvt { word3 (.v 8) (r (.v 1)) (r .zero) (r .zero) with ty := .e4m3 }, []) := by decide +kernel

theorem test_decode_memory_1 :
    decode 0x501C0B2406E02000 [] = .ok (.ld { wordM (.v 2) (r (.b 1)) (r (.v 3)) (r .zero) with size := .w32 }, []) ∧
    decode 0x505F832808072302 [] = .ok (.st { wordM .zero (r (.b 2)) (r (.v 4)) (r (.v 7)) with size := .w32, scope := .clu, order := .rel, ioff := 2 }, []) ∧
    decode 0x509C220D0AE02042 [] = .ok (.lds { wordM (.v 8) (r (.s 3)) (r (.s 5)) (r .zero) with size := .w32, space := true, ioff := 2 }, []) ∧
    decode 0x50DF820D0A082042 [] = .ok (.sts { wordM .zero (r (.s 3)) (r (.s 5)) (r (.v 8)) with size := .w32, space := true, ioff := 2 }, []) ∧
    decode 0x511F83240A874000 [] = .ok (.ldk { wordM .zero (r (.b 1)) (r (.v 5)) (r (.s 7)) with size := .w128 }, []) ∧
    decode 0x515C0E0808E01000 [] = .ok (.wld { wordM (.v 3) (r (.s 2)) (r (.v 4)) (r .zero) with size := .w16 }, []) ∧
    decode 0x521F83240AE04200 [] = .ok (.pref { wordM .zero (r (.b 1)) (r (.v 5)) (r .zero) with size := .w128, scope := .clu }, []) ∧
    decode 0x519E260504E00000 [] = .ok (.wstat (word3 (.s 9) (r (.s 1)) (r (.s 2)) (r .zero)), []) := by decide +kernel

theorem test_decode_memory_2 :
    decode 0x51DF2605C0E00000 [] = .ok (.trb (word3 (.b 1) (r (.s 1)) (r .zero) (r .zero)), []) := by decide +kernel

theorem test_decode_atomic :
    decode 0x601C1B2404032601 [] = .ok (.atom { wordM (.v 6) (r (.b 1)) (r (.v 2)) (r (.v 3)) with size := .w32, scope := .dev, ioff := 1 }, []) ∧
    decode 0x605C1B2404082781 [] = .ok (.cas { wordM (.v 6) (r (.b 1)) (r (.v 2)) (r (.v 8)) with size := .w32, scope := .dev, order := .ar, ioff := 1 }, []) ∧
    decode 0x609C1B2404E02680 [] = .ok (.lr { wordM (.v 6) (r (.b 1)) (r (.v 2)) (r .zero) with size := .w32, scope := .dev, order := .acq }, []) ∧
    decode 0x60DC1F2404032700 [] = .ok (.sc { wordM (.v 7) (r (.b 1)) (r (.v 2)) (r (.v 3)) with size := .w32, scope := .dev, order := .rel }, []) ∧
    decode 0x615F8381C0E00001 [] = .ok (.xfence { word3 .zero (r .zero) (r .zero) (r .zero) with sub := 1 }, []) ∧
    decode 0x611F8381C0E00B80 [] = .ok (.fence { wordM .zero (r .zero) (r .zero) (r .zero) with scope := .surv, order := .ar }, []) := by decide +kernel

theorem test_decode_engine_1 :
    decode 0x701E2209068C0480 [] = .ok (.cpy { wordX (.s 8) (r (.s 2)) (r (.s 3)) (r (.s 12)) with notify := 1, cmd := 0x80 }, []) ∧
    decode 0x705E220906901080 [] = .ok (.cpyg { wordX (.s 8) (r (.s 2)) (r (.s 3)) (r (.s 16)) with hold := true, cmd := 0x80 }, []) ∧
    decode 0x709E22110A940020 [] = .ok (.cpys { wordX (.s 8) (r (.s 4)) (r (.s 5)) (r (.s 20)) with cmd := 0x20 }, []) ∧
    decode 0x70DE22190E984200 [] = .ok (.cpyr { wordX (.s 8) (r (.s 6)) (r (.s 7)) (r (.s 24)) with ord := true, peer := true }, []) ∧
    decode 0x711E2209068C0003 [] = .ok (.cpyh { wordX (.s 8) (r (.s 2)) (r (.s 3)) (r (.s 12)) with cmd := 0x3 }, []) ∧
    decode 0x715F8225C0E00000 [] = .ok (.crel (wordX .zero (r (.s 9)) (r .zero) (r .zero)), []) ∧
    decode 0x719F822806E00000 [] = .ok (.bin (word3 .zero (r (.s 10)) (r (.v 3)) (r .zero)), []) ∧
    decode 0x71DF822DC0E00100 [] = .ok (.bpatch { wordX .zero (r (.s 11)) (r .zero) (r .zero) with cmd := 0x100 }, []) := by decide +kernel

theorem test_decode_engine_2 :
    decode 0x721F83FDFEE00000 [0x100, 0x2000] = .ok (.awset (word3 .zero (x 0x100) (x 0x2000) (r .zero)), []) ∧
    decode 0x725F8211FEE00000 [0x1000] = .ok (.awadd (word3 .zero (r (.s 4)) (x 0x1000) (r .zero)), []) ∧
    decode 0x729E16110CE00000 [] = .ok (.awwait (word3 (.s 5) (r (.s 4)) (r (.s 6)) (r .zero)), []) ∧
    decode 0x72DE1611C0E00000 [] = .ok (.awgen (word3 (.s 5) (r (.s 4)) (r .zero) (r .zero)), []) := by decide +kernel

theorem test_decode_stream_1 :
    decodeFT 0x0100400000001000 = some (.mdesc ⟨0, 2, 0, 0, 0, false, 0, 0x1000⟩) ∧
    decodeFT 0x0200200004000200 = some (.mld ⟨0, 1, 0, 0, 0, false, 0, 0x4000200⟩) ∧
    decodeFT 0x020002000A000000 = some (.mld ⟨0, 0, 2, 0, 0, false, 0, 0xA000000⟩) ∧
    decodeFT 0x030C850100000000 = some (.mmul ⟨3, 4, 5, 0, 1, false, 0, 0x0⟩) ∧
    decodeFT 0x0300010110000000 = some (.mmul ⟨0, 0, 1, 0, 1, false, 0, 0x10000000⟩) ∧
    decodeFT 0x0410430380000000 = some (.msca ⟨4, 2, 3, 0, 3, true, 0, 0x0⟩) ∧
    decodeFT 0x0514000000000000 = some (.mzero ⟨5, 0, 0, 0, 0, false, 0, 0x0⟩) ∧
    decodeFT 0x0618000000000007 = some (.madd ⟨6, 0, 0, 0, 0, false, 0, 0x7⟩) := by decide +kernel

theorem test_decode_stream_2 :
    decodeFT 0x0704000007E00000 = some (.mscl ⟨1, 0, 0, 0, 0, false, 0, 0x7E00000⟩) ∧
    decodeFT 0x080CC00100000000 = some (.mcvt ⟨3, 6, 0, 0, 1, false, 0, 0x0⟩) ∧
    decodeFT 0x080CE00100000080 = some (.mcvt ⟨3, 7, 0, 0, 1, false, 0, 0x80⟩) ∧
    decodeFT 0x090C002000000000 = some (.mpub ⟨3, 0, 0, 2, 0, false, 0, 0x0⟩) ∧
    decodeFT 0x0A00002000000000 = some (.msettle ⟨0, 0, 0, 2, 0, false, 0, 0x0⟩) ∧
    decodeFT 0x0B04030108000002 = some (.mst ⟨1, 0, 3, 0, 1, false, 0, 0x8000002⟩) ∧
    decodeFT 0x0B04000380000800 = some (.mst ⟨1, 0, 0, 0, 3, true, 0, 0x800⟩) ∧
    decodeFT 0x0C00000000050001 = some (.mbar ⟨0, 0, 0, 0, 0, false, 0, 0x50001⟩) := by decide +kernel

theorem test_decode_stream_3 :
    decodeFT 0x0D00000000010003 = some (.mloop ⟨0, 0, 0, 0, 0, false, 0, 0x10003⟩) ∧
    decodeFT 0x0E00000000000005 = some (.mpri ⟨0, 0, 0, 0, 0, false, 0, 0x5⟩) ∧
    decodeFT 0x0F00000000000000 = some (.mend ⟨0, 0, 0, 0, 0, false, 0, 0x0⟩) := by decide +kernel

theorem test_decode_matrix :
    decode 0x801C50100A144800 [] = .ok (.lmm { word3 (.v 20) (r (.v 4)) (r (.v 5)) (r (.v 20)) with ty := .bf16 }, []) ∧
    decode 0x805C23FDC0E04000 [0x503] = .ok (.mrd { word3 (.v 8) (x 0x503) (r .zero) (r .zero) with ty := .f32 }, []) ∧
    decode 0x809F83FC12E04000 [0x503] = .ok (.mwr { word3 .zero (x 0x503) (r (.v 9)) (r .zero) with ty := .f32 }, []) ∧
    decode 0x80DF821DC0E00000 [] = .ok (.capo (word3 .zero (r (.s 7)) (r .zero) (r .zero)), []) := by decide +kernel

theorem test_decode_handle :
    decode 0xA01E2A0906E00001 [] = .ok (.halloc { word3 (.s 10) (r (.s 2)) (r (.s 3)) (r .zero) with sub := 1 }, []) ∧
    decode 0xA05E1611C0E00000 [] = .ok (.hfree (word3 (.s 5) (r (.s 4)) (r .zero) (r .zero)), []) ∧
    decode 0xA09E1A11C0E00000 [] = .ok (.hweak (word3 (.s 6) (r (.s 4)) (r .zero) (r .zero)), []) ∧
    decode 0xA0DE3219C0E00000 [] = .ok (.hupg (word3 (.s 12) (r (.s 6)) (r .zero) (r .zero)), []) ∧
    decode 0xA11E1619C0E00000 [] = .ok (.hrel (word3 (.s 5) (r (.s 6)) (r .zero) (r .zero)), []) ∧
    decode 0xA15F8219FEE00000 [0x2] = .ok (.hpri (word3 .zero (r (.s 6)) (x 0x2) (r .zero)), []) ∧
    decode 0xA19C0E1808C22600 [] = .ok (.ldw { wordM (.v 3) (r (.s 6)) (r (.v 4)) (r (.p 2)) with size := .w32, scope := .dev }, []) ∧
    decode 0xA1DE2209068C0400 [] = .ok (.rebuild { wordX (.s 8) (r (.s 2)) (r (.s 3)) (r (.s 12)) with notify := 1 }, []) := by decide +kernel

theorem test_decode_system :
    decode 0xB01F83FDC0E00000 [0x2A] = .ok (.trap (word3 .zero (x 0x2A) (r .zero) (r .zero)), []) ∧
    decode 0xB05F8381C0E00000 [] = .ok (.rft (word3 .zero (r .zero) (r .zero) (r .zero)), []) ∧
    decode 0xB09E2781C0E00000 [] = .ok (.chkerr (word3 (.s 9) (r .zero) (r .zero) (r .zero)), []) ∧
    decode 0xB0DE178000080000 [] = .ok (.crd (wordI (.s 5) (r .zero) 0x10), []) ∧
    decode 0xB11F821C00010000 [] = .ok (.cwr (wordI .zero (r (.s 7)) 0x2), []) ∧
    decode 0xB15E0A05C0E00001 [] = .ok (.pmap { word3 (.s 2) (r (.s 1)) (r .zero) (r .zero) with sub := 1 }, []) ∧
    decode 0xB19EEEE5C0E00000 [] = .ok (.preq (word3 (.s 59) (r (.s 57)) (r .zero) (r .zero)), []) := by decide +kernel


/-! ### Results of one instruction (the tables of spec/08 after R171 and R174, and hand calculation from the rules) -/

theorem test_iadd : v8 (.iadd { vv .i8 with sat := true }) [(1, 0x64), (2, 0x64)] = some 0x7F ∧
    v8 (.iadd (vv .i8)) [(1, 0x64), (2, 0x64)] = some 0xFFFFFFC8 := by decide +kernel
theorem test_isub_n32_sat : v8 (.isub { vv .n32 with sat := true }) [(1, 3), (2, 5)] = some 0 := by decide +kernel
theorem test_imul : v8 (.imul (vv .i32)) [(1, 0x10000), (2, 0x10000)] = some 0 ∧
    v8 (.imul { vv .i32 with sat := true }) [(1, 0x10000), (2, 0x10000)] = some 0x7FFFFFFF := by decide +kernel
theorem test_imulh : v8 (.imulh (vv .n32)) [(1, 0xFFFFFFFF), (2, 0xFFFFFFFF)] = some 0xFFFFFFFE ∧
    v8 (.imulh (vv .i32)) [(1, 0xFFFFFFFF), (2, 0xFFFFFFFF)] = some 0 := by decide +kernel
theorem test_imad_wraps : v8 (.imad (vvv .n32)) [(1, 0xFFFFFFFF), (2, 2), (3, 5)] = some 3 := by decide +kernel
theorem test_iabs : v8 (.iabs (v1 .i32)) [(1, 0x80000000)] = some 0x80000000 ∧
    v8 (.iabs { v1 .i32 with sat := true }) [(1, 0x80000000)] = some 0x7FFFFFFF := by decide +kernel
theorem test_imnx : v8 (.imnx (vv .n32)) [(1, 0xFFFFFFFF), (2, 1)] = some 1 ∧
    v8 (.imnx (vv .i32)) [(1, 0xFFFFFFFF), (2, 1)] = some 0xFFFFFFFF := by decide +kernel
theorem test_iadd_i_extends : v8 (.iaddI { wordI (.v 8) (r (.v 1)) 0x3FFFF with ty := .i32 }) [(1, 0)] = some 0xFFFFFFFF := by
  decide +kernel
theorem test_movi_f32 : v8 (.movi { wordI (.v 8) (r .zero) 0xFF00 with ty := .f32 }) [] = some 0x3FC00000 := by decide +kernel
theorem test_bfx : v8 (.bfx { vv .i32 with sb := x 0x804 }) [(1, 0xA50)] = some 0xFFFFFFA5 ∧
    v8 (.bfx { vv .n32 with sb := x 0x804 }) [(1, 0xA50)] = some 0xA5 := by decide +kernel
theorem test_lop_complements_b : v8 (.lop { vv .n32 with negB := true, sub := 2 }) [(1, 0xF0), (2, 0xFF)] = some 0xFFFFFFF0 := by
  decide +kernel
theorem test_shift_right_by_sign : v8 (.shf { vv .i32 with sub := 1 }) [(1, 0x80000000), (2, 4)] = some 0xF8000000 := by
  decide +kernel
theorem test_clz_popc_brev : v8 (.clz (v1 .n32)) [(1, 1)] = some 31 ∧ v8 (.popc (v1 .n32)) [(1, 0xF0F0)] = some 8 ∧
    v8 (.brev (v1 .n32)) [(1, 1)] = some 0x80000000 := by decide +kernel
theorem test_fadd : v8 (.fadd (vv .f32)) [(1, 0x3FC00000), (2, 0x40100000)] = some 0x40700000 := by decide +kernel
theorem test_fmul_negates : v8 (.fmul { vv .f32 with negB := true }) [(1, 0x3FC00000), (2, 0x40000000)] = some 0xC0400000 := by
  decide +kernel
theorem test_ffma_rounds_once : v8 (.ffma (vvv .f32)) [(1, 0x3F800001), (2, 0x3F800001), (3, 0xBF800002)] = some 0x28800000 := by
  decide +kernel
theorem test_cvt_bf16 : v8 (.cvt { word3 (.v 8) (r (.v 1)) (r (.v 8)) (r .zero) with ty := .bf16 }) [(1, 0x3F808000)] = some 0x3F80 := by
  decide +kernel
theorem test_hadd2_two_halves : v8 (.hadd2 (vv .f16)) [(1, 0x3C004000), (2, 0x3C003C00)] = some 0x40004200 := by decide +kernel
theorem test_icmp_signed : (groupAfter (.icmp { word3 (.p 1) (r (.v 1)) (r (.v 2)) (r .zero) with ty := .i32, sub := 2 })
    (withV tiny [(1, 0xFFFFFFFF), (2, 1)])).map (fun g => (g.pBit 1 0, g.pBit 1 1)) = some (true, false) := by decide +kernel
theorem test_maskrd_active : s8 (.maskrd (word3 (.s 8) (r .zero) (r .zero) (r .zero))) [] = some 0xF := by decide +kernel

/-! ### Witnesses: states and operands that meet the hypotheses of the statements -/

theorem witness_IntegerArithmeticCompletes :
    let w := { vv .i64 with dst := .v 14, sa := r (.v 0), sb := x 7 }
    let m := { vvv .n32 with dst := .v 15, sat := true }
    let i := { wordI (.v 15) (r (.v 0)) 0x20000 with ty := .n8 }
    holds tiny (fun c => [laneF3 w 0x040 w.legalIntSat, laneF3 w 0x041 w.legalIntSat, laneF3 w 0x042 w.legalIntSat,
      laneF3 m 0x043 m.legalImad, laneF3 w 0x044 w.legalImulh, laneF3 w 0x045 w.legalImnx,
      laneF3 (v1 .i16) 0x046 (v1 .i16).legalIabs, laneFI i 0x060 i.legalIntSat, laneFI i 0x061 i.legalIntSat,
      laneFI i 0x062 i.legalIntSat, laneFI i 0x064 i.legalImulh, laneFI i 0x065 i.legalImnx].all (fun o => okNeed c o.need)) &&
    [.iadd w, .isub w, .imul w, .imad m, .imulh w, .imnx w, .iabs (v1 .i16), .iaddI i, .isubI i, .imulI i, .imulhI i, .imnxI i].all
      (fun i => runs i tiny) = true := by decide +kernel

theorem witness_IntegerResultsWrapOrClamp :
    Ty.isInt .i8 = true ∧ Ty.isInt .n64 = true ∧ 127 < 128 ∧ (126 : BitVec 7).toNat < 127 := by decide

theorem witness_CompareMoveAddressComplete :
    let p := { word3 (.p 7) (r (.v 1)) (r .lane) (r .zero) with ty := .n16, sub := 5 }
    let e := { word3 (.v 8) (r (.v 1)) (x 1) (r (.p 7)) with ty := .n32, negC := true }
    let m := { word3 (.s 63) (r (.s 0)) (r .zero) (r .zero) with ty := .n64 }
    let a := { word3 (.v 14) (r (.v 14)) (r (.v 1)) (r .zero) with ty := .i32, sub := 7 }
    let d := { vvv .i32 with sub := 3 }
    let i := { wordI (.p 0) (r (.v 1)) 0x1FFFF with ty := .i64, sa := r (.v 0) }
    let j := { wordI (.v 0) (r .zero) 0x3FFFF with ty := .f32 }
    let k := { wordI (.v 0) (r (.v 2)) 0x20000 with ty := .n64 }
    holds tiny (fun c => [laneF3 p 0x047 p.legalIcmp, laneF3 e 0x048 e.legalSel, laneF3 m 0x049 m.legalMov,
      { laneF3 a 0x04A a.legalLea with wide := true, aWide := true }, laneF3 d 0x04B d.legalIdot, laneF3 d 0x04C d.legalIdot,
      laneFI i 0x067 i.legalIcmp, laneFI j 0x069 j.legalMovi,
      { laneFI k 0x06A k.legalLea with wide := true, aWide := true }].all (fun o => okNeed c o.need)) &&
    [.icmp p, .sel e, .mov m, .lea a, .idot4 d, .idot8 d, .icmpI i, .movi j, .leaI k].all (fun i => runs i tiny) = true := by
  decide +kernel

theorem witness_LogicShiftFieldComplete :
    let l := { vv .n64 with sb := x 1, sa := r (.v 0), sub := 2, negA := true }
    let h := { vv .i32 with sub := 3 }
    let c1 := { v1 .n64 with sa := r (.v 14), dst := .v 15 }
    let b1 := { v1 .n64 with sa := r (.v 14), dst := .v 14 }
    let y := { vv .n32 with sub := 3, sb := r .lane }
    let i := { wordI (.v 15) (r (.v 0)) 0x3FFFF with ty := .n32, sub := 2 }
    holds tiny (fun c => [laneF3 l 0x080 l.legalLop, laneF3 h 0x081 h.legalShf, laneF3 (vv .i32) 0x082 (vv .i32).legalBfx,
      laneF3 (vvv .n32) 0x083 (vvv .n32).legalBfi, { laneF3 c1 0x084 c1.legalCount with wide := false },
      { laneF3 c1 0x085 c1.legalCount with wide := false }, laneF3 b1 0x086 b1.legalBrev,
      { laneF3 y 0x087 y.legalLxch with bWide := false }, laneFI i 0x0A0 i.legalLop, laneFI i 0x0A1 i.legalShf].all
        (fun o => okNeed c o.need)) &&
    [.lop l, .shf h, .bfx (vv .i32), .bfi (vvv .n32), .popc c1, .clz c1, .brev b1, .lxch y, .lopI i, .shfI i].all
      (fun i => runs i tiny) = true := by decide +kernel

theorem witness_FloatArithmeticCompletes :
    let a := { vv .f32 with rnd := .rsd, sat := true, negA := true, negB := true, ftz := true }
    let m := { vv .f32 with sub := 1 }
    let p := { word3 (.p 1) (r (.v 1)) (r (.v 2)) (r .zero) with ty := .f32, sub := 7 }
    let i := { wordI (.v 8) (r (.v 1)) 0x20000 with ty := .f32 }
    let q := { wordI (.p 6) (r (.v 1)) 0 with ty := .f32, sub := 7 }
    holds tiny (fun c => [laneF3 a 0x0C0 a.legalFadd, laneF3 a 0x0C1 a.legalFadd, laneF3 (vvv .f32) 0x0C2 (vvv .f32).legalFfma,
      laneF3 m 0x0C3 m.legalFmnx, laneF3 p 0x0C4 p.legalFcmp, laneF3 (v1 .f16) 0x0C6 (v1 .f16).legalFclass,
      laneF3 (vvv .bf16) 0x100 (vvv .bf16).legalHfma2, laneF3 (vv .f16) 0x101 (vv .f16).legalHadd2,
      laneF3 (vv .bf16) 0x102 (vv .bf16).legalHadd2, laneFI i 0x0E0 i.legalFadd, laneFI i 0x0E1 i.legalFadd,
      laneFI i 0x0E3 i.legalFmnx, laneFI q 0x0E4 q.legalFcmp].all (fun o => okNeed c o.need)) &&
    [.fadd (vv .f32), .fmul (vv .f32), .ffma (vvv .f32), .fmnx m, .fcmp p, .fclass (v1 .f16), .hfma2 (vvv .bf16), .hadd2 (vv .f16),
      .hmul2 (vv .bf16), .faddI i, .fmulI i, .fmnxI i, .fcmpI q].all (fun i => runs i tiny) = true := by decide +kernel

theorem witness_ConvertAndFunctionsComplete :
    let v := { word3 (.v 15) (r (.v 1)) (r (.v 13)) (r .zero) with ty := .i64, dst := .v 14, sub := 7 }
    let f := { v1 .f32 with sub := 7 }
    let q := { word3 (.v 14) (r (.v 1)) (r .zero) (r .zero) with ty := .e4m3 }
    holds tiny (fun c => okNeed c ({ laneF3 v 0x103 v.legalCvt with aWide := (cvtFrom v).wide, b := .reg .zero false, bWide := false } : LaneOp).need &&
      okNeed c (laneF3 f 0x0C5 f.legalFsfu).need && okNeed c ⟨q.legalQcvt, false, q.guard, [(q.dst, 2)], [(q.sa, 1)]⟩) &&
    [.cvt v, .qcvt q].all (fun i => runs i tiny) = true := by decide +kernel

theorem witness_BranchesGoToHeaders :
    let s := withS (inBlock coded 0xF010000000000000) [(5, 0x100)]
    let w : FB := ⟨Guard.always, .zero, 31, 0⟩
    let u : FB := ⟨Guard.always, .zero, 31, 0xBF50⟩
    let k : FB := ⟨Guard.always, .s 62, 31, 0⟩
    let x5 := { bare3 with sa := r (.s 5) }
    holds s (fun c => okNeed c (Need.bare w.legalBra false w.guard) && isHdr s c 0x100 &&
      decide (c.pc + 8 * w.offset.signExtend 57 = 0x100) &&
      okNeed c ⟨u.legalBru, false, u.guard, [], [(bruSrc u, 1)]⟩ && decide ((c.uniform s (bruSrc u)).2 = none) &&
      okNeed c ⟨k.legalCall && c.isLast 1, false, k.guard, [(k.dst, 1)], []⟩ &&
      okNeed c ⟨x5.legalBrx, false, x5.guard, [], [(x5.sa, 1)]⟩ && decide ((c.uniform s x5.sa).2 = none) &&
      decide ((c.uniform s x5.sa).1 = 0x100)) &&
    [.bra w, .bru u, .call k, .brx x5, .ret x5].all (fun i => runs i s) = true := by decide +kernel

/-- A slice of four lanes that parts; and two slices, one taken whole, with an RCV that names a header. -/
theorem witness_PredicatedBranchParts :
    let w : FB := ⟨⟨false, 1⟩, .zero, 31, 0⟩
    let s := withP (inBlock coded 0xFFF0080000000000) 1 0b0101
    let d := withP (withSlices (inBlock coded 0xFFF0080000000000) (fun i y => { y with xmask := if i < 2 then 0 else 0xF })) 1 0xF
    let ok := fun (s : State) (parts : Bool) => holds s (fun c =>
      let taken := fun i => sliceLanes i (c.acting w.guard)
      let parted := c.slices.filter (fun i => taken i != 0 && taken i != (c.g.sliceAt i).amask)
      let splits := c.slices.any (fun i => taken i == (c.g.sliceAt i).amask) && c.slices.any (fun i => taken i != (c.g.sliceAt i).amask)
      isHdr s c 0x100 && okNeed c (Need.bare w.legalBrp false w.guard) && c.rcv == some 0x100 && (parted.isEmpty != parts) &&
      (splits != parts) && c.g.freeSplit.isSome && c.slices.all (fun i => (c.g.sliceAt i).lstk.isEmpty))
    ok s true && ok d false && runs (.brp w) s && runs (.brp w) d = true := by decide +kernel

theorem witness_StraightControlCompletes :
    let p := { bare3 with dst := .p 6, sa := r (.p 1), sub := 1 }
    let l := { bare3 with dst := .p 0, sa := r (.p 7), sb := r (.p 1), negB := true, sub := 2 }
    let m := { bare3 with dst := .s 63, sub := 4 }
    let two := withSlices tiny (fun _ y => { y with amask := 3, lstk := [⟨.branch, none, 15, 12, 0, 0x108, false, none⟩] })
    holds two (fun c => okNeed c (Need.bare bare3.legalBare true Guard.always) && (List.range 32).all (fun i => !(c.g.sliceAt i).wait.isRegang) &&
      c.g.loop.isNone && c.g.splits.isEmpty && decide (c.slices = [0]) && sliceLanes 0 (c.acting Guard.always) == 3 && (c.g.sliceAt 0).xmask == 0) &&
    runs (.exit bare3) two &&
    holds tiny (fun c => okNeed c (Need.bare bare3.legalBare false Guard.always) && okNeed c (Need.bare bare3.legalBareGroup true Guard.always) &&
      okNeed c ⟨p.legalVote, false, p.guard, [(p.dst, 1)], []⟩ && okNeed c (Need.bare l.legalPlop false l.guard) &&
      okNeed c ⟨m.legalMaskrd, false, m.guard, [(m.dst, 1)], []⟩ && c.g.loop.isNone && c.sec == 0) &&
    [.nop bare3, .yield bare3, .commit bare3, .vote p, .plop l, .maskrd m, .exit bare3].all (fun i => runs i tiny) = true := by
  decide +kernel

theorem witness_SlicesMeetAtRegangAndBarrier :
    let g := { bare3 with sa := x 0xFFFFFFFF }
    let b := { bare3 with sa := x 15, sb := x 17 }
    let b2 := { bare3 with sa := x 0, sub := 2 }
    holds tiny (fun c => okNeed c ⟨g.legalRegang, true, g.guard, [], [(g.sa, 1)]⟩ && decide ((c.uniform tiny g.sa).2 = none) &&
      c.g.loop.isNone && c.g.splits.isEmpty && decide (c.slices = [0]) && (List.range 32).all (fun i => !(c.g.sliceAt i).wait.isRegang) &&
      decide (((c.uniform tiny g.sa).1.setWidth 32 ||| gangMask c.slices) &&& ~~~c.g.dead &&& ~~~(gangMask c.slices) = 0) &&
      okNeed c ⟨b.legalBar, true, b.guard, [], [(b.sa, 1), (b.sb, 1)]⟩ && okNeed c ⟨b2.legalBar, true, b2.guard, [], [(b2.sa, 1), (b2.sb, 1)]⟩ &&
      c.head.wait == .none && c.sec == 0 && c.g.sq.isEmpty && (c.co.barrier 15).cnt == 0 && !(c.g.sliceAt 0).held) &&
    [.regang g, .bar b, .bar b2].all (fun i => runs i tiny) = true := by decide +kernel

theorem witness_AllotmentInstructions :
    let full := withG tiny (fun g => { g with allot := { g.allot with full := true, fullv := 14 } })
    let small := withG tiny (fun g => { g with allot := { g.allot with fullv := 14 } })
    let admitted := withSlices full (fun _ y => { y with wait := .acquire true })
    [full, small, tiny].all (fun s => holds s (fun c => okNeed c (Need.bare bare3.legalBareGroup true Guard.always) && c.head.wait == .none) &&
      runs (.acquire bare3) s && runs (.shed bare3) s) &&
    holds admitted (fun c => okNeed c (Need.bare bare3.legalBareGroup true Guard.always) && c.head.wait == .acquire true) &&
    runs (.acquire bare3) admitted = true := by decide +kernel

/-- The checks of `Operand.Reaches` as a Bool, and the accesses. -/
def accesses (o : Operand) (c : Ctx) (s : State) : List Access :=
  if o.space = .global then (s.translateLanes c o).ok else o.lanes.map (fun y => { lane := y.1, va := y.2.1, pa := y.2.1 })
def reaches (o : Operand) (c : Ctx) (s : State) : Bool :=
  o.lanes.all (fun y => y.2.2.2.isNone && y.2.1 % o.size == 0 && (o.space != .global || decide (y.2.1 < 2 ^ 57)) &&
    (o.space != .scratch || decide (y.2.1 + o.size ≤ if o.write then c.scratchBelow else c.scratchSize)) &&
    (o.space != .ws || decide (y.2.1 + o.size ≤ c.p.wsSize)) && (o.base.map (·.valid)).getD true) &&
  (o.space != .global || (!(s.translateLanes c o).bad && (s.translateLanes c o).faults.isEmpty)) &&
  (accesses o c s).all (fun a => !o.locks || !s.lockHit c.g o.write (o.space == .scratch) a.va o.size)

/-- s1 is the last word of a page, s2 of the scratchpad, s3 the last byte of the weight store, s4 an LDK's packed operand. -/
def memory : State :=
  (withP (withS tiny [(1, 0x1FFFC), (2, 1020), (3, 12582911), (4, 0xFFFFFFFF000003F0)]) 1 1).onPart 0 (fun p => { p with banks := [255] })

theorem witness_LoadsBeginFills :
    let g := { wordM (.v 8) (r (.s 1)) (r .zero) (r .zero) with size := .w32, scope := .sys, order := .acq }
    let d := { wordM (.v 8) (r (.s 2)) (r .zero) (r .zero) with size := .w32, space := true }
    let w := wordM (.v 8) (r (.s 3)) (r .zero) (r .zero)
    holds memory (fun c =>
      [g, d].all (fun w => okNeed c (fmNeed w w.legalLd false (dstRegs w.size.bytes w.dst) 1) &&
        reaches (FmOperand c memory w w.ioff.toNat false true (accessLanes w (c.acting w.guard))) c memory &&
        okNeed c (fmNeed w w.legalLr true (wordsFor w.size.bytes) 1)) && c.g.loop.isNone &&
      okNeed c (fmNeed d d.legalLds false (wordsFor 4) 1) && reaches (stridedOperand c memory { d with sa := r .zero } false (c.acting d.guard)) c memory &&
      okNeed c (fmNeed w w.legalWld false (dstRegs 1 w.dst) 1) &&
      reaches { FmOperand c memory w 0 false false (accessLanes w (c.acting w.guard)) with space := .ws } c memory) &&
    [.ld g, .ld d, .lr g, .lr d, .lds { d with sa := r .zero }, .wld w].all (fun i => runs i memory) = true := by decide +kernel

theorem witness_StoresEnterTheQueue :
    let g := { wordM .zero (r (.s 1)) (r .zero) (r (.v 1)) with size := .w32, scope := .sys, order := .rel }
    let d := { wordM .zero (r (.s 2)) (r .zero) (r (.v 1)) with size := .w32, space := true }
    let e := { d with sa := r .zero }
    let k := { wordM .zero (r (.s 1)) (r .zero) (r (.s 4)) with size := .w32 }
    holds memory (fun c =>
      [g, d].all (fun w => okNeed c (fmNeed w w.legalSt true 1 (dataRegs 4 w.sc)) &&
        reaches (FmOperand c memory w w.ioff.toNat true true (c.acting w.guard)) c memory) &&
      okNeed c (fmNeed e e.legalSts true 1 (dataRegs 4 e.sc)) && reaches (stridedOperand c memory e true (c.acting e.guard)) c memory &&
      okNeed c (fmNeed k k.legalLdk true 1 1) && reaches (FmOperand c memory k 0 false true (c.acting k.guard)) c memory &&
      reaches (ldkDest (c.ldkShape memory k) 4 (c.acting k.guard)) c memory && (c.ldkShape memory k).pois.isNone &&
      (c.ldkShape memory k).aw.isNone && (c.ldkShape memory k).sdst % 4 == 0 && c.scratchBelow == 1024 && c.g.sq.isEmpty) &&
    [.st g, .st d, .sts e, .ldk k].all (fun i => runs i memory) = true := by decide +kernel

theorem witness_AtomicsComplete :
    let w := { wordM (.v 8) (r (.s 2)) (r .zero) (r (.v 2)) with size := .w32, space := true, guard := ⟨false, 1⟩ }
    let z := { w with dst := .zero }
    let s := withG memory (fun g => { g with resv := [⟨0, 15, true, .w32, .core, 0⟩] })
    let acc : Access := { lane := 0, va := 1020, pa := 1020 }
    let staged := fun (accs : List Access) => withSlices memory (fun _ y => { y with wait := .atomic 4 accs none false [8] })
    let fenced := withSlices memory (fun _ y => { y with wait := .filling 5 })
    [memory, s].all (fun s => holds s (fun c => [w, z].all (fun w => okNeed c (fmNeed w w.legalAtom true (wordsFor 4) (dataRegs 4 w.sc)) &&
        okNeed c (fmNeed w w.legalCas true (wordsFor 4) (2 * wordsFor 4)) && okNeed c (fmNeed w w.legalSc true 1 (dataRegs 4 w.sc)) &&
        reaches (FmOperand c s w 0 true true (c.acting w.guard)) c s &&
        decide ((accesses (FmOperand c s w 0 true true (c.acting w.guard)) c s).map (·.lane) = [0])) &&
        c.g.loop.isNone && c.head.wait == .none) &&
      [.atom w, .atom z, .cas w, .cas z, .sc w, .sc z].all (fun i => runs i s)) &&
    [[], [acc]].all (fun a => holds (staged a) (fun c => c.head.wait == .atomic 4 a none false [8] &&
        (staged a).atomicReady c.g 4 w.scope && a.all (fun x => !(staged a).atomicBlocked c w x)) &&
      [.atom w, .cas w, .sc w].all (fun i => runs i (staged a))) &&
    holds fenced (fun c => c.head.wait == .filling 5 && c.g.fills.isEmpty) && runs (.cas w) fenced = true := by decide +kernel

theorem witness_TranslationAndPrefetch :
    let w := { word3 (.s 63) (x 0) (x 65536) (r .zero) with sub := 3 }
    let t := word3 (.b 1) (r (.s 1)) (r .zero) (r .zero)
    let t0 := { t with guard := ⟨true, 7⟩ }
    let p := { wordM .zero (r (.s 1)) (r .zero) (r .zero) with size := .w128, scope := .die }
    let one := withP memory 1 1
    let q := { p with size := .w32, guard := ⟨false, 1⟩ }
    holds one (fun c =>
      let o := FmOperand c one q 0 false true (c.acting q.guard)
      okNeed c (fmNeed q q.legalPref false 1 1) && (match o.lanes with
        | [y] => decide (y.2.1 < 2 ^ 57) && decide (y.2.1 % o.size = 0) && (o.base.map (·.valid)).getD true && (match (one.translateLane c o y).1 with | .ok _ => true | _ => false) &&
          !one.lockHit c.g true false y.2.1 o.size
        | _ => false)) && runs (.pref q) one &&
    holds memory (fun c => okNeed c ⟨w.legalWstat, false, w.guard, [(w.dst, 1)], [(w.sa, 1), (w.sb, 1)]⟩ &&
      [t, t0].all (fun t => okNeed c ⟨t.legalTrb, false, t.guard, [], [(t.sa, 1)]⟩) && (c.acting t0.guard).isEmpty && c.acting t.guard != [] &&
      decide ((c.uniform memory t.sa).2 = none) && (match (memory.translate c.p c.g.core c.g.ctl.asid 0x1FFFC).1 with | .ok _ _ _ => true | _ => false) &&
      (((memory.translate c.p c.g.core c.g.ctl.asid 0x1FFFC).2.core c.g.core).l1.find? (fun e => e.hits c.g.ctl.asid 0x1FFFC)).isSome &&
      okNeed c (fmNeed p p.legalPref false 1 1) && (FmOperand c memory p 0 false true (c.acting p.guard)).lanes.all (fun y => y.2.2.2.isNone)) &&
    [.wstat w, .trb t, .trb t0, .pref p].all (fun i => runs i memory) = true := by decide +kernel

theorem witness_FencesComplete :
    let f := { wordM .zero (r .zero) (r .zero) (r .zero) with order := .ar, scope := .surv }
    let f1 := { f with scope := .core, order := .acq }
    let f0 := { f with guard := ⟨true, 7⟩ }
    let y := { bare3 with sub := 2 }
    let y0 := { y with guard := ⟨true, 7⟩ }
    let fenced := withSlices tiny (fun _ y => { y with wait := .fence [5] (some 6) })
    let fr := { f1 with order := .rel }
    let loading := withG tiny (fun g => { g with fills := [⟨9, [], [], [.v 8 127 ⟨7, none⟩], .ready, true⟩] })
    let storing := { withG tiny (fun g => { g with sq := [⟨3, 3, true, none, .scratch [⟨1023, 7, none, none⟩]⟩] }) with nextUid := 9 }
    holds loading (fun c => [f1, fr].all (fun w => okNeed c (Need.bare w.legalFence false w.guard)) && c.g.loadFills == [9] &&
      !loading.fenceReady c.g c.g.loadFills none && okNeed c (Need.bare y.legalXfence false y.guard) && decide (y.sub ≠ 0)) &&
    [.fence f1, .fence fr, .xfence y].all (fun i => runs i loading) &&
    holds storing (fun c => okNeed c (Need.bare f.legalFence false f.guard) && !storing.fenceReady c.g [] (some storing.nextUid)) && runs (.fence f) storing &&
    holds tiny (fun c => [f, f0, f1].all (fun w => okNeed c (Need.bare w.legalFence false w.guard)) && c.g.loop.isNone && c.g.loadFills.isEmpty &&
      [y, y0].all (fun w => okNeed c (Need.bare w.legalXfence false w.guard)) && (c.acting f0.guard).isEmpty && c.acting f.guard != [] &&
      c.g.sq.isEmpty && (tiny.unhomed c.g.gid).isEmpty && tiny.pq.isEmpty && c.head.wait == .none) &&
    holds fenced (fun c => c.head.wait == .fence [5] (some 6) && fenced.fenceReady c.g [5] (some 6)) &&
    [.fence f, .fence f0, .fence f1, .xfence y, .xfence y0].all (fun i => runs i tiny) && runs (.fence f) fenced && runs (.xfence y) fenced = true := by
  decide +kernel

theorem witness_StoresReachMemory :
    let put := fun (op : EntryOp) => withG tiny (fun g => { g with sq := [⟨3, 3, true, none, op⟩] })
    let bytes : List WByte := [⟨1023, 7, none, none⟩, ⟨1022, 8, none, none⟩]
    let q : Packet := { (default : Packet) with id := 4, bytes := bytes }
    [put (.scratch bytes), put (.global bytes (some .sys)), put (.trigMarker 3)].all (fun s =>
      (s.group? 0).any (fun g => g.sq.any (fun e => e.committed && s.drainable g e.op)) && runs (.drain 0) s) &&
    !{ tiny with cfq := [q] }.isHeld q && firstFor q ({ tiny with cfq := [q] }.cfqOf (clusterOf q.core)) && runs (.lift 4) { tiny with cfq := [q] } &&
    firstFor q [q] && (tiny.part? 0).all (fun p => p.prot.isEmpty) && runs (.home 4) { tiny with df := [q] } = true := by decide +kernel

theorem witness_CopiesAndFills :
    let s := { tiny with copies := [⟨.core 0, 5, List.replicate 64 1, none, none, []⟩] }
    let f : Fill := ⟨9, [8], [], [.v 8 127 ⟨7, none⟩], .ready, true⟩
    let fills := fun (w : FillWait) => withG tiny (fun g => { g with fills := [{ f with wait := w }], regs := { g.regs with vEmpty := [8] } })
    (s.copy? (.core 0) 5).isSome && [.refresh (.core 0) 5, .drop (.core 0) 5].all (fun i => runs i s) &&
    [fills .ready, fills (.lmm true), fills (.cycle 0)].all (fun s => (s.group? 0).any (fun g => (g.fills.find? (fun y => y.id == 9)).isSome) &&
      runs (.fillComplete 0 9) s) = true := by decide +kernel

/-- Section headers at 0x100, 0x108 and 0x110, a queue at 1008 whose NEXT is below its LIMIT, and LOOPB last in its block. -/
def looped : State :=
  ((inBlock tiny 0xF020000000000000).stored 0x100 [0xF010000000010000, 0xF010000000020000, 0xF010000000030000]).onCohort 0
    (fun c => c.writeScratchWord 1012 1 none)
def lit3 : Word64 := 0x1F + 0x20 * 2 ^ 21 + 0x21 * 2 ^ 42
def loop0 : Loop := ⟨0x100, 0x108, 0x110, 24, 1008, 15, [0, 1], [0], [], none⟩

theorem witness_LoopsRunTheirSections :
    let w := { bare3 with sa := x 1008, sb := x lit3 }
    let s := inBlock looped 0xF030000000000000
    let f := { bare3 with sa := r (.p 1) }
    let sec := fun (s : State) (c : Ctx) (lo k : Nat) => match (s.headerAt c.p c.g (sectionTarget c lit3 lo)).1 with
      | .header h => (bits h 16 2).toNat == k | _ => false
    let b := withP (withG (inBlock tiny 0xFFF0000000020000) (fun g => { g with loop := some loop0 })) 1 0b0110
    let t := withG tiny (fun g => { g with loop := some loop0, sq := [⟨7, 7, false, some 0, .awset 0 1⟩, ⟨8, 8, false, some 1, .awset 0 1⟩] })
    holds s (fun c => okNeed c ⟨w.legalLoopb && c.isLast w.words, true, w.guard, [], [(w.sa, 1)]⟩ && decide ((c.uniform s w.sa).2 = none) &&
      c.sec == 0 && c.g.loop.isNone && decide (1008 + 16 ≤ c.scratchBelow) && sec s c 0 1 && sec s c 21 2 && sec s c 42 3 &&
      c.active == [0, 1, 2, 3] && (List.range 32).all (fun i => (c.g.sliceAt i).imask == 0) && !bit (c.g.sliceAt 0).xmask 0 && decide ((c.uniform s w.sb).1 = lit3) &&
      (c.co.scratchWord 1008).ult (c.co.scratchWord 1012)) && runs (.loopb w) s &&
    holds b (fun c => okNeed c (Need.bare f.legalRefill true f.guard) && c.g.loop.isSome && c.sec == 2 &&
      (c.acting f.guard).all (fun l => (c.g.pPois 1 l).isNone) && decide ((c.g.sliceAt 0).lstk.length < 16)) && runs (.refill f) b &&
    (t.group? 0).any (fun g => !g.discarding && (List.range 32).all (fun j => !(g.sliceAt j).wait.isRegang) &&
      g.loop.any (fun lp => lp.nextTurn == some 0)) && runs (.turn 0) t = true := by decide +kernel

/-- Addresses in s2 to s4, shapes of one row of 64 bytes from s12 (plain) and s16 (indexed), a stripe unit from s20, and the
parity record that it names. -/
def engined : State :=
  (withS tiny [(2, 0), (3, 0x1000), (4, 0x4000), (12, 0x4000000001), (16, 0x4000000001), (17, 0x4000000040), (18, 0x4000000001), (5, 0x100000),
    (20, 0x100000000), (21, 0x0001100000000000), (31, 0x8000000000000000)]).onPart 0 (fun p =>
      { p with ctl := { p.ctl with pgTab := 0x8000, thandler := 0x100 } }) |>.stored 0x8000 [0x0001140000100000, 0]

theorem witness_EngineCommandsEnterOrTrap :
    let cp := { wordX .zero (r (.s 2)) (r (.s 3)) (r (.s 12)) with cmd := 0x80 }
    let cg := { cp with sc := r (.s 16), hold := true }
    let cs := { wordX .zero (r (.s 3)) (r (.s 2)) (r (.s 16)) with cmd := 0x20 }
    let cr := wordX .zero (r (.s 4)) (r (.s 3)) (r (.s 12))
    let rb := wordX .zero (r (.s 5)) (r (.s 2)) (r (.s 20))
    let bad := fun (w : FX) => { w with sc := r (.s 28) }
    let all := fun (f : FX → FX) (q : FX → Bool → CmdKind → Bool) => q (f cp) (f cp).legalCpy .cpy && q (f cg) (f cg).legalCpyg .cpyg &&
      q (f cs) (f cs).legalCpys .cpys && q (f cr) (f cr).legalCpyr .cpyr && q (f cr) (f cr).legalCpyh .cpyh
    holds engined (fun c =>
      c.head.wait == .none && c.sec == 0 && c.g.sq.isEmpty && c.acting Guard.always != [] && c.handler == false && c.g.frame.busy == false &&
      decide (c.p.ctl.thandler ≠ 0) && ((engined.cluster 0).freeSlot == some 0) &&
      all id (fun w l k => okNeed c (cmdNeed w l) && (c.cmdRegs engined w).pois.isNone &&
        (engined.issueCode c (copyCode1 w k (c.cmdRegs engined w)) false (c.copyCmd w k (c.cmdRegs engined w))).isNone &&
        engined.locksFit { c.copyCmd w k (c.cmdRegs engined w) with slot := 0 }) &&
      all bad (fun w l k => okNeed c (cmdNeed w l) &&
        engined.issueCode c (copyCode1 w k (c.cmdRegs engined w)) false (c.copyCmd w k (c.cmdRegs engined w)) == some 1) &&
      okNeed c (cmdNeed rb rb.legalRebuild) && engined.locksFit { c.rebuildCmd rb (c.cmdRegs engined rb) with slot := 0 } &&
      (engined.issueCode c (rebuildCode1 rb (c.cmdRegs engined rb)) (rebuildCode15 (c.cmdRegs engined rb)) (c.rebuildCmd rb (c.cmdRegs engined rb))).isNone &&
      engined.issueCode c (rebuildCode1 (bad rb) (c.cmdRegs engined (bad rb))) (rebuildCode15 (c.cmdRegs engined (bad rb)))
        (c.rebuildCmd (bad rb) (c.cmdRegs engined (bad rb))) == some 1) &&
    [.cpy cp, .cpyg cg, .cpys cs, .cpyr cr, .cpyh cr, .rebuild rb, .cpy (bad cp), .cpyg (bad cg), .cpys (bad cs), .cpyr (bad cr),
      .cpyh (bad cr), .rebuild (bad rb)].all (fun i => runs i engined) = true := by decide +kernel

/-- A HELD CPYS of number 31 in the queue of cluster 0. -/
def heldCmd : Cmd :=
  match engined.ctx? with
  | some c =>
    let w := { wordX .zero (r (.s 3)) (r (.s 2)) (r (.s 16)) with cmd := 0x20 }
    { c.copyCmd w .cpys (c.cmdRegs engined w) with uid := 5, hnum := some 31 }
  | none => default
def withHeld : State := (withS engined [(9, 0x80000000), (10, 0x00001F01)]).onCluster 0 (fun k => { k with eq := [heldCmd] })

theorem witness_HeldCommandsAndBins :
    let rl := wordX .zero (r (.s 9)) (r .zero) (r .zero)
    let bp := { wordX .zero (r (.s 10)) (r .zero) (r .zero) with cmd := 0x100 }
    let bn := word3 .zero (r .zero) (r (.v 1)) (r .zero)
    let big := (withV engined [(1, 1023)]).onCohort 0 (fun c => { c with scrk := 4 })
    let apart := big.onCluster 0 (fun k => { k with eq := [heldCmd], rlt := [⟨true, true, 0, 0, 256, 16, heldCmd.slot, 0⟩] })
    holds withHeld (fun c => c.head.wait == .none && c.g.sq.isEmpty && c.sec == 0 && c.acting Guard.always != [] &&
      (List.range 32).all (fun i => (c.g.sliceAt i).wait == .none) && okNeed c ⟨rl.legalCrel, true, rl.guard, [], [(rl.sa, 1)]⟩ &&
      decide (c.uniform withHeld rl.sa = (BitVec.ofNat 64 (2 ^ 31), none)) && withHeld.heldCmd? 0 31 == some heldCmd &&
      withHeld.cmd? 0 0 == some heldCmd && (heldCmd.state == .held) && (heldCmd.code c.p (withHeld.cmdScratch heldCmd).1 (withHeld.cmdScratch heldCmd).2).isNone &&
      withHeld.locksFit heldCmd && okNeed c ⟨bp.legalBpatch, true, bp.guard, [], [(bp.sa, 1)]⟩ &&
      (let y := Patch.ofWord (c.uniform withHeld bp.sa).1
       y.n == 1 && y.h0 == 31 && y.b0 == 0 && y.ctoff == 0 && !patchReserved (c.uniform withHeld bp.sa).1) &&
      withHeld.allCmds.all (fun y => y == heldCmd)) &&
    holds big (fun c => okNeed c ⟨bn.legalBin, true, bn.guard, [], [(bn.sa, 1), (bn.sb, 1), (bn.sc, 1)]⟩ && c.scratchBelow == 4096 &&
      (c.acting bn.guard).all (fun l => decide ((c.read big bn.sb false l).2 = none) && decide ((c.read big bn.sb false l).1.toNat < 1024)) &&
      decide ((c.uniform big bn.sa) = (0, none)) && !big.lockHit c.g true true 0 4096) &&
    holds apart (fun c => mayTrap c && apart.lockHit c.g true true 0 4096 &&
      (c.acting bn.guard).all (fun l => !apart.lockHit c.g true true (4 * (c.read apart bn.sb false l).1.toNat) 4)) &&
    [.crel rl, .bpatch bp].all (fun i => runs i withHeld) && [big, apart].all (runs (.bin bn)) = true := by decide +kernel

theorem witness_ArrivalWordsComplete :
    let w := { bare3 with sa := x 1008, sb := x 5 }
    let g := { word3 (.s 8) (x 1008) (r .zero) (r .zero) with sb := x 5 }
    let n := { bare3 with dst := .s 8, sa := r .zero }
    let g := { g with sa := r (.s 1) }
    let s := withS tiny [(1, 1008), (2, 5)]
    holds s (fun c => c.acting w.guard != [] && decide ((c.uniform s w.sa).2 = none) && decide ((c.read s w.sb false 0).2 = none) &&
      decide (1008 + 16 ≤ c.scratchBelow) && c.head.wait == .none && !s.lockHit c.g true true 1008 16 && c.g.sqCount == 0 &&
      (c.retireIter 0).isNone && okNeed c ⟨w.legalAwset, true, w.guard, [], [(w.sa, 1), (w.sb, 1)]⟩ &&
      okNeed c ⟨g.legalAwwait, true, g.guard, [(g.dst, 1)], [(g.sa, 1), (g.sb, 1)]⟩ && c.co.scratchWord 1016 != 5 &&
      okNeed c ⟨n.legalAwgen, true, n.guard, [(n.dst, 1)], [(n.sa, 1), (n.sb, 1)]⟩) &&
    [.awset w, .awadd w, .awwait g, .awgen n].all (fun i => runs i s) && (s.cohort? 0).isSome = true := by decide +kernel

/-- A group with its full allotment whose 128 lanes all act, with tiles, and a TSEL of tile 63 and part 7 in s1. -/
def matrixed : State :=
  ((withS (({ State.reset.placeWord 64 0 with cur := .path 0 0 } : State)) [(1, 0x73F), (2, 15)]).onGroup 0 (fun g =>
    { g with allot := { g.allot with full := true, fullv := 14 } })).onCohort 0 (fun c => { c with atiles := 64 })

theorem witness_GroupMatrixCompletes :
    let rd := { word3 (.v 127) (r (.s 1)) (r .zero) (r .zero) with ty := .f32 }
    let wr := { word3 .zero (r (.s 1)) (r (.v 1)) (r .zero) with ty := .i32, guard := ⟨false, 1⟩ }
    let cp := { bare3 with sa := r (.s 2) }
    let lm := { word3 (.v 126) (r (.v 0)) (r (.v 1)) (r (.v 2)) with ty := .bf16 }
    let lt := { lm with sub := 1, sc := x 0xFF }
    let s := withP matrixed 1 1
    let held := s.onCore 0 (fun k => { k with capo := SMap.put none k.capo 0 (some 3) })
    let req : LmmReq := ⟨0, 9, true, [], [], [], none, 126⟩
    let served := (withG s (fun g => { g with fills := [⟨9, [126, 127], [], [], .lmm false, false⟩] })).onCore 0 (fun k => { k with lmmQueue := [req] })
    holds s (fun c => okNeed c ⟨rd.legalMrd, true, rd.guard, [(rd.dst, 1)], [(rd.sa, 1)]⟩ &&
      decide ((c.uniform s rd.sa).2 = none) && decide ((c.uniform s rd.sa).1 &&& ~~~tselMask = 0) && c.tileOk 63 && c.acting wr.guard != [] &&
      okNeed c ⟨wr.legalMwr, true, wr.guard, [], [(wr.sa, 1), (wr.sb, 1)]⟩ && c.co.maskOf 63 == 0 &&
      okNeed c ⟨cp.legalCapo, false, cp.guard, [], [(cp.sa, 1)]⟩ && (SMap.get none (s.core c.g.core).capo c.g.quarter).isNone &&
      okNeed c ⟨lm.legalLmm, true, Guard.always, [(lm.dst, 2)], [(lm.sa, 1), (lm.sb, 1), (lm.sc, 2)]⟩ && c.wholeGroup && c.g.lmmCount == 0 &&
      okNeed c ⟨lt.legalLmm, true, Guard.always, [(lt.dst, 2)], [(lt.sa, 1), (lt.sb, 1), (lt.sc, 1)]⟩ &&
      decide ((c.uniform s lt.sc).1 &&& ~~~lmmMask = 0)) &&
    holds held (fun c => SMap.get none (held.core c.g.core).capo c.g.quarter == some 3) &&
    [.mrd rd, .mwr wr, .capo cp].all (fun i => runs i s) && runs (.capo cp) held && runs (.lmm lm) s && runs (.lmm lt) s &&
    (served.core 0).lmmQueue.find? LmmReq.ready == some req && (served.group? 0).isSome = true := by decide +kernel

/-- A task table with one kernel task, and one join that waits for a decrement. -/
def tasked : State :=
  (withS tiny [(2, 0x1000), (3, 1), (4, 65534)]).onPart 0 (fun p =>
    { p with tasks := p.tasks ++ [{ Task.probe with tid := 1, kind := .join, state := .waiting, depc := 1 }],
             totals := { p.totals with ttsize := 4, cbase := 3, ttbase := 0x10000 }, ctl := { p.ctl with crBase := 0x20000 } })

theorem witness_TaskInstructionsComplete :
    let sp := { bare3 with dst := .s 5, sa := r (.s 2) }
    let ar := { bare3 with dst := .s 5, sa := r (.s 3), sb := r (.s 4) }
    let td := { bare3 with sa := r (.s 3) }
    let taken := (withSlices tasked (fun _ y => { y with wait := .staged 2 [] })).onPart 0 (fun p => { p with spawned := [(0, 0, 7)] })
    holds tasked (fun c => okNeed c ⟨sp.legalSpawn, true, sp.guard, [(sp.dst, 1)], [(sp.sa, 1)]⟩ && c.g.sq.isEmpty &&
      (tasked.unhomed 0).isEmpty && c.head.wait == .none && c.acting Guard.always != [] && !c.inRetire && decide (c.p.ports.flits.length < 256) &&
      [sp.sa, ar.sa, ar.sb].all (fun y => decide ((c.uniform tasked y).2 = none)) && decide ((c.uniform tasked sp.sa).1 = 0x1000) &&
      (match (tasked.translate c.p c.g.core c.g.ctl.asid 0x1000).1 with | .ok _ _ _ => true | _ => false) &&
      okNeed c ⟨ar.legalArm, true, ar.guard, [(ar.dst, 1)], [(ar.sa, 1), (ar.sb, 1)]⟩ && decide ((c.uniform tasked ar.sb).1 = 65534) &&
      (tasked.task? c.p.id 1).any (fun k => k.state == .waiting && decide (k.depc + 65534 ≤ 65535)) &&
      okNeed c ⟨td.legalTdec, true, td.guard, [], [(td.sa, 1)]⟩ && okNeed c (Need.bare bare3.legalBare true Guard.always) && c.g.loop.isNone) &&
    holds taken (fun c => c.head.wait == .staged 2 [] && c.p.spawned.find? (fun y => y.1 == c.g.gid && y.2.1 == c.path) == some (0, 0, 7)) &&
    [.spawn sp, .arm ar, .tdec td, .trig bare3].all (fun i => runs i tasked) && runs (.spawn sp) taken = true := by decide +kernel

theorem witness_ParkWritesTheContinuation :
    let s := withS tasked [(1, 65535), (8, 0x8001)]
    let w := { bare3 with dst := .s 7, sa := r (.s 1), sc := r (.s 8), sub := 1 }
    let g := { w with sa := r .zero, sub := 0 }
    holds s (fun c => [w, g].all (fun w => okNeed c ⟨w.legalPark, false, w.guard, [(w.dst, 1)], [(w.sa, 1), (w.sb, 1), (w.sc, 2)]⟩ &&
        decide ((c.uniform s w.sa).2 = none) && c.badWake w.sub.toNat (c.uniform s w.sa).1 w.sa.isZero == false &&
        s.evalWake c w.sub.toNat (c.uniform s w.sa).1 != .fails) &&
      c.head.wait == .none && c.g.loop.isNone && !c.g.parted && decide ((c.uniformAt w.sc 0).2 = none) && decide ((c.uniformAt w.sc 1).2 = none) &&
      bitmapRegs ((c.uniformAt w.sc 1).1 ++ (c.uniformAt w.sc 0).1) == [0, 15] && c.g.vCount == 16 && c.g.fills.isEmpty && c.g.sq.isEmpty &&
      (s.unhomed c.g.gid).isEmpty && (List.range 32).all (fun i => !(c.g.sliceAt i).wait.midway) && !c.isLast w.words &&
      c.p.freeCont == some 3 && (s.task? c.p.id c.co.tid).isSome && c.p.prot.isEmpty && c.g.cont.isNone && s.parityRoom c.p.id [] &&
      physOk (c.p.recordAt 3) && physOk (c.p.recordAt 3 + 8575)) = true := by decide +kernel

/-- Page tables under ASID 0: page 0 is mapped, page 1 has no entry, page 4 is malformed, and 0x800000 has no level-3 table; a heap window
of pages 2 and 3 with object 1 in page 3; one frame in the page pool. -/
def heaped : State :=
  ((withS tasked [(20, 0x100000001), (21, 0x100000101), (22, 0x100000002), (23, 15), (24, 0x20000), (25, 0x80000), (26, 0x800000)]).onPart 0 (fun p =>
    { p with totals := { p.totals with dmq := 1 }, ctl := { p.ctl with
        ptroot := SMap.put 0 p.ctl.ptroot 0 0x100000, objBase := 0x9000, objN := 3, heapBase := 0x40000, heapLen := 0x40000
        poolBase := 0xA000, poolFree := 1 } })) |>.stored 0x100000 [0x200001] |>.stored 0x200000 [0x300001] |>.stored 0x300000 [0x301001]
    |>.stored 0x301000 [0xB, 0, 0, 0x84000B, 1] |>.stored 0x9020 [0x4000010001, 0x60000, 0x100000000, 0] |>.stored 0xA000 [0x860000]

/-- The record of object 1 with other counts. -/
def counted (w0 : Word64) : State := heaped.stored 0x9020 [w0]

/-- What `Destroyed` asks of object 1: its page's entry is at 0x301018, its frame 0x840000, and the slot that takes it 0xA008. -/
theorem witness_Destroyed :
    (heaped.part? 0).any (fun p => p.prot.isEmpty && (heaped.objRec p 1).npg == 1 && (match heaped.walk p p.firstAsid 0x60000 with
        | .leaf 3 e f _ _ => e == 0x301018 && f == 0x840000 && deviceOk f && p.ctl.poolBase.toNat + 8 * p.ctl.poolFree == 0xA008
        | _ => false) &&
      let words := (List.range 4).map (fun j => p.recAddr 1 + 8 * j) ++ [0x301018, 0xA008]
      let apart := fun (a b : Nat) => decide (a + 8 ≤ b ∨ b + 8 ≤ a)
      words.all (fun a => (List.range 8).all (fun j => physOk (a + j))) && words.zipIdx.all (fun (a, i) => (words.drop (i + 1)).all (apart a)) &&
      (heaped.walkReads p.id 0x60000 4 0 (p.ptroot p.firstAsid).toNat).all (fun a => a == 0x301018 || words.all (apart a))) = true := by
  decide +kernel

theorem witness_HandleInstructionsComplete :
    let st := fun n => { bare3 with dst := .s 5, sa := r (.s n) }
    let up := fun n => { bare3 with dst := .s 6, sa := r (.s n) }
    let pr := fun n => { bare3 with sa := r (.s n), sb := r (.s 23) }
    holds heaped (fun c => [20, 21, 22].all (fun n => !malformedHandle c.p (c.uniform heaped (r (.s n))).1 && decide ((c.uniform heaped (r (.s n))).2 = none) &&
        okNeed c ⟨(st n).legalHandleStatus, true, Guard.always, [((st n).dst, 1)], [((st n).sa, 1), ((st n).sb, 1)]⟩ &&
        okNeed c ⟨(st n).legalHweak, true, Guard.always, [((st n).dst, 1)], [((st n).sa, 1), ((st n).sb, 1)]⟩ &&
        okNeed c ⟨(up n).legalHupg, true, Guard.always, [((up n).dst, 2)], [((up n).sa, 1), ((up n).sb, 1)]⟩ &&
        okNeed c ⟨(pr n).legalHpri, true, Guard.always, [((pr n).dst, 1)], [((pr n).sa, 1), ((pr n).sb, 1)]⟩) &&
      c.g.sq.isEmpty && (heaped.unhomed 0).isEmpty && c.head.wait == .none && c.acting Guard.always != [] && !c.inRetire && physOk (c.p.recAddr 1) &&
      (heaped.match? c.p (Handle.ofWord 0x100000101)).isNone &&
      (heaped.match? c.p (Handle.ofWord 0x100000001)).any (fun y => y.wcnt == 1 && y.scnt == 1) && decide ((c.uniform heaped (r (.s 23))).1 = 15)) &&
    [counted 0x4000010000, counted 0x4000000001].all (fun s => holds s (fun c => (s.match? c.p (Handle.ofWord 0x100000001)).isSome)) &&
    [20, 21, 22].all (fun n => [.hfree (st n), .hrel (st n), .hweak (st n), .hupg (up n), .hpri (pr n)].all (fun i => runs i heaped)) &&
    runs (.hrel (st 20)) (counted 0x4000010000) && runs (.hrel (st 20)) (counted 0x4000000001) = true := by decide +kernel

theorem witness_HeapObjectsComplete :
    let al := { bare3 with dst := .s 10, sa := x 0x20000, sb := r (.s 23) }
    let ld := { wordM (.v 8) (r (.s 20)) (x 0x1FFFC) (r (.p 6)) with size := .w32, scope := .dev }
    let stale := { ld with sa := r (.s 21) }
    let none_ := heaped.stored 0x9040 [0x8000000000]
    holds heaped (fun c => okNeed c ⟨al.legalHalloc, true, al.guard, [(al.dst, 2)], [(al.sa, 1), (al.sb, 1)]⟩ && physOk (c.p.recAddr 0) && physOk (c.p.recAddr 3) &&
      decide (heaped.use c.p false + 1 ≤ c.p.quota false + c.p.borrow false) && decide (1 ≤ c.p.poolCount false) && heaped.freeIndex c.p == some 2 &&
      heaped.lowestRun c.p 1 == some 0x40000 && [ld, stale].all (fun w => okNeed c (fmNeed w w.legalLdw true (dstRegs 4 w.dst) 1) &&
        (c.acting w.guard).all (fun l => decide ((c.ldwOffset heaped w l).2 = none) && (c.ldwOffset heaped w l).1 == 0x1FFFC)) &&
      (heaped.match? c.p (Handle.ofWord 0x100000001)).any (fun y => y.npg == 1) && (heaped.match? c.p (Handle.ofWord 0x100000101)).isNone &&
      (heaped.heapBytes c.p (0x60000 + 0x1FFFC) 4).isSome) &&
    holds none_ (fun c => (none_.freeIndex c.p).isNone) && [.ldw ld, .ldw stale, .halloc al].all (fun i => runs i heaped) && runs (.halloc al) none_ = true := by
  decide +kernel

/-- The group may trap; it is in handler mode with a saved and a held slice; its frame is busy. -/
def trappable : State := tiny.onPart 0 (fun p => { p with ctl := { p.ctl with thandler := 0x100 } })
def busy : State := withG trappable (fun g => { g with frame := { g.frame with busy := true } })
def handling : State :=
  let s := withSlices trappable (fun i y => { y with handler := i == 0, xmask := if i < 2 then 0 else 0xF, held := i == 1 })
  withG s (fun g => { g with frame := { g.frame with busy := true, tpc := 0x20, tmask := 0xF, saved := [(0, { g.sliceAt 0 with handler := false })], heldSlices := [1] } })

theorem witness_TrapEntry :
    holds trappable mayTrap && holds handling (fun c => c.handler) && holds busy (fun c => !c.handler && c.g.frame.busy) &&
    holds tiny (fun c => !c.handler && !c.g.frame.busy && decide (c.p.ctl.thandler = 0) &&
      (tiny.task? c.p.id c.co.tid).any (fun k => k.kind != .continuation && k.state == .running && !k.reported)) = true := by decide +kernel

theorem witness_IssueChecksInOrder :
    let ok : Need := ⟨true, true, Guard.always, [(.v 15, 1)], [(r (.v 0), 1)]⟩
    let range : Need := { ok with dst := [(.v 15, 2)] }
    let s := withG trappable (fun g => { g with regs := { g.regs with vEmpty := [0] } })
    let poisoned := withG trappable (fun g => g.setP 1 ⟨1, 1, 5⟩)
    holds trappable (fun c => mayTrap c && okNeed c ok && range.legal && !range.inRange c.g) &&
    holds s (fun c => mayTrap c && ok.inRange c.g && decide (ok.ready c.g c.handler = .wait) &&
      decide (({ ok with srcs := [(.reg (.v 0) true, 1)] } : Need).ready c.g c.handler = .emptyRead)) &&
    holds poisoned (fun c => ok.inRange c.g && decide (ok.ready c.g c.handler = .ok) && c.guardPoisoned ⟨false, 1⟩) &&
    holds handling (fun c => ok.forbidden && c.handler) = true := by decide +kernel

theorem witness_BreakpointTrapAndReturn :
    let b := { bare3 with sub := 7 }
    let b0 := { b with guard := ⟨true, 7⟩ }
    let t := { bare3 with sa := x 0xFFFF }
    holds trappable (fun c => mayTrap c && [b, b0].all (fun b => okNeed c (Need.bare b.legalBkpt false b.guard)) && (c.acting b0.guard).isEmpty &&
      c.acting b.guard != [] && okNeed c ⟨t.legalTrap, false, t.guard, [], [(t.sa, 1)]⟩) &&
    holds handling (fun c => okNeed c ⟨t.legalTrap, false, t.guard, [], [(t.sa, 1)]⟩ && c.handler && c.acting t.guard != [] &&
      (handling.task? c.p.id c.co.tid).any (fun k => k.kind != .continuation && k.state == .running && !k.reported) &&
      okNeed c (Need.bare (bare3.legalBare && c.handler) false Guard.always) && c.wholeHandler && c.g.frame.saved.map (·.1) == [0]) &&
    [.bkpt b, .bkpt b0, .trap t].all (fun i => runs i trappable) && [.trap t, .rft bare3].all (fun i => runs i handling) = true := by decide +kernel

theorem witness_ControlRegistersComplete :
    let k := { bare3 with dst := .s 9 }
    let rd := wordI (.s 8) (r .zero) 0x037
    let wr := fun (n : BitVec 18) => wordI .zero (r (.s 1)) n
    let user := (withS trappable [(1, 65535)]).onPart 0 (fun p => { p with ctl := { p.ctl with svlock := true } })
    let s := withS trappable [(1, 65535)]
    holds s (fun c => okNeed c ⟨k.legalChkerr, false, k.guard, [(k.dst, 1)], []⟩ && c.g.fills.isEmpty && c.acting Guard.always != [] &&
      okNeed c ⟨rd.legalCrd, false, rd.guard, [(rd.dst, 1)], []⟩ && [0x000, 0x001, 0x025].all (fun n => okNeed c ⟨(wr n).legalCwr, false, Guard.always, [], [((wr n).sa, 1)]⟩) &&
      c.supervisor && s.cwrAllows c.p 0x000 65535 && s.cwrAllows c.p 0x025 65535 && !s.cwrAllows c.p 0x001 65535 && mayTrap c &&
      decide (c.uniform s (r (.s 1)) = (65535, none))) &&
    holds user (fun c => svRegister 0x025 && !c.supervisor && mayTrap c && okNeed c ⟨(wr 0x025).legalCwr, false, Guard.always, [], [((wr 0x025).sa, 1)]⟩) &&
    [.chkerr k, .crd rd, .cwr (wr 0x000), .cwr (wr 0x025), .cwr (wr 0x001)].all (fun i => runs i s) && runs (.cwr (wr 0x025)) user = true := by decide +kernel

theorem witness_ControlReadsBack :
    let s := tiny.onPart 0 (fun p => { p with ctl := { p.ctl with ptroot := [(0, 0x10000)] } })
    (s.part? 0).any (fun p => [(0x000, 65535), (0x001, 7), (0x002, 0xFFFFFFFF), (0x005, 0xFF03), (0x021, 0), (0x022, 1), (0x023, 0x1FFFFFFFFFFFFF8),
      (0x024, 10), (0x025, 0x1FFFFFFFFFFFFFF), (0x026, 0xFFFFFFFF), (0x027, 64), (0x028, 0x10000), (0x02B, 0xFFFFFFFF0000), (0x030, 4096), (0x031, 2), (0x032, 0x20000000),
      (0x033, 0x20000000), (0x034, 1), (0x035, 5), (0x036, 4096)].all (fun (n, v) => FI.writableRegister n && s.cwrAllows p n v)) = true := by decide +kernel

theorem witness_PagesMappedAndRequested :
    let w := fun n => { bare3 with dst := .s 59, sa := r (.s n) }
    let u := fun n => { w n with sub := 1 }
    let s := withS heaped [(27, 0), (28, 0x40000), (29, 0x80000)]
    let none_ := s.onPart 0 (fun p => { p with ctl := { p.ctl with poolFree := 0 } })
    let h := withSlices s (fun _ y => { y with handler := true })
    let kept := h.onPart 0 (fun p => { p with requests := [⟨3, 0, 0x20000, 0, false, [], none⟩] })
    let at_ := fun (c : Ctx) n => s.walk c.p c.g.ctl.asid (c.uniform s (r (.s n))).1.toNat
    holds s (fun c => [24, 26, 27, 28, 29].all (fun n => okNeed c ⟨(w n).legalPmap && c.supervisor, false, Guard.always, [((w n).dst, 1)], [((w n).sa, 1)]⟩ &&
        decide ((c.uniform s (w n).sa).2 = none)) && c.acting Guard.always != [] &&
      c.p.inHeap 0x40000 && !c.p.inHeap 0x20000 && (match at_ c 24 with | .absent 3 e => e == 0x301008 | _ => false) && (at_ c 26).noLevel3 &&
      (match at_ c 27 with | .leaf 3 _ _ _ _ => true | _ => false) && at_ c 29 == .malformed && decide (c.p.ctl.poolFree ≠ 0)) &&
    holds none_ (fun c => decide (c.p.ctl.poolFree = 0)) &&
    holds h (fun c => okNeed c ⟨(w 24).legalPreq && c.handler, false, Guard.always, [((w 24).dst, 1)], [((w 24).sa, 1)]⟩ &&
      c.p.requests.isEmpty && c.p.freeRid == some 0 && !c.p.ports.prqFull && physOk c.p.ringAddr) &&
    holds kept (fun c => c.p.requests.find? (fun y => y.page == 0x20000 && y.asid == c.g.ctl.asid) == some ⟨3, 0, 0x20000, 0, false, [], none⟩) &&
    [24, 26, 27, 28, 29].all (fun n => runs (.pmap (w n)) s && runs (.pmap (u n)) s) && runs (.pmap (w 24)) none_ && runs (.preq (w 24)) h &&
    runs (.preq (w 24)) kept && runs (.preq (w 27)) h = true := by decide +kernel

/-- A cohort whose stream holds the engine of core 0 at a word at 0x100, with every tile, slot and 4 KiB of scratchpad. -/
def streaming : State :=
  let s : State := { tiny with cur := .stream 0 }
  (s.onCohort 0 (fun c => { c with scrk := 4, atiles := 64, stsl := 32, seq := { c.seq with active := true, ended := false, pc := 0x100, strm := 0x80 } })).onCore 0
    (fun k => { k with engine := some 0 })
def onC (s : State) (f : Cohort → Cohort) : State := s.onCohort 0 f
def onL (s : State) (l : Nat) (y : Lineage) : State := s.onCore 0 (fun k => k.setLineage l y)
def ft (ops : BitVec 29) : FT := ⟨0, 0, 0, 0, 0, false, 0, ops⟩
def hasEngine (c : SCtx) (s : State) (t : Touch) : Bool :=
  t.tiles.all c.tileOk && (t.reads ++ t.writes).all c.slotOk && !(s.core c.co.core).blocks c.co t &&
  !(s.core c.co.core).lmmQueue.any LmmReq.ready && (s.core c.co.core).engine == some c.uid
/-- Lineage 2, open on tile 63. -/
def opened : State := onC (onL streaming 2 { Lineage.clear with state := .open, src := 63 }) (fun c => c.setMask 63 4 0)

theorem witness_KStepsAccumulate :
    let w : FT := ⟨63, 30, 31, 0, 6, true, 2, 0⟩
    let e : FT := { w with ops := 0x10000000, lin := 2 }
    let d := onC opened (fun c => (c.setMask 63 0 0).setSlot 30 { StageSlot.zero with mask := 4, depth := 3 })
    let t : Touch := ⟨[63], [30, 31], []⟩
    streams streaming (fun c => w.legalMmul && hasEngine c streaming t && !(c.co.slotOf 30).badRecord (kfmtOf w) && !(c.co.slotOf 31).badRecord (kfmtOf w) &&
      ((streaming.core 0).openOn c.uid 63).isNone && (c.co.slotOf 30).mask ||| (c.co.slotOf 31).mask == 0) &&
    streams (onL d 2 { Lineage.clear with state := .open, src := 62 }) (fun c => hasEngine c d t && (c.co.slotOf 30).mask == 4 && (c.co.slotOf 31).mask == 0 && 1 + (c.co.slotOf 30).depth ≤ 4 &&
      (((onL d 2 { Lineage.clear with state := .open, src := 62 }).core 0).openOn c.uid 63).isNone && !(c.co.slotOf 30).badRecord (kfmtOf w)) &&
    streams opened (fun c => [w, e].all (fun w => w.legalMmul) && hasEngine c opened t && (opened.core 0).openOn c.uid 63 == some 2 && e.lin.toNat == 2) = true := by
  decide +kernel

theorem witness_IntegerKStepIsExact :
    let k : KFmt := ⟨.n4, false, 0⟩
    let a : KRow := ⟨List.replicate 64 15, none, []⟩
    k.blk = false ∧ k.ty.isFloat = false ∧ k.ty.width ≤ 16 ∧ a.codes.length = k.depth ∧
      kElem false k a a 0xFFFFFFFF = 14399 := by decide +kernel

theorem witness_TileOperationsComplete :
    let z : FT := { ft 0 with tile := 63 }
    let a : FT := { ft 62 with tile := 63, fmt := 0xA }
    let m : FT := { ft 0x1FFFF83E with tile := 63 }
    let v : FT := { ft 0 with tile := 63, op1 := 31, fmt := 9 }
    streams streaming (fun c => c.co.maskOf 63 == 0 && z.legalMzero && a.legalMadd && m.legalMscl && v.legalMcvt && hasEngine c streaming ⟨[63, 62], [], [31]⟩ &&
      c.co.maskOf 62 == 0 && !(streaming.core 0).isSource c.uid 63 && ((streaming.core 0).openOn c.uid 63).isNone && (c.co.slotOf 31).mask == 0 && (c.co.slotOf 31).pins == 0) &&
    runs (.mzero z) streaming = true := by decide +kernel

theorem witness_PublicationCompletes :
    let p : FT := { ft 0 with tile := 63, lin := 2 }
    let q : FT := { ft 0 with lin := 15 }
    [streaming, opened].all (fun s => streams s (fun c => p.legalMpub && hasEngine c s ⟨[63], [], []⟩ && q.legalMsettle && ((s.core 0).lineage 15).state == .closed)) &&
    streams streaming (fun c => ((streaming.core 0).lineage 2).state == .closed && c.co.maskOf 63 == 0) &&
    streams opened (fun c => ((opened.core 0).lineage 2).state == .open && ((opened.core 0).lineage 2).owner == c.uid && ((opened.core 0).lineage 2).src == 63) &&
    [.mpub p, .msettle q].all (fun i => runs i streaming) && runs (.mpub p) opened = true := by decide +kernel

/-- Descriptor 15, of one row of 32 BF16 elements at 0x1000, and its 32 bytes at the end of the scratchpad. -/
def desc15 : Desc := ⟨0x1000, 0x4000010020, 0, 0x10000000, none⟩
def described : State :=
  onC streaming (fun c => { ((c.writeScratchWord 4064 0x1000 none).writeScratchWord 4072 0x10020 none |>.writeScratchWord 4076 0x40 none |>.writeScratchWord 4088 0x10000000 none)
    with desc := SMap.put none c.desc 15 (some desc15) })

theorem witness_OperandLoadsComplete :
    let d : FT := { ft 0xFE0 with op1 := 15 }
    let l : FT := { ft 0 with op1 := 31 }
    let v : FT := { ft 0x101C0000 with op1 := 31 }
    let m : FT := { ft 0x00200000 with op1 := 31 }
    let n : FT := { ft 0x08000000 with op1 := 31, op2 := 15 }
    let s := described
    let pushed := (onC s (fun c => { c with lslot := 1, seq := { c.seq with walk := some ⟨0x100, [], [], true, none, none⟩ } })).onPart 0 (fun p => { p with totals := { p.totals with push := true } })
    streams s (fun c => d.legalMdesc && decide ((bits d.ops 0 21).toNat + 32 = c.co.allotted) && desc15.legal && [l, v, m, n].all (fun w => w.legalMld) && c.slotOk 31 &&
      !(s.core 0).blocks c.co ⟨[], [], [31]⟩ && v.mldSrc == 2 && c.co.seq.recvs.isEmpty && c.co.seq.early.isEmpty && !c.walks l && !c.walks n &&
      [l, m, n].all (fun w => match (s.readOperand c w).1 with | .ok _ _ => true | _ => false) && mldCores m == [0] && (s.mates c.co 0).length == 1 && c.co.seq.send.isNone) &&
    streams pushed (fun c => c.walks n && mldCores n == [] && c.co.seq.walk == some ⟨0x100, [], [], true, none, none⟩ && !(pushed.core 0).blocks c.co ⟨[], [], [31]⟩ && c.pc == 0x100) &&
    [.mdesc d, .mld v].all (fun i => runs i s) = true := by decide +kernel

theorem witness_TileStoresComplete :
    let p : FT := { ft 0 with tile := 63, fmt := 5, blk := true }
    let g : FT := { ft 0x08000000 with tile := 63, op2 := 15, fmt := 1 }
    streams described (fun c => [p, g].all (fun w => w.legalMst) && c.tileOk 63 && c.co.maskOf 63 == 0 && p.mstKind == 0 && decide (mstOffset p + (128 * 4 + 128) ≤ c.co.belowLanding) &&
      g.mstKind == 1 && c.co.descOf 15 == some desc15 && desc15.fields.spc == 0 && c.p.prot.isEmpty &&
      (match (described.mapPages c.p c.co .write ((List.range 64).map (fun k => 0x1000 + k))).1 with
        | some m => decide (((List.range 64).map (fun k => mappedAt m (0x1000 + k))).Nodup) | none => false)) = true := by decide +kernel

theorem witness_StreamControlCompletes :
    let b := fun ops => ft ops
    let l := ft ((4 : BitVec 29) <<< 14 ||| 16)
    let one := onC streaming (fun c => { c with seq := { c.seq with lc0 := 3, own0 := some 0x100 } })
    let waited := onC streaming (fun c => { c with seq := { c.seq with bar := some (15, true) } })
    let seen := onC streaming (fun c => c.setBarrier 15 { Barrier.zero with seqSeen := true, phase := true })
    streams streaming (fun c => [b 0x0011000F, b 0x0002000F, b 0x0001020F].all (fun w => w.legalMbar) && c.co.seq.bar.isNone && c.co.seq.settledWords && (c.co.barrier 15).cnt == 0 &&
      l.legalMloop && decide (c.co.seq.strm.toNat + 128 = c.pc.toNat) && c.co.seq.own0.isNone && (ft 7).legalMpri && (ft 0).legalMend &&
      (streaming.core 0).linMask c.uid .open == 0 && (streaming.core 0).linMask c.uid .ending == 0 && c.co.seq.settledWords) &&
    streams one (fun c => c.co.seq.own0 == some c.pc && c.co.seq.lc0 + 1 == 4) && streams waited (fun c => c.co.seq.bar == some (15, true)) &&
    streams seen (fun c => (c.co.barrier 15).seqSeen && (c.co.barrier 15).phase != (c.co.barrier 15).seqLast) &&
    [.mbar (b 0x0011000F), .mbar (b 0x0002000F), .mloop l, .mpri (ft 7), .mend (ft 0)].all (fun i => runs i streaming) && runs (.mloop l) one &&
    runs (.mbar (b 0x000F)) waited && runs (.mbar (b 0x0001020F)) seen = true := by decide +kernel


/-- Cohort 0's stream at an MZERO (0x100), an MZERO that a ready stream of cohort 1 with a higher priority shares, and an MLD at 0x108. -/
def ready : State := onC (streaming.stored 0x100 [0x0500000000000000, 0x0203E00000000000]) (fun c => { c with landing := [] })
def mate (u pri : Nat) : Cohort := match ready.cohort? 0 with | some c => { c with uid := u, slot := u, seq := { c.seq with mxpri := pri } } | none => default
def rival (pri : Nat) : State := { ready with cohorts := ready.cohorts ++ [mate 1 pri], cur := .none }
def walked : Walk := ⟨0x100, [⟨7, none⟩], [⟨9, none⟩], false, none, some 0⟩

theorem witness_EngineStepsComplete :
    let idle := (rival 3).onCore 0 (fun k => { k with engine := none })
    let send : McastSend := ⟨31, 15, [0, 1], [⟨7, none⟩], []⟩
    let far := { onC (ready.onTask 0 0 (fun t => { t with runs := [0, 1] })) (fun c => { c with seq := { c.seq with send := some send } }) with
      cohorts := (onC ready (fun c => { c with seq := { c.seq with send := some send } })).cohorts ++
        [{ mate 1 0 with core := 1, seq := { (mate 1 0).seq with recvs := [(15, 31)] } }] }
    let push := onC ready (fun c => { c with lslot := 1, landing := SMap.put .free [] 0 .granted, seq := { c.seq with walk := some walked } })
    let asks := onC push (fun c => { c with landing := [] })
    let next : FT := { ft 0x08000000 with op1 := 31, op2 := 15 }
    let begins := ((onC described (fun c => { c with lslot := 1 })).stored 0x100 (0x0500000000000000 :: encode (.mld next))).onPart 0 (fun p => { p with totals := { p.totals with push := true } })
    let fold := fun cs => onC (onL (withG ready (fun g => { g with fills := [⟨9, [8], [], [], .mrd 63 0 1 8, false⟩] })) 2 { Lineage.clear with state := .ending, src := 63, corrections := cs }) (fun c => c.setMask 63 4 0)
    (idle.running? 0).isNone && !(idle.readyStreams 0 (idle.core 0).engine).isEmpty && runs (.engineHandover 0) idle &&
    ((rival 0).running? 0).isSome && ((rival 0).readyStreams 0 (some 0)).all (fun y => decide ((rival 0).streamPrio y < 2)) &&
    decide ((rival 0).cycle < (rival 0).contestedSince 0 + 32768) &&
    ((rival 2).running? 0).isSome && ((rival 2).readyStreams 0 (some 0)).any (fun y => decide (2 ≤ (rival 2).streamPrio y)) &&
    ((rival 3).running? 0).any (fun y => y.seq.mxpri == 0) && [rival 0, rival 2].all (fun s => runs (.streamOvertake 0) s) &&
    streams ready (fun c => c.co.seq.active && c.co.kill.isNone && !c.co.killed &&
      (match ready.earlyWord c 64 c.pc ⟨c.p.totals.push, 0, [], []⟩ with
       | some (pc, w) => pc == 0x108 && !c.walks w && (match (ready.readOperand c w).1 with | .ok _ _ => true | _ => false)
       | none => false)) && runs (.operandFetch 0) ready &&
    streams begins (fun c => match begins.earlyWord c 64 c.pc ⟨c.p.totals.push, 0, [], []⟩ with
      | some (pc, w) => pc == 0x108 && c.walks w && c.co.seq.walk.isNone && (match (begins.readOperand c w).1 with | .ok _ _ => true | _ => false)
      | none => false) && runs (.operandFetch 0) begins &&
    (push.cohort? 0).any (fun c => !c.killed && c.landingOf 0 == .granted && c.seq.walk == some walked) &&
    (asks.cohort? 0).any (fun c => c.lslot == 1 && c.landingOf 0 == .free) &&
    runs (.tilePush 0) push && runs (.landingPermitGrant 0) asks &&
    (far.cohort? 0).any (fun c => let others := (send.cores.filter (· != coreInCluster c.core)).flatMap (fun n => far.mates c n)
      others.map (·.uid) == [1] && others.all (fun y => y.seq.recvs.contains (15, 31))) && runs (.multicastDelivery 0) far &&
    [[([] : Mat)], [[], []]].all (fun cs => ((fold cs).core 0).lineage 2 == { Lineage.clear with state := .ending, src := 63, corrections := cs } &&
      (List.range 16).all (fun i => (((fold cs).core 0).lineage i).state != .ending || i == 2) &&
      ((fold cs).cohort? 0).any (fun c => c.kill.isNone && !c.killed) && runs (.replay 0 2) (fold cs)) = true := by decide +kernel

theorem witness_HostPortsComplete :
    let full := tiny.onPart 0 (fun p => { p with ports := { p.ports with closed := true, vectors := [(33, { Vector.fresh with mask := true })] } })
    let msg := tiny.onPart 0 (fun p => { p with ports := { p.ports with vectors := [(35, { Vector.fresh with mask := true, pending := 2 })] } })
    [tiny, full, msg].all (fun s => (s.part? 0).isSome) && (tiny.part? 0).any (fun p => !p.ports.closed && decide (p.ports.flits.length < 256)) &&
    [Instr.lpstatClear 0 1, .cqheadWrite 0 1, .prqheadWrite 0 0, .registerWrite 0 .cqBase 0xFFF, .registerWrite 0 .prqBase 0x1000,
      .registerWrite 0 .cqSize 20, .registerWrite 0 (.msixAddr 35) 1, .registerWrite 0 (.msixData 0) 1, .registerWrite 0 (.msixMask 35) 0,
      .lflitWrite 0 0 0 0 0].all (fun i => runs i tiny && runs i full && runs i msg) = true := by decide +kernel

/-- A launch record at 0x2000 of one cohort and one group, page 0 mapped, and what the scheduler of partition 0 holds. -/
def launched (q : Part → Part) : State := (heaped.stored 0x2000 [0x100, 0, 0, 0, 0, 0, 0x0000040000000000, 0]).onPart 0 q
/-- A kernel task of TID 2 whose record is at 0x2000, with one successor, task 1. -/
def kernel2 : Task := { Task.probe with tid := 2, state := .ready, recVa := 0x2000, nextCohort := 0, nsucc := 1, succ0 := 1, gids := [] }
def withTask (t : Task) (s : State) : State := s.onPart 0 (fun p => { p with tasks := p.tasks ++ [t] })

theorem witness_FlitsAndDecrements :
    let flit := fun (w0 w1 : Word64) => launched (fun p => { p with ports := { p.ports with flits := [⟨w0, w1, 0, 0, none⟩] } })
    let bad := flit 0x0300002000000000 0x2000
    let late := flit 0x0100003000000000 0x2000
    let twice := flit 0x0100001000000000 0x2000
    let join := flit 0x0200002000100000 0
    let kern := flit 0x0100002000000000 0x2000
    let fail := (flit 0x0100002000000000 0x2000).stored 0x2000 [0x101]
    let told := launched (fun p => { p with decrements := [(1, some 35)] })
    let dec := fun tid => launched (fun p => { p with decrements := [(tid, none)] })
    let rec? := fun (s : State) => (s.part? 0).bind (fun p => s.launchRec? { p with ports := { p.ports with flits := [] } } 0x2000)
    [bad, late, twice].all (fun s => (s.part? 0).any (fun p => p.ports.flits.any (fun f =>
      !f.wellFormed || decide (p.totals.cbase ≤ f.fields.tid) || (p.task? f.fields.tid).isSome))) &&
    [join, kern, fail].all (fun s => (s.part? 0).any (fun p => p.ports.flits.all (fun f =>
      f.wellFormed && decide (f.fields.tid < p.totals.cbase) && (p.task? f.fields.tid).isNone))) &&
    (rec? kern).any (fun y => y.legal false) && (rec? fail).any (fun y => !y.legal false) &&
    [bad, late, twice, kern, fail].all (fun s => runs (.createKernelTask 0) s) && runs (.createJoinTask 0) join &&
    ((dec 2).task? 0 2).isNone && ((dec 0).task? 0 0).any (fun u => u.state == .running) &&
    ((dec 1).task? 0 1).any (fun u => u.state == .waiting && u.depc == 1) && [0, 1, 2].all (fun n => runs (.taskDecrement 0) (dec n)) && runs (.taskDecrement 0) told = true := by
  decide +kernel

theorem witness_CohortsArePlaced :
    let ready := withTask kernel2 (launched id)
    let cont := withTask { Task.probe with tid := 3, state := .ready, kind := .continuation, orig := 0, nextCohort := 0, gids := [] } (launched id)
    let next := launched (fun p => { p with tasks := [{ Task.probe with nzm1 := 1, recVa := 0x2000 }] })
    let again := launched (fun p => { p with tasks := [{ Task.probe with recVa := 0x2000, kills := [(0, 1)], killedOn := [(0, 1)] }], relaunches := [(0, 0)] })
    let none_ := launched (fun p => { p with tasks := [{ Task.probe with nzm1 := 1, recVa := 0x2000, scrk := 1537 }] })
    (ready.part? 0).any (fun p => p.readyHead ready.tick == some kernel2 && p.placementHead.isNone && !p.destroying && kernel2.fitsEmpty &&
      let u1 := { kernel2 with state := .running, nextCohort := 1 }
      let s1 := (ready.putTask 0 u1).onPart 0 (fun p => { p with dispatched := p.dispatched ++ [2] })
      (s1.part? 0).any (fun p1 => (s1.findCore p1 u1 none).isSome && (s1.launchRec? p1 0x2000).isSome)) && runs (.dispatch 0 2) ready &&
    (cont.part? 0).any (fun p => (p.readyHead cont.tick).any (fun u => u.kind == .continuation) && p.placementHead.isNone &&
      (cont.findSeat p (8 * ((bits (cont.contRec 0 (p.recordAt 3)).head 58 4).toNat + 2))).isSome) &&
    [next, again, none_].all (fun s => (s.part? 0).any (fun p => !p.destroying && p.placementHead.any (fun y => p.task? y.1.tid == some y.1 &&
      (s.launchRec? p y.1.recVa).isSome && ((s.findCore p y.1 (if y.2.2 then some 0 else none)).isSome == (y.1.scrk != 1537)))) &&
      runs (.cohortPlacement 0) s) = true := by decide +kernel

/-- Group 1 of PRIO 7 waits for admission beside group 0, which was admitted at an ACQUIRE and stands in its first region. -/
def contended : State :=
  let s := withG tiny (fun g => { g with
    allot := { g.allot with full := true, fullv := 14, admittedAt := some ⟨0x10, 0, 0, 0xFFF, false⟩, admittedCycle := 5, requestedCycle := 3 }
    ctl := { g.ctl with rgnpc := 0x18 } })
  match s.group? 0 with
  | some g =>
    let h := { g with gid := 1, slot := 1, allot := ⟨14, false, some 4, none, 0, 0⟩, slices := g.slices.map (fun (y : Slice) => { y with wait := .acquire false }) }
    { s with cycle := 20000, groups := s.groups ++ [{ h with ctl := { h.ctl with prio := 7 } }] }
  | none => s

theorem witness_AdmissionAndPreemption :
    let tight := { contended with groups := contended.groups ++ (List.range 6).map (fun i =>
      { Group.probe 0 0 with gid := 2 + i, slot := 2 + i, allot := ⟨14, true, none, none, 0, 0⟩ }) }
    let held := withG contended (fun g => { g with fills := [⟨9, [8], [], [], .lmm false, false⟩] })
    let begun := withG contended (fun g => { g with discarding := true })
    (contended.admissionHead 0 0).any (fun h => h.gid == 1 && decide ((contended.quarterOf 0 0).used + (8 * (h.allot.fullv + 2) - 16) ≤ 768) &&
      (contended.core 0).headWaited 0 h contended.cycle && !(contended.core 0).headWaited 0 h 16387 &&
      (contended.groups.filter (fun g => g.isVictim h.ctl.prio.toNat)).map (·.gid) == [0]) &&
    contended.groups.all (fun g => !g.discarding) &&
    (contended.group? 0).any (fun v => v.fills.isEmpty && v.resetReady && v.slices.length == 32 && v.allot.admittedAt.isSome) &&
    (held.group? 0).any (fun v => !v.fills.isEmpty && v.isVictim 7) && (begun.group? 0).any (fun v => v.discarding && v.fills.isEmpty && v.resetReady) &&
    (tight.admissionHead 0 0).any (fun h => decide (768 < (tight.quarterOf 0 0).used + (8 * (h.allot.fullv + 2) - 16))) &&
    [Instr.groupAdmit 0 0, .preemptionDiscard 0 0].all (fun i => runs i contended) && [held, begun].all (runs (.preemptionDiscard 0 0)) && runs (.groupAdmit 0 0) tight = true := by decide +kernel

theorem witness_HeadersAndMalformedWords :
    let at_ := fun (w : Word64) => withSlices (coded.stored 0x100 [w]) (fun _ y => { y with pc := 0x100, hdr := true })
    let whole := fun (s : State) (p : Ctx → Bool) => holds { s with cur := .path 0 0 } (fun c => c.head.hdr && c.g.letsIssue c.head && s.mayIssue c.g &&
      c.g.arrivals c.path == c.slices && c.g.loop.isNone && c.g.splits.isEmpty && c.slices.all (fun j => (c.g.sliceAt j).lstk.isEmpty) &&
      (List.range 32).all (fun j => !(c.g.sliceAt j).wait.isRegang) && !c.handler && c.g.frame.busy == false && p c)
    let hdr := fun (w : Word64) (c : Ctx) => match ((at_ w).setGroup c.g).headerAt c.p c.g c.pc with | (.header y, _) => y == w | _ => false
    [hdr1, hdr1 ||| 0x8000, hdr1 ||| 0x4000, 0xF000000000000000].all (fun w => whole (at_ w) (hdr w) && runs (.headerFetch 0 0) (at_ w)) &&
    whole (at_ 0x01DF8381C0E00000) (fun c => match ((at_ 0x01DF8381C0E00000).setGroup c.g).headerAt c.p c.g c.pc with | (.other, _) => true | _ => false) &&
    [Malformed.unassignedOpc, .headerInBlock, .literalsPastEnd].all (fun m => runs (.malformedWord m) tiny) &&
    streams streaming (fun c => c.co.kill.isNone) && runs (.malformedFtWord 0) streaming && runs (.malformedFtWord (BitVec.allOnes 64)) streaming = true := by
  decide +kernel


theorem witness_GroupsCohortsAndTasksEnd :
    let dead := withSlices tasked (fun _ y => { y with xmask := 0xF })
    let out := onC tasked (fun c => { c with ended := 1, seq := { c.seq with ended := true } })
    let busyOut := out.onCluster 0 (fun k => { k with eq := [{ heldCmd with cohort := 0, ssp := 1, dsp := 0, aw := none }] })
    let two := tasked.onPart 0 (fun p => { p with tasks := p.tasks.map (fun t => if t.tid = 0 then { t with exited := 1, nsucc := 1, succ0 := 1 } else { t with depc := 2 }) })
    let whole := { two with cohorts := [], groups := [] }
    let wrap := whole.onPart 0 (fun p => { p with ports := { p.ports with cqTail := 256, cqBase := 0x40000 } })
    let early := (onC two (fun c => { c with triggered := 1 })).onPart 0 (fun p => { p with tasks := p.tasks.map (fun t => { t with emask := if t.tid = 0 then 1 else 0 }) })
    let ring := tasked.onPart 0 (fun p => { p with entries := [⟨1, 5, 0, 0, true⟩], ports := { p.ports with cqBase := 0x40000 } })
    let full := ring.onPart 0 (fun p => { p with ports := { p.ports with cqTail := 256 } })
    (dead.group? 0).any (fun g => g.allExited && !g.stopped && g.sq.isEmpty && g.fills.isEmpty && (dead.cohort? g.cohort).isSome) && runs (.groupEnd 0) dead &&
    (out.cohort? 0).any (fun c => !c.exited && !c.killed && c.kill.isNone && c.seq.ended && c.ended &&& c.groupMask == c.groupMask) &&
    out.allCmds.isEmpty && busyOut.allCmds.any (fun y => y.usesScratch 0) && [out, busyOut].all (fun s => runs (.cohortExit 0) s) &&
    (whole.task? 0 0).any (fun u => whole.isComplete u && u.successors == [(0, 1)] && !bit u.emask 0) &&
    (whole.task? 0 1).any (fun v => v.state == .waiting && decide (1 < v.depc)) &&
    (whole.part? 0).any (fun p => p.entries.isEmpty && !p.ports.cqFull && !p.destroying) && (wrap.part? 0).any (fun p => p.ports.cqFull) &&
    [whole, wrap].all (runs (.taskComplete 0 0)) &&
    (early.task? 0 0).any (fun u => u.state == .running && u.kind == .kernel && early.taskTriggered u && !u.earlyDone && bit u.emask 0) &&
    runs (.earlyRelease 0 0) early &&
    (ring.part? 0).any (fun p => !p.entries.isEmpty && !p.ports.cqFull && physOk 0x40000 && decide (p.blockAddr 1 + 64 ≤ 0x40000)) &&
    (full.part? 0).any (fun p => p.ports.cqFull) && runs (.completionEntry 0) ring && runs (.completionEntry 0) full = true := by decide +kernel

theorem witness_KillsStopCohorts :
    let due := fun (again : Bool) => (onC tasked (fun c => { c with kill := some ⟨4, 0, 0, 5, true⟩ })).onPart 0 (fun p =>
      { p with tasks := p.tasks.map (fun t => { t with relaunch := again }) })
    let gone := onC tasked (fun c => { c with kill := some ⟨4, 0, 0, 5, true⟩, killed := true })
    (tasked.cohort? 0).any (fun c => c.kill.isNone) && runs (.ctrlUe 0) tasked &&
    [true, false].all (fun b => ((due b).cohort? 0).any (fun c => !c.killed && c.kill.isSome) && (due b).groups.length == 1 &&
      ((due b).part? 0).any (fun p => (p.task? 0).any (fun u => u.state == .running && u.kind == .kernel && !u.reported && u.relaunch == b) &&
        p.tasks.all (fun y => y.kind != .continuation)) && runs (.cohortKill 0) (due b)) &&
    (gone.cohort? 0).any (·.killed) && gone.groups.all (fun g => g.sq.isEmpty) && gone.allCmds.all (fun y => !y.writesScratch 0) && runs (.cohortKill 0) gone = true := by
  decide +kernel

/-- A CPY of 64 bytes from the scratchpad at 0x1000 to the scratchpad at 0, and a state that holds it in slot 0 of cluster 0. -/
def copying : Cmd :=
  match engined.ctx? with
  | some c => { c.copyCmd (wordX .zero (r (.s 2)) (r (.s 3)) (r (.s 12))) .cpy (c.cmdRegs engined (wordX .zero (r (.s 2)) (r (.s 3)) (r (.s 12)))) with
      dsp := 1, ssp := 1, aw := none, state := .active, uid := 5, notify := 1, ntid := 1 }
  | none => default
def withCmd (c : Cmd) : State := { engined.onCluster 0 (fun k => { k with eq := [c] }) with cur := .none }

theorem witness_CommandsRun :
    let q := withCmd { copying with state := .queued }
    let lock : Lock := ⟨true, true, 0, 0, 0, 64, 7, 0⟩
    let shut := q.onCluster 0 (fun k => { k with eq := k.eq ++ [{ copying with slot := 7, uid := 6 }], rlt := [lock, { lock with cmd := 0, seq := 1 }] })
    let far := withCmd { copying with ssp := 0, src := 0x1000 }
    let far := (far.onPart 0 (fun p => { p with ctl := { p.ctl with ptroot := SMap.put 0 p.ctl.ptroot 0 0x100000 } })) |>.stored 0x100000 [0x200001] |>.stored
      0x200000 [0x300001] |>.stored 0x300000 [0x301001] |>.stored 0x301000 [0xB]
    let moved := { copying with moved := 64, chunks := 1, done := [(0, 64)] }
    let ended := { moved with done := [] }
    let failed := { ended with moved := 0, err := some .nack }
    let leaves := fun (m : Nat) x => ({ onC (withCmd copying) (fun c => { c with seq := { c.seq with walk := some ⟨0, [], [], false, none, some 1⟩ } }) with
      pq := [⟨false, 6, 0, 1, m, 0x1000, [7], none, 0, .stream 0 0⟩] } : State).onPart 0 (fun p => { p with totals := { p.totals with linku := 1 }, buckets := [(.link 17, ⟨704, [(x, 64)]⟩)] })
    let live := leaves 0 (.delta 6)
    let dead := leaves 15 (.delta 6)
    let rows := { copying with len := 48, rows := 2, dpitch := 48, spitch := 0x100 }
    let paid := fun tokens share => (withCmd { copying with asked := 64, pieces := 1 }).onPart 0 (fun p =>
      { p with totals := { p.totals with linku := share }, buckets := [(.link 17, ⟨tokens, [(.command 0 5, 64)]⟩)] })
    [q, shut].all (fun s => (s.cmd? 0 0).any (fun c => c.cluster == 0 && c.state == .queued && !s.issuerGone c && (s.cluster 0).isHead c && !c.mcast)) &&
    q.unlocked { copying with state := .queued } && !shut.unlocked { copying with state := .queued } &&
    runs (.activate 0 0) q && runs (.activate 0 0) shut &&
    (far.cmd? 0 0).any (fun c => c.state == .active && c.err.isNone && decide (c.moved < c.len * c.rows) && c.kind == .cpy && c.asked == 0 &&
      (far.part? 0).any (fun p => match far.engXlat p c.asid c.nextAddr.2 .read with | .ok _ => true | _ => false)) &&
    ((withCmd copying).cmd? 0 0).any (fun c => !c.peer && !c.ord && c.dsp == 1 && !c.mcast && c.pieces == 0 && c.chunkSize 64 == 64 &&
      ((withCmd copying).part? 0).any (fun p => ((withCmd copying).bucketsOf p c).isEmpty &&
        c.chunkMoves 64 == (List.range 64).map (fun i => (i, 0x1000 + i)) && (c.chunkMoves 64).all (fun x => ((withCmd copying).sourceByte p c x.2).isSome))) && runs (.move 0 0 64) (withCmd copying) &&
    ((withCmd moved).cmd? 0 0).any (fun c => c.err.isNone && c.done == [(0, 64)] && !(withCmd moved).deltasOf (.command c.uid 0)) && runs (.earrive 0 0 0) (withCmd moved) &&
    ((withCmd ended).cmd? 0 0).any (fun c => c.moved == c.len * c.rows && c.settled && !c.missesCore && c.err.isNone) && runs (.eend 0 0) (withCmd ended) &&
    ((withCmd failed).cmd? 0 0).any (fun c => c.settled && c.err == some .nack) && runs (.eend 0 0) (withCmd failed) &&
    (rows.chunkMoves 64).contains (47, 0x102F) && (rows.chunkMoves 64).contains (48, 0x1100) && !(rows.chunkMoves 64).contains (64, 0x1110) &&
    live.pq.all live.deltaLive && dead.pq.all (fun d => !dead.deltaLive d) && runs (.bucketPieceLeave 0 (.link 17)) dead &&
    [Transfer.delta 6, .reply 0 [], .push 0].all (fun x => runs (.bucketPieceLeave 0 (.link 17)) (leaves 0 x)) &&
    [(703, 1), (704, 1), (704, 0)].all (fun y => ((paid y.1 y.2).part? 0).any (fun p =>
      p.buckets == [(.link 17, ⟨y.1, [(.command 0 5, 64)]⟩)] && p.totals.linku == y.2) &&
      runs (.bucketPieceLeave 0 (.link 17)) (paid y.1 y.2)) = true := by
  decide +kernel

theorem witness_PeersAndParityComplete :
    let data : List PByte := [⟨7, none⟩, ⟨9, none⟩]
    let ch := fun n => (⟨9, 0, n, 0x1000, 2, .write, 0, data⟩ : PeerChunk)
    let late := fun (s : State) => { s with refUs := 2 ^ 40 }
    let cmd := late (withCmd { copying with peer := true, sent := [⟨3, 64, 0⟩] })
    let open_ : OpenChunk := ⟨4, 9, 0, none, 0, 0, none, 0x1000, 2, .ordered 5 0 2 1 2, [(0, ⟨7, none⟩), (1, ⟨9, none⟩)], some 1, 0, false, false⟩
    let held := late { heaped with opens := [open_], rsets := [⟨1, 0, none, 0, 2, [(0, 2), (1, 2)], [(0, 0x1000, 2)], [], false⟩] }
    let rec_ := (heaped.onPart 0 (fun p => { p with ctl := { p.ctl with pgTab := 0x8000 } })).stored 0x8000 [0x0001140000100000, 0]
    let sent := late { rec_ with pq := [⟨true, 6, 0, 1, 15, 0x1000, [7], none, 0, .stream 0 0⟩] }
    (heaped.part? 1).isNone && (heaped.part? 0).any (fun p => p.prot.isEmpty && heaped.pq.isEmpty && heaped.opens.isEmpty &&
      (match heaped.engXlat p p.firstAsid 0x1000 .write with | .ok pa => pa == 0x1000 | _ => false) && heaped.instancePa p 0x1000 == some 0x1000) &&
    [ch 0, ch 1].all (fun y => runs (.peerChunkReceive y) heaped) &&
    (cmd.cmd? 0 0).any (fun c => c.cluster == 0 && c.state == .active && c.err.isNone && c.sent.any (fun y => y.num == 3) &&
      (cmd.part? c.part).any (fun p => c.sent.any (fun y => decide (y.sentUs + p.ctl.peerto ≤ cmd.refUs)))) &&
    runs (.peerNackReceive 0 0 3) cmd && runs (.ackTimeout 0 0) cmd &&
    (held.opens.find? (fun y => y.id == 4) == some open_) && (held.part? 0).any (fun p => decide (open_.openedUs + p.ctl.peerto ≤ held.refUs)) &&
    runs (.targetChunkTimeout 4) held && runs (.peerRead ⟨17, 0, 0x1000, 2⟩) heaped &&
    open_.full && (open_.piece? (0, 2)).isSome && (held.set? 1).any (fun y => y.turnOf 1 open_.va open_.len) && held.pq.isEmpty &&
    (held.part? 0).any (fun p => match held.engXlat p open_.asid open_.va .write with | .ok _ => true | _ => false) && runs (.reduceApply 4) held &&
    runs (.parityDeltaApply ⟨0, 1, 0x1000, [7], none⟩) heaped && (sent.part? 0).any (fun p => (sent.parityRecord? p 1).isSome && decide (p.ctl.peerto ≤ sent.refUs)) &&
    sent.pq.any (fun d => d.id == 6 && decide (d.member < 16)) && runs (.parityAck 6) sent && runs (.parityDrop 6) sent = true := by decide +kernel

/-- Requests for partition 1, with the counts of words 1 to 6 at their least and a task table of one block at 4096. -/
def request (op nclu : Nat) (w5 w6 : Word64) : Request :=
  ⟨put64 56 8 op + put64 48 8 1, put64 57 7 nclu + put64 45 3 1 + put64 34 11 1, 0, 0, put64 44 20 1, w5, w6, 0⟩
def made (nclu : Nat) : State := (next? (.createPartition (request 1 nclu 0x1000 0x0040040000000000)) State.reset).getD State.reset

theorem witness_RequestsAreServed :
    let q := fun op n => request op n 0x1000 0x0040040000000000
    let any := request 5 0 0 0
    let shut := { State.reset with mgmt := { State.reset.mgmt with busy := some 1 } }
    let used := (made 2).onPart 1 (fun p => { p with totals := { p.totals with push := true } })
    let live := { used with cfq := [{ (default : Packet) with part := 1 }] }
    (q 1 1).w0 == 0x0101000000000000 && [q 1 2, q 2 1, q 3 1, q 4 1].all (fun y => reqPlain y && (reqTotals y).countsOk && (reqTotals y).tableOk && reqPart y == 1) &&
    [Instr.createPartition (q 1 1), .resizePartition (q 2 1), .destroyPartition (q 3 1), .setBuckets (q 4 1), .attest any].all (fun i => runs i shut) &&
    State.reset.mgmt.booted && (State.reset.part? 1).isNone && (lowestFree State.reset.cluOwner 72 2).isSome && (lowestFree State.reset.wsbOwner 256 0).isSome &&
    lowestFree State.reset.keyOwner 128 1 == some [0] && (lowestFree State.reset.asidOwner 256 1).isSome && State.reset.sharesFit 1 (reqTotals (q 1 2)) &&
    (used.part? 1).any (fun p =>
      (match changeClass used.cluOwner 72 p.clusters.length 1 (p.clusters.filter used.clusterIdle) with
       | .inr cs => p.clusters.any (fun k => dieOfCluster k == p.homeDie && !cs.2.contains k) | _ => false) &&
      (match changeClass used.wsbOwner 256 p.banks.length 0 [] with | .inr _ => true | _ => false) &&
      (match changeClass used.asidOwner 256 p.asids.length 1 (p.asids.tail.filter (used.asidIdle p)) with | .inr _ => true | _ => false) &&
      used.sharesFit 1 (reqTotals (q 2 1)) && (reqTotals (q 4 1)).sharesOk && (reqTotals (q 4 1)).idsOk && used.groups.isEmpty && used.cohorts.isEmpty && (used.cfq ++ used.df).isEmpty && used.allCmds.isEmpty) &&
    live.cfq.any (fun y => y.part == 1) &&
    [Instr.createPartition (q 1 2), .resizePartition (q 2 1), .destroyPartition (q 3 1), .setBuckets (q 4 1)].all (fun i => runs i used && runs i State.reset) &&
    let owing := used.onPart 1 (fun p => { p with decrements := [(5, none)] })
    (owing.part? 1).any (fun p => !p.decrements.isEmpty) && runs (.destroyPartition (q 3 1)) owing &&
    runs (.destroyPartition (q 3 1)) live && (used.part? 1).isSome && bits any.w0 0 48 == 0 && reqOp any == 5 = true := by decide +kernel

theorem witness_PowerThermalAndErrors :
    let hot := { State.reset with mgmt := { State.reset.mgmt with therm := 2 } }
    let dark := { State.reset with mgmt := { State.reset.mgmt with bootStep := 3 } }
    let off := { State.reset with mgmt := { State.reset.mgmt with stopped := true } }
    let sites := [ErrSite.memory 63, .scratch 0 64, .vWord 0 0 127]
    State.reset.mgmt.booted && decide (State.reset.mgmt.therm ≠ 2) && decide (State.reset.mgmt.therm ≠ 3) && !dark.mgmt.booted && off.mgmt.stopped &&
    [Instr.pwrcapWrite 0xFFF, .clockStepChange 8 ⟨2401, 104⟩ ⟨2402, 104⟩, .clockStepChange 16 ⟨0, 0⟩ ⟨0, 0⟩, .clockStepChange 8 ⟨0, 0⟩ ⟨2400, 104⟩,
      .thermHot 105, .thermalTrip 120, .supplySag].all (fun i => runs i State.reset) &&
    [Instr.thermNormal 100, .clockStepChange 8 ⟨0, 119⟩ ⟨0, 119⟩].all (fun i => runs i hot) && decide (hot.mgmt.therm = 2) &&
    sites.all (fun x => (tiny.errPlace x).isSome && runs (.memUe x) tiny && runs (.corrected x) tiny) &&
    (State.reset.errPlace (.scratch 0 64)).isNone = true := by decide +kernel

theorem witness_AnswersAndReclaim :
    let s := heaped.onPart 0 (fun p => { p with requests := [⟨3, 0, 0x20000, 0, false, [.path 0 0 0], none⟩], totals := { p.totals with dmq := 0 } })
    let weak := s.stored 0x9020 [0x4000000001]
    let lost := onC s (fun c => { c with killed := true })
    let w0 : Word64 := 0x0300000000000000
    (s.part? 0).any (fun p => p.requests.find? (fun y => y.rid == 3 && y.outcome.isNone) == some ⟨3, 0, 0x20000, 0, false, [.path 0 0 0], none⟩ &&
      (p.requests.find? (fun y => y.rid == 4 && y.outcome.isNone)).isNone && !s.waiterLost 0 (.path 0 0 0) && lost.waiterLost 0 (.path 0 0 0) &&
      (match s.walk p 0 0x20000 with | .absent 3 e => e == 0x301008 | _ => false)) &&
    (bits w0 56 8).toNat == 3 && !badAnswer w0 0x840000 && !badAnswer 0x0301000000000000 0 && bits w0 48 8 == 0 && bits (0x0301000000000000 : Word64) 48 8 == 1 &&
    (heaped.part? 0).any (fun p => decide (heaped.use p false ≤ p.quota false)) &&
    (weak.part? 0).any (fun p => decide (p.quota false < weak.use p false) && (weak.reclaimHead p false).isSome) &&
    [Instr.pageRequestAnswer 0 0x0400000000000000 0, .pageRequestAnswer 0 0x0301000000000000 0].all (fun i => runs i s && runs i lost) &&
    [heaped, weak].all (fun s => runs (.reclaim 0 0) s) && runs (.reclaim 0 1) heaped = true := by decide +kernel

/-- An LMS signature of height 10, an identifier, the second level's key for an empty image, a root public key, and the HSS signature. -/
def sg : List Byte := bigBytes 4 0 ++ otsType ++ List.replicate 2176 0 ++ lmsType 10 ++ List.replicate 320 0
def id0 : List Byte := List.replicate 16 0
def key2 : List Byte := lmsType 10 ++ otsType ++ id0 ++ lmsCandidate 10 id0 [] sg
def root0 : List Byte := bigBytes 4 2 ++ (lmsType 10 ++ otsType ++ id0 ++ lmsCandidate 10 id0 key2 sg)
def sig0 : List Byte := bigBytes 4 1 ++ (sg ++ (key2 ++ sg))

theorem sig0_verifies : hssVerify 10 root0 [] sig0 = true := by
  have hs : sg.length = 2508 := by decide +kernel
  have hf : lmsForm 10 sg = true := by decide +kernel
  have hk : key2.length = 56 := by
    simp [key2, lmsType, otsType, bigBytes_length, id0, lmsCandidate, lmsClimb_length, lmsLeaf, hashBytes_length]
  have hb : ∀ n, 4 ≤ n → (bigBytes 4 1).drop n = [] := fun n h => List.drop_of_length_le (by rw [bigBytes_length]; exact h)
  have hd : sg.drop 2564 = [] := List.drop_of_length_le (by omega)
  have h1 := lmsVerify_own 10 id0 key2 sg rfl hf
  have h2 : lmsVerify 10 key2 [] sg = true := lmsVerify_own 10 id0 [] sg rfl hf
  simp only [List.append_assoc] at h1
  simp [hssVerify, root0, sig0, lmsSigLen, List.drop_append, bigBytes_length, hs, hk, hb, hd, h1, h2]

/-- A reset that follows no thermal trip does not name one as its cause. -/
theorem reset_refused (im : Image) (s : State) (h : s.mgmt.therm ≠ 3) :
    exec (.reset .thermalTrip im none) s = .next { s with waited := false } := by
  have : resetPossible s.mgmt .thermalTrip im none = false := by unfold resetPossible; rw [if_neg h]; rfl
  show execReset .thermalTrip im none s = _
  unfold execReset; rw [this]; rfl

theorem witness_ResetStartsAnew :
    let s := { tiny with mgmt := { tiny.mgmt with rootKey := sha256 root0, svn := 0 } }
    s.mgmt.therm ≠ 3 ∧ sha256 root0 = s.mgmt.rootKey ∧ hssVerify 10 root0 [] sig0 = true ∧
      s.mgmt.svn.toNat ≤ (imageSvn ⟨[], root0, sig0⟩).toNat ∧ s.mgmt.bootCount < 32768 ∧
      exec (.reset .thermalTrip ⟨[], [], []⟩ none) tiny = .next { tiny with waited := false } :=
  ⟨by decide, rfl, sig0_verifies, Nat.zero_le _, by decide, reset_refused _ tiny (by decide)⟩

/-! ### Points where two readings part (hand calculation from the rules named) -/

/-- R91: one beat of a uniform word against one for each eighth; R52: pieces of at most 4 KiB. -/
theorem test_beats_and_pieces :
    holds tiny (fun c => (c.beats true [0, 16, 127]).length == 1 && (c.beats false [0, 16, 127]).length == 3) &&
    ((piecesOf 0x1000 (List.replicate 4097 default)).map (fun x => (x.1, x.2.length)) == [(0x1000, 4096), (0x2000, 1)]) = true := by decide +kernel

/-- R334, R327: a SWAP at DEV before a packet of another core that the copy does not hold, and one that it holds. -/
theorem test_atomic_before_a_packet :
    let q : Packet := { (default : Packet) with id := 4, core := 1, bytes := [⟨0x1000, 1, none, none⟩] }
    let swap : List WByte := [⟨0x1000, 0x44, none, none⟩, ⟨0x1001, 0x33, none, none⟩]
    let after := fun (held : List Nat) (b : Byte) =>
      let s := { tiny with df := [q], copies := [⟨.core 0, 64, b :: List.replicate 63 0, none, none, held⟩] }
      (s.group? 0).bind (fun g => ((s.writePoint g .dev swap).copy? (.core 0) 64).map (fun c => c.bytes.take 2))
    after [] 0 = some [0x44, 0x33] ∧ after [] 1 = some [0x44, 0x33] ∧ after [4] 1 = some [1, 0x33] := by decide +kernel

/-- R101, R236: an exited slice keeps no split entry, and an entry ahead of the marker counts once it is committed. -/
theorem test_dead_splits_and_markers :
    let g := fun (b : Bool) => (withSlices tiny (fun i y => { y with spl := if i = 1 then some 5 else none })).groups.headD default |>
      fun g => { g with splits := [(5, default)], sq := [⟨3, 3, b, none, .scratch []⟩] }
    (g true).sweepSplits.splits.isEmpty && !tiny.fenceReady (g true) [] (some 9) && tiny.fenceReady (g false) [] (some 9) &&
      tiny.fenceReady (g true) [] (some 3) = true := by decide +kernel

/-- R29, R205: a command of a cohort that its TID's task did not place fails no task; an answered request keeps its RID for a
path that is not lost. -/
theorem test_stale_commands_and_requests :
    let c : Cmd := { (default : Cmd) with cohort := 9 }
    let s := tiny.onPart 0 (fun p => { p with requests := [⟨3, 0, 0x20000, 0, false, [.path 0 7 0], some true⟩] })
    let left := fun (s : State) => ((s.sweepRequests 0).part? 0).map (fun p => p.requests.length)
    ((tiny.engineFault c 0 true).task? 0 0).map (·.state) = (tiny.task? 0 0).map (·.state) ∧
      ((tiny.engineFault { c with cohort := 0 } 0 true).task? 0 0).map (·.state) ≠ some .running ∧
      left s = some 1 ∧ left (onC s (fun c => { c with killed := true })) = some 0 := by decide +kernel

/-- The example of FIPS 180-4: SHA-256 of the bytes "abc". -/
theorem test_sha256 : sha256 [0x61, 0x62, 0x63] = 0xad1500f261ff10b49c7a1796a36103b02322ae5dde404141eacf018fbf1678ba := by decide +kernel

/-- IADD v2, lane, lane where quarter 0 fetches next, and the same device with a stream that its sequencer runs. -/
def picked : State := State.reset.placeWord 64 0x101C0B85C2E01000
def laterOf (s : State) (rest : List Action) : State :=
  ({ s with agenda := rest, choices := s.choices + 1, cur := .none, waited := false } : State).noteStreams.elapse (Config.cyclesPerStep s.choices) (Config.microsPerStep s.choices)

theorem witness_StepRunsTheDecoded :
    let e := laterOf picked []
    let s := { ready with agenda := [.sequencer 0] }
    picked.agenda == [.quarter 0 0] && !picked.mgmt.stopped && isEvent (.turn 0) &&
    (match e.quarterGroups 0 0 with
     | [g] => g.paths == [0] && (SMap.get none (e.core 0).capo 0).isNone && !(g.sliceAt 0).hdr && (e.cohort? g.cohort).isSome &&
       (e.part? g.part).any (fun pt =>
         match State.fetchWords pt g.core g.ctl.asid (g.sliceAt 0).wordsLeft (e.onCore 0 (fun c => (c.withPicks 0 0).withSlot 0 g.slot)) (g.sliceAt 0).pc.toNat with
         | ((w, t) :: lits, false, s1) => t.isNone && lits.all (fun y => y.2.isNone) &&
           (match decode w (lits.map (·.1)) with
            | .ok (i, _) => (match exec i { s1.onGroup g.gid (fun g => g.countTurn 0) with cur := .path g.gid 0 } with | .next u => !u.waited | _ => false)
            | _ => false)
         | _ => false)
     | _ => false) &&
    s.agenda == [.sequencer 0] && !s.mgmt.stopped && ((laterOf s []).cohort? 0).any (fun co => co.seq.active && !co.seq.ended && co.kill.isNone && !co.killed &&
      ((laterOf s []).part? co.part).any (fun p => match ((laterOf s []).streamWord p co co.seq.pc).1 with
        | some (w, none) => (decodeFT w).isSome | _ => false)) = true := by decide +kernel

/-- A step of the event row from a state whose memory is in its canonical form. -/
theorem witness_StepKeepsTheInvariant :
    let s := { State.reset with agenda := [.event (.memUe (.memory 0))] }
    s.canonical && (match Sys2Proof.core.step s with | .next t => t.canonical | _ => false) = true := by decide +kernel

/-- Well-formed instructions of both word families: IADD v2, lane, lane and an MMUL of a stream, with their words. -/
theorem witness_EncodeThenDecode :
    (match decode 0x101C0B85C2E01000 [] with
      | .ok (i, _) => i.wellFormed && !i.isStream && encode i == [0x101C0B85C2E01000]
      | .error _ => false) &&
    (Instr.mmul ⟨3, 4, 5, 0, 1, false, 0, 0⟩).wellFormed && (Instr.mmul ⟨3, 4, 5, 0, 1, false, 0, 0⟩).isStream &&
    (encode (.mmul ⟨3, 4, 5, 0, 1, false, 0, 0⟩) == [0x030C850100000000]) = true := by decide +kernel

/-- A group word with one literal and a word after it, which is left over. -/
theorem witness_DecodeReadsTheOpcode :
    (match decode 0x125E07FDC0E03800 [0x0000010000400000, 7] with
      | .ok (i, left) => left == [7] && i.opcode == 0x049 && i.words == 2
      | .error _ => false) = true := by decide +kernel

end Sys2Proof.Tests
end

section
namespace Sys2Proof.Machine

/-! ### Lookups after a change of a partition -/

theorem State.part?_setPart_self {s : State} {k : Nat} {p q : Part} (h : s.part? k = some p) (hq : q.id = k) :
    (s.setPart q).part? k = some q := by
  rw [State.part?_setPart, if_pos hq.symm, h]; rfl

theorem State.part?_setPart_ne {s : State} {k j : Nat} {q : Part} (hq : q.id = k) (hj : j ≠ k) :
    (s.setPart q).part? j = s.part? j := by
  rw [State.part?_setPart, if_neg (by rw [hq]; exact hj)]

theorem State.onPart_eq {s : State} {k : Nat} {p : Part} (f : Part → Part) (h : s.part? k = some p) :
    s.onPart k f = s.setPart (f p) := by simp [State.onPart, h]

/-! ### What a write at DM may change (R326, R335, R339) -/

/-- A change of a group that only drops reservations. -/
def ShedsResv (f : Group → Group) : Prop := ∀ g, f g = { g with resv := (f g).resv } ∧ (f g).resv ⊆ g.resv

theorem ShedsResv.id : ShedsResv id := fun _ => ⟨rfl, fun _ h => h⟩

theorem ShedsResv.comp {f h : Group → Group} (hf : ShedsResv f) (hh : ShedsResv h) : ShedsResv (h ∘ f) := by
  refine fun g => ⟨?_, fun r hr => (hf g).2 ((hh (f g)).2 hr)⟩
  show h (f g) = { g with resv := (h (f g)).resv }
  have h1 := (hh (f g)).1
  rw [(hf g).1] at h1 ⊢
  exact h1

/-- t differs from s at most in memory with its keys and poison, in parity deltas, in the reservations of groups, and in
partitions: what a write of the scheduler at DM may touch. -/
structure DeskFrame (s t : State) : Prop where
  frame : t = { s with mem := t.mem, memPois := t.memPois, memKey := t.memKey, pq := t.pq, nextUid := t.nextUid
                       groups := t.groups, parts := t.parts }
  groups : ∃ f, ShedsResv f ∧ t.groups = s.groups.map f

namespace DeskFrame

theorem refl (s : State) : DeskFrame s s := ⟨rfl, ⟨id, ShedsResv.id, (List.map_id _).symm⟩⟩

theorem trans {s t u : State} (h1 : DeskFrame s t) (h2 : DeskFrame t u) : DeskFrame s u := by
  obtain ⟨a1, ⟨f1, g1, e1⟩⟩ := h1
  obtain ⟨a2, ⟨f2, g2, e2⟩⟩ := h2
  refine ⟨?_, ⟨f2 ∘ f1, g1.comp g2, by rw [e2, e1, List.map_map]⟩⟩
  rw [a1] at a2
  exact a2

theorem setPart (s : State) (p : Part) : DeskFrame s (s.setPart p) := ⟨rfl, (refl s).groups⟩

theorem onPart (s : State) (k : Nat) (f : Part → Part) : DeskFrame s (s.onPart k f) := by
  unfold State.onPart
  split
  · exact setPart s _
  · exact refl s

variable {s t : State} (h : DeskFrame s t)
include h

theorem cycle : t.cycle = s.cycle := by rw [h.frame]
theorem cohorts : t.cohorts = s.cohorts := by rw [h.frame]
theorem clusters : t.clusters = s.clusters := by rw [h.frame]
theorem cores : t.cores = s.cores := by rw [h.frame]
theorem copies : t.copies = s.copies := by rw [h.frame]
theorem msiOut : t.msiOut = s.msiOut := by rw [h.frame]
theorem keySlots : t.keySlots = s.keySlots := by rw [h.frame]
theorem tick : t.tick = s.tick := by rw [State.tick, State.tick, h.cycle]
theorem cohort? (u : Nat) : t.cohort? u = s.cohort? u := by rw [State.cohort?, State.cohort?, h.cohorts]

theorem groups_length : t.groups.length = s.groups.length := by
  obtain ⟨f, -, e⟩ := h.groups
  rw [e, List.length_map]

/-- A group that holds no reservation is there as it was. -/
theorem mem_groups {g : Group} (hg : g ∈ s.groups) (hr : g.resv = []) : g ∈ t.groups := by
  obtain ⟨f, hf, e⟩ := h.groups
  rw [e]
  refine List.mem_map.2 ⟨g, hg, ?_⟩
  obtain ⟨h1, h2⟩ := hf g
  rw [hr, List.subset_nil] at h2
  rw [h1, h2, ← hr]

theorem group? (j : Nat) : ∃ r : Group → List Reservation, t.group? j = (s.group? j).map (fun g => { g with resv := r g }) := by
  obtain ⟨f, hf, e⟩ := h.groups
  refine ⟨fun g => (f g).resv, ?_⟩
  have hk : (fun g : Group => g.gid == j) ∘ f = fun g => g.gid == j := by
    funext g
    show ((f g).gid == j) = _
    rw [(hf g).1]
  rw [State.group?, e, List.find?_map, hk]
  exact Option.map_congr fun g _ => (hf g).1

theorem group?_none {j : Nat} (hg : s.group? j = none) : t.group? j = none := by
  obtain ⟨r, e⟩ := h.group? j
  rw [e, hg]; rfl

end DeskFrame

/-- t is s after writes at DM: of the partitions at most the buckets differ, at which deltas wait. -/
structure Stored (s t : State) : Prop extends DeskFrame s t where
  parts : ∀ k, ∃ b : Part → List (BucketId × Bucket), t.part? k = (s.part? k).map (fun p => { p with buckets := b p })

namespace Stored

theorem refl (s : State) : Stored s s := ⟨DeskFrame.refl s, fun _ => ⟨Part.buckets, by simp⟩⟩

theorem trans {s t u : State} (h1 : Stored s t) (h2 : Stored t u) : Stored s u := by
  refine ⟨h1.toDeskFrame.trans h2.toDeskFrame, fun k => ?_⟩
  obtain ⟨b1, h1⟩ := h1.parts k
  obtain ⟨b2, h2⟩ := h2.parts k
  exact ⟨fun p => b2 { p with buckets := b1 p }, by rw [h2, h1, Option.map_map]; rfl⟩

/-- A fold of writes is a write. -/
theorem foldl {α : Type} (f : State → α → State) (hf : ∀ s x, Stored s (f s x)) (l : List α) (s : State) :
    Stored s (l.foldl f s) :=
  foldl_keeps (Stored s) f (fun t x h => h.trans (hf t x)) l s (refl s)

theorem of_memory (s : State) (m : Memory) (x : SMap (Option Tag)) (k : SMap (Option Nat)) :
    Stored s { s with mem := m, memPois := x, memKey := k } :=
  ⟨⟨rfl, (refl s).groups⟩, (refl s).parts⟩

theorem of_deltas (s : State) (q : List Delta) (n : Nat) : Stored s { s with pq := q, nextUid := n } :=
  ⟨⟨rfl, (refl s).groups⟩, (refl s).parts⟩

theorem askBucket (s : State) (part : Nat) (id : BucketId) (x : Transfer) (n : Nat) : Stored s (s.askBucket part id x n) := by
  unfold State.askBucket State.onPart
  split
  · next p hp =>
    refine ⟨DeskFrame.setPart s _, fun k => ?_⟩
    rw [State.part?_setPart]
    split
    · next e =>
      obtain rfl : k = part := e.trans (State.part?_id (p := p) hp)
      exact ⟨fun p => (p.onBucket id (fun b => { b with pieces := b.pieces ++ [(x, n)] })).buckets, by rw [hp]; rfl⟩
    · exact ⟨Part.buckets, by simp⟩
  · exact refl s

theorem clearReservations (s : State) (bs : List WByte) (scratch : Option Nat) (point : WritePoint) :
    Stored s (s.clearReservations bs scratch point) :=
  ⟨⟨rfl, ⟨_, fun _ => ⟨rfl, List.filter_sublist.subset⟩, rfl⟩⟩, (refl s).parts⟩

theorem claim (s : State) (part : Nat) (secs : List Nat) : Stored s (s.claim part secs) := by
  unfold State.claim
  split
  · exact refl s
  · refine foldl _ (fun s sec => ?_) secs s
    split
    · exact of_memory s _ _ _
    · split
      · exact refl s
      · exact of_memory s _ _ _

theorem writeHome (s : State) (part : Nat) (bs : List WByte) : Stored s (s.writeHome part bs) :=
  ((claim s part _).trans (of_memory _ _ _ _)).trans (clearReservations _ _ _ _)

theorem refreshPend (s : State) (p : Part) (pgid : BitVec 16) : Stored s (s.refreshPend p pgid) := by
  unfold State.refreshPend
  split
  · exact refl s
  · exact writeHome s p.id _

theorem formDeltas (s : State) (p : Part) (range : ProtRange) (sec : Nat) (old new : List Byte) (pois : Option Tag)
    (src : DeltaSource) : Stored s (s.formDeltas p range sec old new pois src) := by
  unfold State.formDeltas
  split
  · exact refl s
  · split
    · exact refl s
    · dsimp only
      split
      · exact refl s
      · refine (foldl _ (fun s i => ?_) _ s).trans (refreshPend _ p range.pgid)
        split
        · exact (of_deltas s _ _).trans (askBucket _ _ _ _ _)
        · exact refl s

theorem parityFor (s0 s1 : State) (part : Nat) (bs : List WByte) (src : DeltaSource) :
    Stored s1 (s0.parityFor s1 part bs src) := by
  unfold State.parityFor
  split
  · exact refl s1
  · split
    · exact refl s1
    · refine foldl _ (fun s sec => ?_) _ s1
      split
      · exact refl s
      · exact formDeltas s _ _ _ _ _ _ _

theorem writeDM (s : State) (part : Nat) (bs : List WByte) (src : DeltaSource) : Stored s (s.writeDM part bs src) :=
  (writeHome s part bs).trans (parityFor s _ part bs src)

theorem writeWords (s : State) (part pa : Nat) (ws : List Word64) : Stored s (s.writeWords part pa ws) :=
  writeDM s part _ _

variable {s t : State} (h : Stored s t)
include h

theorem part?_some {k : Nat} {p : Part} (hp : s.part? k = some p) : ∃ b, t.part? k = some { p with buckets := b } := by
  obtain ⟨b, hb⟩ := h.parts k
  exact ⟨b p, by rw [hb, hp]; rfl⟩

theorem task? (k tid : Nat) : t.task? k tid = s.task? k tid := by
  obtain ⟨b, hb⟩ := h.parts k
  rw [State.task?, State.task?, hb]
  cases s.part? k <;> rfl

theorem keyOf (k : Nat) : t.keyOf k = s.keyOf k := by
  obtain ⟨b, hb⟩ := h.parts k
  rw [State.keyOf, State.keyOf, hb, h.keySlots]
  cases s.part? k <;> rfl

end Stored

/-! ### What memory reads after a write at DM (R47, R158, R326) -/

theorem lastByte_cons (b : WByte) (bs : List WByte) (a : Nat) (old : Byte) :
    lastByte (b :: bs) a old = lastByte bs a (if b.addr = a then b.val else old) := by
  unfold lastByte
  by_cases hb : b.addr = a
  · simp only [hb, if_true, List.filter_cons, beq_self_eq_true, List.getLast?_cons]
    cases (bs.filter (fun b => b.addr == a)).getLast? <;> rfl
  · have : (b.addr == a) = false := by simpa using hb
    simp only [hb, if_false, List.filter_cons, this]
    rfl

/-- A byte that no write names keeps its value. -/
theorem lastByte_other {bs : List WByte} {a : Nat} (h : ∀ b ∈ bs, b.addr ≠ a) (old : Byte) : lastByte bs a old = old := by
  unfold lastByte
  rw [List.filter_eq_nil_iff.2 (fun b hb => by simpa using h b hb)]
  rfl

/-- Where every write of a byte has one value, and there is one, it has that value. -/
theorem lastByte_eq {bs : List WByte} {a : Nat} {v : Byte} (h : ∃ b ∈ bs, b.addr = a) (hv : ∀ b ∈ bs, b.addr = a → b.val = v)
    (old : Byte) : lastByte bs a old = v := by
  obtain ⟨b, hb, e⟩ := h
  have hne : bs.filter (fun b => b.addr == a) ≠ [] := List.ne_nil_of_mem (List.mem_filter.2 ⟨hb, by simpa using e⟩)
  obtain ⟨h1, h2⟩ := List.mem_filter.1 (List.getLast_mem hne)
  unfold lastByte
  rw [List.getLast?_eq_getLast_of_ne_nil hne]
  exact hv _ h1 (by simpa using h2)

theorem read_storeBytes (bs : List WByte) (m : Memory) (a : Nat) :
    Memory.read (storeBytes m bs) a = lastByte bs a (m.read a) := by
  induction bs generalizing m with
  | nil => rfl
  | cons b bs ih =>
    show Memory.read (storeBytes (m.write b.addr b.val) bs) a = _
    rw [ih, lastByte_cons]
    split
    · next h => rw [← h, Memory.read_write_self]
    · next h => rw [Memory.read_write_ne _ _ _ _ (Ne.symm h)]

theorem mem_sectorsOf {bs : List WByte} {sec : Nat} : sec ∈ sectorsOf bs ↔ ∃ b ∈ bs, b.addr / 64 = sec := by
  have key : ∀ (bs : List WByte) (acc : List Nat),
      sec ∈ bs.foldl (fun acc b => if acc.contains (b.addr / 64) then acc else acc ++ [b.addr / 64]) acc ↔
        sec ∈ acc ∨ ∃ b ∈ bs, b.addr / 64 = sec := by
    intro bs
    induction bs with
    | nil => simp
    | cons b bs ih =>
      intro acc
      rw [List.foldl_cons, ih]
      by_cases hb : b.addr / 64 ∈ acc
      · have : b.addr / 64 = sec → sec ∈ acc := fun h => h ▸ hb
        simp only [List.contains_iff_mem, hb, if_true, List.mem_cons, exists_eq_or_imp]
        tauto
      · simp only [List.contains_iff_mem, hb, if_false, List.mem_cons, exists_eq_or_imp, List.mem_append, List.not_mem_nil,
          or_false, eq_comm (a := sec)]
        tauto
  exact (key bs []).trans (by simp)

/-- Whether an address exists is the same throughout a sector (R191). -/
theorem physOk_sector {a b : Nat} (h : a / 64 = b / 64) : physOk a = physOk b := by
  unfold physOk
  rw [Bool.eq_iff_iff]
  simp only [Bool.or_eq_true, Bool.and_eq_true, decide_eq_true_eq]
  omega


/-! Keys. -/

theorem openByte_none_right (w : Option Nat) (f : Nat → Byte) (a : Nat) : openByte w none f a = f a := by cases w <;> rfl

theorem openByte_same (k : Nat) (f : Nat → Byte) (a : Nat) : openByte (some k) (some k) f a = f a := by simp [openByte]

/-- A byte as it opens depends on its sector alone. -/
theorem openByte_congr (w r : Option Nat) {f g : Nat → Byte} {a : Nat} (h : ∀ b, b / 64 = a / 64 → f b = g b) :
    openByte w r f a = openByte w r g a := by
  have hb : (List.range 16).map (fun i => f (a / 16 * 16 + i)) = (List.range 16).map (fun i => g (a / 16 * 16 + i)) :=
    List.map_congr_left fun i hi => h _ (by have := List.mem_range.1 hi; omega)
  unfold openByte
  rw [hb, h a rfl]

/-- One sector passes under the key of draw k. -/
def State.claimSector (k : Nat) (s : State) (sec : Nat) : State :=
  match SMap.get none s.memKey sec with
  | none => { s with memKey := SMap.put none s.memKey sec (some k) }
  | some j =>
    if j = k then s
    else
      { s with mem := storeBytes s.mem ((List.range 64).map (fun i =>
                 ⟨64 * sec + i, (s.readUnder (some k) (64 * sec + i)).val, none, none⟩))
               memKey := SMap.put none s.memKey sec (some k) }

theorem State.claim_none {s : State} {part : Nat} (h : s.keyOf part = none) (secs : List Nat) : s.claim part secs = s := by
  simp [State.claim, h]

theorem State.claim_some {s : State} {part k : Nat} (h : s.keyOf part = some k) (secs : List Nat) :
    s.claim part secs = secs.foldl (State.claimSector k) s := by
  unfold State.claim
  rw [h]
  rfl

/-- What the passing of a sector under a key can do. -/
theorem State.claimSector_cases (k : Nat) (s : State) (sec : Nat) :
    (SMap.get none s.memKey sec = none ∧ s.claimSector k sec = { s with memKey := SMap.put none s.memKey sec (some k) }) ∨
    (SMap.get none s.memKey sec = some k ∧ s.claimSector k sec = s) ∨
    s.claimSector k sec =
      { s with mem := storeBytes s.mem ((List.range 64).map (fun i =>
                 ⟨64 * sec + i, (s.readUnder (some k) (64 * sec + i)).val, none, none⟩))
               memKey := SMap.put none s.memKey sec (some k) } := by
  unfold State.claimSector
  cases h : SMap.get none s.memKey sec with
  | none => exact .inl ⟨rfl, rfl⟩
  | some j =>
    by_cases e : j = k
    · exact .inr (.inl ⟨by rw [e], if_pos e⟩)
    · exact .inr (.inr (if_neg e))

theorem State.claimSector_memKey (k : Nat) (s : State) (sec j : Nat) :
    SMap.get none (s.claimSector k sec).memKey j = if j = sec then some k else SMap.get none s.memKey j := by
  have hput : SMap.get none (SMap.put none s.memKey sec (some k)) j = if j = sec then some k else SMap.get none s.memKey j :=
    SMap.get_put _ _ _ _ _
  obtain ⟨-, e⟩ | ⟨h, e⟩ | e := State.claimSector_cases k s sec <;> rw [e]
  · exact hput
  · split
    · next hj => rw [hj, h]
    · rfl
  · exact hput

@[simp] theorem State.claimSector_memPois (k : Nat) (s : State) (sec : Nat) : (s.claimSector k sec).memPois = s.memPois := by
  obtain ⟨-, e⟩ | ⟨-, e⟩ | e := State.claimSector_cases k s sec <;> rw [e]

/-- The bytes of a sector that passes under a key, as they stood under it. -/
theorem lastByte_sector (sec a : Nat) (f : Nat → Byte) (old : Byte) :
    lastByte ((List.range 64).map (fun i => (⟨64 * sec + i, f (64 * sec + i), none, none⟩ : WByte))) a old =
      if a / 64 = sec then f a else old := by
  split
  · next h =>
    refine lastByte_eq ⟨_, List.mem_map.2 ⟨a % 64, List.mem_range.2 (by omega), rfl⟩, ?_⟩ (fun b hb hba => ?_) old
    · show 64 * sec + a % 64 = a
      omega
    · obtain ⟨i, -, rfl⟩ := List.mem_map.1 hb
      exact congrArg f hba
  · next h =>
    refine lastByte_other (fun b hb hba => h ?_) old
    obtain ⟨i, hi, rfl⟩ := List.mem_map.1 hb
    have h1 : 64 * sec + i = a := hba
    have h2 := List.mem_range.1 hi
    omega

/-- A sector that passes under a key reads under it as before. -/
theorem State.claimSector_readUnder {k sec : Nat} (s : State) (hs : ∀ a, a / 64 = sec → physOk a = true) (a : Nat) :
    (s.claimSector k sec).readUnder (some k) a = s.readUnder (some k) a := by
  have hp : ((s.claimSector k sec).readDM a).pois = (s.readDM a).pois := by
    unfold State.readDM
    split
    · rw [State.claimSector_memPois]
    · rfl
  unfold State.readUnder
  rw [hp, State.claimSector_memKey]
  congr 1
  by_cases ha : a / 64 = sec
  · rw [if_pos ha, openByte_same, ha]
    obtain ⟨h, e⟩ | ⟨h, e⟩ | e := State.claimSector_cases k s sec <;> rw [e]
    · rw [h]; rfl
    · rw [h, openByte_same]
    · simp only [State.readDM, hs a ha, if_true, read_storeBytes]
      rw [lastByte_sector sec a (fun a => (s.readUnder (some k) a).val), if_pos ha]
      simp [State.readUnder, State.readDM, ha, hs a ha]
  · rw [if_neg ha]
    refine openByte_congr _ _ fun b hb => ?_
    obtain ⟨-, e⟩ | ⟨-, e⟩ | e := State.claimSector_cases k s sec <;> rw [e]
    · rfl
    · have := (lastByte_sector sec b (fun a => (s.readUnder (some k) a).val) (Memory.read s.mem b)).trans
        (if_neg (by rw [hb]; exact ha))
      simp only [State.readDM, read_storeBytes]
      rw [this]

/-- After sectors that exist have passed under a key, every byte reads under it as before, and they stand under it. -/
theorem State.claimSectors_spec (k : Nat) (secs : List Nat) (s : State)
    (hs : ∀ sec ∈ secs, ∀ a, a / 64 = sec → physOk a = true) :
    (∀ a, (secs.foldl (State.claimSector k) s).readUnder (some k) a = s.readUnder (some k) a) ∧
    (∀ j, SMap.get none (secs.foldl (State.claimSector k) s).memKey j =
      if j ∈ secs then some k else SMap.get none s.memKey j) := by
  induction secs generalizing s with
  | nil => exact ⟨fun _ => rfl, fun _ => by simp⟩
  | cons sec secs ih =>
    obtain ⟨h1, h2⟩ := ih (s.claimSector k sec) (fun x hx => hs x (List.mem_cons_of_mem _ hx))
    refine ⟨fun a => (h1 a).trans (State.claimSector_readUnder s (hs sec List.mem_cons_self) a), fun j => (h2 j).trans ?_⟩
    rw [State.claimSector_memKey]
    by_cases e1 : j ∈ secs <;> by_cases e2 : j = sec <;> simp [e1, e2]

/-- The bytes that exist, of those that are written. -/
def existing (bs : List WByte) : List WByte := bs.filter (fun b => physOk b.addr)

theorem physOk_of_mem_existing {bs : List WByte} {b : WByte} (h : b ∈ existing bs) : physOk b.addr = true :=
  (List.mem_filter.1 h).2

theorem existing_other {bs : List WByte} {a : Nat} (h : physOk a = false) : ∀ b ∈ existing bs, b.addr ≠ a := by
  rintro b hb rfl
  rw [physOk_of_mem_existing hb] at h
  cases h

theorem State.writeHome_mem (s : State) (part : Nat) (bs : List WByte) :
    (s.writeHome part bs).mem = storeBytes (s.claim part (sectorsOf (existing bs))).mem (existing bs) := rfl

theorem State.writeHome_memPois (s : State) (part : Nat) (bs : List WByte) :
    (s.writeHome part bs).memPois = storePois (s.claim part (sectorsOf (existing bs))).memPois (existing bs) := rfl

theorem State.writeHome_memKey (s : State) (part : Nat) (bs : List WByte) :
    (s.writeHome part bs).memKey = (s.claim part (sectorsOf (existing bs))).memKey := rfl

/-- A byte as it lies at its home after bytes were written there. -/
theorem State.readDM_writeHome_val (s : State) (part : Nat) (bs : List WByte) (a : Nat) :
    ((s.writeHome part bs).readDM a).val =
      lastByte (existing bs) a ((s.claim part (sectorsOf (existing bs))).readDM a).val := by
  unfold State.readDM
  cases ha : physOk a
  · exact (lastByte_other (existing_other ha) _).symm
  · simp only [if_true]
    rw [State.writeHome_mem, read_storeBytes]

/-- What a byte of memory reads after bytes were written at their home: the last of them that names it, where it
exists, or what it read before. -/
theorem State.readAs_writeHome_val (s : State) (part : Nat) (bs : List WByte) (a : Nat) :
    ((s.writeHome part bs).readAs part a).val = lastByte (existing bs) a (s.readAs part a).val := by
  have hraw := s.readDM_writeHome_val part bs
  unfold State.readAs State.readUnder
  rw [(Stored.writeHome s part bs).keyOf part, State.writeHome_memKey]
  dsimp only
  cases hk : s.keyOf part with
  | none => rw [openByte_none_right, openByte_none_right, hraw, State.claim_none hk]
  | some k =>
    have hsec : ∀ sec ∈ sectorsOf (existing bs), ∀ a, a / 64 = sec → physOk a = true := fun sec h a ha => by
      obtain ⟨b, hb, e⟩ := mem_sectorsOf.1 h
      rw [physOk_sector (ha.trans e.symm)]
      exact physOk_of_mem_existing hb
    obtain ⟨h1, h2⟩ := State.claimSectors_spec k _ s hsec
    rw [← State.claim_some hk] at h1 h2
    have h3 := congrArg PByte.val (h1 a)
    unfold State.readUnder at h3
    rw [h2] at h3 ⊢
    dsimp only at h3
    rw [← h3]
    by_cases hn : a / 64 ∈ sectorsOf (existing bs)
    · rw [if_pos hn, openByte_same, openByte_same, hraw]
    · have hno : ∀ x, x / 64 = a / 64 → ∀ b ∈ existing bs, b.addr ≠ x := fun x hx b hb e =>
        hn (mem_sectorsOf.2 ⟨b, hb, by rw [e, hx]⟩)
      rw [if_neg hn, lastByte_other (hno a rfl)]
      exact openByte_congr _ _ fun x hx => by rw [hraw, lastByte_other (hno x hx)]

end Sys2Proof.Machine
end

section
namespace Sys2Proof.Machine

/-! ### Poison after a write (R158, R159) -/

theorem mergeAll_clean {l : List (Option Tag)} (h : ∀ x ∈ l, x = none) : mergeAll l = none := by
  induction l with
  | nil => rfl
  | cons x l ih =>
    rw [h x List.mem_cons_self]
    exact ih fun y hy => h y (List.mem_cons_of_mem _ hy)

/-- Clean bytes that leave a byte of the sector alone leave the sector's poison. -/
theorem sectorPois_clean {bs : List WByte} {a : Nat} (hc : ∀ b ∈ bs, b.pois = none) (ha : ∀ b ∈ bs, b.addr ≠ a)
    (old : Option Tag) : sectorPois old bs (a / 64) = old := by
  have hm : mergeAll ((bs.filter (fun b => b.addr / 64 == a / 64)).map (·.pois)) = none := by
    refine mergeAll_clean fun x hx => ?_
    obtain ⟨b, hb, rfl⟩ := List.mem_map.1 hx
    exact hc b (List.mem_filter.1 hb).1
  have hcov : coversSector (bs.filter (fun b => b.addr / 64 == a / 64)) (a / 64) = false := by
    refine Bool.eq_false_iff.2 fun h => ?_
    have := List.all_eq_true.1 h (a % 64) (List.mem_range.2 (by omega))
    obtain ⟨b, hb, e⟩ := List.any_eq_true.1 this
    refine ha b (List.mem_filter.1 hb).1 ?_
    rw [beq_iff_eq] at e
    omega
  unfold sectorPois
  dsimp only
  rw [hcov, hm]
  cases old <;> rfl

theorem storePois_clean {bs : List WByte} {a : Nat} (hc : ∀ b ∈ bs, b.pois = none) (ha : ∀ b ∈ bs, b.addr ≠ a)
    (x : SMap (Option Tag)) : SMap.get none (storePois x bs) (a / 64) = SMap.get none x (a / 64) := by
  refine foldl_keeps (fun y : SMap (Option Tag) => SMap.get none y (a / 64) = SMap.get none x (a / 64)) _
    (fun y sec hy => ?_) _ x rfl
  rw [SMap.get_put]
  split
  · next e => rw [← e, sectorPois_clean hc ha, hy]
  · exact hy

@[simp] theorem State.claim_memPois (s : State) (part : Nat) (secs : List Nat) : (s.claim part secs).memPois = s.memPois := by
  cases h : s.keyOf part with
  | none => rw [State.claim_none h]
  | some k =>
    rw [State.claim_some h]
    exact foldl_keeps (fun t : State => t.memPois = s.memPois) _ (fun t x ht => by rw [State.claimSector_memPois, ht]) _ s rfl

/-! ### Bytes and words that the device writes -/

/-- A byte that clean writes do not name reads as before. -/
theorem State.readAs_writeHome_other {s : State} {part : Nat} {bs : List WByte} {a : Nat}
    (hc : ∀ b ∈ bs, b.pois = none) (ha : ∀ b ∈ bs, b.addr ≠ a) : (s.writeHome part bs).readAs part a = s.readAs part a := by
  have hsub : ∀ b ∈ existing bs, b ∈ bs := fun b hb => (List.mem_filter.1 hb).1
  have hv : ((s.writeHome part bs).readAs part a).val = (s.readAs part a).val := by
    rw [State.readAs_writeHome_val, lastByte_other (fun b hb => ha b (hsub b hb))]
  have hp : ((s.writeHome part bs).readDM a).pois = (s.readDM a).pois := by
    unfold State.readDM
    split
    · rw [State.writeHome_memPois]
      dsimp only
      rw [storePois_clean (fun b hb => hc b (hsub b hb)) (fun b hb => ha b (hsub b hb)), State.claim_memPois]
    · rfl
  unfold State.readAs State.readUnder at hv ⊢
  rw [hp]
  exact congrArg (fun v => (⟨v, (s.readDM a).pois⟩ : PByte)) hv

/-- Where no parity protection lies, a write at DM is a write at its home. -/
theorem State.writeDM_unprotected {s : State} {k : Nat} {p : Part} (hp : s.part? k = some p) (h : p.prot = [])
    (bs : List WByte) (src : DeltaSource) : s.writeDM k bs src = s.writeHome k bs := by
  simp [State.writeDM, State.parityFor, hp, h]

theorem bytesOfWord64_length (w : Word64) : (bytesOfWord64 w).length = 8 := by simp [bytesOfWord64]

theorem flatMap_bytes_getElem? (ws : List Word64) (j i : Nat) (hi : i < 8) :
    (ws.flatMap bytesOfWord64)[8 * j + i]? = ws[j]?.map (fun w => bits w (8 * i) 8) := by
  induction ws generalizing j with
  | nil => rfl
  | cons w ws ih =>
    rw [List.flatMap_cons]
    cases j with
    | zero =>
      rw [List.getElem?_append_left (by rw [bytesOfWord64_length]; omega)]
      simp [bytesOfWord64, hi]
    | succ j =>
      rw [List.getElem?_append_right (by rw [bytesOfWord64_length]; omega), bytesOfWord64_length,
        show 8 * (j + 1) + i - 8 = 8 * j + i by omega, ih]
      rfl

theorem flatMap_bytes_length (ws : List Word64) : (ws.flatMap bytesOfWord64).length = 8 * ws.length := by
  induction ws with
  | nil => rfl
  | cons w ws ih => rw [List.flatMap_cons, List.length_append, bytesOfWord64_length, ih, List.length_cons]; omega

theorem mem_deviceBytes {pa : Nat} {ws : List Word64} {b : WByte} :
    b ∈ deviceBytes pa ws ↔ ∃ i x, (ws.flatMap bytesOfWord64)[i]? = some x ∧ b = ⟨pa + i, x, none, none⟩ := by
  simp only [deviceBytes, List.mem_map, Prod.exists, List.mem_zipIdx_iff_getElem?]
  constructor
  · rintro ⟨x, i, h, rfl⟩; exact ⟨i, x, h, rfl⟩
  · rintro ⟨i, x, h, rfl⟩; exact ⟨x, i, h, rfl⟩

theorem deviceBytes_range {pa : Nat} {ws : List Word64} {b : WByte} (h : b ∈ deviceBytes pa ws) :
    b.pois = none ∧ pa ≤ b.addr ∧ b.addr < pa + 8 * ws.length := by
  obtain ⟨i, x, hx, rfl⟩ := mem_deviceBytes.1 h
  have := (List.getElem?_eq_some_iff.1 hx).1
  rw [flatMap_bytes_length] at this
  exact ⟨rfl, Nat.le_add_right _ _, Nat.add_lt_add_left this pa⟩

/-- A number is the sum of its bytes. -/
theorem sum_bytes (x n : Nat) : ((List.range n).map (fun i => x / 2 ^ (8 * i) % 256 * 2 ^ (8 * i))).sum = x % 2 ^ (8 * n) := by
  induction n with
  | zero => simp [Nat.mod_one]
  | succ n ih =>
    rw [List.range_succ, List.map_append, List.sum_append, ih, show 2 ^ (8 * (n + 1)) = 2 ^ (8 * n) * 256 by rw [Nat.mul_succ, Nat.pow_add],
      Nat.mod_mul]
    simp [Nat.mul_comm]

theorem bits_byte_toNat (w : Word64) (i : Nat) : (bits w (8 * i) 8).toNat = w.toNat / 2 ^ (8 * i) % 256 := by
  simp [bits, BitVec.extractLsb'_toNat, Nat.shiftRight_eq_div_pow]

theorem word64OfBytes_bytes (f : Nat → Byte) (w : Word64) (h : ∀ i < 8, f i = bits w (8 * i) 8) :
    word64OfBytes ((List.range 8).map f) = w := by
  have hsum : (List.range 8).map (fun i => (((List.range 8).map f).getD i 0).toNat * 2 ^ (8 * i)) =
      (List.range 8).map (fun i => w.toNat / 2 ^ (8 * i) % 256 * 2 ^ (8 * i)) := by
    refine List.map_congr_left fun i hi => ?_
    have hi := List.mem_range.1 hi
    rw [List.getD_eq_getElem?_getD, List.getElem?_map, List.getElem?_range hi]
    show (f i).toNat * _ = _
    rw [h i hi, bits_byte_toNat]
  unfold word64OfBytes
  rw [hsum, sum_bytes, Nat.mod_eq_of_lt w.isLt, BitVec.ofNat_toNat, BitVec.setWidth_eq]

/-- A word that the device wrote reads back, where it exists and no parity protection lies. -/
theorem State.readWordAs_writeWords {s : State} {k : Nat} {p : Part} (hp : s.part? k = some p) (h0 : p.prot = [])
    {pa j : Nat} {ws : List Word64} {w : Word64} (hw : ws[j]? = some w) (hok : ∀ i < 8, physOk (pa + 8 * j + i) = true) :
    (s.writeWords k pa ws).readWordAs k (pa + 8 * j) = w := by
  unfold State.readWordAs State.readBytesAs State.writeWords
  rw [List.map_map, State.writeDM_unprotected hp h0]
  refine word64OfBytes_bytes _ _ fun i hi => ?_
  show ((s.writeHome k (deviceBytes pa ws)).readAs k (pa + 8 * j + i)).val = _
  rw [State.readAs_writeHome_val]
  have hb : (ws.flatMap bytesOfWord64)[8 * j + i]? = some (bits w (8 * i) 8) := by rw [flatMap_bytes_getElem? _ _ _ hi, hw]; rfl
  have ha : pa + (8 * j + i) = pa + 8 * j + i := by omega
  refine lastByte_eq ⟨⟨pa + (8 * j + i), bits w (8 * i) 8, none, none⟩, ?_, ha⟩ (fun b h e => ?_) _
  · exact List.mem_filter.2 ⟨mem_deviceBytes.2 ⟨_, _, hb, rfl⟩, by rw [ha]; exact hok i hi⟩
  · obtain ⟨n, x, hx, rfl⟩ := mem_deviceBytes.1 (List.mem_filter.1 h).1
    have : pa + n = pa + 8 * j + i := e
    obtain rfl : n = 8 * j + i := by omega
    rw [hb] at hx
    exact (Option.some.inj hx).symm

/-- A byte outside the words that the device writes reads as before, where no parity protection lies. -/
theorem State.readAs_writeWords_other {s : State} {k : Nat} {p : Part} (hp : s.part? k = some p) (h0 : p.prot = [])
    {pa a : Nat} {ws : List Word64} (ha : a < pa ∨ pa + 8 * ws.length ≤ a) :
    (s.writeWords k pa ws).readAs k a = s.readAs k a := by
  unfold State.writeWords
  rw [State.writeDM_unprotected hp h0]
  refine State.readAs_writeHome_other (fun b hb => (deviceBytes_range hb).1) fun b hb e => ?_
  have := deviceBytes_range hb
  omega

/-- Memory, its keys and the partition's key as they were: a partition reads as before. -/
theorem State.readAs_congr {s t : State} {k : Nat} (h1 : t.mem = s.mem) (h2 : t.memPois = s.memPois) (h3 : t.memKey = s.memKey)
    (h4 : t.keyOf k = s.keyOf k) (a : Nat) : t.readAs k a = s.readAs k a := by
  simp only [State.readAs, State.readUnder, State.readDM, h1, h2, h3, h4]

theorem State.readWordAs_congr {s t : State} {k a : Nat} (h : ∀ i < 8, t.readAs k (a + i) = s.readAs k (a + i)) :
    t.readWordAs k a = s.readWordAs k a := by
  unfold State.readWordAs State.readBytesAs
  rw [List.map_congr_left fun i hi => h i (List.mem_range.1 hi)]

end Sys2Proof.Machine
end

section
namespace Sys2Proof.Machine

/-! ### The task table (R28) -/

/-- The partition with a block in its table. -/
def Part.withTask (p : Part) (t : Task) : Part :=
  if p.tasks.any (fun x => x.tid == t.tid) then p.onTask t.tid (fun _ => t) else { p with tasks := p.tasks ++ [t] }

theorem Part.withTask_eq (p : Part) (t : Task) : p.withTask t = { p with tasks := (p.withTask t).tasks } := by
  unfold Part.withTask
  split <;> rfl

theorem Part.task?_tid {p : Part} {x : Nat} {t : Task} (h : p.task? x = some t) : t.tid = x := by
  simpa using List.find?_some h

theorem Part.task?_withTask (p : Part) (t : Task) (x : Nat) :
    (p.withTask t).task? x = if x = t.tid then some t else p.task? x := by
  unfold Part.withTask
  split
  · next h =>
    refine (find?_replace Task.tid p.tasks t x).trans ?_
    split
    · next e =>
      obtain ⟨y, hy, e'⟩ := List.any_eq_true.1 h
      have : (p.tasks.find? (fun y => y.tid == x)).isSome := List.find?_isSome.2 ⟨y, hy, by rw [e]; exact e'⟩
      obtain ⟨z, hz⟩ := Option.isSome_iff_exists.1 this
      rw [hz]; rfl
    · rfl
  · next h =>
    show (p.tasks ++ [t]).find? (fun y => y.tid == x) = _
    rw [List.find?_append]
    split
    · next e =>
      have hn : p.tasks.find? (fun y => y.tid == x) = none := List.find?_eq_none.2 fun y hy hyx =>
        h (List.any_eq_true.2 ⟨y, hy, by rw [← e]; exact hyx⟩)
      rw [hn, e]; simp
    · next e =>
      have : ([t].find? fun y => y.tid == x) = none := by simp [Ne.symm e]
      rw [this, Option.or_none]; rfl

theorem State.task?_of_part {s : State} {k : Nat} {p : Part} (h : s.part? k = some p) (x : Nat) : s.task? k x = p.task? x := by
  rw [State.task?, h]; rfl

/-- A task that is found has its partition. -/
theorem State.task?_part {s : State} {k x : Nat} {u : Task} (h : s.task? k x = some u) :
    ∃ p, s.part? k = some p ∧ p.task? x = some u := Option.bind_eq_some_iff.1 h

theorem State.task?_tid {s : State} {k x : Nat} {u : Task} (h : s.task? k x = some u) : u.tid = x := by
  obtain ⟨p, -, h⟩ := State.task?_part h
  exact Part.task?_tid h

/-- t is s after changes of the task table of partition k, with the writes of the blocks' images (R28). -/
structure Tabled (k : Nat) (s t : State) : Prop extends DeskFrame s t where
  part : ∀ p, s.part? k = some p → ∃ q, t.part? k = some q ∧
    q = { p with tasks := q.tasks, buckets := q.buckets, dispatched := q.dispatched }

namespace Tabled

theorem refl (k : Nat) (s : State) : Tabled k s s := ⟨DeskFrame.refl s, fun p hp => ⟨p, hp, rfl⟩⟩

theorem trans {k : Nat} {s t u : State} (h1 : Tabled k s t) (h2 : Tabled k t u) : Tabled k s u := by
  refine ⟨h1.toDeskFrame.trans h2.toDeskFrame, fun p hp => ?_⟩
  obtain ⟨q, hq, e⟩ := h1.part p hp
  obtain ⟨r, hr, e'⟩ := h2.part q hq
  exact ⟨r, hr, by rw [e] at e'; exact e'⟩

theorem of_stored {k : Nat} {s t : State} (h : Stored s t) : Tabled k s t :=
  ⟨h.toDeskFrame, fun p hp => by obtain ⟨b, hb⟩ := h.part?_some hp; exact ⟨_, hb, rfl⟩⟩

theorem of_setPart {k : Nat} {s : State} {p q : Part} (hp : s.part? k = some p)
    (hq : q = { p with tasks := q.tasks, buckets := q.buckets, dispatched := q.dispatched }) : Tabled k s (s.setPart q) := by
  refine ⟨DeskFrame.setPart s q, fun p' hp' => ?_⟩
  obtain rfl : p = p' := Option.some.inj (hp.symm.trans hp')
  exact ⟨q, State.part?_setPart_self hp (by rw [hq]; exact State.part?_id (p := p) hp), hq⟩

end Tabled

theorem State.putTask_eq {s : State} {k : Nat} {p : Part} (h : s.part? k = some p) (t : Task) :
    s.putTask k t = (s.setPart (p.withTask t)).writeWords k (p.blockAddr t.tid) t.image := by
  obtain rfl := State.part?_id h
  unfold State.putTask
  rw [h]
  show (s.setPart (p.withTask t)).writeWords (p.withTask t).id ((p.withTask t).blockAddr t.tid) t.image = _
  rw [Part.withTask_eq]
  rfl

theorem State.putTask_tabled (s : State) (k : Nat) (t : Task) : Tabled k s (s.putTask k t) := by
  cases h : s.part? k with
  | none =>
    rw [show s.putTask k t = s by simp [State.putTask, h]]
    exact Tabled.refl k s
  | some p =>
    rw [State.putTask_eq h]
    refine (Tabled.of_setPart h ?_).trans (Tabled.of_stored (Stored.writeWords _ _ _ _))
    rw [Part.withTask_eq]

theorem State.task?_putTask {s : State} {k : Nat} {p : Part} (h : s.part? k = some p) (t : Task) (x : Nat) :
    (s.putTask k t).task? k x = if x = t.tid then some t else s.task? k x := by
  have hid : (p.withTask t).id = k := by rw [Part.withTask_eq]; exact State.part?_id (p := p) h
  rw [State.putTask_eq h, (Stored.writeWords _ _ _ _).task?, State.task?_of_part (State.part?_setPart_self h hid),
    Part.task?_withTask, State.task?_of_part h]

theorem State.onTask_some {s : State} {k tid : Nat} {u : Task} (h : s.task? k tid = some u) (f : Task → Task) :
    s.onTask k tid f = s.putTask k (f u) := by
  unfold State.onTask
  rw [show (s.part? k).bind (·.task? tid) = some u from h]

theorem State.onTask_none {s : State} {k tid : Nat} (h : s.task? k tid = none) (f : Task → Task) :
    s.onTask k tid f = s := by
  unfold State.onTask
  rw [show (s.part? k).bind (·.task? tid) = none from h]

theorem State.onTask_tabled (s : State) (k tid : Nat) (f : Task → Task) : Tabled k s (s.onTask k tid f) := by
  cases h : s.task? k tid with
  | none => rw [State.onTask_none h]; exact Tabled.refl k s
  | some u => rw [State.onTask_some h]; exact State.putTask_tabled s k _

/-- A change of a task shows under its TID and nowhere else. -/
theorem State.task?_onTask {s : State} {k tid : Nat} {f : Task → Task} (hf : ∀ t, (f t).tid = t.tid) (x : Nat) :
    (s.onTask k tid f).task? k x = if x = tid then (s.task? k tid).map f else s.task? k x := by
  cases h : s.task? k tid with
  | none =>
    rw [State.onTask_none h]
    split
    · next e => rw [e, h]; rfl
    · rfl
  | some u =>
    obtain ⟨p, hp, -⟩ := State.task?_part h
    rw [State.onTask_some h, State.task?_putTask hp, hf, State.task?_tid h]
    rfl

/-- A block whose STATE is FREE, and a table without a block (R30). -/
def Task.freed (t : Task) : Task := { t with state := .free }
def Part.dropTask (p : Part) (tid : Nat) : Part :=
  { p with tasks := p.tasks.filter (fun t => t.tid != tid), dispatched := p.dispatched.filter (· != tid) }

theorem Part.task?_dropTask (p : Part) (tid x : Nat) : (p.dropTask tid).task? x = if x = tid then none else p.task? x := by
  show (p.tasks.filter (fun t => t.tid != tid)).find? (fun y => y.tid == x) = _
  rw [List.find?_filter]
  split
  · next h => exact List.find?_eq_none.2 fun y _ => by simp [h]
  · next h =>
    refine congrFun (congrArg _ (funext fun y => ?_)) _
    by_cases e : y.tid = x <;> simp [e, h]

theorem State.freeTask_eq (s : State) (k tid : Nat) :
    s.freeTask k tid = (s.onTask k tid Task.freed).onPart k (·.dropTask tid) := rfl

theorem State.freeTask_tabled (s : State) (k tid : Nat) : Tabled k s (s.freeTask k tid) := by
  rw [State.freeTask_eq]
  refine (State.onTask_tabled s k tid Task.freed).trans ?_
  unfold State.onPart
  split
  · next p hp => exact Tabled.of_setPart hp rfl
  · exact Tabled.refl k _

/-- A block that is freed is no task any more, and no other block changes (R30). -/
theorem State.task?_freeTask (s : State) (k tid x : Nat) :
    (s.freeTask k tid).task? k x = if x = tid then none else s.task? k x := by
  have ht := State.task?_onTask (s := s) (k := k) (tid := tid) (f := Task.freed) (fun _ => rfl) x
  rw [State.freeTask_eq]
  cases hp : (s.onTask k tid Task.freed).part? k with
  | none =>
    have h0 : (s.onTask k tid Task.freed).task? k x = none := by rw [State.task?, hp]; rfl
    rw [show (s.onTask k tid Task.freed).onPart k (·.dropTask tid) = s.onTask k tid Task.freed by simp [State.onPart, hp], h0]
    split
    · rfl
    · next h => rw [← h0, ht, if_neg h]
  | some p =>
    rw [State.onPart_eq _ hp,
      State.task?_of_part (State.part?_setPart_self (q := p.dropTask tid) hp (State.part?_id (p := p) hp)), Part.task?_dropTask]
    split
    · rfl
    · next h => rw [← State.task?_of_part hp, ht, if_neg h]

end Sys2Proof.Machine
end

section
namespace Sys2Proof.Machine

/-! ### What a partition reads after a change of its tables -/

theorem State.readAs_setPart {s : State} {k : Nat} {p q : Part} (hp : s.part? k = some p) (hid : q.id = k) (hkey : q.key = p.key)
    (a : Nat) : (s.setPart q).readAs k a = s.readAs k a := by
  refine State.readAs_congr (s := s) (t := s.setPart q) rfl rfl rfl ?_ a
  rw [State.keyOf, State.keyOf, State.part?_setPart_self hp hid, hp]
  exact congrArg (SMap.get none s.keySlots) hkey

theorem State.readAs_putTask_other {s : State} {k : Nat} {p : Part} (hp : s.part? k = some p) (h0 : p.prot = []) {t : Task} {a : Nat}
    (ha : a < p.blockAddr t.tid ∨ p.blockAddr t.tid + 64 ≤ a) : (s.putTask k t).readAs k a = s.readAs k a := by
  have he := Part.withTask_eq p t
  have hid : (p.withTask t).id = k := by rw [he]; exact State.part?_id (p := p) hp
  rw [State.putTask_eq hp, State.readAs_writeWords_other (State.part?_setPart_self hp hid) (by rw [he]; exact h0) ha,
    State.readAs_setPart hp hid (by rw [he])]

theorem State.readAs_onTask_other {s : State} {k : Nat} {p : Part} (hp : s.part? k = some p) (h0 : p.prot = []) {tid a : Nat}
    {f : Task → Task} (hf : ∀ t, (f t).tid = t.tid) (ha : a < p.blockAddr tid ∨ p.blockAddr tid + 64 ≤ a) :
    (s.onTask k tid f).readAs k a = s.readAs k a := by
  cases h : s.task? k tid with
  | none => rw [State.onTask_none h]
  | some u =>
    rw [State.onTask_some h]
    exact State.readAs_putTask_other hp h0 (by rw [hf, State.task?_tid h]; exact ha)

/-- The freeing of a block writes the block alone. -/
theorem State.readAs_freeTask_other {s : State} {k : Nat} {p : Part} (hp : s.part? k = some p) (h0 : p.prot = []) {tid a : Nat}
    (ha : a < p.blockAddr tid ∨ p.blockAddr tid + 64 ≤ a) : (s.freeTask k tid).readAs k a = s.readAs k a := by
  obtain ⟨q, hq, -⟩ := (State.onTask_tabled s k tid Task.freed).part p hp
  rw [State.freeTask_eq, State.onPart_eq _ hq, State.readAs_setPart (q := q.dropTask tid) hq (State.part?_id (p := q) hq) rfl]
  exact State.readAs_onTask_other hp h0 (fun _ => rfl) ha

/-! ### Messages (R23) -/

/-- A vector of a partition, and the partition with one more message that waits at it. -/
def Part.vector (p : Part) (v : Nat) : Vector := SMap.get Vector.fresh p.ports.vectors v
def Part.withPending (p : Part) (v : Nat) : Part :=
  { p with ports := { p.ports with
      vectors := SMap.put Vector.fresh p.ports.vectors v { p.vector v with pending := (p.vector v).pending + 1 } } }

/-- What a message does: it waits at a masked vector, and leaves from another. -/
theorem State.sendMsi_eq {s : State} {k : Nat} {p : Part} (h : s.part? k = some p) (v : Nat) :
    s.sendMsi k v = if (p.vector v).mask then s.setPart (p.withPending v)
      else { s with msiOut := s.msiOut ++ [(k, v, (p.vector v).addr, (p.vector v).data)] } := by
  unfold State.sendMsi
  rw [h]
  rfl

theorem State.sendMsi_part {s : State} {k : Nat} {p : Part} (h : s.part? k = some p) (v : Nat) :
    ∃ vs, (s.sendMsi k v).part? k = some { p with ports := { p.ports with vectors := vs } } := by
  rw [State.sendMsi_eq h]
  split
  · exact ⟨_, State.part?_setPart_self (q := p.withPending v) h (State.part?_id (p := p) h)⟩
  · exact ⟨p.ports.vectors, h⟩

theorem State.readAs_sendMsi {s : State} {k : Nat} {p : Part} (h : s.part? k = some p) (v a : Nat) :
    (s.sendMsi k v).readAs k a = s.readAs k a := by
  rw [State.sendMsi_eq h]
  split
  · exact State.readAs_setPart (q := p.withPending v) h (State.part?_id (p := p) h) rfl a
  · rfl

theorem State.task?_sendMsi (s : State) (k v x : Nat) : (s.sendMsi k v).task? k x = s.task? k x := by
  cases h : s.part? k with
  | none => simp [State.sendMsi, h]
  | some p =>
    obtain ⟨vs, hv⟩ := State.sendMsi_part h v
    rw [State.task?_of_part hv, State.task?_of_part h]
    rfl

/-! ### The completion ring (R35) -/

/-- An entry put into the ring at its tail, with the message when the ring was empty. -/
def State.ringEntry (s : State) (p : Part) (e : Entry) : State :=
  let s := (s.setPart { p with ports := { p.ports with cqTail := p.ports.cqTail + 1 } }).writeWords p.id p.entryAddr e.words
  if p.ports.cqEmpty then s.sendMsi p.id 32 else s

theorem State.writeEntry_eq (s : State) (p : Part) (e : Entry) :
    s.writeEntry p e = if e.frees then (s.ringEntry p e).freeTask p.id e.tid else s.ringEntry p e := rfl

section
variable {s : State} {k : Nat} {p0 p : Part} (h : s.part? k = some p0) (hid : p.id = k)
include h hid

/-- The partition after an entry went to its ring. -/
theorem State.ringEntry_part (e : Entry) : ∃ vs b, (s.ringEntry p e).part? k =
    some { p with buckets := b, ports := { p.ports with cqTail := p.ports.cqTail + 1, vectors := vs } } := by
  subst hid
  obtain ⟨b, hb⟩ := (Stored.writeWords _ p.id p.entryAddr e.words).part?_some (State.part?_setPart_self
    (q := { p with ports := { p.ports with cqTail := p.ports.cqTail + 1 } }) h rfl)
  unfold State.ringEntry
  dsimp only
  split
  · obtain ⟨vs, hv⟩ := State.sendMsi_part hb 32
    exact ⟨vs, b, hv⟩
  · exact ⟨p.ports.vectors, b, hb⟩

theorem State.task?_ringEntry (e : Entry) (x : Nat) : (s.ringEntry p e).task? k x = p.task? x := by
  obtain ⟨vs, b, hb⟩ := State.ringEntry_part h hid e
  rw [State.task?_of_part hb]
  rfl

/-- Outside the entry memory reads as before. -/
theorem State.readAs_ringEntry_other (hkey : p.key = p0.key) (h0 : p.prot = []) (e : Entry) {a : Nat}
    (ha : a < p.entryAddr ∨ p.entryAddr + 16 ≤ a) : (s.ringEntry p e).readAs k a = s.readAs k a := by
  subst hid
  set q : Part := { p with ports := { p.ports with cqTail := p.ports.cqTail + 1 } } with hq
  have hs : (s.setPart q).part? p.id = some q := State.part?_setPart_self h rfl
  have hw : ((s.setPart q).writeWords p.id p.entryAddr e.words).readAs p.id a = s.readAs p.id a := by
    rw [State.readAs_writeWords_other hs h0 ha, State.readAs_setPart (q := q) h rfl hkey]
  obtain ⟨b, hb⟩ := (Stored.writeWords _ p.id p.entryAddr e.words).part?_some hs
  unfold State.ringEntry
  dsimp only
  split
  · rw [State.readAs_sendMsi hb, hw]
  · exact hw

/-- The entry stands in the ring. -/
theorem State.entryAt_ringEntry (e : Entry) : EntryAt (s.ringEntry p e) p e := by
  subst hid
  intro h0 hok
  set q : Part := { p with ports := { p.ports with cqTail := p.ports.cqTail + 1 } } with hq
  have hs : (s.setPart q).part? p.id = some q := State.part?_setPart_self h rfl
  obtain ⟨b, hb⟩ := (Stored.writeWords _ p.id p.entryAddr e.words).part?_some hs
  have hread : ∀ a, (s.ringEntry p e).readWordAs p.id a =
      ((s.setPart q).writeWords p.id p.entryAddr e.words).readWordAs p.id a := fun a => by
    refine State.readWordAs_congr fun i _ => ?_
    unfold State.ringEntry
    dsimp only
    split
    · rw [State.readAs_sendMsi hb]
    · rfl
  rw [hread, hread]
  exact ⟨State.readWordAs_writeWords (j := 0) hs h0 rfl (fun i hi => hok i (by omega)),
    State.readWordAs_writeWords (j := 1) hs h0 rfl (fun i hi => by rw [Nat.add_assoc]; exact hok (8 + i) (by omega))⟩

/-- The partition after an entry was written with what it frees. -/
theorem State.writeEntry_part (e : Entry) : ∃ q, (s.writeEntry p e).part? k = some q ∧ q =
    { p with tasks := q.tasks, buckets := q.buckets, dispatched := q.dispatched
             ports := { p.ports with cqTail := p.ports.cqTail + 1, vectors := q.ports.vectors } } := by
  obtain ⟨vs, b, hb⟩ := State.ringEntry_part h hid e
  rw [State.writeEntry_eq]
  split
  · obtain ⟨q, hq, e'⟩ := (State.freeTask_tabled (s.ringEntry p e) p.id e.tid).part _ (by rw [hid]; exact hb)
    refine ⟨q, by rw [← hid]; exact hq, ?_⟩
    rw [e']
  · exact ⟨_, hb, rfl⟩

theorem State.task?_writeEntry (e : Entry) (x : Nat) :
    (s.writeEntry p e).task? k x = if e.frees = true ∧ x = e.tid then none else p.task? x := by
  have hr := State.task?_ringEntry h hid e x
  rw [State.writeEntry_eq]
  split
  · next hf =>
    rw [hid, State.task?_freeTask, hr]
    simp [hf]
  · next hf => rw [hr, if_neg (fun c => hf c.1)]

/-- An entry written in its place stays there, where the block that it frees lies elsewhere. -/
theorem State.entryAt_writeEntry (e : Entry)
    (ha : e.frees = true → p.blockAddr e.tid + 64 ≤ p.entryAddr ∨ p.entryAddr + 16 ≤ p.blockAddr e.tid) :
    EntryAt (s.writeEntry p e) p e := by
  have hr := State.entryAt_ringEntry h hid e
  rw [State.writeEntry_eq]
  split
  · next hf =>
    intro h0 hok
    obtain ⟨h1, h2⟩ := hr h0 hok
    obtain ⟨vs, b, hb⟩ := State.ringEntry_part h hid e
    have hother : ∀ a, p.entryAddr ≤ a → a < p.entryAddr + 16 →
        ((s.ringEntry p e).freeTask p.id e.tid).readAs p.id a = (s.ringEntry p e).readAs p.id a := fun a h1 h2 => by
      rw [hid]
      refine State.readAs_freeTask_other hb h0 ?_
      have := ha hf
      show a < p.blockAddr e.tid ∨ p.blockAddr e.tid + 64 ≤ a
      omega
    refine ⟨(State.readWordAs_congr fun i hi => hother _ ?_ ?_).trans h1, (State.readWordAs_congr fun i hi => hother _ ?_ ?_).trans h2⟩ <;>
      omega
  · exact hr

end

/-! An entry given out: dropped, held or written (R30, R35, R46). -/

section
variable {s : State} {k : Nat} {p : Part} (h : s.part? k = some p)
include h

theorem State.pushEntry_destroying (hd : p.destroying = true) (e : Entry) : s.pushEntry k e = s := by
  simp [State.pushEntry, h, hd]

theorem State.pushEntry_holds (hh : p.holdsEntry) (e : Entry) :
    s.pushEntry k e = s.setPart { p with entries := p.entries ++ [e] } := by
  obtain ⟨hd, hh⟩ := hh
  have : (p.entries.isEmpty && !p.ports.cqFull) = false := by
    rcases hh with hh | hh
    · simp [hh]
    · simp [hh]
  simp [State.pushEntry, h, hd, this]

theorem State.pushEntry_writes (hw : p.writesEntry) (e : Entry) : s.pushEntry k e = s.writeEntry p e := by
  obtain ⟨hd, he, hf⟩ := hw
  simp [State.pushEntry, h, hd, he, hf]

omit h in
theorem Part.entry_cases (p : Part) : p.destroying = true ∨ p.holdsEntry ∨ p.writesEntry := by
  unfold Part.holdsEntry Part.writesEntry
  cases p.destroying <;> by_cases h1 : p.entries = [] <;> cases h2 : p.ports.cqFull <;> simp [h1]

/-- An entry that frees no block leaves the task table. -/
theorem State.task?_pushEntry {e : Entry} (he : e.frees = false) (x : Nat) : (s.pushEntry k e).task? k x = p.task? x := by
  have hid := State.part?_id (p := p) h
  rcases p.entry_cases with hd | hh | hw
  · rw [State.pushEntry_destroying h hd, State.task?_of_part h]
  · rw [State.pushEntry_holds h hh,
      State.task?_of_part (State.part?_setPart_self (q := { p with entries := p.entries ++ [e] }) h hid)]
    rfl
  · rw [State.pushEntry_writes h hw, State.task?_writeEntry h hid, if_neg (by rw [he]; simp)]

end

end Sys2Proof.Machine
end

section
namespace Sys2Proof.Machine

theorem State.setPart_setPart {s : State} {p q : Part} (h : p.id = q.id) : (s.setPart p).setPart q = s.setPart q := by
  unfold State.setPart
  simp only [List.map_map]
  congr 2
  funext x
  show (if (if x.id = p.id then p else x).id = q.id then q else _) = _
  by_cases hx : x.id = p.id
  · rw [if_pos hx, if_pos h, if_pos (hx.trans h)]
  · rw [if_neg hx]

/-! ### Host writes and flits (R21 to R23, R35, R391) -/

theorem PartAs.of_setPart {s : State} {k : Nat} {p q : Part} (h : s.part? k = some p) (hid : q.id = k)
    (m : List (Nat × Nat × Word64 × Word32)) : PartAs s { s.setPart q with msiOut := m, waited := false } k q :=
  ⟨rfl, State.part?_setPart_self h hid, fun _ hj => State.part?_setPart_ne hid hj⟩

/-- A host write that changes the ports of a partition changes nothing else. -/
theorem answers_onPorts {s : State} {k : Nat} {p : Part} {i : Instr} (h : s.part? k = some p) (f : Ports → Ports)
    (he : exec i s = (s.onPart k (fun p => { p with ports := f p.ports })).done) :
    Answers (exec i s) (fun t => PartAs s t k { p with ports := f p.ports } ∧ t.msiOut = s.msiOut) := by
  rw [he, State.onPart_eq _ h]
  exact ⟨_, rfl, PartAs.of_setPart (q := { p with ports := f p.ports }) h (State.part?_id (p := p) h) s.msiOut, rfl⟩

/-- The partition with a vector of its MSI-X table. -/
def Part.withVector (p : Part) (n : Nat) (x : Vector) : Part :=
  { p with ports := { p.ports with vectors := SMap.put Vector.fresh p.ports.vectors n x } }

/-- A vector changed by the host: while it stays masked its messages wait, and else they all leave (R23). -/
theorem answers_onVector {s : State} {k n : Nat} {p : Part} {i : Instr} (h : s.part? k = some p) (hn : n < 36)
    (f : Vector → Vector) (he : exec i s = (s.onVector k n f).done) :
    let x := f (p.vector n)
    Answers (exec i s) (fun t => PartAs s t k (p.withVector n { x with pending := if x.mask then x.pending else 0 }) ∧
      t.msiOut = s.msiOut ++ List.replicate (if x.mask then 0 else x.pending) (k, n, x.addr, x.data)) := by
  intro x
  have hx : x.pending - (if x.mask then 0 else x.pending) = if x.mask then x.pending else 0 := by split <;> simp
  rw [he, ← hx]
  unfold State.onVector
  rw [h]
  simp only [if_neg (Nat.not_le.2 hn)]
  exact ⟨_, rfl, PartAs.of_setPart (q := p.withVector n _) h (State.part?_id (p := p) h) _, rfl⟩

/-- The partition after a flit was discarded. -/
def Part.withOverflow (p : Part) : Part := { p with ports := { p.ports with ovf := true } }

@[simp] theorem Part.vector_withOverflow (p : Part) (n : Nat) : p.withOverflow.vector n = p.vector n := rfl

/-- The partition after a flit was discarded: OVF is set, and where vector 33 is masked the message waits at it. -/
def Part.discarded (p : Part) : Part :=
  { p with ports := { p.withOverflow.ports with
      vectors := if (p.vector 33).mask then (p.withPending 33).ports.vectors else p.ports.vectors } }

/-- A flit that a full queue or a closed port discards: OVF and the message on vector 33 (R22). -/
theorem State.discardFlit_spec {s : State} {k : Nat} {p : Part} (h : s.part? k = some p) :
    Answers (s.discardFlit k).done (fun t => PartAs s t k p.discarded ∧
      t.msiOut = if (p.vector 33).mask then s.msiOut else s.msiOut ++ [(k, 33, (p.vector 33).addr, (p.vector 33).data)]) := by
  have hid := State.part?_id (p := p) h
  have h1 : (s.setPart p.withOverflow).part? k = some p.withOverflow := State.part?_setPart_self h hid
  have he : s.discardFlit k = (s.setPart p.withOverflow).sendMsi k 33 := by
    unfold State.discardFlit
    rw [State.onPart_eq _ h]
    rfl
  rw [he, State.sendMsi_eq h1, Part.vector_withOverflow]
  by_cases hm : (p.vector 33).mask = true
  · have hq : p.discarded = p.withOverflow.withPending 33 := by simp [Part.discarded, hm]; rfl
    rw [if_pos hm, if_pos hm, hq, State.setPart_setPart (s := s) (p := p.withOverflow) (q := p.withOverflow.withPending 33) rfl]
    exact ⟨_, rfl, PartAs.of_setPart (q := p.withOverflow.withPending 33) h hid s.msiOut, rfl⟩
  · have hq : p.discarded = p.withOverflow := by simp [Part.discarded, hm]; rfl
    rw [if_neg hm, if_neg hm, hq]
    exact ⟨_, rfl, PartAs.of_setPart (q := p.withOverflow) h hid _, rfl⟩

/-- Settles O42: each host write changes the ports of its partition alone, and messages leave only from vectors that are
not masked. -/
theorem hostPortsComplete : Obligations.HostPortsComplete := by
  unfold Obligations.HostPortsComplete
  intro s k p v h
  have takes := fun {i : Instr} f he => answers_onPorts (i := i) h f he
  refine ⟨takes (fun q => { q with ovf := q.ovf && !bit v 0 }) rfl,
    takes (fun q => { q with cqHead := advanceHead q.cqHead q.cqTail v }) rfl,
    takes (fun q => { q with prqHead := advanceHead q.prqHead q.prqTail v }) rfl,
    takes (fun q => { q with cqBase := ((v.setWidth 57 : Addr) >>> 12) <<< 12 }) rfl,
    takes (fun q => { q with prqBase := ((v.setWidth 57 : Addr) >>> 12) <<< 12 }) rfl,
    takes (fun q => { q with cqSize := v.toNat % 32 }) rfl, fun n => ?_, fun n hn => ?_,
    fun w0 w1 w2 w3 => ⟨fun room => ?_, fun full => ?_⟩⟩
  · exact ⟨_, rfl, ⟨rfl, h, fun _ _ => rfl⟩, rfl⟩
  · have vector := fun {i : Instr} f he => answers_onVector (i := i) h hn f he
    exact ⟨vector (fun x => { x with addr := v }) rfl, vector (fun x => { x with data := v.setWidth 32 }) rfl,
      vector (fun x => { x with mask := bit v 0 }) rfl⟩
  · obtain ⟨hopen, hroom⟩ := room
    refine takes (fun q => { q with flits := q.flits ++ [⟨w0, w1, w2, w3, none⟩] }) ?_
    show execLflitWrite k w0 w1 w2 w3 s = _
    simp [execLflitWrite, h, hopen, Nat.not_le.2 hroom, State.queueFlit]
  · have hfull : (p.ports.closed || decide (256 ≤ p.ports.flits.length)) = true := by
      cases hc : p.ports.closed
      · simpa [hc] using full
      · rfl
    have he : exec (.lflitWrite k w0 w1 w2 w3) s = (s.discardFlit k).done := by
      show execLflitWrite k w0 w1 w2 w3 s = _
      simp only [execLflitWrite, h, hfull, if_true]
    rw [he]
    exact State.discardFlit_spec h

end Sys2Proof.Machine
end

section
namespace Sys2Proof.Machine

/-! ### Power and thermal state (R424 to R427, R402) -/

theorem Mgmt.within_iff {m : Mgmt} {x : PowerPoint} :
    m.within x = true ↔ x.power.toNat ≤ m.pwrcap.toNat ∧ x.junction.toNat < 105 := by simp [Mgmt.within]

/-- Where firmware may set a step, the step is set (R425). -/
theorem execClockStepChange_taken {s : State} {step : Nat} {here above : PowerPoint} (h : s.mgmt.mayStep step here above = true) :
    execClockStepChange step here above s = .next { s with
      mgmt := { s.mgmt with
        clockStep := step, pwrnow := here.power, junction := here.junction
        therm := if s.mgmt.therm = 2 then 2 else if step < 16 && decide (s.mgmt.pwrcap.toNat < above.power.toNat) then 1 else 0 }
      waited := false } := by
  simp only [execClockStepChange, h, if_true]
  rfl

theorem execClockStepChange_run (s : State) (step : Nat) (here above : PowerPoint) :
    exec (.clockStepChange step here above) s = execClockStepChange step here above s := rfl

theorem execClockStepChange_refused {s : State} {step : Nat} {here above : PowerPoint}
    (h : s.mgmt.mayStep step here above = false) : execClockStepChange step here above s = s.done := by
  simp [execClockStepChange, h]

/-- Outside HOT and TRIP a step is allowed where both limits hold, or it is the lowest, and the next higher one would not hold
them (R425). -/
theorem Mgmt.mayStep_normal {m : Mgmt} {step : Nat} {here above : PowerPoint} (h2 : m.therm ≠ 2) (h3 : m.therm ≠ 3) :
    m.mayStep step here above = true ↔ (8 ≤ step ∧ step ≤ 16) ∧ here.junction.toNat < 105 ∧
      (m.within here = true ∨ step = 8) ∧ (step = 16 ∨ m.within above = false) := by
  rw [Mgmt.mayStep, if_neg h3, if_neg h2]
  simp [and_assoc]

theorem Mgmt.mayStep_hot {m : Mgmt} {step : Nat} {here above : PowerPoint} (h : m.therm = 2) :
    m.mayStep step here above = true ↔ step = 8 ∧ 100 < here.junction.toNat ∧ here.junction.toNat < 120 := by
  simp [Mgmt.mayStep, h, and_assoc]

/-- The record that a step logs (R398). -/
theorem State.logErr_spec (s : State) (die : Nat) (type : BitVec 8) (unit : BitVec 4) (part : BitVec 8) (tid detail addr : Nat) :
    ∃ r : ErrRec, r.type = type ∧ r.unit = unit ∧ r.part = part ∧ r.tid = BitVec.ofNat 20 tid ∧
      r.detail = BitVec.ofNat 20 detail ∧ r.addr = BitVec.ofNat 64 addr ∧
      s.logErr die type unit part tid detail addr =
        (BitVec.ofNat 12 (die * 1024 + (SMap.get 0 s.errSeq die).toNat % 1024),
         { s with errs := SMap.put none s.errs (die * 1024 + (SMap.get 0 s.errSeq die).toNat % 1024) (some r)
                  errSeq := SMap.put 0 s.errSeq die (SMap.get 0 s.errSeq die + 1) }) :=
  ⟨_, rfl, rfl, rfl, rfl, rfl, rfl, rfl⟩

theorem answers_thermHot {s : State} {j : BitVec 8} (h1 : 105 ≤ j.toNat) (h2 : j.toNat < 120) (h3 : s.mgmt.therm ≠ 2)
    (h4 : s.mgmt.therm ≠ 3) : Answers (exec (.thermHot j) s) (fun t =>
      t = { s with mgmt := { s.mgmt with clockStep := 8, therm := 2, junction := j }
                   errs := t.errs, errSeq := t.errSeq, waited := false } ∧
      ∃ r n, t.errs = SMap.put none s.errs n (some r) ∧ r.type = 0x10 ∧ r.unit = 6 ∧
        r.part = 0xFF ∧ r.tid = 0 ∧ r.detail.toNat = j.toNat) := by
  have hc : (decide (j.toNat < 105) || decide (120 ≤ j.toNat) || s.mgmt.therm == 2 || s.mgmt.therm == 3) = false := by
    rw [beq_eq_false_iff_ne.2 h3, beq_eq_false_iff_ne.2 h4, decide_eq_false (Nat.not_lt.2 h1), decide_eq_false (Nat.not_le.2 h2)]
    rfl
  obtain ⟨r, e1, e2, e3, e4, e5, -, e⟩ := State.logErr_spec
    { s with mgmt := { s.mgmt with clockStep := 8, therm := 2, junction := j } } 0 0x10 6 (BitVec.ofNat 8 0xFF) 0 j.toNat 0
  have he : exec (.thermHot j) s = (State.logOnly
      { s with mgmt := { s.mgmt with clockStep := 8, therm := 2, junction := j } } 0 0x10 6 0xFF 0 j.toNat 0).done := by
    show execThermHot j s = _
    unfold execThermHot
    rw [hc]
    rfl
  rw [he, State.logOnly, e]
  refine ⟨_, rfl, rfl, r, _, rfl, e1, e2, e3, e4, ?_⟩
  rw [e5, BitVec.toNat_ofNat, Nat.mod_eq_of_lt (by omega)]

/-- A trip stops the device, and every task is lost (R427). -/
theorem answers_thermalTrip {s : State} {j : BitVec 8} (h : 120 ≤ j.toNat) : Answers (exec (.thermalTrip j) s) (fun t =>
    t.mgmt = { s.mgmt with therm := 3, junction := j, stopped := true } ∧
    t.groups = [] ∧ t.cohorts = [] ∧ t.mem = s.mem ∧ ∀ k q, t.part? k = some q → q.tasks = []) := by
  have he : exec (.thermalTrip j) s = _ := (if_neg (Nat.not_lt.2 h) : execThermalTrip j s = _)
  rw [he]
  refine ⟨_, rfl, rfl, rfl, rfl, rfl, fun k q hq => ?_⟩
  obtain ⟨p, -, rfl⟩ := List.mem_map.1 (List.mem_of_find?_eq_some hq)
  rfl

/-! ### What the host reads before the boot and after a trip (R427, R428) -/

theorem State.windowRead_bootStat {s : State} (h : s.mgmt.stopped = false) : s.windowRead 0x0D8 = some s.mgmt.bootStat := by
  simp [State.windowRead, h]

theorem State.windowRead_unbooted {s : State} {off : Nat} (h : s.mgmt.booted = false) (ho : off ≠ 0x0D8) :
    s.windowRead off = none := by
  unfold State.windowRead
  dsimp only
  rw [if_neg ho, h]
  cases s.mgmt.stopped <;> rfl

theorem State.reads_stopped {s : State} (h : s.mgmt.stopped = true) (off : Nat) :
    s.windowRead off = none ∧ ∀ k, s.launchRead k off = none ∧ s.pageRead k off = none := by
  simp [State.windowRead, State.launchRead, State.pageRead, h]

/-! ### Memory errors (R398, R401) -/

/-- A cohort that is there, changed: the change shows under its number. -/
theorem State.cohort?_onCohort {s : State} {uid : Nat} {c : Cohort} (f : Cohort → Cohort) (h : s.cohort? uid = some c)
    (hf : (f c).uid = c.uid) : (s.onCohort uid f).cohort? uid = some (f c) := by
  have e : s.onCohort uid f = s.setCohort (f c) := by simp only [State.onCohort, h]
  rw [e, State.cohort?_setCohort, if_pos (hf.trans (State.cohort?_uid h)).symm, h]
  rfl

theorem State.onCohort_frame (s : State) (uid : Nat) (f : Cohort → Cohort) :
    s.onCohort uid f = { s with cohorts := (s.onCohort uid f).cohorts } := by
  unfold State.onCohort
  split <;> rfl

theorem State.onGroup_frame (s : State) (gid : Nat) (f : Group → Group) :
    s.onGroup gid f = { s with groups := (s.onGroup gid f).groups } := by
  unfold State.onGroup
  split <;> rfl

/-- The sector of a memory address takes a tag, and no byte changes. -/
theorem State.readDM_poisonAt_memory (s : State) (tag : Tag) (pa : BitVec 48) (hok : physOk pa.toNat = true) (a : Nat) :
    (s.poisonAt tag (.memory pa)).readDM a =
      ⟨(s.readDM a).val, if a / 64 = pa.toNat / 64 then some tag else (s.readDM a).pois⟩ := by
  show (if physOk a then (⟨Memory.read s.mem a, SMap.get none (SMap.put none s.memPois (pa.toNat / 64) (some tag)) (a / 64)⟩ : PByte)
    else _) = _
  unfold State.readDM
  rw [SMap.get_put]
  by_cases e : a / 64 = pa.toNat / 64
  · rw [physOk_sector e, hok]
    simp [e]
  · cases physOk a <;> simp [e]

/-- The sector of a scratchpad byte takes a tag, and no byte changes. -/
theorem State.readScratch_poisonAt {s : State} {uid off : Nat} {co : Cohort} (tag : Tag) (h : s.cohort? uid = some co) :
    ∃ co', (s.poisonAt tag (.scratch uid off)).cohort? uid = some co' ∧ ∀ a,
      co'.readScratch a = ⟨(co.readScratch a).val, if a / 64 = off / 64 then some tag else (co.readScratch a).pois⟩ := by
  refine ⟨{ co with scratchPois := SMap.put none co.scratchPois (off / 64) (some tag) },
    State.cohort?_onCohort (fun c => { c with scratchPois := SMap.put none c.scratchPois (off / 64) (some tag) }) h rfl,
    fun a => ?_⟩
  unfold Cohort.readScratch
  dsimp only
  rw [SMap.get_put]

/-- A word of a v register takes a tag, and no other word changes. -/
theorem State.vWord_poisonAt {s : State} {gid r l : Nat} {g : Group} (tag : Tag) (hl : l < 128) (h : s.group? gid = some g) :
    ∃ g', (s.poisonAt tag (.vWord gid r l)).group? gid = some g' ∧ ∀ r' l', l' < 128 →
      g'.vWord r' l' = if r' = r ∧ l' = l then ⟨(g.vWord r l).val, some tag⟩ else g.vWord r' l' :=
  ⟨_, (State.onGroup_spec (fun g => g.setV r l ⟨(g.vWord r l).val, some tag⟩) h rfl).1,
    fun _ _ hl' => Group.vWord_setV _ _ _ _ _ _ hl hl'⟩

/-- The poisoning of a place touches poison and the objects that hold it. -/
theorem State.poisonAt_frame (s : State) (tag : Tag) (site : ErrSite) :
    s.poisonAt tag site = { s with memPois := (s.poisonAt tag site).memPois, wsPois := (s.poisonAt tag site).wsPois
                                   copies := (s.poisonAt tag site).copies, cohorts := (s.poisonAt tag site).cohorts
                                   groups := (s.poisonAt tag site).groups } := by
  have hco : ∀ uid f, s.poisonAt tag site = s.onCohort uid f → s.poisonAt tag site = { s with
      memPois := (s.poisonAt tag site).memPois, wsPois := (s.poisonAt tag site).wsPois, copies := (s.poisonAt tag site).copies
      cohorts := (s.poisonAt tag site).cohorts, groups := (s.poisonAt tag site).groups } := fun uid f e => by
    rw [e, State.onCohort_frame]
  have hgr : ∀ gid f, s.poisonAt tag site = s.onGroup gid f → s.poisonAt tag site = { s with
      memPois := (s.poisonAt tag site).memPois, wsPois := (s.poisonAt tag site).wsPois, copies := (s.poisonAt tag site).copies
      cohorts := (s.poisonAt tag site).cohorts, groups := (s.poisonAt tag site).groups } := fun gid f e => by
    rw [e, State.onGroup_frame]
  cases site with
  | memory pa => rfl
  | cache v line => rfl
  | weights b => rfl
  | scratch uid off => exact hco uid _ rfl
  | stage uid n off => exact hco uid _ rfl
  | tile uid e => exact hco uid _ rfl
  | vWord gid r l => exact hgr gid _ rfl
  | sWord gid r b => exact hgr gid _ rfl

/-- An error has a place in memory only where memory exists. -/
theorem State.physOk_of_errPlace {s : State} {pa : BitVec 48} {x : ErrPlace} (h : s.errPlace (.memory pa) = some x) :
    physOk pa.toNat = true := by
  by_contra hn
  have : s.errPlace (.memory pa) = none := if_neg hn
  rw [this] at h
  cases h

theorem answers_memUe {s : State} {site : ErrSite} {x : ErrPlace} (h : s.errPlace site = some x) :
    Answers (exec (.memUe site) s) (fun t =>
      t = { s with memPois := t.memPois, wsPois := t.wsPois, copies := t.copies, cohorts := t.cohorts, groups := t.groups
                   errs := t.errs, errSeq := t.errSeq, waited := false } ∧
      ∃ tag : Tag, (∃ r : ErrRec, t.errs = SMap.put none s.errs (x.die * 1024 + (SMap.get 0 s.errSeq x.die).toNat % 1024) (some r) ∧
          r.type = errType site ∧ r.unit = x.unit ∧ r.part = x.part ∧ r.addr = BitVec.ofNat 64 x.addr) ∧
        tag = BitVec.ofNat 12 (x.die * 1024 + (SMap.get 0 s.errSeq x.die).toNat % 1024) ∧
        (∀ pa, site = .memory pa → ∀ a,
          t.readDM a = ⟨(s.readDM a).val, if a / 64 = pa.toNat / 64 then some tag else (s.readDM a).pois⟩) ∧
        (∀ uid off co, site = .scratch uid off → s.cohort? uid = some co → ∃ co', t.cohort? uid = some co' ∧ ∀ a,
          co'.readScratch a = ⟨(co.readScratch a).val, if a / 64 = off / 64 then some tag else (co.readScratch a).pois⟩) ∧
        ∀ gid r l g, site = .vWord gid r l → l < 128 → s.group? gid = some g → ∃ g', t.group? gid = some g' ∧ ∀ r' l', l' < 128 →
          g'.vWord r' l' = if r' = r ∧ l' = l then ⟨(g.vWord r l).val, some tag⟩ else g.vWord r' l') := by
  obtain ⟨r, e1, e2, e3, -, -, e6, e⟩ := s.logErr_spec x.die (errType site) x.unit x.part x.tid x.detail x.addr
  have he : exec (.memUe site) s =
      ((s.logErr x.die (errType site) x.unit x.part x.tid x.detail x.addr).2.poisonAt
        (s.logErr x.die (errType site) x.unit x.part x.tid x.detail x.addr).1 site).done := by
    show execMemUe site s = _
    unfold execMemUe
    rw [h]
  rw [he, e]
  dsimp only
  generalize hs : ({ s with errs := _, errSeq := _ } : State) = s1
  have hf := s1.poisonAt_frame (BitVec.ofNat 12 (x.die * 1024 + (SMap.get 0 s.errSeq x.die).toNat % 1024)) site
  refine ⟨_, rfl, ?_, _, ⟨r, ?_, e1, e2, e3, e6⟩, rfl, ?_, ?_, ?_⟩
  · rw [hf, ← hs]
  · rw [hf, ← hs]
  · rintro pa rfl a
    have := s1.readDM_poisonAt_memory (BitVec.ofNat 12 (x.die * 1024 + (SMap.get 0 s.errSeq x.die).toNat % 1024)) pa
      (State.physOk_of_errPlace h) a
    subst hs
    exact this
  · rintro uid off co rfl hco
    subst hs
    exact State.readScratch_poisonAt _ hco
  · rintro gid r l g rfl hl hg
    subst hs
    exact State.vWord_poisonAt _ hl hg

theorem answers_corrected {s : State} {site : ErrSite} {x : ErrPlace} (h : s.errPlace site = some x) :
    Answers (exec (.corrected site) s) (fun t => t = { s with errs := t.errs, errSeq := t.errSeq, waited := false } ∧
      ∃ n, ∃ r : ErrRec, t.errs = SMap.put none s.errs n (some r) ∧
        r.type = 0x02 ∧ r.unit = x.unit ∧ r.part = x.part ∧ r.addr = BitVec.ofNat 64 x.addr) := by
  obtain ⟨r, e1, e2, e3, -, -, e6, e⟩ := s.logErr_spec x.die 0x02 x.unit x.part x.tid x.detail x.addr
  have he : exec (.corrected site) s = (s.logErr x.die 0x02 x.unit x.part x.tid x.detail x.addr).2.done := by
    show execCorrected site s = _
    unfold execCorrected
    rw [h]
  rw [he, e]
  exact ⟨_, rfl, rfl, _, r, rfl, e1, e2, e3, e6⟩

theorem errs_nowhere {s : State} {site : ErrSite} (h : s.errPlace site = none) :
    exec (.memUe site) s = s.done ∧ exec (.corrected site) s = s.done := by
  constructor
  · show execMemUe site s = _
    unfold execMemUe
    rw [h]
  · show execCorrected site s = _
    unfold execCorrected
    rw [h]

/-- Settles O52: the branches of each management event, and the poison of one place. -/
theorem powerThermalAndErrors : Obligations.PowerThermalAndErrors := by
  refine ⟨?_, fun s site => ⟨errs_nowhere, fun x h => ⟨answers_memUe h, answers_corrected h⟩⟩⟩
  intro s v step off here above j
  dsimp only
  refine ⟨?pwrcap, ?step, ?hotStep, ?stay, answers_thermHot, ?cool, answers_thermalTrip, rfl,
    State.windowRead_bootStat, State.windowRead_unbooted, fun h => State.reads_stopped h off⟩
  case pwrcap =>
    intro hb
    show execPwrcapWrite v s = _
    simp only [execPwrcapWrite, hb, if_true]
    rfl
  case step =>
    intro h2 h3 hlo hhi hj hin hup
    rw [execClockStepChange_run, execClockStepChange_taken ((Mgmt.mayStep_normal h2 h3).2
      ⟨⟨hlo, hhi⟩, hj, hin.imp_left Mgmt.within_iff.2, hup.imp_right fun h => ?_⟩), if_neg h2]
    · simp
    · rwa [← Mgmt.within_iff, Bool.not_eq_true] at h
  case hotStep =>
    intro h2 hs hlo hhi
    rw [execClockStepChange_run, execClockStepChange_taken ((Mgmt.mayStep_hot h2).2 ⟨hs, hlo, hhi⟩), if_pos h2]
  case stay =>
    intro hs hup h2
    rw [execClockStepChange_run, execClockStepChange_refused]
    · rfl
    by_cases h3 : s.mgmt.therm = 3
    · rw [Mgmt.mayStep, if_pos h3]
    · rw [← Bool.not_eq_true, Mgmt.mayStep_normal h2 h3, Mgmt.within_iff.2 hup]
      rintro ⟨-, -, -, h | h⟩
      · omega
      · cases h
  case cool =>
    intro hj h2
    show execThermNormal j s = _
    rw [execThermNormal, h2, decide_eq_false (Nat.not_lt.2 hj)]
    rfl

end Sys2Proof.Machine
end

section
namespace Sys2Proof.Machine

/-! ### The failure of one task (R29, R30) -/

/-- A block that says FAILED, and whose entry is given out. -/
def Task.struck (t : Task) : Task := { t with state := .failed, reported := true }

/-- A partition without a task in its queues, and without the waiters of its cohorts. -/
def Part.forget (p : Part) (t : Task) (tid : Nat) : Part :=
  let p := { p with dispatched := p.dispatched.filter (· != tid), relaunches := p.relaunches.filter (fun r => r.1 != tid) }
  p.dropWaiters t.runs ((p.parkedIn t.runs).map (·.tid))

/-- What the failure of a task does outside its block and its entry. -/
def State.forgetTask (s : State) (k : Nat) (t : Task) (tid cause : Nat) : State :=
  let s := s.onPart k (fun p => { p with dispatched := p.dispatched.filter (· != tid)
                                         relaunches := p.relaunches.filter (fun r => r.1 != tid) })
  let s := s.onPart k (fun p => p.dropWaiters t.runs ((p.parkedIn t.runs).map (·.tid)))
  { s with cohorts := s.cohorts.map (fun c =>
      if t.runs.contains c.uid ∧ c.kill = none then { c with kill := some ⟨0, 0, 0, BitVec.ofNat 8 cause, false⟩ } else c) }

/-- An entry stands where memory reads the same and the ring lies the same. -/
theorem EntryAt.congr {s t : State} {p q : Part} {e : Entry} (hr : ∀ a, t.readAs p.id a = s.readAs p.id a) (hid : q.id = p.id)
    (h0 : q.prot = p.prot) (ha : q.entryAddr = p.entryAddr) (h : EntryAt s p e) : EntryAt t q e := by
  unfold EntryAt
  rw [hid, h0, ha, State.readWordAs_congr fun _ _ => hr _, State.readWordAs_congr fun _ _ => hr _]
  exact h

/-- The failure of one task, without its spread to the successors. -/
def State.failOne (s : State) (k tid : Nat) (t : Task) (cause : Nat) : State :=
  ((s.putTask k t.struck).pushEntry k ⟨tid, 6, cause, t.chkiv.word, true⟩).forgetTask k t tid cause

/-- One successor of a failed task: it fails with PRED_FAILED where it still waits. -/
def State.failNext (fuel : Nat) (t : Task) (k : Nat) (s : State) (x : Nat × Nat) : State :=
  if bit t.sent x.1 then s
  else
    match s.task? k x.2 with
    | some u => if u.state == .waiting then State.failTaskFuel fuel s k x.2 4 else s
    | none => s

theorem State.failTaskFuel_succ {s : State} {k tid : Nat} {t : Task} (fuel cause : Nat) (h : s.task? k tid = some t)
    (hl : (t.state == .done || t.state == .failed || t.reported) = false) :
    s.failTaskFuel (fuel + 1) k tid cause = t.successors.foldl (State.failNext fuel t k) (s.failOne k tid t cause) := by
  rw [State.failTaskFuel, h]
  simp only [hl]
  rfl

/-- What each single failure keeps, the failure of a task keeps with its spread. -/
theorem State.failTaskFuel_keeps {P : State → Prop} {k : Nat}
    (step : ∀ s tid t cause, P s → s.task? k tid = some t → t.state ≠ .failed → P (s.failOne k tid t cause)) :
    ∀ fuel s tid cause, P s → P (s.failTaskFuel fuel k tid cause)
  | 0, _, _, _, hP => hP
  | fuel + 1, s, tid, cause, hP => by
    cases h : s.task? k tid with
    | none => rw [State.failTaskFuel, h]; exact hP
    | some t =>
      cases hl : (t.state == .done || t.state == .failed || t.reported) with
      | true => rw [State.failTaskFuel, h]; simp only [hl, if_true]; exact hP
      | false =>
        rw [State.failTaskFuel_succ fuel cause h hl]
        refine List.foldlRecOn (motive := P) _ _ (step s tid t cause hP h ?_) fun s' hs x _ => ?_
        · rintro e
          simp [e] at hl
        · unfold State.failNext
          split
          · exact hs
          split
          · split
            · exact State.failTaskFuel_keeps step fuel s' x.2 4 hs
            · exact hs
          · exact hs

theorem State.onPart_frame (s : State) (k : Nat) (f : Part → Part) : s.onPart k f = { s with parts := (s.onPart k f).parts } := by
  unfold State.onPart
  split <;> rfl

theorem State.forgetTask_frame (s : State) (k : Nat) (t : Task) (tid cause : Nat) : s.forgetTask k t tid cause =
    { s with parts := (s.forgetTask k t tid cause).parts, cohorts := (s.forgetTask k t tid cause).cohorts } := by
  unfold State.forgetTask
  dsimp only
  rw [State.onPart_frame (s.onPart k _), State.onPart_frame s]

/-- The partition with one more entry held. -/
def Part.holding (p : Part) (e : Entry) : Part := { p with entries := p.entries ++ [e] }

section
variable {s : State} {k : Nat} {p : Part} (h : s.part? k = some p)
include h

/-- The partition after an entry was held. -/
theorem State.pushEntry_holds_part (hh : p.holdsEntry) (e : Entry) : (s.pushEntry k e).part? k = some (p.holding e) := by
  rw [State.pushEntry_holds h hh]
  exact State.part?_setPart_self (q := p.holding e) h (State.part?_id (p := p) h)

theorem State.forgetTask_part (t : Task) (tid cause : Nat) : (s.forgetTask k t tid cause).part? k = some (p.forget t tid) := by
  have hid := State.part?_id (p := p) h
  unfold State.forgetTask
  dsimp only
  rw [State.onPart_eq _ h, State.onPart_eq (p := { p with dispatched := p.dispatched.filter (· != tid)
                                                          relaunches := p.relaunches.filter (fun r => r.1 != tid) }) _
    (State.part?_setPart_self h hid)]
  exact State.part?_setPart_self (q := p.forget t tid) (State.part?_setPart_self h hid) hid

theorem State.readAs_forgetTask (t : Task) (tid cause a : Nat) : (s.forgetTask k t tid cause).readAs k a = s.readAs k a := by
  have hf := State.forgetTask_frame s k t tid cause
  refine State.readAs_congr (by rw [hf]) (by rw [hf]) (by rw [hf]) ?_ a
  have hk : (s.forgetTask k t tid cause).keySlots = s.keySlots := by rw [hf]
  rw [State.keyOf, State.keyOf, State.forgetTask_part h, h, hk]
  rfl

/-- The failure of a task whose entry is held: the entry comes last, and the block stays. -/
theorem State.failOne_holds (hh : p.holdsEntry) {tid : Nat} {t : Task} (cause : Nat) :
    ∃ q, (s.failOne k tid t cause).part? k = some q ∧ q.destroying = false ∧
      q.entries = p.entries ++ [⟨tid, 6, cause, t.chkiv.word, true⟩] ∧
      ∀ x, q.task? x = if x = t.tid then some t.struck else p.task? x := by
  obtain ⟨q, hq, e⟩ := (State.putTask_tabled s k t.struck).part p h
  have ht := State.task?_putTask h t.struck
  have hh' : q.holdsEntry := by rw [e]; exact hh
  refine ⟨_, State.forgetTask_part (State.pushEntry_holds_part hq hh' _) t tid cause, hh'.1, ?_, fun x => ?_⟩
  · show q.entries ++ [_] = _
    rw [e]
  · show q.task? x = _
    rw [← State.task?_of_part hq, ht, State.task?_of_part h]
    rfl

/-- The failure of a task gives its block at most the state FAILED, and adds no block. -/
theorem State.failOne_none {tid x : Nat} {t : Task} (cause : Nat) (ht : t.tid ≠ x) (hx : p.task? x = none) :
    ∃ q, (s.failOne k tid t cause).part? k = some q ∧ q.task? x = none := by
  obtain ⟨q, hq, -⟩ := (State.putTask_tabled s k t.struck).part p h
  have hqx : q.task? x = none := by
    rw [← State.task?_of_part hq, State.task?_putTask h, if_neg (fun c => ht c.symm), State.task?_of_part h, hx]
  have hid := State.part?_id (p := q) hq
  unfold State.failOne
  rcases q.entry_cases with hd | hh | hw
  · rw [State.pushEntry_destroying hq hd]
    exact ⟨_, State.forgetTask_part hq t tid cause, hqx⟩
  · exact ⟨_, State.forgetTask_part (State.pushEntry_holds_part hq hh _) t tid cause, hqx⟩
  · rw [State.pushEntry_writes hq hw]
    obtain ⟨r, hr, -⟩ := State.writeEntry_part hq hid ⟨tid, 6, cause, t.chkiv.word, true⟩
    refine ⟨_, State.forgetTask_part hr t tid cause, ?_⟩
    show r.task? x = none
    rw [← State.task?_of_part hr, State.task?_writeEntry hq hid, hqx]
    simp

/-- The failure of a task whose entry is written: the entry stands in the ring, and its block is free. -/
theorem State.failOne_writes (hw : p.writesEntry) {tid : Nat} {t : Task} (cause : Nat) :
    ∃ q, (s.failOne k tid t cause).part? k = some q ∧ q.task? tid = none ∧ q.entries = [] ∧
      q.ports.cqTail = p.ports.cqTail + 1 ∧
      ((p.blockAddr tid + 64 ≤ p.entryAddr ∨ p.entryAddr + 16 ≤ p.blockAddr tid) →
        EntryAt (s.failOne k tid t cause) p ⟨tid, 6, cause, t.chkiv.word, true⟩) := by
  obtain ⟨q, hq, e⟩ := (State.putTask_tabled s k t.struck).part p h
  have hid := State.part?_id (p := q) hq
  obtain ⟨r, hr, e'⟩ := State.writeEntry_part hq hid ⟨tid, 6, cause, t.chkiv.word, true⟩
  unfold State.failOne
  rw [State.pushEntry_writes hq (by rw [e]; exact hw)]
  refine ⟨_, State.forgetTask_part hr t tid cause, ?_, ?_, ?_, fun ha => ?_⟩
  · show r.task? tid = none
    rw [← State.task?_of_part hr, State.task?_writeEntry hq hid]
    simp
  · show r.entries = []
    rw [e', e]
    exact hw.2.1
  · show r.ports.cqTail = _
    rw [e', e]
  · have hat := State.entryAt_writeEntry hq hid ⟨tid, 6, cause, t.chkiv.word, true⟩ fun _ => by rw [e]; exact ha
    refine EntryAt.congr ?_ (by rw [e]) (by rw [e]) (by rw [e]; rfl) hat
    rw [hid]
    exact State.readAs_forgetTask hr t tid cause

end

end Sys2Proof.Machine
end

section
namespace Sys2Proof.Machine

/-! ### The failure of a task with its spread (R29, R30) -/

/-- A task of the partition has failed, and its entry is the first that follows es among those held. -/
def FailureHeld (k tid : Nat) (es : List Entry) (e : Entry) (s : State) : Prop :=
  ∃ q more u, s.part? k = some q ∧ q.destroying = false ∧ q.entries = es ++ e :: more ∧
    q.task? tid = some u ∧ u.state = .failed ∧ u.reported = true

/-- The partition has no block for a TID. -/
def NoTask (k tid : Nat) (s : State) : Prop := ∃ q, s.part? k = some q ∧ q.task? tid = none

theorem FailureHeld.failOne {k tid : Nat} {es : List Entry} {e : Entry} {s : State} {x : Nat} {t : Task} (cause : Nat)
    (hs : FailureHeld k tid es e s) (h : s.task? k x = some t) (hf : t.state ≠ .failed) :
    FailureHeld k tid es e (s.failOne k x t cause) := by
  obtain ⟨q, more, u, hq, hd, he, hu, hst, hr⟩ := hs
  have hne : tid ≠ t.tid := by
    rintro rfl
    rw [State.task?_of_part hq] at h
    rw [Part.task?_tid h, h] at hu
    cases hu
    exact hf hst
  obtain ⟨q', hq', hd', he', ht'⟩ := State.failOne_holds hq ⟨hd, .inl (by rw [he]; simp)⟩ (tid := x) (t := t) cause
  exact ⟨q', more ++ [⟨x, 6, cause, t.chkiv.word, true⟩], u, hq', hd', by rw [he', he]; simp, by rw [ht', if_neg hne, hu], hst, hr⟩

theorem NoTask.failOne {k tid : Nat} {s : State} {x : Nat} {t : Task} (cause : Nat)
    (hs : NoTask k tid s) (h : s.task? k x = some t) : NoTask k tid (s.failOne k x t cause) := by
  obtain ⟨q, hq, hx⟩ := hs
  refine State.failOne_none hq cause ?_ hx
  rintro rfl
  rw [State.task?_of_part hq] at h
  rw [Part.task?_tid h, h] at hx
  cases hx

theorem State.failNext_keeps {P : State → Prop} {k : Nat}
    (step : ∀ s tid t cause, P s → s.task? k tid = some t → t.state ≠ .failed → P (s.failOne k tid t cause))
    (fuel : Nat) (t : Task) {s : State} (hs : P s) : P (t.successors.foldl (State.failNext fuel t k) s) := by
  refine List.foldlRecOn (motive := P) _ _ hs fun s' hs' x _ => ?_
  unfold State.failNext
  split
  · exact hs'
  split
  · split
    · exact State.failTaskFuel_keeps step fuel s' x.2 4 hs'
    · exact hs'
  · exact hs'

/-- A live task that fails leaves its entry, held or written, and its successors fail after it. -/
theorem taskFailed_failTaskFuel {s : State} {k tid : Nat} {p : Part} {t : Task} (fuel cause : Nat) (h : s.part? k = some p)
    (ht : p.task? tid = some t) (hl : (t.state == .done || t.state == .failed || t.reported) = false) :
    TaskFailed (s.failTaskFuel (fuel + 1) k tid cause) k p t ⟨tid, 6, cause, t.chkiv.word, true⟩ := by
  have htid := Part.task?_tid ht
  rw [State.failTaskFuel_succ fuel cause ((State.task?_of_part h tid).trans ht) hl]
  refine ⟨fun hh => ?_, fun hw => ?_⟩
  · obtain ⟨q, hq, hd, he, hx⟩ := State.failOne_holds h hh (tid := tid) (t := t) cause
    have h0 : FailureHeld k tid p.entries ⟨tid, 6, cause, t.chkiv.word, true⟩ (s.failOne k tid t cause) :=
      ⟨q, [], t.struck, hq, hd, he, by rw [hx, if_pos htid.symm], rfl, rfl⟩
    obtain ⟨q, more, u, hq, -, he, hu, hst, hr⟩ := State.failNext_keeps (k := k) (fun _ _ _ c => FailureHeld.failOne c) fuel t h0
    exact ⟨⟨u, (State.task?_of_part hq tid).trans hu, hst, hr⟩, q, more, hq, he⟩
  · obtain ⟨q, hq, hx, he, hc, hat⟩ := State.failOne_writes h hw (tid := tid) (t := t) cause
    have h0 : NoTask k tid (s.failOne k tid t cause) := ⟨q, hq, hx⟩
    obtain ⟨q', hq', hx'⟩ := State.failNext_keeps (k := k) (fun _ _ _ c h1 h2 _ => NoTask.failOne c h1 h2) fuel t h0
    refine ⟨(State.task?_of_part hq' tid).trans hx', fun hn => ?_⟩
    have : t.successors = [] := by simp [Task.successors, hn]
    rw [this]
    exact ⟨hat, q, hq, he, hc⟩

/-! ### The answer to a SPAWN (R349) -/

/-- What the flit's origin is told. -/
def Flit.answer (f : Flit) (w : Word64) : List (Nat × Nat × Word64) :=
  match f.origin with
  | some (g, y) => [(g, y, w)]
  | none => []

/-- The partition with the answer to a flit on its way. -/
def Part.answered (p : Part) (f : Flit) (w : Word64) : Part := { p with spawned := p.spawned ++ f.answer w }

theorem State.answerSpawn_frame (s : State) (k : Nat) (f : Flit) (w : Word64) :
    s.answerSpawn k f w = { s with parts := (s.answerSpawn k f w).parts } := by
  unfold State.answerSpawn
  split
  · rfl
  · exact State.onPart_frame s k _

theorem State.answerSpawn_done (s : State) (k : Nat) (f : Flit) (w : Word64) :
    ({ s.answerSpawn k f w with waited := false } : State) = State.answerSpawn { s with waited := false } k f w := by
  unfold State.answerSpawn State.onPart
  split
  · rfl
  · next g y _ =>
    have hp : ({ s with waited := false } : State).part? k = s.part? k := rfl
    rw [hp]
    cases s.part? k <;> rfl

theorem State.answerSpawn_part {s : State} {k : Nat} {p : Part} (h : s.part? k = some p) (f : Flit) (w : Word64) :
    (s.answerSpawn k f w).part? k = some (p.answered f w) := by
  unfold State.answerSpawn Part.answered Flit.answer
  cases f.origin with
  | none => simpa using h
  | some x =>
    obtain ⟨g, y⟩ := x
    dsimp only
    rw [State.onPart_eq _ h]
    exact State.part?_setPart_self (q := { p with spawned := p.spawned ++ [(g, y, w)] }) h (State.part?_id (p := p) h)

theorem State.answerSpawn_part_ne {s : State} {k j : Nat} {p : Part} (h : s.part? k = some p) (f : Flit) (w : Word64) (hj : j ≠ k) :
    (s.answerSpawn k f w).part? j = s.part? j := by
  unfold State.answerSpawn
  split
  · rfl
  · rw [State.onPart_eq _ h]
    exact State.part?_setPart_ne (State.part?_id (p := p) h) hj

theorem State.task?_answerSpawn (s : State) (k : Nat) (f : Flit) (w : Word64) (x : Nat) :
    (s.answerSpawn k f w).task? k x = s.task? k x := by
  cases h : s.part? k with
  | none =>
    have : s.answerSpawn k f w = s := by
      unfold State.answerSpawn State.onPart
      rw [h]
      split <;> rfl
    rw [this]
  | some p =>
    rw [State.task?_of_part (State.answerSpawn_part h f w), State.task?_of_part h]
    rfl

theorem State.readAs_answerSpawn {s : State} {k : Nat} {p : Part} (h : s.part? k = some p) (f : Flit) (w : Word64) (a : Nat) :
    (s.answerSpawn k f w).readAs k a = s.readAs k a := by
  have hf := State.answerSpawn_frame s k f w
  refine State.readAs_congr (by rw [hf]) (by rw [hf]) (by rw [hf]) ?_ a
  have hk : (s.answerSpawn k f w).keySlots = s.keySlots := by rw [hf]
  rw [State.keyOf, State.keyOf, State.answerSpawn_part h, h, hk]
  rfl

theorem TaskFailed.answerSpawn {s : State} {k : Nat} {p : Part} {u : Task} {e : Entry} (h : TaskFailed s k p u e)
    (hid : p.id = k) (f : Flit) (w : Word64) : TaskFailed (s.answerSpawn k f w) k p u e := by
  obtain ⟨hh, hw⟩ := h
  refine ⟨fun hp => ?_, fun hp => ?_⟩
  · obtain ⟨⟨u', hu, hs, hr⟩, q', more, hq', he⟩ := hh hp
    exact ⟨⟨u', (State.task?_answerSpawn s k f w _).trans hu, hs, hr⟩, _, more, State.answerSpawn_part hq' f w, he⟩
  · obtain ⟨hn, hs⟩ := hw hp
    refine ⟨(State.task?_answerSpawn s k f w _).trans hn, fun h0 => ?_⟩
    obtain ⟨hat, q', hq', he, hc⟩ := hs h0
    exact ⟨fun ha => EntryAt.congr (by rw [hid]; exact State.readAs_answerSpawn hq' f w) rfl rfl rfl (hat ha), _,
      State.answerSpawn_part hq' f w, he, hc⟩

/-! ### Entries that free no block (R29, R35) -/

/-- An entry given out by a step that changed the partition before. -/
theorem entryGiven_pushEntry {s : State} {k : Nat} {p0 p : Part} (h : s.part? k = some p0) (hid : p.id = k) (hkey : p.key = p0.key)
    {e : Entry} (he : e.frees = false) : EntryGiven s { (s.setPart p).pushEntry k e with waited := false } k p e := by
  have hp : (s.setPart p).part? k = some p := State.part?_setPart_self h hid
  refine ⟨fun hd => ?_, fun hh => ?_, fun hw => ?_⟩
  · rw [State.pushEntry_destroying hp hd]
    exact PartAs.of_setPart h hid s.msiOut
  · rw [State.pushEntry_holds hp hh, State.setPart_setPart (s := s) (p := p) (q := { p with entries := p.entries ++ [e] }) rfl]
    exact PartAs.of_setPart (q := p.holding e) h hid s.msiOut
  · have hx : (s.setPart p).pushEntry k e = (s.setPart p).ringEntry p e := by
      rw [State.pushEntry_writes hp hw, State.writeEntry_eq, if_neg (by rw [he]; simp)]
    obtain ⟨vs, b, hr⟩ := State.ringEntry_part hp hid e
    rw [hx]
    refine ⟨rfl, State.entryAt_ringEntry hp hid e, _, hr, hw.2.1, rfl, rfl, rfl, rfl, rfl, fun h0 a ha => ?_⟩
    exact (State.readAs_ringEntry_other hp hid rfl h0 e ha).trans (State.readAs_setPart h hid hkey a)

theorem EntryGiven.answerSpawn {s t : State} {k : Nat} {p : Part} {e : Entry} (h : EntryGiven s t k p e) (hid : p.id = k)
    (f : Flit) (w : Word64) : EntryGiven s (t.answerSpawn k f w) k (p.answered f w) e := by
  have as : ∀ q, PartAs s t k q → PartAs s (t.answerSpawn k f w) k (q.answered f w) := fun q ⟨ht, hq, hj⟩ => by
    refine ⟨?_, State.answerSpawn_part hq f w, fun j hj' => (State.answerSpawn_part_ne hq f w hj').trans (hj j hj')⟩
    rw [State.answerSpawn_frame t, ht]
  obtain ⟨hd, hh, hw⟩ := h
  refine ⟨fun hp => as _ (hd hp), fun hp => as _ (hh hp), fun hp => ?_⟩
  obtain ⟨hwt, hat, q, hq, h1, h2, h3, h4, h5, h6, h7⟩ := hw hp
  refine ⟨?_, ?_, _, State.answerSpawn_part hq f w, h1, h2, h3, ?_, h5, h6, fun h0 a ha => ?_⟩
  · rw [State.answerSpawn_frame t]; exact hwt
  · exact EntryAt.congr (p := p) (by rw [hid]; exact State.readAs_answerSpawn hq f w) rfl rfl rfl hat
  · exact congrArg (· ++ f.answer w) h4
  · exact (State.readAs_answerSpawn hq f w a).trans (h7 h0 a ha)

end Sys2Proof.Machine
end

section
namespace Sys2Proof.Machine

/-! ### Flits that create tasks (R24, R29) -/

/-- A flit leaves the queue. -/
def Part.withFlits (p : Part) (rest : List Flit) : Part := { p with ports := { p.ports with flits := rest } }

/-- A block in the state that its counter gives it. -/
def Task.entered (t : Task) (tick : Nat) : Task :=
  if t.depc != 0 then t else if t.kind == .join then { t with state := .done } else t.makeReady tick

/-- The code of the first check of R24 and R29 that a flit fails. -/
def Part.refusal (p : Part) (f : Flit) : Option Nat :=
  if f.wellFormed = false then some 0x0A else if p.totals.cbase ≤ f.fields.tid then some 2
  else if (p.task? f.fields.tid).isSome then some 3 else none

theorem Part.refusal_none {p : Part} {f : Flit} (h : p.refusal f = none) :
    f.wellFormed = true ∧ ¬ p.totals.cbase ≤ f.fields.tid ∧ ¬ (p.task? f.fields.tid).isSome = true := by
  unfold Part.refusal at h
  split at h
  · cases h
  next hw =>
  split at h
  · cases h
  next hc =>
  split at h
  · cases h
  next ht => exact ⟨by simpa using hw, hc, ht⟩

/-- The step that takes a flit. -/
def Flit.instr (f : Flit) (k : Nat) : Instr := if f.fields.fop = 2 then .createJoinTask k else .createKernelTask k

theorem FlitFields.entered_join (x : FlitFields) (tick : Nat) :
    (x.task .join).entered tick = { x.task .join with state := if x.depc = 0 then .done else .waiting } := by
  unfold Task.entered
  by_cases h : x.depc = 0 <;> simp [FlitFields.task, h]

theorem FlitFields.entered_kernel (x : FlitFields) (r : LaunchRec) (tick : Nat) :
    ((x.task .kernel).withRecord r).entered tick =
      if x.depc = 0 then ((x.task .kernel).withRecord r).makeReady tick else (x.task .kernel).withRecord r := by
  unfold Task.entered
  by_cases h : x.depc = 0 <;> simp [FlitFields.task, Task.withRecord, h]

section
variable {s : State} {k : Nat} {p : Part} {f : Flit}

/-- The oldest flit leaves the queue, and is taken. -/
theorem exec_flitInstr {rest : List Flit} (h : s.part? k = some p) (hf : p.ports.flits = f :: rest) :
    exec (f.instr k) s = ((s.setPart (p.withFlits rest)).takeFlit (p.withFlits rest) f).done := by
  have he : ∀ join, (f.fields.fop == 2) = join → s.createTask k join =
      ((s.setPart (p.withFlits rest)).takeFlit (p.withFlits rest) f).done := by
    rintro _ rfl
    rw [State.createTask, h]
    dsimp only
    rw [hf]
    simp only [bne_self_eq_false, Bool.false_eq_true, if_false]
    rfl
  unfold Flit.instr
  split
  · next h2 => exact he true (by simp [h2])
  · next h2 => exact he false (by simp [h2])

theorem State.takeFlit_refused {c : Nat} (hid : p.id = k) (h : p.refusal f = some c) : s.takeFlit p f =
    (s.pushEntry k ⟨f.fields.tid, 0, c, 0, false⟩).answerSpawn k f (resultWord f.fields.tid 0 c) := by
  subst hid
  unfold Part.refusal at h
  unfold State.takeFlit
  dsimp only
  split at h
  · next hw => cases h; rw [hw]; rfl
  next hw =>
  rw [Bool.not_eq_false] at hw
  rw [hw]
  split at h
  · next hc => cases h; simp only [if_pos hc]; rfl
  next hc =>
  split at h
  · next ht => cases h; simp only [if_neg hc, if_pos ht]; rfl
  · cases h

theorem State.takeFlit_join (hid : p.id = k) (h : p.refusal f = none) (h2 : f.fields.fop = 2) :
    s.takeFlit p f = s.enterTask k f (f.fields.task .join) := by
  subst hid
  obtain ⟨hw, hc, ht⟩ := Part.refusal_none h
  unfold State.takeFlit
  simp only [hw, if_neg hc, if_neg ht, if_pos h2]
  rfl

/-- A kernel task fails where its record cannot be read or is not legal, and is entered else. -/
theorem State.takeFlit_kernel (hid : p.id = k) (h : p.refusal f = none) (h1 : f.fields.fop = 1) :
    s.takeFlit p f =
      let fail := fun t : Task => ((s.putTask k t).failTask k t.tid 1).answerSpawn k f (resultWord t.tid 6 1)
      match s.launchRec? p f.fields.recVa with
      | none => fail (f.fields.task .kernel)
      | some r => if !r.legal p.totals.push || (f.fields.emask != 0 && !r.early) then fail ((f.fields.task .kernel).withRecord r)
          else s.enterTask k f ((f.fields.task .kernel).withRecord r) := by
  subst hid
  obtain ⟨hw, hc, ht⟩ := Part.refusal_none h
  unfold State.takeFlit
  simp only [hw, if_neg hc, if_neg ht, h1]
  rfl

theorem State.takeFlit_entered {r : LaunchRec} (hid : p.id = k) (h : p.refusal f = none) (h1 : f.fields.fop = 1)
    (hr : s.launchRec? p f.fields.recVa = some r) (hl : r.legal p.totals.push = true) (he : f.fields.emask = 0 ∨ r.early = true) :
    s.takeFlit p f = s.enterTask k f ((f.fields.task .kernel).withRecord r) := by
  rw [State.takeFlit_kernel hid h h1, hr]
  rcases he with he | he <;> simp [hl, he]

theorem State.takeFlit_illegal {r : LaunchRec} (hid : p.id = k) (h : p.refusal f = none) (h1 : f.fields.fop = 1)
    (hr : s.launchRec? p f.fields.recVa = some r)
    (hl : r.legal p.totals.push = false ∨ (f.fields.emask ≠ 0 ∧ r.early = false)) :
    s.takeFlit p f = (((s.putTask k ((f.fields.task .kernel).withRecord r)).failTask k f.fields.tid 1).answerSpawn k f
      (resultWord f.fields.tid 6 1)) := by
  have hb : (!r.legal p.totals.push || (f.fields.emask != 0 && !r.early)) = true := by
    rcases hl with hl | ⟨hm, he⟩
    · rw [hl]; rfl
    · rw [he, bne_iff_ne.2 hm]; simp
  rw [State.takeFlit_kernel hid h h1, hr]
  simp only [hb, if_true]
  rfl

/-- A task that is entered stands in the table in the state that its counter gives it. -/
theorem State.enterTask_spec (h : s.part? k = some p) (t : Task) :
    (s.enterTask k f t).task? k t.tid = some (t.entered s.tick) ∧
    ∃ q, (s.enterTask k f t).part? k = some q ∧ q.ports.flits = p.ports.flits ∧
      q.spawned = p.spawned ++ f.answer (resultWord t.tid (t.entered s.tick).state.code 0) := by
  have htid : (t.entered s.tick).tid = t.tid := by
    unfold Task.entered
    split
    · rfl
    split <;> rfl
  obtain ⟨q, hq, e⟩ := (State.putTask_tabled s k (t.entered s.tick)).part p h
  have he : s.enterTask k f t = (s.putTask k (t.entered s.tick)).answerSpawn k f
      (resultWord t.tid (t.entered s.tick).state.code 0) := by
    rw [← htid]
    rfl
  rw [he]
  refine ⟨?_, _, State.answerSpawn_part hq f _, ?_, ?_⟩
  · rw [State.task?_answerSpawn, State.task?_putTask h, htid, if_pos rfl]
  · show q.ports.flits = _
    rw [e]
  · show q.spawned ++ _ = _
    rw [e]

/-- A kernel task that fails at once. -/
theorem taskFailed_putTask (h : s.part? k = some p) {t : Task} (hk : t.kind = .kernel) (hs : t.state = .waiting)
    (hr : t.reported = false) (w : Word64) :
    TaskFailed (((s.putTask k t).failTask k t.tid 1).answerSpawn k f w) k p t ⟨t.tid, 6, 1, t.chkiv.word, true⟩ := by
  obtain ⟨q, hq, e⟩ := (State.putTask_tabled s k t).part p h
  have hqt : q.task? t.tid = some t := by
    rw [← State.task?_of_part hq, State.task?_putTask h, if_pos rfl]
  have he : (s.putTask k t).failTask k t.tid 1 = (s.putTask k t).failTaskFuel (q.tasks.length + 1) k t.tid 1 := by
    rw [State.failTask, hq]
    dsimp only
    rw [hqt]
    simp [hk]
  have hf := taskFailed_failTaskFuel q.tasks.length 1 hq hqt (by rw [hs, hr]; rfl)
  rw [he]
  refine TaskFailed.answerSpawn ?_ (State.part?_id (p := p) h) f w
  rw [e] at hf
  exact hf

/-! ### Decrements (R29, R31, R266) -/

/-- What a decrement makes of a task that takes it. -/
def Task.lowered (u : Task) (tick : Nat) : Task :=
  if u.depc - 1 ≠ 0 then { u with depc := u.depc - 1 }
  else if u.kind = .join ∧ u.state = .waiting then { u with depc := u.depc - 1, state := .done }
  else ({ u with depc := u.depc - 1 } : Task).makeReady tick

/-- A task takes decrements while it waits for its counter (R29, R31). -/
def Task.armed (u : Task) : Prop := u.state = .waiting ∨ (u.state = .parked ∧ u.wake = some .dep)

/-- The oldest decrement has been taken. -/
def Part.withDecrements (p : Part) (rest : List (Nat × Option Nat)) : Part := { p with decrements := rest }

/-- The message that follows a decrement (R266). -/
def Part.messages (p : Part) (k : Nat) (vec : Option Nat) : List (Nat × Nat × Word64 × Word32) :=
  match vec with
  | some v => if (p.vector v).mask then [] else [(k, v, (p.vector v).addr, (p.vector v).data)]
  | none => []

theorem Task.lowered_tid (u : Task) (tick : Nat) : (u.lowered tick).tid = u.tid := by
  unfold Task.lowered
  split
  · rfl
  split <;> rfl

theorem State.decrementTask_armed {tid : Nat} {u : Task} (h : s.task? k tid = some u) (ha : u.armed) :
    s.decrementTask k tid = s.putTask k (u.lowered s.tick) := by
  unfold State.decrementTask Task.lowered
  rw [h]
  rcases ha with hs | ⟨hs, hw⟩
  · simp only [hs]
    by_cases hd : u.depc - 1 = 0 <;> by_cases hk : u.kind = .join <;> simp [hd, hk]
  · simp only [hs, hw]
    by_cases hd : u.depc - 1 = 0 <;> simp [hd]

theorem State.decrementTask_none {tid : Nat} (h : s.task? k tid = none) : s.decrementTask k tid = s.reject k tid 8 := by
  unfold State.decrementTask
  rw [h]

theorem State.decrementTask_free {tid : Nat} {u : Task} (h : s.task? k tid = some u) (hs : u.state = .free) :
    s.decrementTask k tid = s.reject k tid 8 := by
  unfold State.decrementTask
  rw [h]
  simp only [hs]

theorem State.decrementTask_other {tid : Nat} {u : Task} (h : s.task? k tid = some u) (ha : ¬ u.armed) (hf : u.state ≠ .free) :
    s.decrementTask k tid = s.reject k tid 9 := by
  unfold State.decrementTask
  rw [h]
  cases hs : u.state with
  | free => exact absurd hs hf
  | waiting => exact absurd (.inl hs) ha
  | parked =>
    have hw : u.wake ≠ some .dep := fun hw => ha (.inr ⟨hs, hw⟩)
    simp only [hs, if_neg hw]
  | _ => simp only [hs]

theorem exec_taskDecrement {tid : Nat} {vec : Option Nat} {rest : List (Nat × Option Nat)} (h : s.part? k = some p)
    (hd : p.decrements = (tid, vec) :: rest) : exec (.taskDecrement k) s =
      (match vec with
        | some v => ((s.setPart (p.withDecrements rest)).decrementTask k tid).sendMsi k v
        | none => (s.setPart (p.withDecrements rest)).decrementTask k tid).done := by
  show execTaskDecrement k s = _
  unfold execTaskDecrement
  rw [h]
  dsimp only
  rw [hd]
  rfl

end

section
variable {s : State} {k : Nat} {p : Part} {tid : Nat} {vec : Option Nat} {rest : List (Nat × Option Nat)}
  (h : s.part? k = some p) (hd : p.decrements = (tid, vec) :: rest)
include h hd

theorem answers_decrementRejected {c : Nat} (hv : vec = none)
    (hr : (s.setPart (p.withDecrements rest)).decrementTask k tid = (s.setPart (p.withDecrements rest)).reject k tid c) :
    Answers (exec (.taskDecrement k) s) (fun t => EntryGiven s t k (p.withDecrements rest) ⟨tid, 0, c, 0, false⟩) := by
  subst hv
  rw [exec_taskDecrement h hd]
  dsimp only
  rw [hr]
  exact ⟨_, rfl, entryGiven_pushEntry (p := p.withDecrements rest) h (State.part?_id (p := p) h) rfl rfl⟩

theorem answers_decrementTaken {u : Task} (ht : p.task? tid = some u) (ha : u.armed) :
    Answers (exec (.taskDecrement k) s) (fun t => t.waited = false ∧ t.task? k tid = some (u.lowered s.tick) ∧
      (∃ q, t.part? k = some q ∧ q.decrements = rest) ∧
      t.msiOut = s.msiOut ++ p.messages k vec) := by
  have hs : (s.setPart (p.withDecrements rest)).part? k = some (p.withDecrements rest) :=
    State.part?_setPart_self h (State.part?_id (p := p) h)
  have hu : (s.setPart (p.withDecrements rest)).task? k tid = some u := (State.task?_of_part hs tid).trans ht
  obtain ⟨q, hq, e⟩ := (State.putTask_tabled (s.setPart (p.withDecrements rest)) k (u.lowered s.tick)).part _ hs
  have htick : (s.setPart (p.withDecrements rest)).tick = s.tick := rfl
  have hl := State.task?_putTask hs (u.lowered s.tick) tid
  have hm : ((s.setPart (p.withDecrements rest)).putTask k (u.lowered s.tick)).msiOut = s.msiOut :=
    (State.putTask_tabled _ k _).msiOut
  rw [Task.lowered_tid, Part.task?_tid ht, if_pos rfl] at hl
  rw [exec_taskDecrement h hd, State.decrementTask_armed hu ha, htick]
  cases vec with
  | none => exact ⟨_, rfl, rfl, hl, ⟨q, hq, by rw [e]; rfl⟩, by simpa [Part.messages] using hm⟩
  | some v =>
    obtain ⟨vs, hv⟩ := State.sendMsi_part hq v
    refine ⟨_, rfl, rfl, (State.task?_sendMsi _ k v tid).trans hl, ⟨_, hv, by rw [e]; rfl⟩, ?_⟩
    have hvec : q.vector v = p.vector v := by rw [e]; rfl
    show (State.sendMsi _ k v).msiOut = s.msiOut ++ if (p.vector v).mask then _ else _
    rw [State.sendMsi_eq hq, hvec]
    split
    · simpa using hm
    · exact congrArg (· ++ _) hm

end

/-- Settles O43: the flit or decrement that a step takes is refused, failed or entered by the rules of those three cases. -/
theorem flitsAndDecrements : Obligations.FlitsAndDecrements := by
  unfold Obligations.FlitsAndDecrements
  intro s k p h
  have hid := State.part?_id (p := p) h
  refine ⟨fun f rest hf => ?_, fun tid vec rest hd => ?_⟩
  · have hs : (s.setPart (p.withFlits rest)).part? k = some (p.withFlits rest) := State.part?_setPart_self h hid
    intro x p1 s1 i refusal answered
    have run : exec i s = (s1.takeFlit p1 f).done := exec_flitInstr h hf
    refine ⟨fun c hc => ?refused, fun hn h2 => ?join, fun hn h1 hr => ?unread,
      fun r hn h1 hr => ⟨fun hl he => ?entered, fun hl => ?illegal⟩⟩
    case refused =>
      rw [run, State.takeFlit_refused (s := s1) (p := p1) hid hc]
      refine ⟨_, rfl, ?_⟩
      rw [State.answerSpawn_done]
      exact (entryGiven_pushEntry (p := p1) h hid rfl rfl).answerSpawn hid f _
    case join =>
      rw [run, State.takeFlit_join (s := s1) (p := p1) hid hn h2]
      obtain ⟨ht, q, hq, hfl, hsp⟩ := State.enterTask_spec (f := f) hs (x.task .join)
      refine ⟨_, rfl, rfl, ht.trans ?_, q, hq, hfl, hsp.trans ?_⟩
      · rw [FlitFields.entered_join]
      · rw [FlitFields.entered_join]
        dsimp only
        split <;> rfl
    case unread =>
      rw [run, State.takeFlit_kernel (s := s1) (p := p1) hid hn h1, hr]
      exact ⟨_, rfl, taskFailed_putTask hs rfl rfl rfl _⟩
    case entered =>
      rw [run, State.takeFlit_entered (s := s1) (p := p1) hid hn h1 hr hl he]
      obtain ⟨ht, q, hq, hfl, -⟩ := State.enterTask_spec (f := f) hs ((x.task .kernel).withRecord r)
      refine ⟨_, rfl, rfl, ht.trans ?_, q, hq, hfl⟩
      rw [FlitFields.entered_kernel]
      rfl
    case illegal =>
      rw [run, State.takeFlit_illegal (s := s1) (p := p1) hid hn h1 hr hl]
      exact ⟨_, rfl, taskFailed_putTask hs rfl rfl rfl _⟩
  · intro rejects
    have hs : (s.setPart (p.withDecrements rest)).part? k = some (p.withDecrements rest) := State.part?_setPart_self h hid
    have htask : (s.setPart (p.withDecrements rest)).task? k tid = p.task? tid := State.task?_of_part hs tid
    refine ⟨fun hn hv => answers_decrementRejected h hd hv (State.decrementTask_none (htask.trans hn)), fun u hu => ?_⟩
    refine ⟨fun hf hv => answers_decrementRejected h hd hv (State.decrementTask_free (htask.trans hu) hf),
      fun ha hf hv => answers_decrementRejected h hd hv (State.decrementTask_other (htask.trans hu) ha hf), fun ha _ => ?_⟩
    exact answers_decrementTaken h hd hu ha

end Sys2Proof.Machine
end

section
namespace Sys2Proof.Machine

/-! ### The end of a group (R410, R37) -/

/-- A group that ends leaves what R152 and R286 keep with its cohort, and counts there as ended and triggered. -/
def Cohort.afterGroup (co : Cohort) (g : Group) : Cohort :=
  { co with
    ended := co.ended ||| maskOne g.sp.grp.toNat, triggered := co.triggered ||| maskOne g.sp.grp.toNat
    rsalt0 := if g.sp.grp = 0 ∧ g.cont = none then g.ctl.rsalt else co.rsalt0
    asid0 := if g.sp.grp = 0 ∧ g.cont = none then g.ctl.asid else co.asid0 }

theorem State.task?_waited (s : State) (b : Bool) (k x : Nat) : ({ s with waited := b } : State).task? k x = s.task? k x := rfl

theorem State.group?_dropGroup (s : State) (gid j : Nat) :
    (s.dropGroup gid).group? j = if j = gid then none else s.group? j := by
  show (s.groups.filter (fun g => g.gid != gid)).find? (fun y => y.gid == j) = _
  rw [List.find?_filter]
  split
  · next h => exact List.find?_eq_none.2 fun y _ => by simp [h]
  · next h =>
    refine congrFun (congrArg _ (funext fun y => ?_)) _
    by_cases e : y.gid = j <;> simp [e, h]

/-- The step of a group's end up to its cohort. -/
def State.leaveGroup (s : State) (g : Group) : State :=
  ((s.lapseCapo g).retireGroup g).onCohort g.cohort (fun c => c.endGroup g.sp.grp.toNat)

theorem State.leaveGroup_frame (s : State) (g : Group) : s.leaveGroup g =
    { s with cores := (s.leaveGroup g).cores, cohorts := (s.leaveGroup g).cohorts
             groups := s.groups.filter (fun x => x.gid != g.gid) } := by
  have hr : ∀ s : State, s.retireGroup g = { s with
      cohorts := (s.retireGroup g).cohorts, groups := s.groups.filter (fun x => x.gid != g.gid) } := fun s => by
    unfold State.retireGroup
    split
    · rw [State.onCohort_frame]; rfl
    · rfl
  unfold State.leaveGroup
  rw [State.onCohort_frame, hr]
  rfl

theorem State.cohort?_leaveGroup {s : State} {g : Group} {co : Cohort} (h : s.cohort? g.cohort = some co) :
    (s.leaveGroup g).cohort? g.cohort = some (co.afterGroup g) := by
  have hl : (s.lapseCapo g).cohort? g.cohort = some co := h
  unfold State.leaveGroup State.retireGroup
  by_cases hz : g.sp.grp = 0 ∧ g.cont = none
  · have hb : (decide (g.sp.grp = 0) && g.cont.isNone) = true := by simp [hz]
    rw [hb]
    have h1 := State.cohort?_onCohort (fun c => { c with rsalt0 := g.ctl.rsalt, asid0 := g.ctl.asid }) hl rfl
    refine (State.cohort?_onCohort (s := State.dropGroup _ g.gid) (fun c => c.endGroup g.sp.grp.toNat) h1 rfl).trans ?_
    simp [Cohort.afterGroup, Cohort.endGroup, hz]
  · have hb : (decide (g.sp.grp = 0) && g.cont.isNone) = false := by
      rw [← Bool.not_eq_true]
      simpa using hz
    rw [hb]
    refine (State.cohort?_onCohort (s := (s.lapseCapo g).dropGroup g.gid) (fun c => c.endGroup g.sp.grp.toNat) hl rfl).trans ?_
    simp only [Cohort.afterGroup, Cohort.endGroup, if_neg hz]

/-- R410, R37: a group whose lanes have exited, with nothing outstanding, leaves its core; a continuation's block is free. -/
theorem answers_groupEnd {s : State} {gid : Nat} {g : Group} {co : Cohort} (h : s.group? gid = some g) (hx : g.allExited = true)
    (hst : g.stopped = false) (hq : g.sq = []) (hf : g.fills = []) (hco : s.cohort? g.cohort = some co) :
    Answers (exec (.groupEnd gid) s) (fun t => t.waited = false ∧ t.group? gid = none ∧
      (∀ j, j ≠ gid → g.cont = none → t.group? j = s.group? j) ∧ t.cohort? g.cohort = some (co.afterGroup g) ∧
      ∀ tid, g.cont = some tid → t.task? g.part tid = none) := by
  have hgid := State.group?_gid h
  have hgone : (s.leaveGroup g).group? gid = none := by
    rw [State.leaveGroup_frame]
    exact (State.group?_dropGroup s g.gid gid).trans (if_pos hgid.symm)
  have hcohort := State.cohort?_leaveGroup hco
  have he : exec (.groupEnd gid) s =
      (match g.cont with
        | some tid => (((s.leaveGroup g).onTask g.part tid (fun t => { t with state := .done })).freeTask g.part tid).done
        | none => (s.leaveGroup g).done) := by
    show execGroupEnd gid s = _
    unfold execGroupEnd
    rw [h]
    simp only [hx, hst, hq, hf]
    rfl
  rw [he]
  cases hc : g.cont with
  | none =>
    refine ⟨_, rfl, rfl, hgone, fun j hj _ => ?_, hcohort, fun tid ht => (by cases ht)⟩
    show (s.leaveGroup g).group? j = _
    rw [State.leaveGroup_frame]
    exact (State.group?_dropGroup s g.gid j).trans (if_neg (hgid ▸ hj))
  | some tid =>
    have ht := (State.onTask_tabled (s.leaveGroup g) g.part tid (fun t => { t with state := .done })).trans
      (State.freeTask_tabled _ g.part tid)
    refine ⟨_, rfl, rfl, ht.group?_none hgone, fun j _ hn => (by cases hn), (ht.cohort? _).trans hcohort, fun tid' e => ?_⟩
    cases e
    have hfree := State.task?_freeTask ((s.leaveGroup g).onTask g.part tid (fun t => { t with state := .done })) g.part tid tid
    rw [if_pos rfl] at hfree
    rw [State.task?_waited, hfree]

/-! ### The end of a cohort (R411) -/

/-- A cohort that has exited: its tiles and its staging are free (R411). -/
def Cohort.out (c : Cohort) : Cohort := { c with exited := true, tiles := [], tileMask := [], tileDepth := [], stage := [] }

/-- The block of a task one of whose cohorts has exited. -/
def Task.withExit (u : Task) (c : Cohort) : Task :=
  { u with chkiv := u.chkiv.merge c.chkiv, exited := u.exited + 1, trigCohorts := u.trigCohorts ++ [c.index] }

theorem State.cohort?_dropCohort_self (s : State) (uid : Nat) : (s.dropCohort uid).cohort? uid = none := by
  show (s.cohorts.filter (fun c => c.uid != uid)).find? (fun y => y.uid == uid) = none
  rw [List.find?_filter]
  exact List.find?_eq_none.2 fun y _ => by simp

theorem State.orphanCmds_any (s : State) (uid w : Nat) :
    (s.orphanCmds uid).allCmds.any (fun c => c.usesScratch w) = s.allCmds.any (fun c => c.usesScratch w) := by
  unfold State.allCmds State.orphanCmds
  dsimp only
  rw [List.any_flatMap, List.any_flatMap, List.any_map]
  refine congrArg (fun f => List.any s.clusters f) (funext fun x => ?_)
  show List.any (x.2.eq.map _) _ = List.any x.2.eq _
  rw [List.any_map]
  refine congrArg (fun f => List.any x.2.eq f) (funext fun c => ?_)
  show Cmd.usesScratch (if c.cohort = uid then { c with orphan := true } else c) w = _
  split <;> rfl

/-- R411: a cohort whose groups and stream have ended exits, and its scratchpad is free once no command uses it. -/
theorem answers_cohortExit {s : State} {uid : Nat} {c : Cohort} (h : s.cohort? uid = some c) (hx : c.exited = false)
    (hk : c.killed = false) (hk' : c.kill = none) (hq : c.seq.ended = true) (hm : c.ended &&& c.groupMask = c.groupMask) :
    Answers (exec (.cohortExit uid) s) (fun t => t.waited = false ∧
      ((∀ x ∈ s.allCmds, x.usesScratch uid = false) → t.cohort? uid = none) ∧
      ((∃ x ∈ s.allCmds, x.usesScratch uid = true) → ∃ c', t.cohort? uid = some c' ∧ c'.exited = true ∧ c'.scratch = c.scratch) ∧
      ∀ u, s.task? c.part c.tid = some u → t.task? c.part c.tid = some (u.withExit c)) := by
  set s1 := s.setCohort c.out with hs1
  set s2 := s1.onTask c.part c.tid (fun t => t.withExit c) with hs2
  have he : exec (.cohortExit uid) s = ((s2.orphanCmds uid).freeExited uid).done := by
    show execCohortExit uid s = _
    unfold execCohortExit
    rw [h]
    have hgo : (c.killed || c.kill.isSome || c.ended &&& c.groupMask != c.groupMask || !c.seq.ended) = false := by
      rw [hm, hk, hk', hq]; simp
    dsimp only
    rw [if_neg (by simp [hx]), if_neg (by simp [hgo])]
    rfl
  have ht := State.onTask_tabled s1 c.part c.tid (fun t => t.withExit c)
  have hcmds : (s2.orphanCmds uid).allCmds.any (fun x => x.usesScratch uid) = s.allCmds.any (fun x => x.usesScratch uid) := by
    rw [State.orphanCmds_any]
    show (s2.clusters.flatMap _).any _ = (s.clusters.flatMap _).any _
    rw [ht.clusters]
    rfl
  have htask : ∀ u, s.task? c.part c.tid = some u → (s2.orphanCmds uid).task? c.part c.tid = some (u.withExit c) := fun u hu => by
    refine (State.task?_onTask (s := s1) (f := fun t => t.withExit c) (fun _ => rfl) c.tid).trans ?_
    rw [if_pos rfl]
    exact congrArg (Option.map _) hu
  rw [he]
  unfold State.freeExited
  rw [hcmds]
  refine ⟨_, rfl, rfl, fun hn => ?_, fun ⟨x, hx, hu⟩ => ?_, fun u hu => ?_⟩
  · have : s.allCmds.any (fun x => x.usesScratch uid) = false := List.any_eq_false.2 fun x hx => by rw [hn x hx]; simp
    rw [this]
    exact State.cohort?_dropCohort_self _ uid
  · have : s.allCmds.any (fun x => x.usesScratch uid) = true := List.any_eq_true.2 ⟨x, hx, hu⟩
    rw [this]
    refine ⟨c.out, ?_, rfl, rfl⟩
    refine (ht.cohort? uid).trans ?_
    rw [hs1, State.cohort?_setCohort, if_pos (show uid = c.out.uid from (State.cohort?_uid h).symm), h]
    rfl
  · refine .trans ?_ (htask u hu)
    split <;> rfl

end Sys2Proof.Machine
end

section
namespace Sys2Proof.Machine

/-! ### Decrements of a task's successors (R30, R32) -/

/-- A decrement lowers the counter of a task that takes it, and is rejected else. -/
theorem State.decrementTask_cases (s : State) (k tid : Nat) :
    (∃ u, s.task? k tid = some u ∧ u.armed ∧ s.decrementTask k tid = s.putTask k (u.lowered s.tick)) ∨
    ((∀ u, s.task? k tid = some u → ¬ u.armed) ∧ ∃ c, s.decrementTask k tid = s.reject k tid c) := by
  cases h : s.task? k tid with
  | none => exact .inr ⟨fun u hu => (by cases hu), 8, State.decrementTask_none h⟩
  | some u =>
    by_cases ha : u.armed
    · exact .inl ⟨u, rfl, ha, State.decrementTask_armed h ha⟩
    · refine .inr ⟨fun u' hu => (by cases hu; exact ha), ?_⟩
      by_cases hf : u.state = .free
      · exact ⟨8, State.decrementTask_free h hf⟩
      · exact ⟨9, State.decrementTask_other h ha hf⟩

theorem State.task?_reject (s : State) (k tid c x : Nat) : (s.reject k tid c).task? k x = s.task? k x := by
  cases h : s.part? k with
  | none => simp [State.reject, State.pushEntry, h]
  | some p => exact (State.task?_pushEntry h rfl x).trans (State.task?_of_part h x).symm

/-- A decrement leaves every task that does not take it. -/
theorem State.task?_decrementTask {s : State} {k x : Nat} {u : Task} (h : s.task? k x = some u) {tid : Nat}
    (hn : x = tid → ¬ u.armed) : (s.decrementTask k tid).task? k x = some u := by
  obtain ⟨p, hp, -⟩ := State.task?_part h
  rcases s.decrementTask_cases k tid with ⟨v, hv, ha, e⟩ | ⟨-, c, e⟩
  · have hne : x ≠ v.tid := by
      rintro rfl
      rw [State.task?_tid hv, hv] at h
      cases h
      exact hn (State.task?_tid hv) ha
    rw [e, State.task?_putTask hp, Task.lowered_tid, if_neg hne, h]
  · rw [e, State.task?_reject, h]

/-- A decrement noted as sent. -/
def Task.marked (n : Nat) (t : Task) : Task := { t with sent := t.sent ||| (1#4 <<< n) }

theorem State.decrementSuccessors_eq (s : State) (k : Nat) (t : Task) (early : Bool) : s.decrementSuccessors k t early =
    (t.successors.filter (fun x => bit t.emask x.1 == early)).foldl
      (fun s x => (s.onTask k t.tid (Task.marked x.1)).decrementTask k x.2) s := rfl

theorem State.decrementSuccessors_keeps {P : State → Prop} {k : Nat} {t : Task}
    (hm : ∀ s n, P s → P (s.onTask k t.tid (Task.marked n))) (hd : ∀ s x, P s → P (s.decrementTask k x))
    {s : State} (early : Bool) (h : P s) : P (s.decrementSuccessors k t early) := by
  rw [State.decrementSuccessors_eq]
  exact List.foldlRecOn (motive := P) _ _ h fun s hs x _ => hd _ _ (hm _ _ hs)

/-- A task of the partition is there, and meets R. -/
def HasTask (k tid : Nat) (R : Task → Prop) (s : State) : Prop := ∃ u, s.task? k tid = some u ∧ R u

/-- The entries of the partition are held. -/
def Holding (k : Nat) (s : State) : Prop := ∃ q, s.part? k = some q ∧ q.holdsEntry

theorem HasTask.onTask {k tid : Nat} {R R' : Task → Prop} {s : State} (h : HasTask k tid R s) {f : Task → Task}
    (hf : ∀ t, (f t).tid = t.tid) (hR : ∀ u, R u → R' (f u)) : HasTask k tid R' (s.onTask k tid f) := by
  obtain ⟨u, hu, hr⟩ := h
  exact ⟨f u, by rw [State.task?_onTask hf, if_pos rfl, hu]; rfl, hR u hr⟩

theorem HasTask.decrementTask {k tid : Nat} {R : Task → Prop} {s : State} (h : HasTask k tid R s) (hR : ∀ u, R u → ¬ u.armed)
    (x : Nat) : HasTask k tid R (s.decrementTask k x) := by
  obtain ⟨u, hu, hr⟩ := h
  exact ⟨u, State.task?_decrementTask hu fun _ => hR u hr, hr⟩

theorem HasTask.decrementSuccessors {k : Nat} {t : Task} {R : Task → Prop} {s : State} (h : HasTask k t.tid R s)
    (hR : ∀ u, R u → ¬ u.armed) (hm : ∀ u n, R u → R (u.marked n)) (early : Bool) :
    HasTask k t.tid R (s.decrementSuccessors k t early) :=
  State.decrementSuccessors_keeps (P := HasTask k t.tid R) (fun _ n hs => hs.onTask (fun _ => rfl) fun u => hm u n)
    (fun _ x hs => hs.decrementTask hR x) early h

theorem Holding.of_tabled {k : Nat} {s t : State} (h : Holding k s) (ht : Tabled k s t) : Holding k t := by
  obtain ⟨p, hp, hh⟩ := h
  obtain ⟨q, hq, e⟩ := ht.part p hp
  exact ⟨q, hq, by rw [e]; exact hh⟩

theorem Holding.decrementTask {k : Nat} {s : State} (h : Holding k s) (x : Nat) : Holding k (s.decrementTask k x) := by
  rcases s.decrementTask_cases k x with ⟨u, -, -, e⟩ | ⟨-, c, e⟩
  · rw [e]
    exact h.of_tabled (State.putTask_tabled s k _)
  · obtain ⟨p, hp, hh⟩ := h
    rw [e]
    exact ⟨_, State.pushEntry_holds_part hp hh ⟨x, 0, c, 0, false⟩, hh.1, .inl (by simp [Part.holding])⟩

theorem Holding.decrementSuccessors {k : Nat} {s : State} (h : Holding k s) (t : Task) (early : Bool) :
    Holding k (s.decrementSuccessors k t early) :=
  State.decrementSuccessors_keeps (P := Holding k) (fun s _ hs => hs.of_tabled (State.onTask_tabled s k _ _))
    (fun _ x hs => hs.decrementTask x) early h

theorem State.decrementSuccessors_nil (s : State) (k : Nat) {t : Task} (early : Bool) (h : t.successors = []) :
    s.decrementSuccessors k t early = s := by
  rw [State.decrementSuccessors_eq, h]
  rfl

/-- A task that counts the decrements of its only predecessor among others. -/
structure Counts (s : State) (k : Nat) (u : Task) (x : Nat) (v : Task) : Prop where
  succ : u.successors = [(0, x)]
  ne : x ≠ u.tid
  task : s.task? k x = some v
  waits : v.state = .waiting

theorem Counts.onTask {s : State} {k x : Nat} {u v : Task} (h : Counts s k u x v) {f : Task → Task} (hf : ∀ t, (f t).tid = t.tid) :
    Counts (s.onTask k u.tid f) k u x v :=
  ⟨h.succ, h.ne, by rw [State.task?_onTask hf, if_neg h.ne, h.task], h.waits⟩

/-- What a counter above 1 becomes. -/
theorem Task.lowered_counts {v : Task} (h : 1 < v.depc) (tick : Nat) : v.lowered tick = { v with depc := v.depc - 1 } := by
  unfold Task.lowered
  rw [if_pos (by omega)]

theorem Counts.decrementSuccessors {s : State} {k x : Nat} {u v : Task} (h : Counts s k u x v) (hd : 1 < v.depc) (early : Bool) :
    Tabled k s (s.decrementSuccessors k u early) ∧
    Counts (s.decrementSuccessors k u early) k u x (if bit u.emask 0 = early then { v with depc := v.depc - 1 } else v) := by
  rw [State.decrementSuccessors_eq, h.succ]
  by_cases hb : bit u.emask 0 = early
  · have hm := h.onTask (f := Task.marked 0) (fun _ => rfl)
    obtain ⟨p, hp, -⟩ := State.task?_part hm.task
    have e : ([(0, x)].filter fun y => bit u.emask y.1 == early) = [(0, x)] := by simp [hb]
    rw [e, if_pos hb]
    show Tabled k s ((s.onTask k u.tid (Task.marked 0)).decrementTask k x) ∧
      Counts ((s.onTask k u.tid (Task.marked 0)).decrementTask k x) k u x _
    rw [State.decrementTask_armed hm.task (.inl hm.waits), Task.lowered_counts hd]
    refine ⟨(State.onTask_tabled s k u.tid _).trans (State.putTask_tabled _ k _), h.succ, h.ne, ?_, h.waits⟩
    rw [State.task?_putTask hp, if_pos (State.task?_tid h.task).symm]
  · have e : ([(0, x)].filter fun y => bit u.emask y.1 == early) = [] := by simp [hb]
    rw [e, if_neg hb]
    exact ⟨Tabled.refl k s, h⟩

/-! ### The early decrements (R32) -/

/-- The early decrements are on their way. -/
def Task.releasing (t : Task) : Task := { t with earlyDone := true }

theorem State.releaseEarly_eq (s : State) (k : Nat) (u : Task) : s.releaseEarly k u =
    if u.earlyDone || u.emask = 0 then s else (s.onTask k u.tid Task.releasing).decrementSuccessors k u true := rfl

theorem answers_earlyRelease {s : State} {k tid : Nat} {u : Task} (h : s.task? k tid = some u) (hs : u.state = .running)
    (hk : u.kind = .kernel) (ht : s.taskTriggered u = true) (he : u.earlyDone = false) (hm : u.emask ≠ 0) :
    Answers (exec (.earlyRelease k tid) s) (fun t => t.waited = false ∧
      (∃ u', t.task? k tid = some u' ∧ u'.earlyDone = true ∧ u'.state = .running) ∧
      ∀ x v, u.successors = [(0, x)] → x ≠ tid → bit u.emask 0 = true → s.task? k x = some v → v.state = .waiting →
        1 < v.depc → t.task? k x = some { v with depc := v.depc - 1 }) := by
  obtain rfl := State.task?_tid h
  have hrun : exec (.earlyRelease k u.tid) s = (State.decrementSuccessors (s.onTask k u.tid Task.releasing) k u true).done := by
    have hgo : (u.state != .running || u.kind != .kernel || !s.taskTriggered u) = false := by
      rw [hs, hk, ht]; rfl
    have hr : ¬ (u.earlyDone || u.emask = 0) = true := by simpa [he] using hm
    show execEarlyRelease k u.tid s = _
    unfold execEarlyRelease
    rw [h]
    dsimp only
    rw [if_neg (by simp [hgo]), State.releaseEarly_eq, if_neg hr]
  have h0 : HasTask k u.tid (fun u' => u'.earlyDone = true ∧ u'.state = .running) (s.onTask k u.tid Task.releasing) :=
    HasTask.onTask (R := fun u' => u'.state = .running) ⟨u, h, hs⟩ (fun _ => rfl) fun _ hu => ⟨rfl, hu⟩
  have h1 := h0.decrementSuccessors (t := u) (by rintro u' ⟨-, hu⟩ (ha | ⟨ha, -⟩) <;> rw [hu] at ha <;> cases ha)
    (fun _ _ hu => hu) true
  rw [hrun]
  refine ⟨_, rfl, rfl, h1, fun x v hsucc hne hb hv hw hd => ?_⟩
  have hc : Counts s k u x v := ⟨hsucc, hne, hv, hw⟩
  have := ((hc.onTask (f := Task.releasing) fun _ => rfl).decrementSuccessors hd true).2.task
  rw [if_pos hb] at this
  exact this

/-! ### The end of a task (R30, R412) -/

/-- A block that says DONE, and whose entry is given out. -/
def Task.closed (t : Task) : Task := { t with state := .done, reported := true }
/-- The partition without a task in its order of dispatch. -/
def Part.undispatched (p : Part) (tid : Nat) : Part := { p with dispatched := p.dispatched.filter (· != tid) }

/-- The step of a task's end up to its entry. -/
def State.closeTask (s : State) (k : Nat) (u : Task) : State :=
  (((s.releaseEarly k u).onTask k u.tid Task.closed).decrementSuccessors k u false).onPart k (·.undispatched u.tid)

theorem State.onPart_undispatched_tabled (s : State) (k tid : Nat) : Tabled k s (s.onPart k (·.undispatched tid)) := by
  unfold State.onPart
  split
  · next p hp => exact Tabled.of_setPart hp rfl
  · exact Tabled.refl k s

theorem State.task?_undispatched (s : State) (k tid x : Nat) : (s.onPart k (·.undispatched tid)).task? k x = s.task? k x := by
  cases h : s.part? k with
  | none => rw [show s.onPart k (·.undispatched tid) = s by simp [State.onPart, h]]
  | some p =>
    rw [State.onPart_eq _ h,
      State.task?_of_part (State.part?_setPart_self (q := p.undispatched tid) h (State.part?_id (p := p) h)), State.task?_of_part h]
    rfl

theorem Task.not_armed_of_isComplete {s : State} {u : Task} (h : s.isComplete u = true) : ¬ u.armed := by
  have hs : u.state = .done ∨ u.state = .running := by
    unfold State.isComplete at h
    split at h
    · exact .inl (by simpa using (Bool.and_eq_true_iff.1 h).1)
    · simp only [Bool.and_eq_true, beq_iff_eq] at h
      exact .inr h.1.1.1.1.1.1
  rintro (ha | ⟨ha, -⟩) <;> rcases hs with hs | hs <;> rw [hs] at ha <;> cases ha

section
variable {s : State} {k : Nat} {u : Task}

/-- Where entries are held they are held after the task is closed, and its block says DONE. -/
theorem State.closeTask_holds (h : s.task? k u.tid = some u) (hu : ¬ u.armed) (hh : Holding k s) :
    Holding k (s.closeTask k u) ∧ HasTask k u.tid (fun u' => u'.state = .done ∧ u'.reported = true) (s.closeTask k u) := by
  have h0 : HasTask k u.tid (fun u' => ¬ u'.armed) s := ⟨u, h, hu⟩
  have h1 : Holding k (s.releaseEarly k u) ∧ HasTask k u.tid (fun u' => ¬ u'.armed) (s.releaseEarly k u) := by
    rw [State.releaseEarly_eq]
    split
    · exact ⟨hh, h0⟩
    · exact ⟨(hh.of_tabled (State.onTask_tabled s k u.tid Task.releasing)).decrementSuccessors u true,
        HasTask.decrementSuccessors (h0.onTask (f := Task.releasing) (fun _ => rfl) fun _ hu => hu) (fun _ hu => hu) (fun _ _ hu => hu) true⟩
  have h2 : HasTask k u.tid (fun u' => u'.state = .done ∧ u'.reported = true)
      (((s.releaseEarly k u).onTask k u.tid Task.closed).decrementSuccessors k u false) :=
    HasTask.decrementSuccessors (R := fun u' => u'.state = .done ∧ u'.reported = true)
      (h1.2.onTask (f := Task.closed) (fun _ => rfl) fun _ _ => ⟨rfl, rfl⟩)
      (by rintro u' ⟨hu, -⟩ (ha | ⟨ha, -⟩) <;> rw [hu] at ha <;> cases ha) (fun _ _ hu => hu) false
  refine ⟨?_, ?_⟩
  · exact ((h1.1.of_tabled (State.onTask_tabled _ k u.tid Task.closed)).decrementSuccessors u false).of_tabled
      (State.onPart_undispatched_tabled _ k u.tid)
  · obtain ⟨u', hu', hr⟩ := h2
    exact ⟨u', (State.task?_undispatched _ k u.tid _).trans hu', hr⟩

/-- Without successors the closing changes the table alone. -/
theorem State.closeTask_nil (h : u.successors = []) : Tabled k s (s.closeTask k u) := by
  have h1 : Tabled k s (s.releaseEarly k u) := by
    rw [State.releaseEarly_eq]
    split
    · exact Tabled.refl k s
    · rw [State.decrementSuccessors_nil _ k true h]
      exact State.onTask_tabled s k u.tid _
  unfold State.closeTask
  rw [State.decrementSuccessors_nil _ k false h]
  exact (h1.trans (State.onTask_tabled _ k u.tid Task.closed)).trans (State.onPart_undispatched_tabled _ k u.tid)

/-- With a successor that counts the decrement, the closing changes the table alone, and lowers its counter. -/
theorem State.closeTask_counts {x : Nat} {v : Task} (h : Counts s k u x v) (hd : 1 < v.depc) :
    Tabled k s (s.closeTask k u) ∧
    (bit u.emask 0 = false → (s.closeTask k u).task? k x = some { v with depc := v.depc - 1 }) := by
  have h1 : Tabled k s (s.releaseEarly k u) ∧ ∃ v', Counts (s.releaseEarly k u) k u x v' ∧
      (bit u.emask 0 = false → v' = v) ∧ (bit u.emask 0 = true ∨ 1 < v'.depc) := by
    rw [State.releaseEarly_eq]
    split
    · exact ⟨Tabled.refl k s, v, h, fun _ => rfl, .inr hd⟩
    · obtain ⟨a, b⟩ := (h.onTask (f := Task.releasing) fun _ => rfl).decrementSuccessors hd true
      refine ⟨(State.onTask_tabled s k u.tid _).trans a, _, b, fun hb => ?_, ?_⟩
      · rw [hb]; rfl
      · cases hb : bit u.emask 0
        · exact .inr hd
        · exact .inl rfl
  obtain ⟨t1, v', c1, heq, hv'⟩ := h1
  have c2 := c1.onTask (f := Task.closed) fun _ => rfl
  have t2 := t1.trans (State.onTask_tabled (s.releaseEarly k u) k u.tid Task.closed)
  have h3 : Tabled k s (((s.releaseEarly k u).onTask k u.tid Task.closed).decrementSuccessors k u false) ∧
      (bit u.emask 0 = false → (((s.releaseEarly k u).onTask k u.tid Task.closed).decrementSuccessors k u false).task? k x =
        some { v with depc := v.depc - 1 }) := by
    cases hb : bit u.emask 0 with
    | false =>
      obtain rfl := heq hb
      obtain ⟨t3, c3⟩ := c2.decrementSuccessors hd false
      refine ⟨t2.trans t3, fun _ => ?_⟩
      have := c3.task
      rw [if_pos hb] at this
      exact this
    | true =>
      have e : ((s.releaseEarly k u).onTask k u.tid Task.closed).decrementSuccessors k u false =
          (s.releaseEarly k u).onTask k u.tid Task.closed := by
        rw [State.decrementSuccessors_eq, h.succ]
        simp [hb]
      rw [e]
      exact ⟨t2, fun hc => (by cases hc)⟩
  exact ⟨h3.1.trans (State.onPart_undispatched_tabled _ k u.tid), fun hb =>
    (State.task?_undispatched _ k u.tid x).trans (h3.2 hb)⟩

end

end Sys2Proof.Machine
end

section
namespace Sys2Proof.Machine

/-! ### The completion entry of a task (R30, R35, R412) -/

theorem State.task?_pushEntry_other {s : State} {k : Nat} {p : Part} (h : s.part? k = some p) {e : Entry} {x : Nat} (hx : x ≠ e.tid) :
    (s.pushEntry k e).task? k x = s.task? k x := by
  have hid := State.part?_id (p := p) h
  rcases p.entry_cases with hd | hh | hw
  · rw [State.pushEntry_destroying h hd]
  · rw [State.task?_of_part (State.pushEntry_holds_part h hh e), State.task?_of_part h]
    rfl
  · rw [State.pushEntry_writes h hw, State.task?_writeEntry h hid, if_neg (fun c => hx c.2), State.task?_of_part h]

/-- An entry written after changes of the task table: it stands in the ring, and what it frees is free. -/
theorem Tabled.pushEntry_writes {s t : State} {k : Nat} {p : Part} (ht : Tabled k s t) (h : s.part? k = some p) (hw : p.writesEntry)
    {e : Entry} (he : e.frees = true) : (t.pushEntry k e).task? k e.tid = none ∧
      ((p.blockAddr e.tid + 64 ≤ p.entryAddr ∨ p.entryAddr + 16 ≤ p.blockAddr e.tid) → EntryAt (t.pushEntry k e) p e) ∧
      ∃ q, (t.pushEntry k e).part? k = some q ∧ q.entries = [] ∧ q.ports.cqTail = p.ports.cqTail + 1 := by
  obtain ⟨q, hq, eq⟩ := ht.part p h
  have hid := State.part?_id (p := q) hq
  obtain ⟨r, hr, er⟩ := State.writeEntry_part hq hid e
  rw [State.pushEntry_writes hq (by rw [eq]; exact hw)]
  refine ⟨by rw [State.task?_writeEntry hq hid, if_pos ⟨he, rfl⟩], fun ha => ?_, r, hr, ?_, ?_⟩
  · exact EntryAt.congr (fun _ => rfl) (by rw [eq]) (by rw [eq]) (by rw [eq]; rfl)
      (State.entryAt_writeEntry hq hid e fun _ => by rw [eq]; exact ha)
  · rw [er, eq]; exact hw.2.1
  · rw [er, eq]

theorem exec_taskComplete {s : State} {k tid : Nat} {p : Part} {u : Task} (h : s.part? k = some p) (hu : p.task? tid = some u)
    (hc : s.isComplete u = true) (hd : p.destroying = false) :
    exec (.taskComplete k tid) s = ((s.closeTask k u).pushEntry k ⟨tid, 5, 0, u.chkiv.word, true⟩).done := by
  obtain rfl := Part.task?_tid hu
  have hgo : (!s.isComplete u || s.leaving k) = false := by
    rw [hc, State.leaving, h]
    exact hd
  show execTaskComplete k u.tid s = _
  unfold execTaskComplete
  rw [State.task?_of_part h, hu]
  dsimp only
  rw [if_neg (by simp [hgo])]
  rfl

theorem answers_taskComplete {s : State} {k tid : Nat} {p : Part} {u : Task} (h : s.part? k = some p) (hu : p.task? tid = some u)
    (hc : s.isComplete u = true) (hd : p.destroying = false) :
    let e : Entry := ⟨tid, 5, 0, u.chkiv.word, true⟩
    let counts := fun (x : Nat) (v : Task) => u.successors = [(0, x)] ∧ x ≠ tid ∧ s.task? k x = some v ∧ v.state = .waiting ∧ 1 < v.depc
    Answers (exec (.taskComplete k tid) s) (fun t => t.waited = false ∧
      (p.holdsEntry → (∃ u', t.task? k tid = some u' ∧ u'.state = .done ∧ u'.reported = true) ∧
        ∃ q, t.part? k = some q ∧ q.entries.getLast? = some e) ∧
      (p.writesEntry → (u.successors = [] ∨ ∃ x v, counts x v) → t.task? k tid = none ∧
        ((p.blockAddr tid + 64 ≤ p.entryAddr ∨ p.entryAddr + 16 ≤ p.blockAddr tid) → EntryAt t p e) ∧
        ∃ q, t.part? k = some q ∧ q.entries = [] ∧ q.ports.cqTail = p.ports.cqTail + 1) ∧
      ∀ x v, counts x v → bit u.emask 0 = false → t.task? k x = some { v with depc := v.depc - 1 }) := by
  intro e counts
  have htid := Part.task?_tid hu
  have hs : s.task? k u.tid = some u := by rw [htid]; exact (State.task?_of_part h tid).trans hu
  have hcount : ∀ x v, counts x v → Tabled k s (s.closeTask k u) ∧
      (bit u.emask 0 = false → (s.closeTask k u).task? k x = some { v with depc := v.depc - 1 }) := by
    rintro x v ⟨h1, h2, h3, h4, h5⟩
    exact State.closeTask_counts ⟨h1, by rw [htid]; exact h2, h3, h4⟩ h5
  rw [exec_taskComplete h hu hc hd]
  refine ⟨_, rfl, rfl, fun hh => ?_, fun hw hsucc => ?_, fun x v hx hb => ?_⟩
  · obtain ⟨⟨q, hq, hqh⟩, u', hu', hr⟩ := State.closeTask_holds hs (Task.not_armed_of_isComplete hc) ⟨p, h, hh⟩
    have hp := State.pushEntry_holds_part hq hqh e
    refine ⟨⟨u', ?_, hr⟩, _, hp, by simp [Part.holding]⟩
    rw [htid, State.task?_of_part hq] at hu'
    exact (State.task?_of_part hp tid).trans hu'
  · have ht : Tabled k s (s.closeTask k u) := by
      rcases hsucc with hn | ⟨x, v, hx⟩
      · exact State.closeTask_nil hn
      · exact (hcount x v hx).1
    exact ht.pushEntry_writes h hw (e := e) rfl
  · obtain ⟨ht, hl⟩ := hcount x v hx
    obtain ⟨q, hq, -⟩ := ht.part p h
    rw [State.task?_waited, State.task?_pushEntry_other hq (e := e) hx.2.1, hl hb]

/-- R35: the oldest held entry goes to a ring with room. -/
theorem answers_completionEntry {s : State} {k : Nat} {p : Part} {e : Entry} {rest : List Entry} (h : s.part? k = some p)
    (he : p.entries = e :: rest) (hf : p.ports.cqFull = false) :
    Answers (exec (.completionEntry k) s) (fun t => t.waited = false ∧
      ((e.frees = true → p.blockAddr e.tid + 64 ≤ p.entryAddr ∨ p.entryAddr + 16 ≤ p.blockAddr e.tid) → EntryAt t p e) ∧
      (e.frees = true → t.task? k e.tid = none) ∧
      ∃ q, t.part? k = some q ∧ q.entries = rest ∧ q.ports.cqTail = p.ports.cqTail + 1) := by
  set p' : Part := { p with entries := rest } with hp'
  have hid : p'.id = k := State.part?_id (p := p) h
  have hrun : exec (.completionEntry k) s = (s.writeEntry p' e).done := by
    show execCompletionEntry k s = _
    unfold execCompletionEntry
    rw [h]
    dsimp only
    rw [he, hf]
    rfl
  obtain ⟨q, hq, eq⟩ := State.writeEntry_part h hid e
  rw [hrun]
  refine ⟨_, rfl, rfl, fun ha => ?_, fun hfr => ?_, q, hq, ?_, ?_⟩
  · exact State.entryAt_writeEntry h hid e ha
  · rw [State.task?_waited, State.task?_writeEntry h hid, if_pos ⟨hfr, rfl⟩]
  · rw [eq]
  · rw [eq]

/-- Settles O47: each of the five ends by its own lemma. -/
theorem groupsCohortsAndTasksEnd : Obligations.GroupsCohortsAndTasksEnd := by
  unfold Obligations.GroupsCohortsAndTasksEnd
  intro s
  refine ⟨fun gid g co h hx hst hq hf hco => answers_groupEnd h hx hst hq hf hco, fun uid c h hx hk hk' hq hm => ?_,
    fun k p tid u h hu hc hd => answers_taskComplete h hu hc hd,
    fun k tid u h hs hk ht he hm => answers_earlyRelease h hs hk ht he hm, fun k p e rest h he => ⟨fun hf => ?_, answers_completionEntry h he⟩⟩
  · obtain ⟨t, ht, hw, h1, h2, h3⟩ := answers_cohortExit h hx hk hk' hq hm
    exact ⟨t, ht, hw, h1, h2, fun u hu => ⟨_, h3 u hu, rfl⟩⟩
  · show execCompletionEntry k s = _
    unfold execCompletionEntry
    rw [h]
    dsimp only
    rw [he, hf]
    rfl

end Sys2Proof.Machine
end

section
namespace Sys2Proof.Machine

/-! ### What a placement brings up to date (R200, R333, R342) -/

theorem State.refreshL2_frame (s : State) (d line : Nat) : s.refreshL2 d line = { s with copies := (s.refreshL2 d line).copies } := rfl

theorem State.refreshCV_frame (s : State) (c line : Nat) : s.refreshCV c line = { s with copies := (s.refreshCV c line).copies } := by
  unfold State.refreshCV
  dsimp only
  split <;> split <;> rfl

theorem State.copies_trans {s t u : State} (h1 : t = { s with copies := t.copies }) (h2 : u = { t with copies := u.copies }) :
    u = { s with copies := u.copies } := by
  rw [h1] at h2
  exact h2

/-- A fold of steps that each change the copies alone. -/
theorem State.foldl_copies {α : Type} (f : State → α → State) (hf : ∀ s x, f s x = { s with copies := (f s x).copies }) (l : List α)
    (s : State) : l.foldl f s = { s with copies := (l.foldl f s).copies } := by
  induction l generalizing s with
  | nil => rfl
  | cons x l ih =>
    rw [List.foldl_cons, ih (f s x), hf s x]

theorem State.acquire_frame (s : State) (core : Nat) : s.acquire core .dev = { s with copies := (s.acquire core .dev).copies } := by
  have h1 := State.foldl_copies (fun s (c : Copy) => s.refreshL2 (dieOf core) c.line) (fun s _ => s.refreshL2_frame _ _)
    (s.copies.filter (fun c => c.view == .die (dieOf core))) s
  have h2 := State.foldl_copies (fun s (c : Copy) => s.refreshCV core c.line) (fun s _ => s.refreshCV_frame _ _)
    ((s.refreshAllL2 (dieOf core)).copies.filter (fun c => c.view == .core core)) (s.refreshAllL2 (dieOf core))
  show (s.refreshAllL2 (dieOf core)).refreshAllCV core = _
  exact State.copies_trans (t := s.refreshAllL2 (dieOf core)) h1 h2

theorem State.reclaimVictims_frame (s : State) (k : Nat) : s.reclaimVictims k =
    { s with clusters := (s.reclaimVictims k).clusters, free := (s.reclaimVictims k).free } := by
  unfold State.reclaimVictims
  dsimp only
  split <;> rfl

/-! ### Groups that are added to a task (R48) -/

/-- t is s with some groups more, and with changes of the block of one task of partition k. -/
structure Grown (k tid : Nat) (s t : State) (made : List Group) : Prop where
  cohorts : t.cohorts = s.cohorts
  length : t.groups.length = s.groups.length + made.length
  keeps : ∀ g ∈ s.groups, g.resv = [] → g ∈ t.groups
  there : ∀ g ∈ made, g.resv = [] ∧ g ∈ t.groups
  part : ∀ p, s.part? k = some p → ∃ q, t.part? k = some q ∧
    q = { p with tasks := q.tasks, buckets := q.buckets, dispatched := q.dispatched }
  task : ∀ u, s.task? k tid = some u → ∃ ids runs, t.task? k tid = some { u with gids := ids, runs := runs }

namespace Grown

variable {k tid : Nat}

theorem refl (k tid : Nat) (s : State) : Grown k tid s s [] :=
  ⟨rfl, rfl, fun _ h _ => h, fun _ h => (by cases h), fun p hp => ⟨p, hp, rfl⟩, fun u hu => ⟨u.gids, u.runs, hu⟩⟩

theorem trans {s t u : State} {a b : List Group} (h1 : Grown k tid s t a) (h2 : Grown k tid t u b) :
    Grown k tid s u (a ++ b) := by
  refine ⟨h2.cohorts.trans h1.cohorts, ?_, fun g hg hr => h2.keeps g (h1.keeps g hg hr) hr, fun g hg => ?_, fun p hp => ?_,
    fun v hv => ?_⟩
  · rw [h2.length, h1.length, List.length_append, Nat.add_assoc]
  · rcases List.mem_append.1 hg with hg | hg
    · obtain ⟨hr, ht⟩ := h1.there g hg
      exact ⟨hr, h2.keeps g ht hr⟩
    · exact h2.there g hg
  · obtain ⟨q, hq, e⟩ := h1.part p hp
    obtain ⟨r, hr, e'⟩ := h2.part q hq
    exact ⟨r, hr, by rw [e] at e'; exact e'⟩
  · obtain ⟨i, r, e⟩ := h1.task v hv
    obtain ⟨i', r', e'⟩ := h2.task _ e
    exact ⟨i', r', e'⟩

/-- A change of the groups and cohorts that a task's block names. -/
theorem onTask (s : State) {f : Task → Task} (hf : ∀ u, ∃ ids runs, f u = { u with gids := ids, runs := runs }) :
    Grown k tid s (s.onTask k tid f) [] := by
  have ht := State.onTask_tabled s k tid f
  refine ⟨ht.cohorts, ht.groups_length, fun g hg hr => ht.mem_groups hg hr, fun _ h => (by cases h), ht.part, fun u hu => ?_⟩
  obtain ⟨ids, runs, e⟩ := hf u
  have htid : ∀ u, (f u).tid = u.tid := fun u => by obtain ⟨i, r, e⟩ := hf u; rw [e]
  exact ⟨ids, runs, by rw [State.task?_onTask htid, if_pos rfl, hu, ← e]; rfl⟩

theorem addGroup (s : State) (n : Nat) {g : Group} (hr : g.resv = []) :
    Grown k tid s { s with nextUid := n, groups := s.groups ++ [g] } [g] := by
  refine ⟨rfl, List.length_append, fun _ h _ => List.mem_append_left _ h, fun g' h' => ?_, fun p hp => ⟨p, hp, rfl⟩,
    fun u hu => ⟨u.gids, u.runs, hu⟩⟩
  obtain rfl := List.mem_singleton.1 h'
  exact ⟨hr, List.mem_append_right _ (List.mem_singleton.2 rfl)⟩

end Grown

/-- The seat of one more group of a cohort. -/
def State.seatGroup (k : Nat) (co : Cohort) (t : Task) (asid : BitVec 8) (r : LaunchRec) (s : State) (x : (Nat × Nat) × Nat) : State :=
  let (gid, s) := s.fresh
  let s := { s with groups := s.groups ++ [co.freshGroup gid t asid r x.2 x.1.1 x.1.2] }
  s.onTask k t.tid (fun t => { t with gids := t.gids ++ [gid] })

theorem State.seatGroup_grown (k : Nat) (co : Cohort) (u : Task) (asid : BitVec 8) (r : LaunchRec) (s : State)
    (x : (Nat × Nat) × Nat) :
    Grown k u.tid s (s.seatGroup k co u asid r x) [co.freshGroup s.nextUid u asid r x.2 x.1.1 x.1.2] :=
  (Grown.addGroup s (s.nextUid + 1) rfl).trans (Grown.onTask _ fun u => ⟨_, u.runs, rfl⟩)

/-- The groups of a cohort are added one by one. -/
theorem State.foldl_seatGroup (k : Nat) (co : Cohort) (u : Task) (asid : BitVec 8) (r : LaunchRec) (l : List ((Nat × Nat) × Nat))
    (s : State) : ∃ made, Grown k u.tid s (l.foldl (State.seatGroup k co u asid r) s) made ∧ made.length = l.length ∧
      ∀ x ∈ l, ∃ g ∈ made, g = co.freshGroup g.gid u asid r x.2 x.1.1 x.1.2 := by
  induction l generalizing s with
  | nil => exact ⟨[], Grown.refl k u.tid s, rfl, fun _ h => (by cases h)⟩
  | cons x l ih =>
    obtain ⟨made, hg, hl, hm⟩ := ih (s.seatGroup k co u asid r x)
    refine ⟨_, (State.seatGroup_grown k co u asid r s x).trans hg, by simp [hl], fun y hy => ?_⟩
    rcases List.mem_cons.1 hy with rfl | hy
    · exact ⟨_, List.mem_append_left _ (List.mem_singleton.2 rfl), rfl⟩
    · obtain ⟨g, hg, e⟩ := hm y hy
      exact ⟨g, List.mem_append_right _ hg, e⟩

/-! ### The placement of a cohort (R48, R49) -/

/-- The slot of a cohort placed on a core. -/
def State.cohortSlot (s : State) (core : Nat) : Nat :=
  let used := (s.cohorts.filter (fun c => c.core == core && !c.exited)).map (·.slot)
  ((List.range 8).find? (fun i => !used.contains i)).getD 0

/-- The cohort and its groups are placed; what stands at the core is not yet up to date. -/
def State.seatCohort (s : State) (p : Part) (t : Task) (index core : Nat) (seats : List (Nat × Nat)) (r : LaunchRec) : State :=
  let co := Cohort.fresh s.nextUid p.id t index core (s.cohortSlot core) r.w2 r.w3 p.firstAsid
  let s1 := { s with nextUid := s.nextUid + 1, cohorts := s.cohorts ++ [co] }
  (seats.zipIdx.foldl (State.seatGroup p.id co t p.firstAsid r) s1).onTask p.id t.tid (fun t => { t with runs := t.runs ++ [s.nextUid] })

theorem State.placeOn_eq (s : State) (p : Part) (t : Task) (index core : Nat) (seats : List (Nat × Nat)) (r : LaunchRec) :
    s.placeOn p t index core seats r = (((s.seatCohort p t index core seats r).onPart p.id
      (fun p => { p with lastCore := some core })).reclaimVictims (clusterOf core)).acquire core .dev := rfl

theorem State.placeOn_frame (s : State) (p : Part) (t : Task) (index core : Nat) (seats : List (Nat × Nat)) (r : LaunchRec) :
    s.placeOn p t index core seats r = { s.seatCohort p t index core seats r with
      copies := (s.placeOn p t index core seats r).copies, clusters := (s.placeOn p t index core seats r).clusters
      free := (s.placeOn p t index core seats r).free
      parts := ((s.seatCohort p t index core seats r).onPart p.id (fun p => { p with lastCore := some core })).parts } := by
  rw [State.placeOn_eq, State.acquire_frame, State.reclaimVictims_frame, State.onPart_frame]

end Sys2Proof.Machine
end

section
namespace Sys2Proof.Machine

theorem CohortPlaced.of_desk {s t t' : State} {p : Part} {u : Task} {index core : Nat} {seats : List (Nat × Nat)} {r : LaunchRec}
    (h : CohortPlaced s { t with waited := false } p u index core seats r) (ht : DeskFrame t t') :
    CohortPlaced s { t' with waited := false } p u index core seats r := by
  obtain ⟨-, co, hco, e, hl, hg⟩ := h
  refine ⟨rfl, co, ht.cohorts.trans hco, e, ht.groups_length.trans hl, fun n seat hn => ?_⟩
  obtain ⟨g, hg, e⟩ := hg n seat hn
  exact ⟨g, ht.mem_groups hg (by rw [e]; rfl), e⟩

/-- What a placement is said of: the cohorts and groups before it, and the partition's name and first ASID. -/
theorem CohortPlaced.of_before {s s' t : State} {p p' : Part} {u : Task} {index core : Nat} {seats : List (Nat × Nat)}
    {r : LaunchRec} (h : CohortPlaced s' t p' u index core seats r) (hc : s'.cohorts = s.cohorts)
    (hg : s'.groups.length = s.groups.length) (hid : p'.id = p.id) (ha : p'.asids = p.asids) :
    CohortPlaced s t p u index core seats r := by
  have hf : p'.firstAsid = p.firstAsid := by rw [Part.firstAsid, Part.firstAsid, ha]
  unfold CohortPlaced at h ⊢
  rw [hc, hg, hid, hf] at h
  exact h

section
variable {s : State} {k : Nat} {p p' : Part} {u : Task} (hid : p.id = k) (index core : Nat) (seats : List (Nat × Nat)) (r : LaunchRec)
include hid

theorem State.seatCohort_grown : ∃ made,
    Grown k u.tid { s with nextUid := s.nextUid + 1, cohorts := s.cohorts ++
        [Cohort.fresh s.nextUid p.id u index core (s.cohortSlot core) r.w2 r.w3 p.firstAsid] }
      (s.seatCohort p u index core seats r) made ∧ made.length = seats.length ∧
    ∀ x ∈ seats.zipIdx, ∃ g ∈ made, g = (Cohort.fresh s.nextUid p.id u index core (s.cohortSlot core) r.w2 r.w3 p.firstAsid).freshGroup
      g.gid u p.firstAsid r x.2 x.1.1 x.1.2 := by
  subst hid
  obtain ⟨made, hg, hl, hm⟩ := State.foldl_seatGroup p.id
    (Cohort.fresh s.nextUid p.id u index core (s.cohortSlot core) r.w2 r.w3 p.firstAsid) u p.firstAsid r seats.zipIdx
    { s with nextUid := s.nextUid + 1, cohorts := s.cohorts ++
        [Cohort.fresh s.nextUid p.id u index core (s.cohortSlot core) r.w2 r.w3 p.firstAsid] }
  refine ⟨made, ?_, hl.trans (List.length_zipIdx), hm⟩
  have := hg.trans (Grown.onTask (k := p.id) (tid := u.tid) (f := fun t => { t with runs := t.runs ++ [s.nextUid] }) _
    fun v => ⟨v.gids, _, rfl⟩)
  rw [List.append_nil] at this
  exact this

/-- A cohort is placed with its groups; of its partition the task table and the last core change. -/
theorem State.placeOn_spec (hp : s.part? k = some p') (hu : s.task? k u.tid = some u) :
    CohortPlaced s { s.placeOn p u index core seats r with waited := false } p u index core seats r ∧
    (∃ ids runs, (s.placeOn p u index core seats r).task? k u.tid = some { u with gids := ids, runs := runs }) ∧
    ∃ q, (s.placeOn p u index core seats r).part? k = some q ∧
      q = { p' with tasks := q.tasks, buckets := q.buckets, dispatched := q.dispatched, lastCore := some core } := by
  obtain ⟨made, hg, hl, hm⟩ := State.seatCohort_grown (s := s) (u := u) hid index core seats r
  have hf := State.placeOn_frame s p u index core seats r
  obtain ⟨q, hq, e⟩ := hg.part p' hp
  obtain ⟨ids, runs, ht⟩ := hg.task u hu
  have hqid : q.id = k := State.part?_id (p := q) hq
  have hpart : (s.placeOn p u index core seats r).part? k = some { q with lastCore := some core } := by
    rw [hf, hid]
    show (State.onPart _ k _).part? k = _
    rw [State.onPart_eq _ hq]
    exact State.part?_setPart_self (q := { q with lastCore := some core }) hq hqid
  refine ⟨⟨rfl, Cohort.fresh s.nextUid p.id u index core (s.cohortSlot core) r.w2 r.w3 p.firstAsid, ?_, rfl, ?_, fun n seat hn => ?_⟩,
    ⟨ids, runs, ?_⟩, _, hpart, by rw [e]⟩
  · show (s.placeOn p u index core seats r).cohorts = _
    rw [hf]
    exact hg.cohorts
  · show (s.placeOn p u index core seats r).groups.length = _
    rw [hf, ← hl]
    exact hg.length
  · obtain ⟨g, hgm, eg⟩ := hm (seat, n) (List.mk_mem_zipIdx_iff_getElem?.2 hn)
    refine ⟨g, ?_, eg⟩
    show g ∈ (s.placeOn p u index core seats r).groups
    rw [hf]
    exact (hg.there g hgm).2
  · rw [State.task?_of_part hpart]
    exact (State.task?_of_part hq u.tid).symm.trans ht

end

/-! ### The next cohort in order (R49) -/

/-- A cohort that was killed leaves the order of relaunches. -/
def Part.relaunched (p : Part) (tid index : Nat) : Part := { p with relaunches := p.relaunches.erase (tid, index) }
def Task.relaunched (t : Task) (index : Nat) : Task := { t with killedOn := SMap.put 0 t.killedOn index 0 }
def Task.withNext (t : Task) : Task := { t with nextCohort := t.nextCohort + 1 }

/-- What the placement of the next cohort notes. -/
def State.notePlaced (s : State) (k : Nat) (u : Task) (index : Nat) (again : Bool) : State :=
  if again then (s.onPart k (·.relaunched u.tid index)).onTask k u.tid (·.relaunched index) else s.onTask k u.tid Task.withNext

theorem exec_cohortPlacement {s : State} {k : Nat} {p : Part} {u : Task} {index : Nat} {again : Bool} (h : s.part? k = some p)
    (hd : p.destroying = false) (hh : p.placementHead = some (u, index, again)) :
    exec (.cohortPlacement k) s =
      let n := if again then SMap.get 0 u.killedOn index else 0
      match s.placeCohort p u index (if n = 0 then none else some (n - 1)) with
      | none => s.done
      | some s => (s.notePlaced k u index again).done := by
  show execCohortPlacement k s = _
  unfold execCohortPlacement
  rw [h]
  dsimp only
  rw [hd, if_neg (by simp), hh]
  dsimp only
  generalize State.placeCohort _ _ _ _ _ = x
  cases x with
  | none => rfl
  | some t => cases again <;> rfl

theorem State.placeCohort_none {s : State} {p : Part} {u : Task} {index : Nat} {avoid : Option Nat}
    (h : s.findCore p u avoid = none) : s.placeCohort p u index avoid = none := by
  unfold State.placeCohort
  rw [h]

theorem State.placeCohort_some {s : State} {p : Part} {u : Task} {index core : Nat} {avoid : Option Nat} {seats : List (Nat × Nat)}
    {r : LaunchRec} (h : s.findCore p u avoid = some (core, seats)) (hr : s.launchRec? p u.recVa = some r) :
    s.placeCohort p u index avoid = some (s.placeOn p u index core seats r) := by
  unfold State.placeCohort
  rw [h]
  dsimp only
  rw [hr]

/-- The head of the relaunches is the first that waits. -/
theorem Part.placementHead_again {p : Part} {u : Task} {index : Nat} (h : p.placementHead = some (u, index, true)) :
    p.relaunches = (u.tid, index) :: p.relaunches.tail := by
  unfold Part.placementHead at h
  split at h
  · next tid i rest hr =>
    obtain ⟨t, ht, e⟩ := Option.map_eq_some_iff.1 h
    cases e
    rw [hr, Part.task?_tid ht]
    rfl
  · obtain ⟨t, -, e⟩ := List.exists_of_findSome?_eq_some h
    split at e <;> cases e

/-- What a placement notes: the task, and the relaunches. -/
theorem State.notePlaced_spec {s : State} {k : Nat} {p : Part} {u v : Task} {index : Nat} {again : Bool} (hp : s.part? k = some p)
    (hv : s.task? k u.tid = some v) : DeskFrame s (s.notePlaced k u index again) ∧
    (s.notePlaced k u index again).task? k u.tid = some (if again then v.relaunched index else v.withNext) ∧
    ∃ q, (s.notePlaced k u index again).part? k = some q ∧ q.lastCore = p.lastCore ∧
      q.relaunches = if again then p.relaunches.erase (u.tid, index) else p.relaunches := by
  unfold State.notePlaced
  cases again with
  | false =>
    have ht := State.onTask_tabled s k u.tid Task.withNext
    obtain ⟨q, hq, e⟩ := ht.part p hp
    refine ⟨ht.toDeskFrame, ?_, q, hq, by rw [e], by rw [e]; rfl⟩
    exact (State.task?_onTask (f := Task.withNext) (fun _ => rfl) u.tid).trans (by rw [if_pos rfl, hv]; rfl)
  | true =>
    have h1 : (s.onPart k (·.relaunched u.tid index)).part? k = some (p.relaunched u.tid index) := by
      rw [State.onPart_eq _ hp]
      exact State.part?_setPart_self (q := p.relaunched u.tid index) hp (State.part?_id (p := p) hp)
    have hv1 : (s.onPart k (·.relaunched u.tid index)).task? k u.tid = some v := by
      rw [State.task?_of_part h1]
      exact (State.task?_of_part hp u.tid).symm.trans hv
    have ht := State.onTask_tabled (s.onPart k (·.relaunched u.tid index)) k u.tid (·.relaunched index)
    obtain ⟨q, hq, e⟩ := ht.part _ h1
    refine ⟨(DeskFrame.onPart s k _).trans ht.toDeskFrame, ?_, q, hq, by rw [e]; rfl, by rw [e]; rfl⟩
    exact (State.task?_onTask (f := (·.relaunched index)) (fun _ => rfl) u.tid).trans (by rw [if_pos rfl, hv1]; rfl)

/-- R48, R49: the next cohort in order is placed. -/
theorem answers_cohortPlacement {s : State} {k : Nat} {p : Part} {u : Task} {index : Nat} {again : Bool} (h : s.part? k = some p)
    (hd : p.destroying = false) (hh : p.placementHead = some (u, index, again)) (hu : p.task? u.tid = some u)
    {core : Nat} {seats : List (Nat × Nat)} {r : LaunchRec}
    (hf : let n := if again then SMap.get 0 u.killedOn index else 0
      s.findCore p u (if n = 0 then none else some (n - 1)) = some (core, seats)) (hr : s.launchRec? p u.recVa = some r) :
    Answers (exec (.cohortPlacement k) s) (fun t => CohortPlaced s t p u index core seats r ∧
      ∃ u' q, t.task? k u.tid = some u' ∧ t.part? k = some q ∧ q.lastCore = some core ∧ u'.state = u.state ∧
        (again = true → q.relaunches = p.relaunches.tail ∧ u'.nextCohort = u.nextCohort) ∧
        (again = false → q.relaunches = p.relaunches ∧ u'.nextCohort = u.nextCohort + 1)) := by
  obtain ⟨hplaced, ⟨ids, runs, ht⟩, q, hq, eq⟩ := State.placeOn_spec (State.part?_id (p := p) h) index core seats r h
    ((State.task?_of_part h u.tid).trans hu)
  obtain ⟨hdesk, ht', q', hq', hcore, hrel⟩ := State.notePlaced_spec (index := index) (again := again) hq ht
  rw [exec_cohortPlacement h hd hh]
  dsimp only
  rw [State.placeCohort_some hf hr]
  refine ⟨_, rfl, hplaced.of_desk hdesk, _, q', ht', hq', by rw [hcore, eq], ?_, ?_, ?_⟩
  · cases again <;> rfl
  · rintro rfl
    refine ⟨hrel.trans ?_, rfl⟩
    rw [if_pos rfl, eq]
    show p.relaunches.erase _ = _
    conv_lhs => rw [Part.placementHead_again hh]
    exact List.erase_cons_head ..
  · rintro rfl
    exact ⟨hrel.trans (by rw [eq]; rfl), rfl⟩

end Sys2Proof.Machine
end

section
namespace Sys2Proof.Machine

/-! ### Dispatch (R33, R37) -/

/-- The head of the ready queue is READY. -/
theorem Part.readyHead_ready {p : Part} {tick : Nat} : ∀ u, p.readyHead tick = some u → u.state = .ready := by
  unfold Part.readyHead
  refine List.foldlRecOn (motive := fun best : Option Task => ∀ u, best = some u → u.state = .ready)
    (p.tasks.filter (fun t => t.state == .ready)) _ (fun u hu => ?_) (fun best hb t ht v hv => ?_)
  · cases hu
  have hr : t.state = .ready := by simpa using (List.mem_filter.1 ht).2
  split at hv
  · cases hv; exact hr
  · next b =>
    split at hv
    · cases hv; exact hr
    · exact hb v hv

/-- The head of the ready queue is dispatched, unless it can never be placed. -/
theorem exec_dispatch {s : State} {k : Nat} {p : Part} {u : Task} (h : s.part? k = some p) (hr : p.readyHead s.tick = some u)
    (hu : p.task? u.tid = some u) (hn : p.placementHead = none) (hd : p.destroying = false)
    (hf : u.kind = .kernel → u.fitsEmpty = true) : exec (.dispatch k u.tid) s = ((s.dispatchTask p u).getD s).done := by
  have h1 : (u.state != .ready || p.placementHead.isSome || p.destroying) = false := by
    rw [Part.readyHead_ready u hr, hn, hd]; rfl
  have h2 : (u.kind == .kernel && !u.fitsEmpty) = false := by
    by_cases hk : u.kind = .kernel
    · rw [hf hk]; simp
    · rw [beq_eq_false_iff_ne.2 hk]; rfl
  show execDispatch k u.tid s = _
  unfold execDispatch
  rw [h]
  dsimp only
  rw [hu, hr]
  dsimp only
  rw [if_neg (by simp [h1]), if_neg (by simp [h2])]
  simp

/-- The block of a kernel task whose first cohort is placed. -/
def Task.launched (u : Task) : Task := { u with state := .running, nextCohort := 1 }

/-- The partition with a task more in its order of dispatch. -/
def Part.withDispatched (p : Part) (tid : Nat) : Part := { p with dispatched := p.dispatched ++ [tid] }

/-- A kernel task has left the ready queue. -/
def State.launched (s : State) (k : Nat) (u : Task) : State := (s.putTask k u.launched).onPart k (·.withDispatched u.tid)

theorem State.launched_tabled (s : State) (k : Nat) (u : Task) : Tabled k s (s.launched k u) := by
  refine (State.putTask_tabled s k u.launched).trans ?_
  unfold State.launched State.onPart
  split
  · next p hp => exact Tabled.of_setPart hp rfl
  · exact Tabled.refl k _

theorem State.task?_launched {s : State} {k : Nat} {p : Part} (h : s.part? k = some p) (u : Task) :
    (s.launched k u).task? k u.tid = some u.launched := by
  obtain ⟨q, hq, -⟩ := (State.putTask_tabled s k u.launched).part p h
  have hl := State.task?_putTask h u.launched u.tid
  rw [if_pos (show u.tid = u.launched.tid from rfl), State.task?_of_part hq] at hl
  unfold State.launched
  rw [State.onPart_eq _ hq, State.task?_of_part (State.part?_setPart_self (q := q.withDispatched u.tid) hq (State.part?_id (p := q) hq))]
  exact hl

theorem State.dispatchTask_kernel {s : State} {k : Nat} {p p1 : Part} {u : Task} (h : s.part? k = some p) (hk : u.kind = .kernel)
    (h1 : (s.launched k u).part? k = some p1) : s.dispatchTask p u = (s.launched k u).placeCohort p1 u.launched 0 none := by
  obtain rfl := State.part?_id (p := p) h
  have h2 : ((s.putTask p.id u.launched).onPart p.id (·.withDispatched u.tid)).part? p.id = some p1 := h1
  unfold State.dispatchTask
  rw [if_neg (by rw [hk]; decide)]
  show (match ((s.putTask p.id u.launched).onPart p.id (·.withDispatched u.tid)).part? p.id with
    | some p' => State.placeCohort ((s.putTask p.id u.launched).onPart p.id (·.withDispatched u.tid)) p' u.launched 0 none
    | none => none) = _
  rw [h2]
  rfl

/-- A kernel task is dispatched by the placement of its first cohort. -/
theorem answers_dispatch_kernel {s : State} {k : Nat} {p : Part} {u : Task} (h : s.part? k = some p)
    (hr : p.readyHead s.tick = some u) (hu : p.task? u.tid = some u) (hn : p.placementHead = none) (hd : p.destroying = false)
    (hk : u.kind = .kernel) (hf : u.fitsEmpty = true) {p1 : Part} {core : Nat} {seats : List (Nat × Nat)} {r : LaunchRec}
    (h1 : (s.launched k u).part? k = some p1) (hc : (s.launched k u).findCore p1 u.launched none = some (core, seats))
    (hl : (s.launched k u).launchRec? p1 u.recVa = some r) :
    Answers (exec (.dispatch k u.tid) s) (fun t => CohortPlaced s t p u.launched 0 core seats r ∧
      ∃ u', t.task? k u.tid = some u' ∧ u' = { u.launched with gids := u'.gids, runs := u'.runs }) := by
  have ht := State.launched_tabled s k u
  obtain ⟨q, hq, e⟩ := ht.part p h
  obtain rfl : q = p1 := Option.some.inj (hq.symm.trans h1)
  obtain ⟨hp, ⟨ids, runs, hids⟩, -⟩ := State.placeOn_spec (u := u.launched) (State.part?_id (p := q) hq) 0 core seats r h1
    (State.task?_launched h u)
  rw [exec_dispatch h hr hu hn hd (fun _ => hf), State.dispatchTask_kernel h hk h1, State.placeCohort_some hc hl]
  have hplaced := hp.of_before (s := s) (p := p) ht.cohorts ht.groups_length (by rw [e]) (by rw [e])
  refine ⟨{ (s.launched k u).placeOn q u.launched 0 core seats r with waited := false }, rfl, hplaced,
    { u.launched with gids := ids, runs := runs }, ?_, ?_⟩
  · rw [State.task?_waited]
    exact hids
  · rfl

/-- The seat of a group: what it continues, and where it stands. -/
def Group.Seated (g : Group) (tid core q slot cohort : Nat) : Prop :=
  g.cont = some tid ∧ g.core = core ∧ g.quarter = q ∧ g.slot = slot ∧ g.cohort = cohort ∧ g.resv = []

theorem Group.Seated.regroup_writeS {g : Group} {tid core q slot cohort : Nat} (h : g.Seated tid core q slot cohort) (is : List Nat)
    (d : Spec) (r : Read) : ((g.regroup is).writeS false d r).Seated tid core q slot cohort := by
  unfold Group.writeS
  split <;> exact h

/-- A resumed group stands at its seat, with no reservation. -/
theorem State.resumedGroup_seated (s : State) (p : Part) (t : Task) (gid core q slot : Nat) :
    (s.resumedGroup p t gid core q slot).Seated t.tid core q slot t.parkCohort := by
  unfold State.resumedGroup
  refine Group.Seated.regroup_writeS ?_ _ _ _
  exact ⟨rfl, rfl, rfl, rfl, rfl, rfl⟩

/-- A continuation is dispatched by resuming its group. -/
theorem answers_dispatch_continuation {s : State} {k : Nat} {p : Part} {u : Task} (h : s.part? k = some p)
    (hr : p.readyHead s.tick = some u) (hu : p.task? u.tid = some u) (hn : p.placementHead = none) (hd : p.destroying = false)
    (hk : u.kind = .continuation) {core q slot : Nat}
    (hs : s.findSeat p (8 * ((bits (s.contRec k (p.recordAt u.tid)).head 58 4).toNat + 2)) = some (core, q, slot)) :
    Answers (exec (.dispatch k u.tid) s) (fun t => t.waited = false ∧ t.cohorts = s.cohorts ∧
      (∃ u', t.task? k u.tid = some u' ∧ u'.state = .running) ∧
      ∃ g ∈ t.groups, g.cont = some u.tid ∧ g.core = core ∧ g.quarter = q ∧ g.slot = slot ∧ g.cohort = u.parkCohort) := by
  obtain rfl := State.part?_id (p := p) h
  set s0 : State := { s with nextUid := s.nextUid + 1 } with hs0
  set g := s0.resumedGroup p u s.nextUid core q slot with hg
  set s1 : State := { s0 with groups := s.groups ++ [g] } with hs1
  set s2 := s1.onTask p.id u.tid (fun t => { t with state := .running }) with hs2
  set s3 := s2.onTask p.id u.orig (fun o => { o with gids := o.gids ++ [s.nextUid], contGids := o.contGids ++ [s.nextUid] }) with hs3
  set s4 := s3.onPart p.id (fun p => { p with lastCore := some core }) with hs4
  have hrun : exec (.dispatch p.id u.tid) s = (s4.acquire core .dev).done := by
    rw [exec_dispatch h hr hu hn hd (fun c => by rw [hk] at c; cases c)]
    unfold State.dispatchTask State.resume
    rw [if_pos (by rw [hk]; decide), hs]
    rfl
  obtain ⟨hcont, hcore, hquarter, hslot, hcohort, hresv⟩ := s0.resumedGroup_seated p u s.nextUid core q slot
  have h12 := State.onTask_tabled s1 p.id u.tid (fun t => { t with state := .running })
  have h23 := State.onTask_tabled s2 p.id u.orig (fun o => { o with gids := o.gids ++ [s.nextUid], contGids := o.contGids ++ [s.nextUid] })
  have h14 : DeskFrame s1 s4 := (h12.toDeskFrame.trans h23.toDeskFrame).trans (DeskFrame.onPart _ _ _)
  have ht2 : HasTask p.id u.tid (fun v => v.state = .running) s2 :=
    HasTask.onTask (R := fun _ => True) (R' := fun v => v.state = .running) (s := s1) (f := fun t => { t with state := .running })
      ⟨u, (State.task?_of_part h u.tid).trans hu, trivial⟩ (fun _ => rfl) fun _ _ => rfl
  have ht3 : HasTask p.id u.tid (fun v => v.state = .running) s3 := by
    obtain ⟨v, hv, hst⟩ := ht2
    unfold HasTask
    rw [hs3, State.task?_onTask (f := fun o => { o with gids := o.gids ++ [s.nextUid], contGids := o.contGids ++ [s.nextUid] })
      (fun _ => rfl)]
    split
    · next e => rw [← e, hv]; exact ⟨_, rfl, hst⟩
    · exact ⟨v, hv, hst⟩
  have ht4 : HasTask p.id u.tid (fun v => v.state = .running) s4 := by
    obtain ⟨v, hv, hst⟩ := ht3
    obtain ⟨q3, hq3, hv3⟩ := State.task?_part hv
    refine ⟨v, ?_, hst⟩
    rw [hs4, State.onPart_eq _ hq3, State.task?_of_part (State.part?_setPart_self (q := { q3 with lastCore := some core }) hq3
      (State.part?_id (p := q3) hq3))]
    exact hv3
  have hf := State.acquire_frame s4 core
  rw [hrun]
  refine ⟨_, rfl, rfl, ?_, ?_, g, ?_, hcont, hcore, hquarter, hslot, hcohort⟩
  · show (s4.acquire core .dev).cohorts = _
    rw [hf]
    exact h14.cohorts
  · rw [State.task?_waited, hf]
    exact ht4
  · show g ∈ (s4.acquire core .dev).groups
    rw [hf]
    exact h14.mem_groups (List.mem_append_right _ (List.mem_singleton.2 rfl)) hresv

/-- Settles O44: the head of the ready queue or of the placement order is placed by the lemma for its kind. -/
theorem cohortsArePlaced : Obligations.CohortsArePlaced := by
  unfold Obligations.CohortsArePlaced
  intro s k p h
  refine ⟨fun u hr hu hn hd => ⟨?_, fun hk core q slot hs => ?_⟩, fun hd => ?_, fun u index again hd hh hu => ⟨fun hf => ?_, ?_⟩⟩
  · intro hk hf p1 core seats r u1 s1 h1 hc hl
    exact answers_dispatch_kernel h hr hu hn hd hk hf h1 hc hl
  · exact answers_dispatch_continuation h hr hu hn hd hk hs
  · show execCohortPlacement k s = _
    unfold execCohortPlacement
    rw [h]
    dsimp only
    rw [hd]
    rfl
  · rw [exec_cohortPlacement h hd hh]
    dsimp only
    rw [State.placeCohort_none hf]
    rfl
  · intro core seats r hf hr
    exact answers_cohortPlacement h hd hh hu hf hr

end Sys2Proof.Machine
end

section
namespace Sys2Proof.Machine

/-! ### A PARK whose record reaches past the end of memory (R354)

The statement asks that the record's first and last byte of 8,576 exist. A group of more slices than the 32 of R1 has a longer
record: SLC of slice 1,056 stands at the record's byte 8,576. The record here ends where device memory ends, so that SLC falls on
a reserved address, which keeps what reads there. -/

/-- The address past the end of device memory. -/
def edgeAddr : Nat := 0xC000000000

/-- A partition whose first continuation record ends at the end of device memory. -/
def edgePart : Part :=
  { Part.probe with
    totals := { Part.probe.totals with ttsize := 2, cbase := 1 }, ctl := { Part.probe.ctl with crBase := 0xBFFFFFDE80 }
    tasks := [Task.probe] }

/-- A slice that stands at a word inside a block. -/
def edgeSlice : Slice := { Slice.fresh 0 with pc := 8, hdr := false, blk := 0xFFFFC00000000000 }

/-- A group of one live slice, and of 1,056 that have exited; the last of them has lanes left in its AMASK or not. -/
def edgeGroup (b : Bool) : Group :=
  { Group.probe 0 0 with
    slices := edgeSlice :: (List.replicate 1055 Slice.gone ++ [{ Slice.gone with amask := if b then 1 else 0 }]) }

/-- The cohort of that group, its device, and the path that issues. -/
def edgeCohort : Cohort := Cohort.fresh 0 0 Task.probe 0 0 0 0 0 0

def edgeState (b : Bool) : State :=
  { State.reset with parts := [edgePart], cohorts := [edgeCohort], groups := [edgeGroup b], cur := .path 0 0 }

/-- The PARK: its wake is at once, it stores no TID and selects no register. -/
def edgePark : F3 :=
  ⟨Guard.always, .s 7, .reg .zero false, .reg .zero false, .reg (.s 8) false, .i8, .rne, false, false, false, false, false, 2⟩

def edgeCtx (b : Bool) : Ctx := ⟨edgeGroup b, edgeCohort, edgePart, [0], edgeSlice⟩

theorem edge_ctx (b : Bool) : (edgeState b).ctx? = some (edgeCtx b) := by cases b <;> rfl

theorem edge_passes : ∀ b, (edgeCtx b).Passes
    ⟨edgePark.legalPark, false, edgePark.guard, [(edgePark.dst, 1)], [(edgePark.sa, 1), (edgePark.sb, 1), (edgePark.sc, 2)]⟩ := by
  unfold Ctx.Passes
  decide +kernel

theorem edge_operands : ∀ b, let c := edgeCtx b; let s := edgeState b
    c.uniform s edgePark.sa = (0, none) ∧ c.uniform s edgePark.sb = (0, none) ∧ c.uniformAt edgePark.sc 0 = (0, none) ∧
    c.uniformAt edgePark.sc 1 = (0, none) := by decide +kernel

theorem edge_quiet : ∀ b, let c := edgeCtx b; let s := edgeState b
    c.g.parted = false ∧ s.unhomed c.g.gid = [] ∧ c.badWake 2 0 true = false ∧ c.isLast edgePark.words = false ∧
    c.p.freeCont = some 1 ∧ s.task? c.p.id c.co.tid = some Task.probe ∧ s.evalWake c 2 0 = .ready 0 := by decide +kernel

theorem edge_slices : ∀ b, (edgeGroup b).slices.all (fun x => !x.wait.midway) = true := by decide +kernel

theorem edge_midway (b : Bool) (i : Nat) : ((edgeGroup b).sliceAt i).wait.midway = false := by
  rw [Group.sliceAt, List.getD_eq_getElem?_getD]
  cases h : (edgeGroup b).slices[i]? with
  | none => rfl
  | some x => simpa using List.all_eq_true.1 (edge_slices b) x (List.mem_of_getElem? h)

theorem edge_keySlots : ∀ b, (match exec (.park edgePark) (edgeState b) with | .next t => t.keySlots.isEmpty | _ => true) = true := by
  decide +kernel

/-- The record of the PARK. -/
def edgeRecord (b : Bool) : List WByte :=
  recordBytes (((edgeCtx b).committed 0x244 edgePark.words).parkedAt (edgeCtx b) edgePark.words) (edgePart.recordAt 1) 2
    (BitVec.ofNat 8 edgePark.dst.code) 0 0 0

theorem edge_room : ∀ b, (edgeState b).parityRoom 0 (edgeRecord b) = true := by decide +kernel

/-- Byte 8,576 of the record is the low byte of SLC of slice 1,056. -/
theorem edge_byte : ∀ b, (((edgeRecord b).filter (fun x => x.addr == edgeAddr)).getLast?).map (·.val) =
    some (if b then 0xF1 else 0xF0) := by decide +kernel

theorem edge_lastByte (old : Byte) (b : Bool) : lastByte (edgeRecord b) edgeAddr old = if b then 0xF1 else 0xF0 := by
  rw [lastByte, edge_byte]
  rfl

/-- Past the end of device memory every byte reads as it did, also after the step. -/
theorem edge_reads {b : Bool} {t : State} (h : exec (.park edgePark) (edgeState b) = .next t) :
    (t.readAs 0 edgeAddr).val = Config.reservedByte edgeAddr := by
  have hk := edge_keySlots b
  rw [h] at hk
  have hslots : t.keySlots = [] := List.isEmpty_iff.1 hk
  have hkey : t.keyOf 0 = none := by
    rw [State.keyOf, hslots]
    cases t.part? 0 <;> rfl
  have hdm : t.readDM edgeAddr = ⟨Config.reservedByte edgeAddr, none⟩ := if_neg (by decide)
  rw [State.readAs, State.readUnder, hkey]
  show openByte _ none (fun a => (t.readDM a).val) edgeAddr = _
  rw [openByte_none_right, hdm]

/-- What the statement asks of the byte past the end of memory. -/
theorem edge_asked (h : Obligations.ParkWritesTheContinuation) (b : Bool) :
    Config.reservedByte edgeAddr = if b then 0xF1 else 0xF0 := by
  obtain ⟨hsa, hsb, hm0, hm1⟩ := edge_operands b
  obtain ⟨hparted, hhome, hwake, hlast, hfree, htask, heval⟩ := edge_quiet b
  have hn := h edgePark (edgeState b) (edgeCtx b) 1 0 Task.probe (edge_ctx b) (edge_passes b)
    (fun _ _ e => by cases e) rfl hparted
  rw [hsa, hsb, hm0, hm1] at hn
  have hregs : bitmapRegs ((0 : Word64) ++ (0 : Word64)) = [] := by decide
  have hstart : physOk (edgePart.recordAt 1) = true := by decide
  have hend : physOk (edgePart.recordAt 1 + 8575) = true := by decide
  have hapart : edgePart.blockAddr 1 + 64 ≤ edgeAddr := by decide
  obtain ⟨t, ht, -, -, -, hmem⟩ := hn rfl rfl rfl rfl (by rw [hregs]; decide) (fun r hr => by rw [hregs] at hr; cases hr) hwake
    (fun e => by cases e) rfl rfl hhome (edge_midway b) (fun e => by rw [hlast] at e; cases e) hfree htask (fun e => by cases e)
    (edge_room b) (fun e => by cases heval.symm.trans e)
  have := (hmem rfl hstart hend edgeAddr (.inr hapart) (fun _ e => by cases e)).1 (.inl rfl)
  rw [← edge_reads ht, ← edge_lastByte ((edgeState b).readAs 0 edgeAddr).val b]
  exact this

/-- Refutes O25: SLC of a slice past the 32 of R1 falls outside the bytes that the statement asks to exist, and a reserved
address does not take it. The two states differ in that byte of the record alone, and the same reserved byte cannot be both. -/
theorem not_parkWritesTheContinuation : ¬ Obligations.ParkWritesTheContinuation := by
  intro h
  have := (edge_asked h true).symm.trans (edge_asked h false)
  revert this
  decide

end Sys2Proof.Machine
end

section
namespace Sys2Proof.Machine

/-! ### Lookups in states that agree -/

theorem State.cohort?_congr {s t : State} (h : t.cohorts = s.cohorts) (u : Nat) : t.cohort? u = s.cohort? u := by
  rw [State.cohort?, State.cohort?, h]

theorem State.part?_congr {s t : State} (h : t.parts = s.parts) (k : Nat) : t.part? k = s.part? k := by
  rw [State.part?, State.part?, h]

/-! ### A group that stands in the state, replaced -/

/-- A group that is in the state, replaced: the change shows under its number. -/
theorem State.group?_setGroup_mem {s : State} {v g : Group} (hv : v ∈ s.groups) (hg : g.gid = v.gid) :
    (s.setGroup g).group? v.gid = some g := by
  have hsome : (s.group? v.gid).isSome := List.find?_isSome.2 ⟨v, hv, by simp⟩
  obtain ⟨x, hx⟩ := Option.isSome_iff_exists.1 hsome
  rw [State.group?_setGroup, if_pos hg.symm, hx]
  rfl

theorem State.group?_setGroup_ne (s : State) {g : Group} {i : Nat} (h : i ≠ g.gid) : (s.setGroup g).group? i = s.group? i := by
  rw [State.group?_setGroup, if_neg h]

/-- A change of every slice that leaves the one past the last alone. -/
theorem Group.sliceAt_map (g : Group) (f : Slice → Slice) (hf : f Slice.gone = Slice.gone) (i : Nat) :
    ({ g with slices := g.slices.map f } : Group).sliceAt i = f (g.sliceAt i) := by
  simp only [Group.sliceAt, List.getD_eq_getElem?_getD, List.getElem?_map]
  cases g.slices[i]? with
  | none => exact hf.symm
  | some x => rfl

/-! ### The first of a list in some order -/

/-- A pick that takes v whenever it meets it, and then keeps it, ends with v. -/
theorem foldl_pick {α : Type} (f : Option α → α → Option α) (v : α) (l : List α) (hnone : ∀ x, f none x = some x)
    (hstep : ∀ b x, f (some b) x = some b ∨ f (some b) x = some x) (htake : ∀ b ∈ l, f (some b) v = some v)
    (hkeep : ∀ x ∈ l, f (some v) x = some v) (hv : v ∈ l) : l.foldl f none = some v := by
  have hstay : ∀ m : List α, m ⊆ l → m.foldl f (some v) = some v := by
    intro m hm
    induction m with
    | nil => rfl
    | cons x m ih =>
      obtain ⟨hx, hm⟩ := List.cons_subset.1 hm
      rw [List.foldl_cons, hkeep x hx]
      exact ih hm
  have hreach : ∀ m : List α, m ⊆ l → v ∈ m → ∀ acc, (∀ b, acc = some b → b ∈ l) → m.foldl f acc = some v := by
    intro m hm hvm
    induction m with
    | nil => cases hvm
    | cons x m ih =>
      obtain ⟨hx, hm⟩ := List.cons_subset.1 hm
      intro acc hacc
      rw [List.foldl_cons]
      rcases List.mem_cons.1 hvm with e | hvm
      · have hnow : f acc v = some v := by
          cases acc with
          | none => exact hnone v
          | some b => exact htake b (hacc b rfl)
        rw [← e, hnow]
        exact hstay m hm
      · refine ih hm hvm _ fun c hc => ?_
        cases acc with
        | none => rw [hnone] at hc; cases hc; exact hx
        | some b =>
          rcases hstep b x with e | e
          · rw [e] at hc; cases hc; exact hacc _ rfl
          · rw [e] at hc; cases hc; exact hx
  exact hreach l (List.Subset.refl l) hv none (fun b hb => by cases hb)

/-- What a pick ends with is in the list. -/
theorem mem_of_foldl_pick {α : Type} (f : Option α → α → Option α) (l : List α) (hnone : ∀ x, f none x = some x)
    (hstep : ∀ b x, f (some b) x = some b ∨ f (some b) x = some x) {v : α} (h : l.foldl f none = some v) : v ∈ l := by
  have hin : ∀ u, l.foldl f none = some u → u ∈ l := by
    refine List.foldlRecOn (motive := fun best : Option α => ∀ u, best = some u → u ∈ l) l f (fun u hu => ?_)
      (fun best hb x hx u hu => ?_)
    · cases hu
    · cases best with
      | none => rw [hnone] at hu; cases hu; exact hx
      | some b =>
        rcases hstep b x with e | e
        · rw [e] at hu; exact hb u hu
        · rw [e] at hu; cases hu; exact hx
  exact hin v h

/-! ### Words of scratchpad -/

/-- Four bytes spell the word that they are the bytes of. -/
theorem word64OfBytes_four (w : Word32) : (word64OfBytes ((List.range 4).map (fun i => bits w (8 * i) 8))).setWidth 32 = w := by
  have hsum : (List.range 8).map (fun i => (((List.range 4).map (fun i => bits w (8 * i) 8)).getD i 0).toNat * 2 ^ (8 * i)) =
      (List.range 8).map (fun i => w.toNat / 2 ^ (8 * i) % 256 * 2 ^ (8 * i)) := by
    refine List.map_congr_left fun i _ => congrArg (· * 2 ^ (8 * i)) ?_
    rw [List.getD_eq_getElem?_getD, List.getElem?_map]
    by_cases hi : i < 4
    · rw [List.getElem?_range hi]
      simp [bits, BitVec.extractLsb'_toNat, Nat.shiftRight_eq_div_pow]
    · have hbig : w.toNat < 2 ^ (8 * i) := Nat.lt_of_lt_of_le w.isLt (Nat.pow_le_pow_right (by decide) (by omega))
      rw [List.getElem?_eq_none (by simp; omega), Nat.div_eq_of_lt hbig]
      rfl
  unfold word64OfBytes
  rw [hsum, sum_bytes, Nat.mod_eq_of_lt (Nat.lt_of_lt_of_le w.isLt (by decide)), BitVec.setWidth_ofNat_of_le (by decide),
    BitVec.ofNat_toNat, BitVec.setWidth_eq]

/-- A word written to scratchpad reads back. -/
theorem Cohort.scratchWord_writeScratch (c : Cohort) (off : Nat) (w : Word32) :
    (c.writeScratch (wordBytes off w)).scratchWord off = w := by
  have hbyte : ∀ i < 4, ((c.writeScratch (wordBytes off w)).readScratch (off + i)).val = bits w (8 * i) 8 := by
    intro i hi
    show Memory.read (storeBytes c.scratch (wordBytes off w)) (off + i) = _
    rw [read_storeBytes]
    refine lastByte_eq ⟨⟨off + i, bits w (8 * i) 8, none, none⟩, ?_, rfl⟩ (fun b hb e => ?_) _
    · exact List.mem_map.2 ⟨i, List.mem_range.2 hi, rfl⟩
    · obtain ⟨j, -, rfl⟩ := List.mem_map.1 hb
      obtain rfl : j = i := Nat.add_left_cancel e
      rfl
  unfold Cohort.scratchWord Cohort.readScratchBytes
  rw [List.map_map]
  refine Eq.trans ?_ (word64OfBytes_four w)
  exact congrArg (fun l => (word64OfBytes l).setWidth 32) (List.map_congr_left fun i hi => hbyte i (List.mem_range.1 hi))

/-- A write of scratchpad touches the cohort and reservations. -/
theorem State.writeScratch_frame (s : State) (uid : Nat) (bs : List WByte) : s.writeScratch uid bs =
    { s with cohorts := (s.writeScratch uid bs).cohorts, groups := (s.writeScratch uid bs).groups } := by
  unfold State.writeScratch
  split <;> rfl

theorem State.cohort?_writeScratch {s : State} {uid : Nat} {c : Cohort} (h : s.cohort? uid = some c) (bs : List WByte) :
    (s.writeScratch uid bs).cohort? uid = some (c.writeScratch bs) := by
  unfold State.writeScratch
  rw [h]
  show (s.setCohort (c.writeScratch bs)).cohort? uid = _
  rw [State.cohort?_setCohort, if_pos (show uid = (c.writeScratch bs).uid from (State.cohort?_uid h).symm), h]
  rfl

end Sys2Proof.Machine
end

section
namespace Sys2Proof.Machine

/-! ### Admission (R51, R135) -/

/-- The head of an admission queue is one of the groups. -/
theorem State.mem_of_admissionHead {s : State} {core q : Nat} {h : Group} (hh : s.admissionHead core q = some h) : h ∈ s.groups := by
  unfold State.admissionHead at hh
  refine List.mem_of_mem_filter (mem_of_foldl_pick _ _ (fun _ => rfl) (fun b x => ?_) hh)
  dsimp only
  split
  · exact .inr rfl
  · exact .inl rfl

/-- A slice that waits in an ACQUIRE may proceed (R135). -/
def Slice.admitted (x : Slice) : Slice := if x.wait = .acquire false then { x with wait := .acquire true } else x

theorem Group.sliceAt_grantFull (g : Group) (cycle : Nat) (x : Slice) (i : Nat) :
    (g.grantFull cycle x).sliceAt i = (g.sliceAt i).admitted :=
  Group.sliceAt_map g Slice.admitted rfl i

/-- A group of the state changed, and lines of a cluster taken back, change no other group and no memory. -/
theorem State.reclaimVictims_onlyCaches (s : State) (g : Group) (k : Nat) :
    OnlyCaches s { (s.setGroup g).reclaimVictims k with waited := false } g.gid := by
  rw [State.reclaimVictims_frame]
  exact ⟨rfl, fun i hi => State.group?_setGroup_ne s hi, fun _ => rfl, fun _ => rfl, fun _ => rfl⟩

theorem exec_groupAdmit (core q : Nat) (s : State) : exec (.groupAdmit core q) s = execGroupAdmit core q s := rfl

theorem answers_groupAdmit {s : State} {core q : Nat} {h : Group} (hh : s.admissionHead core q = some h)
    (hroom : (s.quarterOf core q).used + (8 * (h.allot.fullv + 2) - 16) ≤ 768) :
    Answers (exec (.groupAdmit core q) s) (fun t => t.waited = false ∧ OnlyCaches s t h.gid ∧
      t.group? h.gid = some (h.grantFull s.cycle h.atAcquire)) := by
  have hrun : exec (.groupAdmit core q) s =
      ((s.setGroup (h.grantFull s.cycle h.atAcquire)).reclaimVictims (clusterOf core)).done := by
    rw [exec_groupAdmit]
    unfold execGroupAdmit
    rw [hh]
    exact if_neg (Nat.not_lt.2 hroom)
  refine ⟨_, hrun, rfl, s.reclaimVictims_onlyCaches (h.grantFull s.cycle h.atAcquire) _, ?_⟩
  rw [State.reclaimVictims_frame]
  exact State.group?_setGroup_mem (g := h.grantFull s.cycle h.atAcquire) (State.mem_of_admissionHead hh) rfl

theorem exec_groupAdmit_full {s : State} {core q : Nat} {h : Group} (hh : s.admissionHead core q = some h)
    (hfull : 768 < (s.quarterOf core q).used + (8 * (h.allot.fullv + 2) - 16)) :
    exec (.groupAdmit core q) s = .next { s with waited := false } := by
  rw [exec_groupAdmit]
  unfold execGroupAdmit
  rw [hh]
  exact if_pos hfull

/-! ### The victim (R394) -/

theorem victimBefore_asymm {a b : Group} (h : victimBefore a b = true) : victimBefore b a = false := by
  simp only [victimBefore, Bool.or_eq_true, Bool.and_eq_true, decide_eq_true_eq, beq_iff_eq, Bool.or_eq_false_iff,
    Bool.and_eq_false_imp, decide_eq_false_iff_not] at h ⊢
  rcases h with h | ⟨e, h⟩
  · exact ⟨by omega, fun e => by rw [e] at h; omega⟩
  · exact ⟨by rw [e]; omega, fun _ => by omega⟩

/-- The victims that a quarter has for a head of some PRIO. -/
def State.victims (s : State) (core q : Nat) (h : Group) : List Group :=
  s.groups.filter (fun g => g.core == core && g.quarter == q && g.isVictim h.ctl.prio.toNat)

/-- The victim that ranks before every other one is picked. -/
theorem State.victim?_eq {s : State} {core q : Nat} {h v : Group} (hv : v ∈ s.victims core q h)
    (hfirst : ∀ x ∈ s.victims core q h, x ≠ v → victimBefore v x = true) : s.victim? core q h = some v := by
  unfold State.victim?
  refine foldl_pick _ v _ (fun _ => rfl) (fun b x => ?_) (fun b hb => ?_) (fun x hx => ?_) hv
  · dsimp only
    split
    · exact .inr rfl
    · exact .inl rfl
  · dsimp only
    split
    · rfl
    · next hn =>
      by_contra hne
      exact hn (hfirst b hb fun e => hne (by rw [e]))
  · dsimp only
    split
    · next hp =>
      by_contra hne
      rw [victimBefore_asymm (hfirst x hx fun e => hne (by rw [e]))] at hp
      cases hp
    · rfl

/-! ### The end of a discard (R214, R109) -/

/-- A change of slices changes nothing but slices. -/
theorem Group.mapSlices_eq (g : Group) (is : List Nat) (f : Nat → Slice → Slice) :
    g.mapSlices is f = { g with slices := (g.mapSlices is f).slices } := rfl

/-- The victim but for its slices: its region dropped, its allotment given up, its original request standing. -/
theorem Group.preempt_eq (g : Group) (w : Place) : g.preempt w =
    { g.dropRegion.shed with
      slices := (g.preempt w).slices
      allot := { g.dropRegion.shed.allot with request := some g.allot.requestedCycle } } := by
  unfold Group.preempt Group.asPath
  dsimp only
  rw [Group.mapSlices_eq, Group.mapSlices_eq g.dropRegion]
  rfl

theorem Group.preempt_gid (g : Group) (w : Place) : (g.preempt w).gid = g.gid := by
  rw [Group.preempt_eq]
  rfl

/-- A live slice of a victim stands at its ACQUIRE, waiting for admission. -/
theorem Group.sliceAt_preempt {g : Group} (w : Place) {i : Nat} (hlen : g.slices.length = 32) (hi : i < 32)
    (hl : (g.sliceAt i).live = true) :
    ∃ path, (g.preempt w).sliceAt i = { (g.sliceAt i).restart w with path := path } := by
  have hmem : i ∈ (List.range 32).filter (fun i => (g.sliceAt i).live) := List.mem_filter.2 ⟨List.mem_range.2 hi, hl⟩
  have h1 := Group.sliceAt_mapSlices g.dropRegion ((List.range 32).filter (fun i => (g.sliceAt i).live)) (fun _ x => x.restart w) i
  rw [if_pos ⟨hmem, by rw [← hlen] at hi; exact hi⟩] at h1
  have h2 := Group.sliceAt_mapSlices (g.dropRegion.mapSlices ((List.range 32).filter (fun i => (g.sliceAt i).live))
    (fun _ x => x.restart w)).shed ((List.range 32).filter (fun i => (g.sliceAt i).live))
    (fun _ x => { x with path := ((List.range 32).filter (fun i => (g.sliceAt i).live)).foldl min 31 }) i
  rw [if_pos ⟨hmem, by rw [← hlen] at hi; simpa [Group.shed, Group.mapSlices, Group.dropRegion, Group.dropUncommitted] using hi⟩] at h2
  exact ⟨_, h2.trans (congrArg (fun x : Slice => ({ x with path := _ } : Slice)) h1)⟩

/-- The iteration queue of an ended loop: without a loop there is none. -/
theorem State.resetQueue_none {s : State} {g : Group} (h : g.loop = none) : s.resetQueue g = s := by
  unfold State.resetQueue
  rw [h]

theorem State.resetQueue_some {s : State} {g : Group} {lp : Loop} {co : Cohort} (h : g.loop = some lp)
    (hco : s.cohort? g.cohort = some co) :
    s.resetQueue g = s.writeScratch g.cohort (wordBytes lp.queue (co.scratchWord (lp.queue + 8))) := by
  unfold State.resetQueue
  rw [h, hco, ← State.cohort?_uid hco]

theorem State.resetQueue_frame (s : State) (g : Group) : s.resetQueue g =
    { s with cohorts := (s.resetQueue g).cohorts, groups := (s.resetQueue g).groups } := by
  unfold State.resetQueue
  split
  · exact State.writeScratch_frame s _ _
  · rfl

/-- A group stays in the state, and keeps its number, while bytes of scratchpad are written. -/
theorem State.mem_groups_writeScratch {s : State} {uid : Nat} {bs : List WByte} {v : Group} (hv : v ∈ s.groups) :
    ∃ x ∈ (s.writeScratch uid bs).groups, x.gid = v.gid := by
  unfold State.writeScratch
  split
  · exact ⟨v, hv, rfl⟩
  · exact ⟨_, List.mem_map.2 ⟨v, hv, rfl⟩, rfl⟩

theorem State.mem_groups_resetQueue {s : State} {g v : Group} (hv : v ∈ s.groups) :
    ∃ x ∈ (s.resetQueue g).groups, x.gid = v.gid := by
  unfold State.resetQueue
  split
  · exact State.mem_groups_writeScratch hv
  · exact ⟨v, hv, rfl⟩

/-- g is the group v back at the place w of its ACQUIRE, with its committed stores and its original request (R214, R394). -/
def Group.Restarted (v : Group) (w : Place) (g : Group) : Prop :=
  g.sq = v.sq.filter (·.committed) ∧ g.resv = [] ∧ g.allot.full = false ∧ g.loop = none ∧
  g.allot.request = some v.allot.requestedCycle ∧ g.regs.s = v.regs.s ∧ g.regs.p = v.regs.p ∧ g.discarding = false ∧
  ∀ i < 32, (v.sliceAt i).live = true → (g.sliceAt i).pc = w.pc ∧ (g.sliceAt i).wait = .acquire false ∧
    (g.sliceAt i).xmask = (v.sliceAt i).xmask ∧ (g.sliceAt i).amask = ~~~(v.sliceAt i).xmask

theorem Group.restarted_preempt {v : Group} (w : Place) (hlen : v.slices.length = 32) : v.Restarted w (v.preempt w) := by
  have hslices : ∀ i < 32, (v.sliceAt i).live = true → ((v.preempt w).sliceAt i).pc = w.pc ∧
      ((v.preempt w).sliceAt i).wait = .acquire false ∧ ((v.preempt w).sliceAt i).xmask = (v.sliceAt i).xmask ∧
      ((v.preempt w).sliceAt i).amask = ~~~(v.sliceAt i).xmask := fun i hi hl => by
    obtain ⟨path, e⟩ := Group.sliceAt_preempt w hlen hi hl
    rw [e]
    exact ⟨rfl, rfl, rfl, rfl⟩
  have e := v.preempt_eq w
  generalize v.preempt w = g at e hslices ⊢
  exact ⟨by rw [e]; rfl, by rw [e]; rfl, by rw [e]; rfl, by rw [e]; rfl, by rw [e], by rw [e]; rfl, by rw [e]; rfl, by rw [e]; rfl,
    hslices⟩

/-- The discard of v has ended: v has restarted at its ACQUIRE, and no other group and no memory changed; of an active loop
NEXT has CMTD (R109). -/
def DiscardEnded (s : State) (v : Group) (w : Place) (t : State) : Prop :=
  t.waited = false ∧ (∀ a, t.readDM a = s.readDM a) ∧
  (v.loop = none → t.cohorts = s.cohorts ∧ ∀ i, i ≠ v.gid → t.group? i = s.group? i) ∧
  (∀ lp co, v.loop = some lp → s.cohort? v.cohort = some co → ∃ co', t.cohort? v.cohort = some co' ∧
    co'.scratchWord lp.queue = co.scratchWord (lp.queue + 8)) ∧
  ∃ g, t.group? v.gid = some g ∧ v.Restarted w g

theorem State.goOnDiscard_waits {s : State} {v : Group} (w : Place) (hf : v.fills ≠ []) : s.goOnDiscard v w = s.setGroup v := by
  unfold State.goOnDiscard
  rw [if_pos (by simpa using hf)]

/-- The end of a discard, but for the capo token, which the cores keep. -/
theorem State.goOnDiscard_ends {s : State} {v : Group} (w : Place) (hf : v.fills = []) (hr : v.resetReady = true) :
    ∃ cores, s.goOnDiscard v w = { (s.resetQueue v).setGroup (v.preempt w) with cores := cores } := by
  unfold State.goOnDiscard
  rw [if_neg (by simp [hf]), if_neg (by simp [hr])]
  exact ⟨_, rfl⟩

/-- A discard with no fill outstanding, whose loop can be reset, ends. -/
theorem discardEnded_goOnDiscard {s : State} {v v0 : Group} (w : Place) (hv : v0 ∈ s.groups) (hid : v0.gid = v.gid)
    (hf : v.fills = []) (hr : v.resetReady = true) (hlen : v.slices.length = 32) :
    DiscardEnded s v w { s.goOnDiscard v w with waited := false } := by
  obtain ⟨cores, hrun⟩ := State.goOnDiscard_ends (s := s) w hf hr
  rw [hrun]
  have hgid := v.preempt_gid w
  have hg := Group.restarted_preempt w hlen
  generalize v.preempt w = g at hgid hg ⊢
  obtain ⟨x, hx, hxid⟩ := State.mem_groups_resetQueue (g := v) hv
  refine ⟨rfl, fun a => ?_, fun hn => ?_, fun lp co hlp hco => ?_, g, ?_, hg⟩
  · show (s.resetQueue v).readDM a = _
    rw [State.resetQueue_frame]
    rfl
  · rw [State.resetQueue_none hn]
    exact ⟨rfl, fun i hi => State.group?_setGroup_ne s (hgid ▸ hi)⟩
  · refine ⟨co.writeScratch (wordBytes lp.queue (co.scratchWord (lp.queue + 8))), ?_, Cohort.scratchWord_writeScratch _ _ _⟩
    show (s.resetQueue v).cohort? v.cohort = _
    rw [State.resetQueue_some hlp hco]
    exact State.cohort?_writeScratch hco _
  · show ((s.resetQueue v).setGroup g).group? v.gid = _
    rw [← hid, ← hxid]
    exact State.group?_setGroup_mem hx (by rw [hxid, hid, hgid])

/-! ### Pre-emption (R393, R394) -/

/-- The discard that has begun in a quarter. -/
def State.begun (s : State) (core q : Nat) : Option Group :=
  s.groups.find? (fun g => g.core == core && g.quarter == q && g.discarding && !g.stopped && !s.leaving g.part)

theorem exec_preemptionDiscard (core q : Nat) (s : State) :
    exec (.preemptionDiscard core q) s = execPreemptionDiscard core q s := rfl

theorem exec_preemptionDiscard_begun {s : State} {core q : Nat} {v : Group} {w : Place} (hb : s.begun core q = some v)
    (hw : v.allot.admittedAt = some w) : exec (.preemptionDiscard core q) s = (s.goOnDiscard v w).done := by
  unfold State.begun at hb
  rw [exec_preemptionDiscard]
  unfold execPreemptionDiscard
  rw [hb]
  dsimp only
  rw [hw]

theorem exec_preemptionDiscard_early {s : State} {core q : Nat} {h : Group} (hb : s.begun core q = none)
    (hh : s.admissionHead core q = some h) (hw : (s.core core).headWaited q h s.cycle = false) :
    exec (.preemptionDiscard core q) s = .next { s with waited := false } := by
  unfold State.begun at hb
  rw [exec_preemptionDiscard]
  unfold execPreemptionDiscard
  rw [hb, hh]
  dsimp only
  rw [hw]
  rfl

/-- A discard begins with the first victim; the core notes that its head saw a pre-emption now. -/
theorem exec_preemptionDiscard_begins {s : State} {core q : Nat} {h v : Group} {w : Place} (hb : s.begun core q = none)
    (hh : s.admissionHead core q = some h) (hw : (s.core core).headWaited q h s.cycle = true) (hv : s.victim? core q h = some v)
    (ha : v.allot.admittedAt = some w) : ∃ cores, exec (.preemptionDiscard core q) s =
      (({ s with cores := cores } : State).goOnDiscard { v with discarding := true } w).done := by
  unfold State.begun at hb
  rw [exec_preemptionDiscard]
  unfold execPreemptionDiscard
  rw [hb, hh]
  dsimp only
  rw [hw, hv]
  dsimp only
  rw [ha]
  exact ⟨_, rfl⟩

/-- Settles O45: what admission and a discard answer, from the lemmas for the head, the victim and the end of a discard. -/
theorem admissionAndPreemption : Obligations.AdmissionAndPreemption := by
  unfold Obligations.AdmissionAndPreemption
  intro s core q ends begun
  constructor
  · intro v w hb ha hf hr hlen
    exact ⟨_, exec_preemptionDiscard_begun hb ha, discardEnded_goOnDiscard w (List.mem_of_find?_eq_some hb) rfl hf hr hlen⟩
  intro h hh used growth
  constructor
  · intro hroom
    obtain ⟨t, ht, hwait, honly, hg⟩ := answers_groupAdmit hh hroom
    exact ⟨t, ht, hwait, honly, _, hg, rfl, rfl, rfl, rfl, Group.sliceAt_grantFull h _ _⟩
  constructor
  · exact fun hfull => exec_groupAdmit_full hh hfull
  intro victims
  constructor
  · exact fun hb hw => exec_preemptionDiscard_early hb hh hw
  · intro v w hb hw hv hfirst ha
    obtain ⟨cores, hrun⟩ := exec_preemptionDiscard_begins hb hh hw (State.victim?_eq hv hfirst) ha
    have hmem : v ∈ ({ s with cores := cores } : State).groups := List.mem_of_mem_filter hv
    refine ⟨fun hf => ?_, fun hf hr hlen => ?_⟩
    · rw [hrun, State.goOnDiscard_waits (v := { v with discarding := true }) w hf]
      refine ⟨_, rfl, rfl, ⟨rfl, fun i hi => ?_, fun _ => rfl, fun _ => rfl, fun _ => rfl⟩, ?_⟩
      · exact State.group?_setGroup_ne { s with cores := cores } (g := { v with discarding := true }) hi
      · exact State.group?_setGroup_mem (g := { v with discarding := true }) hmem rfl
    · exact ⟨_, hrun, discardEnded_goOnDiscard (v := { v with discarding := true }) w hmem rfl hf hr hlen⟩

end Sys2Proof.Machine
end

section
namespace Sys2Proof.Machine

/-! ### Units and their owners (R38) -/

/-- A map without the keys that some test refuses. -/
theorem SMap.get_filter {α : Type} (d : α) (p : Nat → Bool) (m : SMap α) (k : Nat) :
    SMap.get d (m.filter (fun e => p e.1)) k = if p k then SMap.get d m k else d := by
  induction m with
  | nil => simp [SMap.get]
  | cons e rest ih =>
    by_cases hk : k = e.1
    · by_cases hp : p e.1 = true
      · simp [hp, SMap.get, hk]
      · rw [hk] at ih ⊢
        simp [hp, ih]
    · by_cases hp : p e.1 = true <;> simp [hp, SMap.get, hk, ih]

/-- Units given away have their new owner, and every other unit keeps its own. -/
theorem get_setOwner (owner : SMap (Option Nat)) (units : List Nat) (to_ : Option Nat) (u : Nat) :
    SMap.get none (setOwner owner units to_) u = if u ∈ units then to_ else SMap.get none owner u := by
  induction units generalizing owner with
  | nil => simp [setOwner]
  | cons x units ih =>
    show SMap.get none (setOwner (SMap.put none owner x to_) units to_) u = _
    rw [ih, SMap.get_put]
    by_cases h1 : u ∈ units <;> by_cases h2 : u = x <;> simp [h1, h2]

theorem mem_insertNat {x y : Nat} {l : List Nat} : y ∈ insertNat x l ↔ y = x ∨ y ∈ l := by
  induction l with
  | nil => simp [insertNat]
  | cons z l ih =>
    unfold insertNat
    split
    · simp
    · rw [List.mem_cons, ih, List.mem_cons]
      exact or_left_comm

/-- Sorting keeps the members. -/
theorem mem_sortNat {y : Nat} {l : List Nat} : y ∈ sortNat l ↔ y ∈ l := by
  induction l with
  | nil => simp [sortNat]
  | cons x l ih => rw [sortNat, mem_insertNat, ih, List.mem_cons]

/-- The units of a class after some left and some came. -/
theorem mem_left_came {us left came : List Nat} {k : Nat} :
    k ∈ us.filter (fun u => !left.contains u) ++ came ↔ (k ∈ us ∧ k ∉ left) ∨ k ∈ came := by
  simp

end Sys2Proof.Machine
end

section
namespace Sys2Proof.Machine

/-! ### Requests that firmware refuses or handles (R41) -/

section
variable {s : State} {req : Request} {op : Nat} {k : Result}

/-- Before the boot completed, or while firmware is busy, every request is rejected. -/
theorem State.manage_shut (h : s.mgmt.booted = false ∨ s.mgmt.busy ≠ none) : s.manage req op k = (s.answer statusRejected).done := by
  unfold State.manage
  refine if_pos ?_
  rcases h with h | h
  · rw [h]; rfl
  · rw [Option.isSome_iff_ne_none.2 h, Bool.or_true]

theorem State.manage_open (h : ¬ (s.mgmt.booted = false ∨ s.mgmt.busy ≠ none)) (hop : reqOp req = op) : s.manage req op k = k := by
  obtain ⟨hb, hn⟩ := not_or.1 h
  unfold State.manage
  rw [Bool.eq_true_of_not_eq_false hb, not_not.1 hn, hop]
  simp

end

theorem exec_createPartition (req : Request) (s : State) : exec (.createPartition req) s = execCreatePartition req s := rfl
theorem exec_resizePartition (req : Request) (s : State) : exec (.resizePartition req) s = execResizePartition req s := rfl
theorem exec_destroyPartition (req : Request) (s : State) : exec (.destroyPartition req) s = execDestroyPartition req s := rfl
theorem exec_setBuckets (req : Request) (s : State) : exec (.setBuckets req) s = execSetBuckets req s := rfl
theorem exec_attest (req : Request) (s : State) : exec (.attest req) s = execAttest req s := rfl

/-- A destroy that the host asks for begins and goes on at once (R46; log 21). -/
theorem execDestroyPartition_open {req : Request} {s : State} {p q : Part} (hcur : s.cur ≠ .firmware)
    (h : ¬ (s.mgmt.booted = false ∨ s.mgmt.busy ≠ none)) (hp : reqPlain req = true) (hop : reqOp req = 3)
    (hold : s.part? (reqPart req) = some p) (hbegun : (s.beginDestroy p).part? p.id = some q) :
    execDestroyPartition req s = ((s.beginDestroy p).goOnDestroy q).done := by
  unfold execDestroyPartition
  split
  · next e => exact absurd e hcur
  · rw [State.manage_open h hop, if_neg (by simp [hp]), hold]
    dsimp only
    rw [hbegun]

theorem execDestroyPartition_shut {req : Request} {s : State} (hcur : s.cur ≠ .firmware)
    (h : s.mgmt.booted = false ∨ s.mgmt.busy ≠ none) : execDestroyPartition req s = (s.answer statusRejected).done := by
  unfold execDestroyPartition
  split
  · next e => exact absurd e hcur
  · exact State.manage_shut h

/-! ### Create (R42, R432) -/

section
variable {s : State} {req : Request}

/-- The table of a new partition lies in device memory, whole sectors of it. -/
theorem Totals.table_bounds {t : Totals} (h : t.tableOk = true) :
    1 ≤ t.ttsize ∧ t.ttbase % 4096 = 0 ∧ t.ttbase + 64 * t.ttsize ≤ 0xC000000000 := by
  simp only [Totals.tableOk, Totals.idsOk, deviceOk, Bool.and_eq_true, decide_eq_true_eq, beq_iff_eq] at h
  obtain ⟨⟨⟨h1, -⟩, h2⟩, h3⟩ := h
  exact ⟨h1, h2, by omega⟩

/-- What memory reads after whole sectors of device memory were zeroed. -/
theorem State.readDM_zeroRun (s : State) {pa len : Nat} (h1 : pa % 64 = 0) (h2 : len % 64 = 0) (h3 : pa + len ≤ 0xC000000000)
    (a : Nat) : (s.zeroRun pa len).readDM a = if pa ≤ a ∧ a < pa + len then ⟨0, none⟩ else s.readDM a := by
  have hmem : Memory.read (s.zeroRun pa len).mem a = if pa ≤ a ∧ a < pa + len then 0 else Memory.read s.mem a := by
    refine (SMap.get_filter 0 (fun x => !(decide (pa ≤ x) && decide (x < pa + len))) s.mem a).trans ?_
    by_cases h : pa ≤ a ∧ a < pa + len
    · simp [h]
    · rw [if_neg h, if_pos]
      · rfl
      · simp only [Bool.not_eq_true', Bool.and_eq_false_imp, decide_eq_true_eq, decide_eq_false_iff_not]
        omega
  have hpois : SMap.get none (s.zeroRun pa len).memPois (a / 64) =
      if pa ≤ a ∧ a < pa + len then none else SMap.get none s.memPois (a / 64) := by
    refine (SMap.get_filter none (fun x => !(decide (pa ≤ 64 * x) && decide (64 * x < pa + len))) s.memPois (a / 64)).trans ?_
    by_cases h : pa ≤ a ∧ a < pa + len
    · rw [if_pos h, if_neg]
      simp only [Bool.not_eq_true', Bool.not_eq_false, Bool.and_eq_true, decide_eq_true_eq]
      omega
    · rw [if_neg h, if_pos]
      simp only [Bool.not_eq_true', Bool.and_eq_false_imp, decide_eq_true_eq, decide_eq_false_iff_not]
      omega
  unfold State.readDM
  rw [hmem, hpois]
  by_cases h : pa ≤ a ∧ a < pa + len
  · have hok : physOk a = true := by
      simp only [physOk, Bool.or_eq_true, decide_eq_true_eq]
      exact .inl (by omega)
    rw [hok]
    simp [h]
  · simp only [if_neg h]

theorem exec_createPartition_new {cs bs as_ : List Nat} {key : Nat} (h : ¬ (s.mgmt.booted = false ∨ s.mgmt.busy ≠ none))
    (hp : reqPlain req = true) (hop : reqOp req = 1) (hc : (reqTotals req).countsOk = true) (ht : (reqTotals req).tableOk = true)
    (hnew : s.part? (reqPart req) = none) (hcs : lowestFree s.cluOwner 72 (reqTotals req).nclu = some cs)
    (hbs : lowestFree s.wsbOwner 256 (reqTotals req).nwsb = some bs) (hkey : lowestFree s.keyOwner 128 1 = some [key])
    (has : lowestFree s.asidOwner 256 (reqTotals req).nasid = some as_) (hfit : s.sharesFit (reqPart req) (reqTotals req) = true) :
    exec (.createPartition req) s = ((s.newPart req cs bs as_ key).answer statusDone).done := by
  rw [exec_createPartition]
  unfold execCreatePartition
  rw [State.manage_open h hop]
  dsimp only
  rw [if_neg (by simp [hp, hc, ht]), hnew, if_neg (by simp), hcs, hbs, hkey, has]
  exact if_pos hfit

theorem exec_createPartition_exists (h : ¬ (s.mgmt.booted = false ∨ s.mgmt.busy ≠ none)) (hp : reqPlain req = true)
    (hop : reqOp req = 1) (hc : (reqTotals req).countsOk = true) (ht : (reqTotals req).tableOk = true)
    (hold : s.part? (reqPart req) ≠ none) : exec (.createPartition req) s = (s.answer statusExists).done := by
  rw [exec_createPartition]
  unfold execCreatePartition
  rw [State.manage_open h hop]
  dsimp only
  rw [if_neg (by simp [hp, hc, ht])]
  exact if_pos (Option.isSome_iff_ne_none.2 hold)

/-- A new partition is found under its number. -/
theorem State.part?_newPart (hnew : s.part? (reqPart req) = none) (cs bs as_ : List Nat) (key : Nat) :
    (s.newPart req cs bs as_ key).part? (reqPart req) = some (Part.fresh (reqPart req) (reqTotals req) cs bs key as_ req) := by
  show (s.parts ++ [Part.fresh (reqPart req) (reqTotals req) cs bs key as_ req]).find? (fun p => p.id == reqPart req) = _
  rw [List.find?_append, show s.parts.find? (fun p => p.id == reqPart req) = none from hnew]
  simp [Part.fresh]

end

end Sys2Proof.Machine
end

section
namespace Sys2Proof.Machine

/-- R42, R432: a created partition owns its units, its task table is zeroed, and its key's slot holds the next key drawn. -/
theorem answers_createPartition {s : State} {req : Request} {cs bs as_ : List Nat} {key : Nat}
    (h : ¬ (s.mgmt.booted = false ∨ s.mgmt.busy ≠ none)) (hp : reqPlain req = true) (hop : reqOp req = 1)
    (hc : (reqTotals req).countsOk = true) (ht : (reqTotals req).tableOk = true) (hnew : s.part? (reqPart req) = none)
    (hcs : lowestFree s.cluOwner 72 (reqTotals req).nclu = some cs) (hbs : lowestFree s.wsbOwner 256 (reqTotals req).nwsb = some bs)
    (hkey : lowestFree s.keyOwner 128 1 = some [key]) (has : lowestFree s.asidOwner 256 (reqTotals req).nasid = some as_)
    (hfit : s.sharesFit (reqPart req) (reqTotals req) = true) :
    Answers (exec (.createPartition req) s) (fun t => (t.waited = false ∧ t.mgmt.status = 0x00) ∧
      t.part? (reqPart req) = some (Part.fresh (reqPart req) (reqTotals req) cs bs key as_ req) ∧
      (∀ u, SMap.get none t.cluOwner u = if u ∈ cs then some (reqPart req) else SMap.get none s.cluOwner u) ∧
      (∀ u, SMap.get none t.wsbOwner u = if u ∈ bs then some (reqPart req) else SMap.get none s.wsbOwner u) ∧
      (∀ u, SMap.get none t.asidOwner u = if u ∈ as_ then some (reqPart req) else SMap.get none s.asidOwner u) ∧
      (∀ u, SMap.get none t.keyOwner u = if u = key then some (reqPart req) else SMap.get none s.keyOwner u) ∧
      (∀ u, SMap.get none t.keySlots u = if u = key then some s.mgmt.draws else SMap.get none s.keySlots u) ∧
      t.mgmt.draws = s.mgmt.draws + 1 ∧
      ∀ a, t.readDM a = if (reqTotals req).ttbase ≤ a ∧ a < (reqTotals req).ttbase + 64 * (reqTotals req).ttsize
        then ⟨0, none⟩ else s.readDM a) := by
  obtain ⟨h1, h2, h3⟩ := Totals.table_bounds ht
  refine ⟨_, exec_createPartition_new h hp hop hc ht hnew hcs hbs hkey has hfit, ⟨rfl, rfl⟩,
    State.part?_newPart hnew cs bs as_ key, get_setOwner _ _ _, get_setOwner _ _ _, get_setOwner _ _ _, fun u => ?_,
    fun u => SMap.get_put none s.keySlots key u (some s.mgmt.draws), rfl, fun a => ?_⟩
  · refine (get_setOwner s.keyOwner [key] (some (reqPart req)) u).trans ?_
    simp only [List.mem_singleton]
  · exact State.readDM_zeroRun _ (by omega) (by omega) h3 a

/-! ### Resize (R43 to R45) -/

/-- t is s but for cores, clusters, copies, groups and the weight store: what units that are cleared hold. -/
structure UnitsLeft (s t : State) : Prop where
  frame : t = { s with cores := t.cores, clusters := t.clusters, copies := t.copies, groups := t.groups, ws := t.ws
                       wsPois := t.wsPois }

namespace UnitsLeft

theorem refl (s : State) : UnitsLeft s s := ⟨rfl⟩

theorem trans {s t u : State} (h1 : UnitsLeft s t) (h2 : UnitsLeft t u) : UnitsLeft s u := by
  obtain ⟨a1⟩ := h1
  obtain ⟨a2⟩ := h2
  rw [a1] at a2
  exact ⟨a2⟩

theorem foldl {α : Type} (f : State → α → State) (hf : ∀ s x, UnitsLeft s (f s x)) (l : List α) (s : State) :
    UnitsLeft s (l.foldl f s) :=
  foldl_keeps (UnitsLeft s) f (fun t x h => h.trans (hf t x)) l s (refl s)

theorem onCore (s : State) (n : Nat) (f : Core → Core) : UnitsLeft s (s.onCore n f) := ⟨rfl⟩
theorem setCore (s : State) (n : Nat) (c : Core) : UnitsLeft s (s.setCore n c) := ⟨rfl⟩
theorem setCluster (s : State) (n : Nat) (c : Cluster) : UnitsLeft s (s.setCluster n c) := ⟨rfl⟩
theorem clearBank (s : State) (b : Nat) : UnitsLeft s (s.clearBank b) := ⟨rfl⟩

theorem clearAsid (s : State) (p : Part) (asid : BitVec 8) : UnitsLeft s (s.clearAsid p asid) := by
  unfold State.clearAsid
  exact ((foldl _ (fun s k => setCluster s k _) p.clusters s).trans (foldl _ (fun s n => onCore s n _) p.cores _)).trans ⟨rfl⟩

theorem clearCluster (s : State) (k : Nat) : UnitsLeft s (s.clearCluster k) := by
  unfold State.clearCluster
  exact ((setCluster s k Cluster.reset).trans (foldl _ (fun s n => setCore s n _) _ _)).trans ⟨rfl⟩

variable {s t : State} (h : UnitsLeft s t)
include h

theorem parts : t.parts = s.parts := by rw [h.frame]
theorem mem : t.mem = s.mem := by rw [h.frame]

end UnitsLeft

/-- The flag of a tier brought up to date changes the partition's flags and, by the interrupt, its vectors. -/
theorem State.refreshOver_spec {s : State} {k : Nat} {p : Part} (h : s.part? k = some p) (tier : Bool) :
    (∃ ctl ports, (s.refreshOver k tier).part? k = some { p with ctl := ctl, ports := ports }) ∧
    (s.refreshOver k tier).mem = s.mem := by
  have hmsi : ∀ s : State, (s.sendMsi k 35).mem = s.mem := fun s => by
    unfold State.sendMsi
    split
    · rfl
    · dsimp only
      split <;> rfl
  unfold State.refreshOver
  rw [h]
  dsimp only
  have hset := State.part?_setPart_self (q := { p with ctl := p.ctl.withFlag tier (decide (p.quota tier < s.use p tier)) }) h
    (State.part?_id (p := p) h)
  split
  · obtain ⟨vs, hv⟩ := State.sendMsi_part hset 35
    exact ⟨⟨_, _, hv⟩, hmsi _⟩
  · exact ⟨⟨_, p.ports, hset⟩, rfl⟩

/-- The partition with the units and totals that a resize gives it, before its flags are brought up to date. -/
def Part.resized (p : Part) (req : Request) (t : Totals) (cs bs as_ : List Nat × List Nat) : Part :=
  let asids := p.asids.filter (fun a => !as_.2.contains a) ++ as_.1
  ({ p with
    totals := t, clusters := sortNat (p.clusters.filter (fun u => !cs.2.contains u) ++ cs.1)
    banks := sortNat (p.banks.filter (fun u => !bs.2.contains u) ++ bs.1), asids := asids, request := req
    ctl := { p.ctl with ptroot := p.newRoots asids } } : Part).refill 0

theorem State.part?_onPart {s : State} {k : Nat} {p : Part} (h : s.part? k = some p) {f : Part → Part} (hf : (f p).id = k) :
    (s.onPart k f).part? k = some (f p) := by
  rw [State.onPart_eq f h]
  exact State.part?_setPart_self h hf

/-- Two changes of a partition, after which the flags of both tiers are brought up to date. -/
theorem State.onPart_onPart_refreshOver {s : State} {k : Nat} {p : Part} (h : s.part? k = some p) (f g : Part → Part)
    (hf : (f p).id = k) (hg : (g (f p)).id = k) :
    ((((s.onPart k f).onPart k g).refreshOver k false).refreshOver k true).mem = s.mem ∧
    ∃ ctl ports, ((((s.onPart k f).onPart k g).refreshOver k false).refreshOver k true).part? k =
      some { g (f p) with ctl := ctl, ports := ports } := by
  have h1 := State.part?_onPart (State.part?_onPart h hf) hg
  obtain ⟨⟨ctl, ports, h2⟩, m2⟩ := State.refreshOver_spec h1 false
  obtain ⟨⟨ctl', ports', h3⟩, m3⟩ := State.refreshOver_spec h2 true
  exact ⟨m3.trans (m2.trans ((State.onPart_mem _ _ _).trans (State.onPart_mem _ _ _))), ctl', ports', h3⟩

theorem State.applyResize_spec {s : State} {p : Part} (h : s.part? p.id = some p) (req : Request) (t : Totals)
    (cs bs as_ : List Nat × List Nat) :
    (s.applyResize p req t cs bs as_).mem = s.mem ∧ ∃ ctl ports, (s.applyResize p req t cs bs as_).part? p.id =
      some { p.resized req t cs bs as_ with ctl := ctl, ports := ports } := by
  have hleft : UnitsLeft s (bs.2.foldl (fun s b => s.clearBank b) (cs.2.foldl (fun s k => s.clearCluster k)
      (as_.2.foldl (fun s a => s.clearAsid p (BitVec.ofNat 8 a)) s))) :=
    ((UnitsLeft.foldl _ (fun s a => UnitsLeft.clearAsid s p _) as_.2 s).trans
      (UnitsLeft.foldl _ UnitsLeft.clearCluster cs.2 _)).trans (UnitsLeft.foldl _ UnitsLeft.clearBank bs.2 _)
  unfold State.applyResize
  dsimp only
  generalize bs.2.foldl (fun s b => s.clearBank b) (cs.2.foldl (fun s k => s.clearCluster k)
      (as_.2.foldl (fun s a => s.clearAsid p (BitVec.ofNat 8 a)) s)) = s1 at hleft ⊢
  have h1 : s1.part? p.id = some p := (State.part?_congr hleft.parts p.id).trans h
  obtain ⟨hm, hp⟩ := State.onPart_onPart_refreshOver
    (s := { s1 with
      cluOwner := setOwner (setOwner s1.cluOwner cs.2 none) cs.1 (some p.id)
      wsbOwner := setOwner (setOwner s1.wsbOwner bs.2 none) bs.1 (some p.id)
      asidOwner := setOwner (setOwner s1.asidOwner as_.2 none) as_.1 (some p.id) }) h1
    (fun x => { x with
      totals := t, clusters := sortNat (x.clusters.filter (fun u => !cs.2.contains u) ++ cs.1)
      banks := sortNat (x.banks.filter (fun u => !bs.2.contains u) ++ bs.1)
      asids := p.asids.filter (fun a => !as_.2.contains a) ++ as_.1, request := req
      ctl := { x.ctl with ptroot := x.newRoots (p.asids.filter (fun a => !as_.2.contains a) ++ as_.1) } })
    (fun p => p.refill 0) rfl rfl
  exact ⟨hm.trans hleft.mem, hp⟩

theorem not_or_not {a b : Bool} (ha : a = true) (hb : b = true) : ¬ (!a || !b) = true := by simp [ha, hb]

/-- R43 to R45: a resized partition has its new totals and units, and nothing in memory changes. -/
theorem answers_resizePartition {s : State} {req : Request} {p : Part} {cs bs as_ : List Nat × List Nat}
    (h : ¬ (s.mgmt.booted = false ∨ s.mgmt.busy ≠ none)) (hp : reqPlain req = true) (hold : s.part? (reqPart req) = some p)
    (hop : reqOp req = 2) (hc : (reqTotals req).countsOk = true)
    (hcs : changeClass s.cluOwner 72 p.clusters.length (reqTotals req).nclu (p.clusters.filter s.clusterIdle) = .inr cs)
    (hbs : changeClass s.wsbOwner 256 p.banks.length (reqTotals req).nwsb (p.banks.filter p.bankIdle) = .inr bs)
    (has : changeClass s.asidOwner 256 p.asids.length (reqTotals req).nasid (p.asids.tail.filter (s.asidIdle p)) = .inr as_)
    (hhome : ∃ k ∈ p.clusters, dieOfCluster k = p.homeDie ∧ k ∉ cs.2)
    (hfit : s.sharesFit (reqPart req) { reqTotals req with
      push := p.totals.push, ttsize := p.totals.ttsize, cbase := p.totals.cbase, ttbase := p.totals.ttbase } = true) :
    Answers (exec (.resizePartition req) s) (fun t => (t.waited = false ∧ t.mgmt.status = 0x00) ∧ t.mem = s.mem ∧
      ∃ q, t.part? (reqPart req) = some q ∧
        q.totals = { reqTotals req with
          push := p.totals.push, ttsize := p.totals.ttsize, cbase := p.totals.cbase, ttbase := p.totals.ttbase } ∧
        q.request = req ∧ q.key = p.key ∧ q.tasks = p.tasks ∧ (∀ k, k ∈ q.clusters ↔ (k ∈ p.clusters ∧ k ∉ cs.2) ∨ k ∈ cs.1) ∧
        (∀ k, k ∈ q.banks ↔ (k ∈ p.banks ∧ k ∉ bs.2) ∨ k ∈ bs.1) ∧
        ∀ k, k ∈ q.asids ↔ (k ∈ p.asids ∧ k ∉ as_.2) ∨ k ∈ as_.1) := by
  have hid : p.id = reqPart req := State.part?_id hold
  have hstays : ¬ (p.clusters.filter (fun k => dieOfCluster k == p.homeDie)).all (fun k => cs.2.contains k) = true := by
    obtain ⟨k, hk, hdie, hnot⟩ := hhome
    intro hall
    exact hnot (by simpa using List.all_eq_true.1 hall k (List.mem_filter.2 ⟨hk, by simpa using hdie⟩))
  obtain ⟨hmem, ctl, ports, hq⟩ := State.applyResize_spec (hid ▸ hold) req { reqTotals req with
    push := p.totals.push, ttsize := p.totals.ttsize, cbase := p.totals.cbase, ttbase := p.totals.ttbase } cs bs as_
  generalize hR : s.applyResize p req _ cs bs as_ = R at hmem hq
  rw [hid] at hq
  refine ⟨{ R.answer statusDone with waited := false }, ?_, ⟨rfl, rfl⟩, hmem, _, hq, rfl, rfl, rfl, rfl, ?_, ?_,
    fun k => mem_left_came⟩
  · rw [exec_resizePartition]
    unfold execResizePartition
    rw [State.manage_open h hop, hold]
    dsimp only
    refine (if_neg (not_or_not hp hc)).trans ?_
    rw [hcs, hbs, has]
    dsimp only
    rw [if_neg hstays, if_neg (by rw [hid, hfit]; decide), hR]
    rfl
  · exact fun k => mem_sortNat.trans mem_left_came
  · exact fun k => mem_sortNat.trans mem_left_came

end Sys2Proof.Machine
end

section
namespace Sys2Proof.Machine

/-! ### SET_BUCKETS (R46) -/

/-- SET_BUCKETS changes the shares and the bursts of a partition, and cuts its buckets to them. -/
theorem answers_setBuckets {s : State} {req : Request} {p : Part} (h : ¬ (s.mgmt.booted = false ∨ s.mgmt.busy ≠ none))
    (hp : reqPlain req = true) (hold : s.part? (reqPart req) = some p) (hop : reqOp req = 4)
    (hc : (reqTotals req).countsOk = true) (hi : (reqTotals req).idsOk = true)
    (hfit : s.sharesFit (reqPart req) { p.totals with
      memu := (reqTotals req).memu, linku := (reqTotals req).linku
      mburst := (reqTotals req).mburst, lburst := (reqTotals req).lburst } = true) :
    Answers (exec (.setBuckets req) s) (fun t =>
      t = { s with parts := t.parts, mgmt := { s.mgmt with status := 0x00 }, waited := false } ∧
      t.part? (reqPart req) = some (({ p with
        totals := { p.totals with
          memu := (reqTotals req).memu, linku := (reqTotals req).linku
          mburst := (reqTotals req).mburst, lburst := (reqTotals req).lburst }
        request := req } : Part).refill 0)) := by
  have hid : p.id = reqPart req := State.part?_id hold
  refine ⟨?after, ?runs, ?changes⟩
  case runs =>
    rw [exec_setBuckets]
    unfold execSetBuckets
    rw [State.manage_open h hop]
    dsimp only
    rw [if_neg (by simp [hp, hc, hi]), hold]
    dsimp only
    rw [if_neg (by rw [hid, hfit]; decide)]
    rfl
  case changes => exact ⟨rfl, State.part?_setPart_self hold hid⟩

/-! ### ATTEST: the length of a report (R431) -/

theorem length_flatten_of_forall {α : Type} {n : Nat} {l : List (List α)} (h : ∀ x ∈ l, x.length = n) :
    l.flatten.length = n * l.length := by
  rw [List.length_flatten, List.map_congr_left h, List.map_const', List.sum_replicate, smul_eq_mul, Nat.mul_comm]

theorem otsChain_length (id q : List Byte) (i n j : Nat) {x : List Byte} (h : x.length = 32) : (otsChain id q i n j x).length = 32 := by
  induction n generalizing j x with
  | zero => exact h
  | succ n ih => exact ih (j + 1) (hashBytes_length _)

theorem otsDigits_length (id q mask msg : List Byte) : (otsDigits id q mask msg).length = 67 := by
  have hd : ∀ b : List Byte, (b.flatMap (fun x => [x.toNat / 16, x.toNat % 16])).length = 2 * b.length := fun b => by
    rw [List.flatMap, length_flatten_of_forall (n := 2) (by simp), List.length_map]
  unfold otsDigits
  dsimp only
  rw [List.length_append, List.length_take, hd, hd, hashBytes_length, bigBytes_length]
  rfl

theorem treeNode_length (tree k node : Nat) : (treeNode tree k node).length = 32 := by
  cases k <;> exact hashBytes_length _

theorem treeKey_length (tree : Nat) : (treeKey tree).length = 56 := by
  simp only [treeKey, lmsType, otsType, identityId, List.length_append, bigBytes_length, numBytes_length, treeNode_length]

theorem leafSign_length (tree leaf : Nat) (msg : List Byte) : (leafSign tree leaf msg).length = 2668 := by
  have hchains : ∀ (id q : List Byte) (ds : List Nat), (ds.zipIdx.map (fun (d, i) =>
      otsChain id q i d 0 (chainStart tree leaf i))).flatten.length = 32 * ds.length := fun id q ds => by
    rw [length_flatten_of_forall (n := 32), List.length_map, List.length_zipIdx]
    intro x hx
    obtain ⟨⟨d, i⟩, -, rfl⟩ := List.mem_map.1 hx
    exact otsChain_length _ _ _ _ _ (numBytes_length _ _)
  have hpath : ((List.range 15).map (fun k => treeNode tree k ((2 ^ 15 + leaf) / 2 ^ k ^^^ 1))).flatten.length = 32 * 15 := by
    rw [length_flatten_of_forall (n := 32), List.length_map, List.length_range]
    intro x hx
    obtain ⟨k, -, rfl⟩ := List.mem_map.1 hx
    exact treeNode_length _ _ _
  unfold leafSign
  dsimp only
  simp only [List.length_append, hchains, hpath, otsDigits_length, otsType, lmsType, bigBytes_length, numBytes_length]

theorem identitySign_length (bootn attn : Nat) (msg : List Byte) : (identitySign bootn attn msg).length = 5396 := by
  simp only [identitySign, List.length_append, bigBytes_length, leafSign_length, treeKey_length]

theorem reportBody_length (m : Mgmt) (req : Request) (p : Option Part) : (reportBody m req p).length = 176 := by
  simp only [reportBody, List.length_append, numBytes_length, flatMap_bytes_length, List.length_cons, List.length_nil]

theorem fullReport_length (m : Mgmt) (req : Request) (p : Option Part) : (fullReport m req p).length = 5572 := by
  unfold fullReport
  dsimp only
  rw [List.length_append, reportBody_length, identitySign_length]

theorem fullReport_take (m : Mgmt) (req : Request) (p : Option Part) : (fullReport m req p).take 176 = reportBody m req p :=
  List.take_left' (reportBody_length m req p)

section
variable {s : State} {req : Request}

/-- An ATTEST in form, for the device or a partition that exists, comes to the count of its reports. -/
theorem exec_attest_wellFormed (h : ¬ (s.mgmt.booted = false ∨ s.mgmt.busy ≠ none)) (hop : reqOp req = 5)
    (h0 : bits req.w0 0 48 = 0) (h5 : req.w5 = 0) (h6 : req.w6 = 0) (h7 : req.w7 = 0)
    (hid : reqPart req = 0xFF ∨ s.part? (reqPart req) ≠ none) :
    exec (.attest req) s = if 32768 ≤ s.mgmt.reports then (s.answer statusExhausted).done else
      (({ s with mgmt := { s.mgmt with
        report := fullReport s.mgmt req (if reqPart req = 0xFF then none else s.part? (reqPart req))
        reports := s.mgmt.reports + 1 } }).answer statusDone).done := by
  rw [exec_attest]
  unfold execAttest
  rw [State.manage_open h hop]
  dsimp only
  rw [if_neg (by simp [h0, h5, h6, h7]), if_neg]
  rcases hid with hid | hid
  · simp [hid]
  · simp [Option.isNone_eq_false_iff.2 (Option.isSome_iff_ne_none.2 hid)]

end

end Sys2Proof.Machine
end

section
namespace Sys2Proof.Machine

/-! ### DESTROY_PARTITION with nothing resident (R46, R433) -/

/-- The weight store after banks of it were zeroed. -/
theorem State.read_clearBank (s : State) (b a : Nat) :
    Memory.read (s.clearBank b).ws a = if a / 12582912 = b then 0 else Memory.read s.ws a := by
  refine (SMap.get_filter 0 (fun x => x / 12582912 != b) s.ws a).trans ?_
  by_cases h : a / 12582912 = b
  · simp [h]
  · simp [h, Memory.read]

theorem State.read_clearBanks (banks : List Nat) (s : State) (a : Nat) :
    Memory.read (banks.foldl (fun s b => s.clearBank b) s).ws a = if a / 12582912 ∈ banks then 0 else Memory.read s.ws a := by
  induction banks generalizing s with
  | nil => simp
  | cons b banks ih =>
    rw [List.foldl_cons, ih, State.read_clearBank]
    by_cases h1 : a / 12582912 ∈ banks <;> by_cases h2 : a / 12582912 = b <;> simp [h1, h2]

theorem State.clearCluster_ws (s : State) (k : Nat) : (s.clearCluster k).ws = s.ws :=
  foldl_keeps (fun t : State => t.ws = s.ws) (fun s c => s.setCore c Core.reset) (fun _ _ h => h)
    [4 * k, 4 * k + 1, 4 * k + 2, 4 * k + 3] (s.setCluster k Cluster.reset) rfl

theorem State.clearClusters_ws (clusters : List Nat) (s : State) : (clusters.foldl (fun s k => s.clearCluster k) s).ws = s.ws :=
  foldl_keeps (fun t : State => t.ws = s.ws) _ (fun t k h => (State.clearCluster_ws t k).trans h) clusters s rfl

/-- What the end of a destroy leaves of the partition: nothing but its units, which are free. -/
theorem State.endDestroy_spec (s : State) (p : Part) :
    (s.endDestroy p).part? p.id = none ∧ (s.endDestroy p).cluOwner = setOwner s.cluOwner p.clusters none ∧
    (s.endDestroy p).wsbOwner = setOwner s.wsbOwner p.banks none ∧
    (s.endDestroy p).asidOwner = setOwner s.asidOwner p.asids none ∧
    (s.endDestroy p).keySlots = SMap.put none s.keySlots p.key none ∧
    ∀ a, Memory.read (s.endDestroy p).ws a = if a / 12582912 ∈ p.banks then 0 else Memory.read s.ws a := by
  have hfailed : DeskFrame s (p.tasks.foldl (fun s t => s.putTask p.id { t with state := .failed, reported := true }) s) :=
    foldl_keeps (DeskFrame s) _ (fun u t h => h.trans (State.putTask_tabled u p.id _).toDeskFrame) p.tasks s (DeskFrame.refl s)
  unfold State.endDestroy
  dsimp only
  generalize p.tasks.foldl (fun s t => s.putTask p.id { t with state := .failed, reported := true }) s = s1 at hfailed ⊢
  generalize hs2 : ({ s1 with
    groups := s1.groups.filter (fun g => g.part != p.id), cohorts := s1.cohorts.filter (fun c => c.part != p.id)
    opens := s1.opens.filter (fun o => o.part != p.id), rsets := s1.rsets.filter (fun r => r.part != p.id) } : State) = s2
  have hleft := UnitsLeft.foldl _ UnitsLeft.clearCluster p.clusters s2
  have hws := State.clearClusters_ws p.clusters s2
  generalize p.clusters.foldl (fun s k => s.clearCluster k) s2 = s3 at hleft hws ⊢
  have hbanks := State.read_clearBanks p.banks s3
  replace hleft := hleft.trans (UnitsLeft.foldl _ UnitsLeft.clearBank p.banks s3)
  generalize p.banks.foldl (fun s b => s.clearBank b) s3 = s4 at hleft hbanks ⊢
  have hkeep : s2.cluOwner = s.cluOwner ∧ s2.wsbOwner = s.wsbOwner ∧ s2.asidOwner = s.asidOwner ∧ s2.keySlots = s.keySlots ∧
      s2.ws = s.ws := by
    rw [← hs2, hfailed.frame]
    exact ⟨rfl, rfl, rfl, rfl, rfl⟩
  obtain ⟨h1, h2, h3, h4, h5⟩ := hkeep
  refine ⟨?_, ?_, ?_, ?_, ?_, fun a => ?_⟩
  · refine List.find?_eq_none.2 fun x hx => ?_
    simpa using (List.mem_filter.1 hx).2
  · show setOwner s4.cluOwner _ _ = _
    rw [hleft.frame, ← h1]
  · show setOwner s4.wsbOwner _ _ = _
    rw [hleft.frame, ← h2]
  · show setOwner s4.asidOwner _ _ = _
    rw [hleft.frame, ← h3]
  · show SMap.put none s4.keySlots _ _ = _
    rw [hleft.frame, ← h4]
  · rw [← h5, ← hws]
    exact hbanks a

/-- With no group and no cohort of the partition there is nothing to discard. -/
theorem State.discardAll_of_none {s : State} {p : Part} (hg : ∀ g ∈ s.groups, g.part ≠ p.id) (hc : ∀ c ∈ s.cohorts, c.part ≠ p.id) :
    s.discardAll p = s := by
  have hgs : s.groups.filter (fun g => g.part == p.id) = [] := List.filter_eq_nil_iff.2 fun g hg' => by simpa using hg g hg'
  have hcs : s.cohorts.filter (fun c => c.part == p.id && !c.killed && s.groups.all (fun g => g.cohort != c.uid || g.stopped)) = [] :=
    List.filter_eq_nil_iff.2 fun c hc' => by simp [hc c hc']
  unfold State.discardAll
  rw [hgs, List.foldl_nil]
  dsimp only
  rw [hcs, List.foldl_nil]

/-- Nothing of a partition is in the device. -/
structure State.Vacant (s : State) (k : Nat) : Prop where
  groups : ∀ g ∈ s.groups, g.part ≠ k
  cohorts : ∀ c ∈ s.cohorts, c.part ≠ k
  queues : ∀ q ∈ s.cfq ++ s.df, q.part ≠ k
  cmds : ∀ c ∈ s.allCmds, c.part ≠ k

theorem State.Vacant.destroyReady {s : State} {p : Part} (h : s.Vacant p.id) (hd : p.decrements = []) : s.destroyReady p = true := by
  unfold State.destroyReady
  rw [hd]
  simp only [Bool.and_eq_true, List.all_eq_true, Bool.or_eq_true, bne_iff_ne]
  exact ⟨⟨⟨fun g hg => .inl (h.groups g hg), h.queues⟩, h.cmds⟩, rfl⟩

/-- What a partition is while it is being destroyed. -/
def Part.closing (p : Part) : Part :=
  { p with destroying := true, ports := { p.ports with closed := true, flits := [] }, spawned := [], relaunches := [], entries := [] }

/-- The discard of every group of a partition that has not stopped begins. -/
def State.discardsBegin (s : State) (k : Nat) : State :=
  { s with groups := s.groups.map (fun g => if g.part = k ∧ g.stopped = false then { g with discarding := true } else g) }

theorem State.beginDestroy_eq (s : State) (p : Part) :
    s.beginDestroy p = (((s.setPart p.closing).cohorts.filter (fun c => c.part == p.id && !c.killed)).foldl
      (fun s c => s.endStream c) (s.setPart p.closing)).discardsBegin p.id := rfl

theorem State.beginDestroy_of_none {s : State} {p : Part} (hc : ∀ c ∈ s.cohorts, c.part ≠ p.id) :
    s.beginDestroy p = (s.setPart p.closing).discardsBegin p.id := by
  have hcs : (s.setPart p.closing).cohorts.filter (fun c => c.part == p.id && !c.killed) = [] :=
    List.filter_eq_nil_iff.2 fun c hc' => by simp [hc c hc']
  rw [State.beginDestroy_eq, hcs, List.foldl_nil]

/-- Where nothing of the partition is resident, going on with a destroy ends it. -/
theorem State.goOnDestroy_vacant {s : State} {p : Part} (h : s.Vacant p.id) (hp : s.part? p.id = some p) (hd : p.decrements = []) :
    s.goOnDestroy p = ({ s.endDestroy p with mgmt := { (s.endDestroy p).mgmt with busy := none } }).answer statusDone := by
  unfold State.goOnDestroy
  dsimp only
  rw [State.discardAll_of_none h.groups h.cohorts, hp, Option.getD_some, if_pos (h.destroyReady hd)]

theorem State.Vacant.discardsBegin {s : State} {k : Nat} (h : s.Vacant k) (q : Part) : ((s.setPart q).discardsBegin k).Vacant k := by
  refine ⟨fun g hg => ?_, h.cohorts, h.queues, h.cmds⟩
  obtain ⟨g', hg', rfl⟩ := List.mem_map.1 hg
  rw [if_neg fun hx => h.groups g' hg' hx.1]
  exact h.groups g' hg'

/-- R46, R433: a destroyed partition of which nothing is resident is gone, and its units are free. -/
theorem answers_destroyPartition_vacant {s : State} {req : Request} {p : Part} (hcur : s.cur ≠ .firmware)
    (h : ¬ (s.mgmt.booted = false ∨ s.mgmt.busy ≠ none)) (hp : reqPlain req = true) (hold : s.part? (reqPart req) = some p)
    (hop : reqOp req = 3) (hv : s.Vacant (reqPart req)) (hd : p.decrements = []) :
    Answers (exec (.destroyPartition req) s) (fun t => (t.waited = false ∧ t.mgmt.status = 0x00) ∧ t.mgmt.busy = none ∧
      t.part? (reqPart req) = none ∧
      (∀ u, SMap.get none t.cluOwner u = if u ∈ p.clusters then none else SMap.get none s.cluOwner u) ∧
      (∀ u, SMap.get none t.wsbOwner u = if u ∈ p.banks then none else SMap.get none s.wsbOwner u) ∧
      (∀ u, SMap.get none t.asidOwner u = if u ∈ p.asids then none else SMap.get none s.asidOwner u) ∧
      (∀ u, SMap.get none t.keySlots u = if u = p.key then none else SMap.get none s.keySlots u) ∧
      ∀ a, Memory.read t.ws a = if a / 12582912 ∈ p.banks then 0 else Memory.read s.ws a) := by
  have hid : p.id = reqPart req := State.part?_id hold
  rw [← hid] at hold hv ⊢
  have hbegun := State.beginDestroy_of_none (s := s) (p := p) hv.cohorts
  have hq : (s.beginDestroy p).part? p.id = some p.closing := by
    rw [hbegun]
    exact State.part?_setPart_self hold rfl
  obtain ⟨h1, h2, h3, h4, h5, h6⟩ := State.endDestroy_spec (s.beginDestroy p) p.closing
  have hruns : execDestroyPartition req s = _ := execDestroyPartition_open hcur h hp hop (hid ▸ hold) hq
  rw [State.goOnDestroy_vacant (p := p.closing) (by rw [hbegun]; exact hv.discardsBegin p.closing) hq hd] at hruns
  have hkeep : (s.beginDestroy p).cluOwner = s.cluOwner ∧ (s.beginDestroy p).wsbOwner = s.wsbOwner ∧
      (s.beginDestroy p).asidOwner = s.asidOwner ∧ (s.beginDestroy p).keySlots = s.keySlots ∧ (s.beginDestroy p).ws = s.ws := by
    rw [hbegun]
    exact ⟨rfl, rfl, rfl, rfl, rfl⟩
  obtain ⟨k2, k3, k4, k5, k6⟩ := hkeep
  generalize (s.beginDestroy p).endDestroy p.closing = u at h1 h2 h3 h4 h5 h6 hruns
  refine ⟨_, hruns, ⟨rfl, rfl⟩, rfl, h1, fun k => ?_, fun k => ?_, fun k => ?_, fun k => ?_, fun a => ?_⟩
  · show SMap.get none u.cluOwner k = _
    rw [h2, k2]
    exact get_setOwner _ _ _ _
  · show SMap.get none u.wsbOwner k = _
    rw [h3, k3]
    exact get_setOwner _ _ _ _
  · show SMap.get none u.asidOwner k = _
    rw [h4, k4]
    exact get_setOwner _ _ _ _
  · show SMap.get none u.keySlots k = _
    rw [h5, k5]
    exact SMap.get_put _ _ _ _ _
  · show Memory.read u.ws a = _
    rw [h6, k6]
    rfl

end Sys2Proof.Machine
end

section
namespace Sys2Proof.Machine

/-! ### What a partition keeps while its work ends -/

/-- q is p but for the tasks, the dispatched ones, the requests and the buckets. -/
structure Part.Continues (p q : Part) : Prop where
  frame : q = { p with tasks := q.tasks, dispatched := q.dispatched, requests := q.requests, buckets := q.buckets }

theorem Part.Continues.trans {p q r : Part} (h1 : p.Continues q) (h2 : q.Continues r) : p.Continues r := by
  obtain ⟨e1⟩ := h1
  obtain ⟨e2⟩ := h2
  rw [e1] at e2
  exact ⟨e2⟩

section
variable {p q : Part} (h : p.Continues q)
include h
theorem Part.Continues.id : q.id = p.id := by rw [h.frame]
theorem Part.Continues.decrements : q.decrements = p.decrements := by rw [h.frame]
theorem Part.Continues.destroying : q.destroying = p.destroying := by rw [h.frame]
theorem Part.Continues.ports : q.ports = p.ports := by rw [h.frame]
end

theorem Part.Continues.withTask (p : Part) (t : Task) : p.Continues (p.withTask t) := by
  rw [Part.withTask_eq]
  exact ⟨rfl⟩

/-- t has the flits of s on the fabric, and every partition of s goes on in it. -/
structure Continues (s t : State) : Prop where
  cfq : t.cfq = s.cfq
  part : ∀ k p, s.part? k = some p → ∃ q, t.part? k = some q ∧ p.Continues q

namespace Continues

theorem of_parts {s t : State} (h : t.cfq = s.cfq) (hp : t.parts = s.parts) : Continues s t :=
  ⟨h, fun k p hk => ⟨p, (State.part?_congr hp k).trans hk, ⟨rfl⟩⟩⟩

theorem refl (s : State) : Continues s s := of_parts rfl rfl

theorem trans {s t u : State} (h1 : Continues s t) (h2 : Continues t u) : Continues s u := by
  refine ⟨h2.cfq.trans h1.cfq, fun k p hp => ?_⟩
  obtain ⟨q, hq, e⟩ := h1.part k p hp
  obtain ⟨r, hr, e'⟩ := h2.part k q hq
  exact ⟨r, hr, e.trans e'⟩

theorem foldl {α : Type} (f : State → α → State) (hf : ∀ s x, Continues s (f s x)) (l : List α) (s : State) :
    Continues s (l.foldl f s) :=
  foldl_keeps (Continues s) f (fun t x h => h.trans (hf t x)) l s (refl s)

theorem of_stored {s t : State} (h : Stored s t) : Continues s t := by
  refine ⟨by rw [h.frame], fun k p hp => ?_⟩
  obtain ⟨b, hb⟩ := h.part?_some hp
  exact ⟨_, hb, ⟨rfl⟩⟩

theorem setPart {s : State} {p q : Part} (hp : s.part? q.id = some p) (h : p.Continues q) : Continues s (s.setPart q) := by
  refine ⟨rfl, fun k x hx => ?_⟩
  by_cases hk : k = q.id
  · subst hk
    obtain rfl : p = x := Option.some.inj (hp.symm.trans hx)
    exact ⟨q, State.part?_setPart_self hp rfl, h⟩
  · exact ⟨x, (State.part?_setPart_ne rfl hk).trans hx, ⟨rfl⟩⟩

theorem onPart {f : Part → Part} (hf : ∀ p : Part, p.Continues (f p)) (s : State) (k : Nat) : Continues s (s.onPart k f) := by
  cases h : s.part? k with
  | none =>
    rw [show s.onPart k f = s by simp [State.onPart, h]]
    exact refl s
  | some p =>
    have hid : (f p).id = k := (hf p).id.trans (State.part?_id (p := p) h)
    rw [State.onPart_eq f h]
    exact setPart (hid ▸ h) (hf p)

theorem onGroup (s : State) (gid : Nat) (f : Group → Group) : Continues s (s.onGroup gid f) := by
  rw [State.onGroup_frame]
  exact of_parts rfl rfl

theorem onCohort (s : State) (uid : Nat) (f : Cohort → Cohort) : Continues s (s.onCohort uid f) := by
  rw [State.onCohort_frame]
  exact of_parts rfl rfl

theorem setGroup (s : State) (g : Group) : Continues s (s.setGroup g) := of_parts rfl rfl

theorem onCore (s : State) (n : Nat) (f : Core → Core) : Continues s (s.onCore n f) := of_parts rfl rfl

theorem resetQueue (s : State) (g : Group) : Continues s (s.resetQueue g) := by
  rw [State.resetQueue_frame]
  exact of_parts rfl rfl

theorem putTask (s : State) (k : Nat) (t : Task) : Continues s (s.putTask k t) := by
  cases h : s.part? k with
  | none =>
    rw [show s.putTask k t = s by simp [State.putTask, h]]
    exact refl s
  | some p =>
    have hid : (p.withTask t).id = k := by rw [Part.withTask_eq]; exact State.part?_id (p := p) h
    rw [State.putTask_eq h]
    exact (setPart (hid ▸ h) (Part.Continues.withTask p t)).trans (of_stored (Stored.writeWords _ _ _ _))

theorem onTask (s : State) (k tid : Nat) (f : Task → Task) : Continues s (s.onTask k tid f) := by
  cases h : s.task? k tid with
  | none => rw [State.onTask_none h]; exact refl s
  | some u => rw [State.onTask_some h]; exact putTask s k _

theorem freeTask (s : State) (k tid : Nat) : Continues s (s.freeTask k tid) := by
  rw [State.freeTask_eq]
  exact (onTask s k tid Task.freed).trans (onPart (f := (·.dropTask tid)) (fun _ => ⟨rfl⟩) _ k)

theorem noteTask (s : State) (k tid : Nat) (c : Chkiv) : Continues s (s.noteTask k tid c) :=
  onPart (f := (·.onTask tid (fun t => { t with chkiv := t.chkiv.merge c }))) (fun _ => ⟨rfl⟩) s k

theorem noteExited (s : State) (uid k tid : Nat) (c : Chkiv) : Continues s (s.noteExited uid k tid c) := by
  unfold State.noteExited
  split
  · split
    · exact noteTask s k tid c
    · exact refl s
  · exact refl s

theorem noteCohort (s : State) (uid k tid : Nat) (c : Chkiv) : Continues s (s.noteCohort uid k tid c) := by
  unfold State.noteCohort
  split
  · split
    · exact noteExited s uid k tid c
    · exact of_parts rfl rfl
  · exact noteExited s uid k tid c

theorem lapseCapo (s : State) (g : Group) : Continues s (s.lapseCapo g) := onCore s _ _

theorem closeLineages (s : State) (c : Cohort) : Continues s (s.closeLineages c) := onCore s _ _

theorem settleReads (s : State) (uid : Nat) : Continues s (s.settleReads uid) := by
  unfold State.settleReads
  split
  · exact refl s
  · dsimp only
    split
    · exact ((foldl _ (fun s (g : Group) => onGroup s g.gid _) _ s).trans (onCore _ _ _)).trans (noteCohort _ _ _ _ _)
    · exact (foldl _ (fun s (g : Group) => onGroup s g.gid _) _ s).trans (onCore _ _ _)

theorem endStream (s : State) (c : Cohort) : Continues s (s.endStream c) :=
  (((onCore s _ _).trans (closeLineages _ c)).trans (onCohort _ _ _)).trans (settleReads _ _)

theorem goOnEnding (s : State) (g : Group) : Continues s (s.goOnEnding g) := by
  unfold State.goOnEnding
  split
  · exact refl s
  · split
    · exact setGroup s _
    · exact ((resetQueue s g).trans (setGroup _ _)).trans (lapseCapo _ g)

theorem freeContinuations (s : State) (k uid : Nat) : Continues s (s.freeContinuations k uid) := by
  unfold State.freeContinuations
  split
  · exact refl s
  · exact foldl _ (fun s (t : Task) => (putTask s k _).trans (freeTask _ k t.tid)) _ s

theorem haltCohort (s : State) (c : Cohort) : Continues s (s.haltCohort c) := by
  unfold State.haltCohort
  dsimp only
  refine Continues.trans ?_ (freeContinuations _ _ _)
  refine Continues.trans ?_ (closeLineages _ c)
  refine Continues.trans ?_ (onPart (f := fun p => p.dropWaiters [c.uid] ((p.parkedIn [c.uid]).map (·.tid))) (fun _ => ⟨rfl⟩) _ _)
  refine Continues.trans ?_ (onTask _ _ _ _)
  refine Continues.trans ?_ (onCohort _ _ _)
  refine Continues.trans ?_ (onCore _ _ _)
  refine Continues.trans ?_ (foldl _ (fun s (n : Nat) => onCore s n _) _ _)
  exact foldl _ (fun s (g : Group) => (lapseCapo s g).trans (setGroup _ _)) _ s

theorem discardAll (s : State) (p : Part) : Continues s (s.discardAll p) :=
  (foldl _ (fun s (g : Group) => goOnEnding s g) _ s).trans (foldl _ (fun s (c : Cohort) => haltCohort s c) _ _)

/-- A destroy that begins: the partition goes on, closed. -/
theorem beginDestroy {s : State} {p : Part} (hp : s.part? p.id = some p) :
    (s.beginDestroy p).cfq = s.cfq ∧ ∃ q, (s.beginDestroy p).part? p.id = some q ∧ p.closing.Continues q := by
  have h : Continues (s.setPart p.closing) (s.beginDestroy p) := by
    rw [State.beginDestroy_eq]
    exact (foldl _ (fun s (c : Cohort) => endStream s c) _ _).trans (of_parts rfl rfl)
  exact ⟨h.cfq, h.part _ _ (State.part?_setPart_self hp rfl)⟩

end Continues

/-- A destroy does not end while a flit of the partition is on the fabric or a decrement is on its way. -/
theorem State.destroyReady_waits {s : State} {p : Part} (h : (∃ x ∈ s.cfq, x.part = p.id) ∨ p.decrements ≠ []) :
    ¬ s.destroyReady p = true := by
  intro hready
  simp only [State.destroyReady, Bool.and_eq_true, List.all_eq_true, bne_iff_ne, List.isEmpty_iff] at hready
  obtain ⟨⟨⟨-, hq⟩, -⟩, hd⟩ := hready
  rcases h with ⟨x, hx, e⟩ | hne
  · exact hq x (List.mem_append_left _ hx) e
  · exact hne hd

/-- R46, R266: firmware stays busy with the destroy of a partition that something still on its way needs. -/
theorem answers_destroyPartition_busy {s : State} {req : Request} {p : Part} (hcur : s.cur ≠ .firmware)
    (h : ¬ (s.mgmt.booted = false ∨ s.mgmt.busy ≠ none)) (hp : reqPlain req = true) (hold : s.part? (reqPart req) = some p)
    (hop : reqOp req = 3) (hwaits : (∃ x ∈ s.cfq, x.part = reqPart req) ∨ p.decrements ≠ []) :
    Answers (exec (.destroyPartition req) s) (fun t => t.waited = false ∧ t.mgmt.busy = some (reqPart req) ∧
      ∃ q, t.part? (reqPart req) = some q ∧ q.destroying = true ∧ q.ports.closed = true) := by
  have hid : p.id = reqPart req := State.part?_id hold
  rw [← hid] at hold hwaits ⊢
  obtain ⟨hcfq, q, hq, e1⟩ := Continues.beginDestroy hold
  have hdis := Continues.discardAll (s.beginDestroy p) q
  obtain ⟨r, hr, e2⟩ := hdis.part _ _ hq
  have e := e1.trans e2
  have hqid : q.id = p.id := e1.id
  have hrid : r.id = p.id := e.id
  have hready : ¬ ((s.beginDestroy p).discardAll q).destroyReady r = true := by
    refine State.destroyReady_waits ?_
    rw [hdis.cfq, hcfq, hrid, show r.decrements = p.decrements from e.decrements]
    exact hwaits
  have hruns : execDestroyPartition req s = _ := execDestroyPartition_open hcur h hp hop (hid ▸ hold) hq
  unfold State.goOnDestroy at hruns
  dsimp only at hruns
  rw [hqid, hr, Option.getD_some, if_neg hready, hrid] at hruns
  generalize (s.beginDestroy p).discardAll q = t at hruns hr
  refine ⟨_, hruns, rfl, rfl, r, hr, ?_, ?_⟩
  · exact e.destroying
  · exact congrArg Ports.closed e.ports

/-! ### The requests -/

/-- Settles O51: the cases of each request, one lemma each; a destroy that must wait follows what a partition keeps while its
groups, cohorts and streams end. -/
theorem requestsAreServed : Obligations.RequestsAreServed := by
  unfold Obligations.RequestsAreServed
  intro s req hcur
  dsimp only
  refine ⟨fun hshut => ⟨?_, ?_, ?_, ?_, ?_⟩, fun h hplain => ⟨fun hop hc ht => ⟨?_, ?_⟩, fun p hold => ⟨?_, ?_, ?_⟩⟩, ?_⟩
  · exact (exec_createPartition req s).trans (State.manage_shut hshut)
  · exact (exec_resizePartition req s).trans (State.manage_shut hshut)
  · exact (exec_destroyPartition req s).trans (execDestroyPartition_shut hcur hshut)
  · exact (exec_setBuckets req s).trans (State.manage_shut hshut)
  · exact (exec_attest req s).trans (State.manage_shut hshut)
  · exact fun hold => exec_createPartition_exists h hplain hop hc ht hold
  · intro cs bs key as_ hnew hcs hbs hkey has hfit
    exact answers_createPartition h hplain hop hc ht hnew hcs hbs hkey has hfit
  · intro hop hc cs bs as_ hcs hbs has hhome hfit
    exact answers_resizePartition h hplain hold hop hc hcs hbs has hhome hfit
  · refine fun hop => ⟨fun hnone => ?_, answers_destroyPartition_busy hcur h hplain hold hop⟩
    simp only [not_or, not_exists, not_and] at hnone
    obtain ⟨hg, hc, hq, hcmds, hd⟩ := hnone
    exact answers_destroyPartition_vacant hcur h hplain hold hop ⟨hg, hc, hq, hcmds⟩ (not_not.1 hd)
  · intro hop hc hi hfit
    exact answers_setBuckets h hplain hold hop hc hi hfit
  · intro h hop h0 h5 h6 h7 hid
    have hruns := exec_attest_wellFormed h hop h0 h5 h6 h7 hid
    refine ⟨fun hmany => hruns.trans (if_pos hmany), fun hfew => ⟨_, hruns.trans (if_neg (Nat.not_le.2 hfew)), ⟨rfl, rfl⟩, rfl, ?_, ?_⟩⟩
    · exact fullReport_length _ _ _
    · exact fullReport_take _ _ _

end Sys2Proof.Machine
end

section
namespace Sys2Proof.Machine

/-! ### A command in its slot (R240) -/

theorem State.cluster_onCluster (s : State) (k : Nat) (f : Cluster → Cluster) : (s.onCluster k f).cluster k = f (s.cluster k) :=
  (SMap.get_put Cluster.reset s.clusters k k (f (s.cluster k))).trans (if_pos rfl)

/-- What a change of a command leaves as it was. -/
theorem State.onCmd_frame (s : State) (k slot : Nat) (f : Cmd → Cmd) :
    s.onCmd k slot f = { s with clusters := (s.onCmd k slot f).clusters } := rfl

theorem State.cmd?_slot {s : State} {k slot : Nat} {c : Cmd} (h : s.cmd? k slot = some c) : c.slot = slot := by
  simpa using List.find?_some h

theorem State.cmd?_congr {s t : State} (h : t.clusters = s.clusters) (k slot : Nat) : t.cmd? k slot = s.cmd? k slot := by
  unfold State.cmd? State.cluster
  rw [h]

theorem find?_slot_map {l : List Cmd} {slot : Nat} {c : Cmd} (h : l.find? (fun c => c.slot == slot) = some c) {f : Cmd → Cmd}
    (hf : (f c).slot = slot) :
    (l.map (fun c => if c.slot = slot then f c else c)).find? (fun c => c.slot == slot) = some (f c) := by
  induction l with
  | nil => simp at h
  | cons x l ih =>
    by_cases hx : x.slot = slot
    · obtain rfl : x = c := by simpa [hx] using h
      simp [hx, hf]
    · rw [List.find?_cons_of_neg (by simpa using hx)] at h
      simpa [hx] using ih h

/-- The command in a slot after a change of it that keeps it there. -/
theorem State.cmd?_onCmd {s : State} {k slot : Nat} {c : Cmd} (h : s.cmd? k slot = some c) {f : Cmd → Cmd}
    (hf : (f c).slot = slot) : (s.onCmd k slot f).cmd? k slot = some (f c) := by
  unfold State.cmd? State.onCmd
  rw [State.cluster_onCluster]
  exact find?_slot_map h hf

theorem exec_activate (k slot : Nat) (s : State) : exec (.activate k slot) s = execActivate k slot s := rfl
theorem exec_move (k slot bytes : Nat) (s : State) : exec (.move k slot bytes) s = execMove k slot bytes s := rfl
theorem exec_earrive (k slot chunk : Nat) (s : State) : exec (.earrive k slot chunk) s = execEarrive k slot chunk s := rfl
theorem exec_eend (k slot : Nat) (s : State) : exec (.eend k slot) s = execEend k slot s := rfl
theorem exec_bucketPieceLeave (kp : Nat) (id : BucketId) (s : State) :
    exec (.bucketPieceLeave kp id) s = execBucketPieceLeave kp id s := rfl

/-! ### Activation (R241, R254) -/

/-- The command as it becomes ACTIVE, with the indices it has read and the cohorts that receive. -/
def Cmd.activated (c : Cmd) (idx targets : List Nat) : Cmd :=
  { c with state := .active, idx := idx, targets := if c.mcast then targets else []
           err := if idx.any (fun i => decide (c.idxmax ≤ i)) then some .nack else c.err }

section
variable {s : State} {k slot : Nat} {c : Cmd}

theorem exec_activate_waits (h : s.cmd? k slot = some c) (hl : s.unlocked c = false) :
    exec (.activate k slot) s = .next { s with waited := false } := by
  rw [exec_activate]
  unfold execActivate
  rw [h]
  exact if_pos (by rw [hl]; simp)

theorem exec_activate_head (h : s.cmd? k slot = some c) (hq : c.state = .queued) (hg : s.issuerGone c = false)
    (hh : (s.cluster k).isHead c = true) (hl : s.unlocked c = true) :
    exec (.activate k slot) s = (s.onCmd k slot (fun x => { x with
      state := .active, idx := if c.indexed && c.len != 0 then s.indexList c else []
      targets := if x.mcast then (s.mcastTargets c).filterMap id else []
      err := if (if c.indexed && c.len != 0 then s.indexList c else []).any (fun i => decide (c.idxmax ≤ i)) then some .nack
        else x.err })).done := by
  rw [exec_activate]
  unfold execActivate
  rw [h]
  exact if_neg (by rw [hq, hg, hh, hl]; decide)

theorem answers_activate (h : s.cmd? k slot = some c) (hq : c.state = .queued) (hg : s.issuerGone c = false)
    (hh : (s.cluster k).isHead c = true) (hl : s.unlocked c = true) :
    Answers (exec (.activate k slot) s) (fun t => t = { s with clusters := t.clusters, waited := false } ∧
      t.cmd? k slot = some (c.activated (if c.indexed && c.len != 0 then s.indexList c else [])
        ((s.mcastTargets c).filterMap id))) := by
  have hslot := State.cmd?_slot h
  exact ⟨_, exec_activate_head h hq hg hh hl, by rw [State.onCmd_frame], State.cmd?_onCmd h hslot⟩

end

/-! ### Buckets (R52) -/

theorem Part.find?_onBucket (p : Part) (id i : BucketId) (f : Bucket → Bucket) :
    (p.onBucket id f).buckets.find? (fun x => x.1 == i) =
      (p.buckets.find? (fun x => x.1 == i)).map (fun b => (b.1, if i = id then f b.2 else b.2)) := by
  have hmap : (p.onBucket id f).buckets = p.buckets.map (fun b => (b.1, if b.1 = id then f b.2 else b.2)) :=
    List.map_congr_left fun b _ => by
      obtain ⟨j, b⟩ := b
      by_cases h : j = id <;> simp [h]
  rw [hmap]
  refine List.find?_map.trans (Option.map_congr fun b hb => ?_)
  have hi : b.1 = i := by simpa using List.find?_some hb
  rw [hi]

/-- A partition at whose buckets a piece waits, at each of some. -/
def Part.asks (p : Part) (ids : List BucketId) (x : Transfer) (n : Nat) : Part :=
  ids.foldl (fun p id => p.onBucket id (fun b => { b with pieces := b.pieces ++ [(x, n)] })) p

/-- Each bucket has the piece as often as it is asked. -/
theorem Part.find?_asks (p : Part) (ids : List BucketId) (x : Transfer) (n : Nat) (i : BucketId) :
    (p.asks ids x n).buckets.find? (fun y => y.1 == i) = (p.buckets.find? (fun y => y.1 == i)).map (fun b =>
      (b.1, { b.2 with pieces := b.2.pieces ++ List.replicate (ids.countP (· == i)) (x, n) })) := by
  induction ids generalizing p with
  | nil => simp [Part.asks]
  | cons id ids ih =>
    refine (ih _).trans ?_
    rw [Part.find?_onBucket, Option.map_map]
    refine congrArg (Option.map · _) (funext fun b => ?_)
    by_cases h : i = id
    · subst h
      simp [List.replicate_succ]
    · have h' : id ≠ i := fun e => h e.symm
      simp [h, h']

theorem State.part?_askBuckets {s : State} {k : Nat} {p : Part} (h : s.part? k = some p) (ids : List BucketId) (x : Transfer)
    (n : Nat) : (ids.foldl (fun s id => s.askBucket k id x n) s).part? k = some (p.asks ids x n) := by
  induction ids generalizing s p with
  | nil => exact h
  | cons id ids ih => exact ih (State.part?_onPart h (State.part?_id (p := p) h))

theorem Stored.askBuckets (s : State) (k : Nat) (ids : List BucketId) (x : Transfer) (n : Nat) :
    Stored s (ids.foldl (fun s id => s.askBucket k id x n) s) := Stored.foldl _ (fun s id => Stored.askBucket s k id x n) ids s

theorem State.askBuckets_mem (s : State) (k : Nat) (ids : List BucketId) (x : Transfer) (n : Nat) :
    (ids.foldl (fun s id => s.askBucket k id x n) s).mem = s.mem :=
  foldl_keeps (fun t : State => t.mem = s.mem) _ (fun t id h => (State.askBucket_mem t k id x n).trans h) ids s rfl

section
variable {s : State} {k slot bytes : Nat} {c : Cmd} {p : Part}

/-- A chunk of a command that is no REBUILD either asks its buckets, waits, or moves. -/
theorem exec_move_plain (h : s.cmd? k slot = some c) (hp : s.part? c.part = some p) (ha : c.state = .active) (he : c.err = none)
    (hm : c.moved < c.len * c.rows) (hk : c.kind ≠ .rebuild) :
    exec (.move k slot bytes) s =
      if (decide (c.asked = 0) && !(s.bucketsOf p c).isEmpty) = true then
        (s.askBuckets c (s.bucketsOf p c) (if c.asked = 0 then c.chunkSize bytes else c.asked)).done
      else if (decide (0 < c.pieces) || !(c.dests s).all (s.putRoom p (c.putAddrs (if c.asked = 0 then c.chunkSize bytes else c.asked)))) = true
      then s.done else (s.moveChunk p c (if c.asked = 0 then c.chunkSize bytes else c.asked)).done := by
  have hn : (if (c.asked != 0) = true then c.asked else c.chunkSize bytes) = if c.asked = 0 then c.chunkSize bytes else c.asked := by
    by_cases h0 : c.asked = 0 <;> simp [h0]
  rw [exec_move]
  unfold execMove
  rw [h]
  dsimp only
  rw [hp]
  dsimp only
  rw [if_neg (by rw [ha, he]; simpa using hm), if_neg hk, if_neg hk, if_neg hk, hn]

theorem answers_move_asks (h : s.cmd? k slot = some c) (hc : c.cluster = k) (hp : s.part? c.part = some p) (ha : c.state = .active)
    (he : c.err = none) (hm : c.moved < c.len * c.rows) (hk : c.kind ≠ .rebuild) (h0 : c.asked = 0) (hids : s.bucketsOf p c ≠ []) :
    Answers (exec (.move k slot bytes) s) (fun t => t.waited = false ∧ t.mem = s.mem ∧
      t.cmd? k slot = some { c with
        asked := if c.asked = 0 then c.chunkSize bytes else c.asked, pieces := (s.bucketsOf p c).length } ∧
      ∃ q, t.part? c.part = some q ∧ ∀ id b, q.buckets.find? (fun x => x.1 == id) = some b →
        ∃ old, p.buckets.find? (fun x => x.1 == id) = some old ∧
          b.2 = { old.2 with
            pieces := old.2.pieces ++ List.replicate ((s.bucketsOf p c).countP (· == id))
              (.command k c.uid, if c.asked = 0 then c.chunkSize bytes else c.asked) }) := by
  have hruns := exec_move_plain (bytes := bytes) h hp ha he hm hk
  rw [if_pos (by simpa [h0] using hids)] at hruns
  generalize (if c.asked = 0 then c.chunkSize bytes else c.asked) = n at hruns ⊢
  have hstored := Stored.askBuckets s c.part (s.bucketsOf p c) (.command k c.uid) n
  have hmem := State.askBuckets_mem s c.part (s.bucketsOf p c) (.command k c.uid) n
  have hpart := State.part?_askBuckets hp (s.bucketsOf p c) (.command k c.uid) n
  unfold State.askBuckets at hruns
  rw [hc, State.cmd?_slot h] at hruns
  generalize (s.bucketsOf p c).foldl (fun s id => s.askBucket c.part id (.command k c.uid) n) s = u at hruns hstored hmem hpart
  have hcmd : u.cmd? k slot = some c := (State.cmd?_congr hstored.clusters k slot).trans h
  have hslot := State.cmd?_slot h
  refine ⟨_, hruns, rfl, hmem, State.cmd?_onCmd hcmd hslot, _, hpart, fun id b hb => ?_⟩
  rw [Part.find?_asks] at hb
  obtain ⟨old, hold, rfl⟩ := Option.map_eq_some_iff.1 hb
  exact ⟨old, hold, rfl⟩

end

end Sys2Proof.Machine
end

section
namespace Sys2Proof.Machine

/-! ### Bytes of a chunk in runs -/

/-- A byte of a chunk as it is written, by no lane. -/
def chunkByte (x : Nat × PByte) : WByte := ⟨x.1, x.2.val, x.2.pois, none⟩

theorem wbytesAt_cons (a : Nat) (b : PByte) (bs : List PByte) : wbytesAt a (b :: bs) = chunkByte (a, b) :: wbytesAt (a + 1) bs := by
  unfold wbytesAt
  rw [List.zipIdx_cons, List.map_cons, List.zipIdx_succ, List.map_map]
  refine congrArg₂ List.cons rfl (List.map_congr_left fun x _ => ?_)
  simp only [Function.comp_apply]
  rw [show a + (x.2 + 1) = a + 1 + x.2 by omega]

/-- Runs of bytes hold the bytes, in order. -/
theorem byteRuns_flatMap (l : List (Nat × PByte)) : (byteRuns l).flatMap (fun x => wbytesAt x.1 x.2) = l.map chunkByte := by
  induction l with
  | nil => rfl
  | cons x l ih =>
    obtain ⟨a, b⟩ := x
    unfold byteRuns
    split
    · next a' bs more heq =>
      rw [heq, List.flatMap_cons] at ih
      rw [List.map_cons, ← ih]
      split
      · next h =>
        rw [List.flatMap_cons, wbytesAt_cons, h, List.cons_append]
      · rw [List.flatMap_cons, List.flatMap_cons]
        rfl
    · next heq =>
      rw [heq] at ih
      rw [List.map_cons, ← ih]
      rfl

/-- A list of which every element has a value. -/
theorem mapM_of_forall_some {α β : Type} {l : List α} {g : α → Option β} {h : α → β} (hg : ∀ x ∈ l, g x = some (h x)) :
    l.mapM g = some (l.map h) := by
  induction l with
  | nil => rfl
  | cons x l ih =>
    rw [List.mapM_cons, hg x List.mem_cons_self, ih fun y hy => hg y (List.mem_cons_of_mem x hy)]
    rfl

/-! ### Writes of scratchpad, one after the other -/

theorem storeBytes_append (m : Memory) (xs ys : List WByte) : storeBytes m (xs ++ ys) = storeBytes (storeBytes m xs) ys :=
  List.foldl_append

theorem Cohort.foldl_writeScratch {α : Type} (g : α → List WByte) (xs : List α) (co : Cohort) :
    ∃ pois, xs.foldl (fun c x => c.writeScratch (g x)) co =
      { co with scratch := storeBytes co.scratch (xs.flatMap g), scratchPois := pois } := by
  induction xs generalizing co with
  | nil => exact ⟨co.scratchPois, rfl⟩
  | cons x xs ih =>
    obtain ⟨pois, h⟩ := ih (co.writeScratch (g x))
    refine ⟨pois, h.trans ?_⟩
    rw [List.flatMap_cons, storeBytes_append]
    rfl

theorem State.cohort?_foldl_writeScratch {α : Type} {s : State} {uid : Nat} {co : Cohort} (h : s.cohort? uid = some co)
    (g : α → List WByte) (xs : List α) :
    (xs.foldl (fun s x => s.writeScratch uid (g x)) s).cohort? uid = some (xs.foldl (fun c x => c.writeScratch (g x)) co) := by
  induction xs generalizing s co with
  | nil => exact h
  | cons x xs ih => exact ih (State.cohort?_writeScratch h (g x))

/-- Writes of scratchpad leave memory and the commands as they were. -/
theorem State.foldl_writeScratch_frame {α : Type} (s : State) (uid : Nat) (g : α → List WByte) (xs : List α) :
    (xs.foldl (fun s x => s.writeScratch uid (g x)) s).mem = s.mem ∧
    (xs.foldl (fun s x => s.writeScratch uid (g x)) s).clusters = s.clusters :=
  foldl_keeps (fun t : State => t.mem = s.mem ∧ t.clusters = s.clusters) _
    (fun t x h => by rw [State.writeScratch_frame]; exact h) xs s ⟨rfl, rfl⟩

/-! ### A chunk for scratchpad (R264) -/

/-- Pieces put into a cohort's scratchpad are written in order, and meet no fault. -/
theorem State.putPieces_scratch (s : State) (p : Part) (uid : Nat) (src : DeltaSource) (pieces : List (Nat × List PByte)) :
    s.putPieces p (.scratch uid) none src 0 pieces =
      ⟨pieces.foldl (fun s x => s.writeScratch uid (wbytesAt x.1 x.2)) s, none, false⟩ := by
  unfold State.putPieces
  induction pieces generalizing s with
  | nil => rfl
  | cons x pieces ih =>
    refine Eq.trans ?_ (ih (s.writeScratch uid (wbytesAt x.1 x.2)))
    show List.foldl _ (Put.piece ⟨s, none, false⟩ p (.scratch uid) none src (0 + x.1) x.2) pieces = _
    rw [Nat.zero_add]
    rfl

section
variable {s : State} {p : Part} {c : Cmd} {n : Nat} {f : Nat → PByte}

/-- What a chunk reads, where every source byte translates. -/
theorem State.gatherSectors_eq (h : ∀ x ∈ c.chunkMoves n, s.sourceByte p c x.2 = some (f x.1)) :
    s.gatherSectors p c n = (c.chunkSectors n).map (fun sec => some ((c.sectorMoves sec).map (fun x => (x.1, f x.1)))) := by
  unfold State.gatherSectors
  refine List.map_congr_left fun sec hsec => mapM_of_forall_some fun x hx => ?_
  rw [h x (List.mem_flatMap.2 ⟨sec, hsec, hx⟩)]
  rfl

/-- The runs that such a chunk writes. -/
def Cmd.chunkRuns (c : Cmd) (n : Nat) (f : Nat → PByte) : List (Nat × List PByte) :=
  (c.chunkSectors n).flatMap (fun sec => byteRuns ((c.sectorMoves sec).map (fun x => (x.1, f x.1))))

theorem Cmd.chunkRuns_flatMap (c : Cmd) (n : Nat) (f : Nat → PByte) :
    (c.chunkRuns n f).flatMap (fun x => wbytesAt x.1 x.2) = (c.chunkMoves n).map (fun x => chunkByte (x.1, f x.1)) := by
  unfold Cmd.chunkRuns Cmd.chunkMoves
  rw [List.flatMap_assoc, List.map_flatMap]
  refine List.flatMap_congr fun sec _ => ?_
  rw [byteRuns_flatMap, List.map_map]
  rfl

theorem State.moveChunk_scratch (hp : c.peer = false) (ho : c.ord = false) (hk : c.kind ≠ .cpyr) (hd : c.dsp = 1) (hm : c.mcast = false)
    (h : ∀ x ∈ c.chunkMoves n, s.sourceByte p c x.2 = some (f x.1)) :
    s.moveChunk p c n = ((c.chunkRuns n f).foldl (fun s x => s.writeScratch c.cohort (wbytesAt x.1 x.2)) s).onCmd c.cluster c.slot
      (fun x => { x.stepped n with done := x.done ++ [(c.chunks, n)] }) := by
  have hdests : c.dests s = [.scratch c.cohort] := by
    simp [Cmd.dests, hd, State.receivers, hm]
  have hgood : (((c.chunkSectors n).map (fun sec => some ((c.sectorMoves sec).map (fun x => (x.1, f x.1))))).filterMap id).flatMap
      byteRuns = c.chunkRuns n f := by
    rw [List.filterMap_map]
    exact (congrArg (List.flatMap byteRuns) (congrFun List.filterMap_eq_map _)).trans (List.flatMap_map _ _ _)
  have hall : ¬ ((c.chunkSectors n).map (fun sec => some ((c.sectorMoves sec).map (fun x => (x.1, f x.1))))).any (·.isNone) = true := by
    simp
  unfold State.moveChunk
  rw [if_neg (by rw [hp, ho]; decide), State.gatherSectors_eq h]
  dsimp only
  rw [hgood, hdests, show c.red = none from if_neg hk, if_neg hall, List.foldl_cons, List.foldl_nil, State.putPieces_scratch]
  rfl

end

/-- R264: a chunk for one cohort's scratchpad writes its bytes there, and nothing else. -/
theorem answers_move_scratch {s : State} {k slot bytes : Nat} {c : Cmd} {p : Part} {co : Cohort} {f : Nat → PByte}
    (h : s.cmd? k slot = some c) (hc : c.cluster = k) (hpart : s.part? c.part = some p) (ha : c.state = .active) (he : c.err = none)
    (hm : c.moved < c.len * c.rows) (hrb : c.kind ≠ .rebuild) (hids : c.asked = 0 → s.bucketsOf p c = []) (hpieces : c.pieces = 0)
    (hp : c.peer = false) (ho : c.ord = false) (hk : c.kind ≠ .cpyr) (hd : c.dsp = 1) (hmc : c.mcast = false)
    (hco : s.cohort? c.cohort = some co)
    (hsrc : ∀ x ∈ c.chunkMoves (if c.asked = 0 then c.chunkSize bytes else c.asked), s.sourceByte p c x.2 = some (f x.1)) :
    Answers (exec (.move k slot bytes) s) (fun t => t.waited = false ∧ t.mem = s.mem ∧
      t.cmd? k slot = some { c.stepped (if c.asked = 0 then c.chunkSize bytes else c.asked) with
        done := c.done ++ [(c.chunks, if c.asked = 0 then c.chunkSize bytes else c.asked)] } ∧
      ∃ co', t.cohort? c.cohort = some co' ∧ co' = { co with scratch := co'.scratch, scratchPois := co'.scratchPois } ∧
        (∀ x ∈ c.chunkMoves (if c.asked = 0 then c.chunkSize bytes else c.asked), (co'.readScratch x.1).val = (f x.1).val) ∧
        ∀ a, (∀ x ∈ c.chunkMoves (if c.asked = 0 then c.chunkSize bytes else c.asked), x.1 ≠ a) →
          (co'.readScratch a).val = (co.readScratch a).val) := by
  have hruns := exec_move_plain (bytes := bytes) h hpart ha he hm hrb
  have hdests : c.dests s = [.scratch c.cohort] := by
    simp [Cmd.dests, hd, State.receivers, hmc]
  have hasks : ¬ (decide (c.asked = 0) && !(s.bucketsOf p c).isEmpty) = true := by
    intro hx
    rw [Bool.and_eq_true, decide_eq_true_eq, Bool.not_eq_true'] at hx
    rw [hids hx.1] at hx
    exact absurd hx.2 (by decide)
  rw [if_neg hasks, if_neg (by rw [hpieces, hdests]; simp [State.putRoom]), State.moveChunk_scratch hp ho hk hd hmc hsrc] at hruns
  generalize (if c.asked = 0 then c.chunkSize bytes else c.asked) = n at hruns hsrc ⊢
  have hcohort := State.cohort?_foldl_writeScratch hco (fun x : Nat × List PByte => wbytesAt x.1 x.2) (c.chunkRuns n f)
  obtain ⟨pois, hpois⟩ := Cohort.foldl_writeScratch (fun x : Nat × List PByte => wbytesAt x.1 x.2) (c.chunkRuns n f) co
  rw [hpois, Cmd.chunkRuns_flatMap] at hcohort
  obtain ⟨hmem, hclusters⟩ := State.foldl_writeScratch_frame s c.cohort (fun x : Nat × List PByte => wbytesAt x.1 x.2) (c.chunkRuns n f)
  generalize (c.chunkRuns n f).foldl (fun s x => s.writeScratch c.cohort (wbytesAt x.1 x.2)) s = u at hruns hcohort hmem hclusters
  have hslot := State.cmd?_slot h
  rw [hc, hslot] at hruns
  have hcmd : u.cmd? k slot = some c := (State.cmd?_congr hclusters k slot).trans h
  refine ⟨_, hruns, rfl, hmem, State.cmd?_onCmd hcmd hslot, _, hcohort, rfl, fun x hx => ?_, fun a hother => ?_⟩
  · show Memory.read (storeBytes co.scratch _) x.1 = _
    rw [read_storeBytes]
    refine lastByte_eq ⟨_, List.mem_map.2 ⟨x, hx, rfl⟩, rfl⟩ (fun b hb hba => ?_) _
    obtain ⟨y, -, rfl⟩ := List.mem_map.1 hb
    exact congrArg (fun a => (f a).val) hba
  · show Memory.read (storeBytes co.scratch _) a = _
    rw [read_storeBytes]
    refine lastByte_other (fun b hb => ?_) _
    obtain ⟨y, hy, rfl⟩ := List.mem_map.1 hb
    exact hother y hy

end Sys2Proof.Machine
end

section
namespace Sys2Proof.Machine

/-! ### What a chunk writes (R264; log 16) -/

/-- The last number below a bound that passes two tests. -/
theorem find?_reverse_filter_range (q r : Nat → Bool) (n i : Nat) :
    (((List.range n).filter q).reverse).find? r = some i ↔
      (i < n ∧ q i = true ∧ r i = true) ∧ ∀ j, j < n → q j = true → r j = true → j ≤ i := by
  induction n with
  | zero => simp
  | succ n ih =>
    rw [List.range_succ, List.filter_append, List.reverse_append, List.find?_append]
    by_cases hn : q n = true ∧ r n = true
    · obtain ⟨hq, hr⟩ := hn
      rw [show (([n].filter q).reverse).find? r = some n by simp [hq, hr], Option.some_or, Option.some.injEq]
      constructor
      · rintro rfl
        exact ⟨⟨Nat.lt_succ_self _, hq, hr⟩, fun j hj _ _ => Nat.lt_succ_iff.1 hj⟩
      · rintro ⟨⟨hi, -, -⟩, hmax⟩
        exact Nat.le_antisymm (hmax n (Nat.lt_succ_self n) hq hr) (Nat.lt_succ_iff.1 hi)
    · have hnone : (([n].filter q).reverse).find? r = none := by
        by_cases hq : q n = true
        · simpa [hq] using fun hr => hn ⟨hq, hr⟩
        · simp [hq]
      rw [hnone, Option.none_or, ih]
      constructor
      · rintro ⟨⟨hi, hqi, hri⟩, hmax⟩
        refine ⟨⟨Nat.lt_succ_of_lt hi, hqi, hri⟩, fun j hj hqj hrj => ?_⟩
        exact hmax j ((Nat.lt_succ_iff_lt_or_eq.1 hj).resolve_right fun e => hn ⟨e ▸ hqj, e ▸ hrj⟩) hqj hrj
      · rintro ⟨⟨hi, hqi, hri⟩, hmax⟩
        exact ⟨⟨(Nat.lt_succ_iff_lt_or_eq.1 hi).resolve_right fun e => hn ⟨e ▸ hqi, e ▸ hri⟩, hqi, hri⟩,
          fun j hj => hmax j (Nat.lt_succ_of_lt hj)⟩

/-- The sectors that a run of bytes meets. -/
theorem mem_sectorPieces {d n sec : Nat} (hn : 0 < n) :
    sec ∈ (sectorPieces d n).map (fun x => (d + x.1) / 64) ↔ d / 64 ≤ sec ∧ sec ≤ (d + n - 1) / 64 := by
  unfold sectorPieces
  rw [if_neg (by omega), List.map_map, List.mem_map]
  constructor
  · rintro ⟨i, hi, rfl⟩
    rw [List.mem_range] at hi
    show d / 64 ≤ (d + (max d (64 * (d / 64 + i)) - d)) / 64 ∧ (d + (max d (64 * (d / 64 + i)) - d)) / 64 ≤ _
    omega
  · rintro ⟨h1, h2⟩
    refine ⟨sec - d / 64, List.mem_range.2 (by omega), ?_⟩
    show (d + (max d (64 * (d / 64 + (sec - d / 64))) - d)) / 64 = sec
    omega

/-- Row i has a byte of the destination. -/
def Cmd.has (c : Cmd) (a i : Nat) : Prop := i < c.rows ∧ c.rowDst i ≤ a ∧ a < c.rowDst i + c.len

/-- A sector's bytes come from the last row that has them. -/
theorem Cmd.mem_sectorMoves {c : Cmd} {sec a b : Nat} : (a, b) ∈ c.sectorMoves sec ↔
    a / 64 = sec ∧ ∃ i, c.has a i ∧ (∀ j, c.has a j → j ≤ i) ∧ b = c.rowSrc i + (a - c.rowDst i) := by
  have hfind : ∀ x, x / 64 = sec → ∀ i, ((c.rowsIn sec).reverse).find? (fun i => decide (c.rowDst i ≤ x) &&
      decide (x < c.rowDst i + c.len)) = some i ↔ c.has x i ∧ ∀ j, c.has x j → j ≤ i := by
    intro x hx i
    have hin : ∀ j, c.rowDst j ≤ x → x < c.rowDst j + c.len →
        (decide (c.rowDst j < 64 * sec + 64) && decide (64 * sec < c.rowDst j + c.len)) = true := by
      intro j h1 h2
      rw [Bool.and_eq_true, decide_eq_true_eq, decide_eq_true_eq]
      omega
    rw [Cmd.rowsIn, find?_reverse_filter_range]
    simp only [Bool.and_eq_true (decide (_ ≤ x)), decide_eq_true_eq]
    constructor
    · rintro ⟨⟨hi, -, h1, h2⟩, hmax⟩
      exact ⟨⟨hi, h1, h2⟩, fun j ⟨hj, hj1, hj2⟩ => hmax j hj (hin j hj1 hj2) ⟨hj1, hj2⟩⟩
    · rintro ⟨⟨hi, h1, h2⟩, hmax⟩
      exact ⟨⟨hi, hin i h1 h2, h1, h2⟩, fun j hj _ hj2 => hmax j ⟨hj, hj2⟩⟩
  unfold Cmd.sectorMoves
  simp only [List.mem_filterMap, List.mem_range, Option.map_eq_some_iff]
  constructor
  · rintro ⟨o, ho, i, hi, e⟩
    obtain ⟨rfl, rfl⟩ := Prod.mk.inj e
    obtain ⟨h1, h2⟩ := (hfind _ (by omega) i).1 hi
    exact ⟨by omega, i, h1, h2, rfl⟩
  · rintro ⟨ha, i, h1, h2, rfl⟩
    have hsplit : 64 * sec + a % 64 = a := by omega
    exact ⟨a % 64, by omega, i, by rw [hsplit]; exact (hfind a ha i).2 ⟨h1, h2⟩, by rw [hsplit]⟩

theorem Cmd.mem_chunkMoves {c : Cmd} {n a b : Nat} (hn : 0 < n) : (a, b) ∈ c.chunkMoves n ↔
    c.nextAddr.1 / 64 ≤ a / 64 ∧ a / 64 ≤ (c.nextAddr.1 + n - 1) / 64 ∧ c.moved ≤ c.firstIn (a / 64) ∧
      ∃ i, c.has a i ∧ (∀ j, c.has a j → j ≤ i) ∧ b = c.rowSrc i + (a - c.rowDst i) := by
  unfold Cmd.chunkMoves Cmd.chunkSectors
  simp only [List.mem_flatMap, List.mem_filter, mem_sectorPieces hn, Cmd.mem_sectorMoves, decide_eq_true_eq]
  constructor
  · rintro ⟨sec, ⟨⟨h1, h2⟩, h3⟩, rfl, h4⟩
    exact ⟨h1, h2, h3, h4⟩
  · rintro ⟨h1, h2, h3, h4⟩
    exact ⟨a / 64, ⟨⟨h1, h2⟩, h3⟩, rfl, h4⟩

end Sys2Proof.Machine
end

section
namespace Sys2Proof.Machine

/-! ### Arrival words (R246, R356) -/

/-- What every wake of a task keeps, the wakes of an arrival word keep. -/
theorem State.awWakes_keeps {P : State → Prop} (hP : ∀ t k tid st, P t → P (t.wakeTask k tid st)) {s : State} (h : P s)
    (uid off : Nat) : P (s.awWakes uid off) := by
  unfold State.awWakes
  split
  · exact h
  · split
    · exact h
    · refine foldl_keeps P _ (fun t x ht => ?_) _ s h
      split
      · split
        · exact hP _ _ _ _ ht
        · exact ht
      · exact ht

theorem State.awWakes_desk (s : State) (uid off : Nat) : DeskFrame s (s.awWakes uid off) :=
  State.awWakes_keeps (P := DeskFrame s) (fun t k tid _ h => h.trans (State.onTask_tabled t k tid _).toDeskFrame) (DeskFrame.refl s)
    uid off

theorem Continues.awWakes (s : State) (uid off : Nat) : Continues s (s.awWakes uid off) :=
  State.awWakes_keeps (P := Continues s) (fun t k tid _ h => h.trans (Continues.onTask t k tid _)) (Continues.refl s) uid off

theorem Continues.writeScratch (s : State) (uid : Nat) (bs : List WByte) : Continues s (s.writeScratch uid bs) := by
  rw [State.writeScratch_frame]
  exact of_parts rfl rfl

theorem State.writeScratch_clusters (s : State) (uid : Nat) (bs : List WByte) : (s.writeScratch uid bs).clusters = s.clusters := by
  rw [State.writeScratch_frame]

/-- What scratchpads hold after a write depends on the cohorts alone. -/
theorem State.writeScratch_cohorts_congr {s t : State} (h : t.cohorts = s.cohorts) (uid : Nat) (bs : List WByte) :
    (t.writeScratch uid bs).cohorts = (s.writeScratch uid bs).cohorts := by
  unfold State.writeScratch
  rw [State.cohort?_congr h]
  split
  · exact h
  · next c _ =>
    show t.cohorts.map (fun x => if x.uid = (c.writeScratch bs).uid then c.writeScratch bs else x) = _
    rw [h]
    rfl

/-- The bytes that a Fail writes (R246). -/
def Cohort.failBytes (c : Cohort) (off : Nat) (f : FailKind) : List WByte :=
  let flag : Word32 := match f with | .nack => 5 | .tout => 9
  wordBytes (off + 4) 0 ++ wordBytes (off + 8) (c.scratchWord (off + 8) + 1) ++ wordBytes (off + 12) (c.scratchWord (off + 12) ||| flag)

theorem State.failWord_none {s : State} {uid : Nat} (h : s.cohort? uid = none) (off : Nat) (f : FailKind) : s.failWord uid off f = s := by
  unfold State.failWord
  rw [h]

theorem State.failWord_some {s : State} {uid : Nat} {c : Cohort} (h : s.cohort? uid = some c) (off : Nat) (f : FailKind) :
    s.failWord uid off f = (s.writeScratch uid (c.failBytes off f)).awWakes uid off := by
  unfold State.failWord
  rw [h]
  rfl

/-- The bytes that an Arrive with which COUNT comes to TARGET writes (R246). -/
def Cohort.arriveBytes (c : Cohort) (off n : Nat) : List WByte :=
  wordBytes (off + 4) 0 ++ wordBytes (off + 8) (c.scratchWord (off + 8) + 1) ++
    if (c.scratchWord off).toNat < (c.scratchWord (off + 4)).toNat + n then wordBytes (off + 12) (c.scratchWord (off + 12) ||| 3) else []

theorem State.arrive_none {s : State} {uid : Nat} (h : s.cohort? uid = none) (off n : Nat) : s.arrive uid off n = s := by
  unfold State.arrive
  rw [h]

theorem State.arrive_some {s : State} {uid : Nat} {c : Cohort} (h : s.cohort? uid = some c) (off n : Nat) :
    s.arrive uid off n =
      if (c.scratchWord (off + 4)).toNat + n < (c.scratchWord off).toNat then
        s.writeScratch uid (wordBytes (off + 4) (BitVec.ofNat 32 ((c.scratchWord (off + 4)).toNat + n)))
      else (s.writeScratch uid (c.arriveBytes off n)).awWakes uid off := by
  unfold State.arrive
  rw [h]
  rfl

section
variable (s : State) (uid off : Nat)

theorem State.arrive_clusters (n : Nat) : (s.arrive uid off n).clusters = s.clusters := by
  cases h : s.cohort? uid with
  | none => rw [State.arrive_none h]
  | some c =>
    rw [State.arrive_some h]
    split
    · exact State.writeScratch_clusters s _ _
    · rw [(State.awWakes_desk _ _ _).clusters, State.writeScratch_clusters]

theorem Continues.failWord (f : FailKind) : Continues s (s.failWord uid off f) := by
  cases h : s.cohort? uid with
  | none => rw [State.failWord_none h]; exact refl s
  | some c => rw [State.failWord_some h]; exact (writeScratch s _ _).trans (awWakes _ _ _)

end

/-- What an Arrive does to the cohorts depends on the cohorts alone. -/
theorem State.arrive_cohorts_congr {s t : State} (h : t.cohorts = s.cohorts) (uid off n : Nat) :
    (t.arrive uid off n).cohorts = (s.arrive uid off n).cohorts := by
  cases hc : s.cohort? uid with
  | none => rw [State.arrive_none hc, State.arrive_none ((State.cohort?_congr h uid).trans hc), h]
  | some c =>
    rw [State.arrive_some hc, State.arrive_some ((State.cohort?_congr h uid).trans hc)]
    split
    · exact State.writeScratch_cohorts_congr h _ _
    · rw [(State.awWakes_desk _ _ _).cohorts, (State.awWakes_desk _ _ _).cohorts]
      exact State.writeScratch_cohorts_congr h _ _

theorem State.failWord_cohorts_congr {s t : State} (h : t.cohorts = s.cohorts) (uid off : Nat) (f : FailKind) :
    (t.failWord uid off f).cohorts = (s.failWord uid off f).cohorts := by
  cases hc : s.cohort? uid with
  | none => rw [State.failWord_none hc, State.failWord_none ((State.cohort?_congr h uid).trans hc), h]
  | some c =>
    rw [State.failWord_some hc, State.failWord_some ((State.cohort?_congr h uid).trans hc), (State.awWakes_desk _ _ _).cohorts,
      (State.awWakes_desk _ _ _).cohorts]
    exact State.writeScratch_cohorts_congr h _ _

/-! ### The counts and the Fail of a command (R245, R247) -/

theorem State.receivers_of_single {s : State} {c : Cmd} (h : c.mcast = false) : s.receivers c = [c.cohort] := by
  simp [State.receivers, h]

section
variable {s : State} {c : Cmd} {off : Nat}

theorem State.cmdArrive_none (h : c.aw = none) (n : Nat) : s.cmdArrive c n = s := by
  unfold State.cmdArrive
  rw [h]

theorem State.cmdArrive_some (h : c.aw = some off) (n : Nat) :
    s.cmdArrive c n = (s.receivers c).foldl (fun s u => s.arrive u off n) s := by
  unfold State.cmdArrive
  rw [h]

theorem State.cmdFail_none (h : c.aw = none) (f : FailKind) : s.cmdFail c f = s := by
  unfold State.cmdFail
  rw [h]

theorem State.cmdFail_some (h : c.aw = some off) (f : FailKind) :
    s.cmdFail c f = (s.receivers c).foldl (fun s u => s.failWord u off f) s := by
  unfold State.cmdFail
  rw [h]

end

theorem State.cmdArrive_clusters (s : State) (c : Cmd) (n : Nat) : (s.cmdArrive c n).clusters = s.clusters := by
  cases h : c.aw with
  | none => rw [State.cmdArrive_none h]
  | some off =>
    rw [State.cmdArrive_some h]
    exact foldl_keeps (fun t : State => t.clusters = s.clusters) _ (fun t u ht => (State.arrive_clusters t u off n).trans ht) _ s rfl

theorem Continues.cmdFail (s : State) (c : Cmd) (f : FailKind) : Continues s (s.cmdFail c f) := by
  cases h : c.aw with
  | none => rw [State.cmdFail_none h]; exact refl s
  | some off =>
    rw [State.cmdFail_some h]
    exact foldl _ (fun s u => failWord s u off f) _ s

/-! ### A chunk that counts (R247, R417) -/

/-- The command without a chunk that was performed or acknowledged. -/
def Cmd.without (c : Cmd) (chunk : Nat) : Cmd :=
  { c with done := c.done.filter (fun x => x.1 != chunk), sent := c.sent.filter (fun x => x.num != chunk) }

theorem State.clearLocks_frame (s : State) (c : Cmd) : s.clearLocks c = { s with clusters := (s.clearLocks c).clusters } := rfl

/-- Locks that are cleared leave the commands in their slots. -/
theorem State.cmd?_clearLocks (s : State) (c : Cmd) (slot : Nat) :
    (s.clearLocks c).cmd? c.cluster slot = s.cmd? c.cluster slot := by
  unfold State.cmd? State.clearLocks
  rw [State.cluster_onCluster]

theorem State.mem_rlt_clearLocks {s : State} {c : Cmd} {l : Lock} (h : l ∈ ((s.clearLocks c).cluster c.cluster).rlt) :
    l.cmd ≠ c.slot := by
  unfold State.clearLocks at h
  rw [State.cluster_onCluster] at h
  simpa using (List.mem_filter.1 h).2

section
variable {s : State} {k slot chunk n : Nat} {c : Cmd}

theorem exec_earrive_active (h : s.cmd? k slot = some c) (ha : c.state = .active)
    (hn : ((c.done.find? (fun x => x.1 == chunk)).map (·.2)).or ((c.sent.find? (fun x => x.num == chunk)).map (·.bytes)) = some n)
    (hd : s.deltasOf (.command c.uid chunk) = false) :
    exec (.earrive k slot chunk) s =
      if c.err.isSome then (s.onCmd k slot (fun _ => c.without chunk)).done
      else ((if decide (c.moved = c.len * c.rows) && (c.without chunk).settled then
        (s.onCmd k slot (fun _ => c.without chunk)).clearLocks c else s.onCmd k slot (fun _ => c.without chunk)).cmdArrive c n).done := by
  rw [exec_earrive]
  unfold execEarrive
  rw [h]
  dsimp only
  rw [hn]
  exact if_neg (by rw [ha, hd]; decide)

theorem answers_earrive (h : s.cmd? k slot = some c) (hc : c.cluster = k) (ha : c.state = .active)
    (hn : ((c.done.find? (fun x => x.1 == chunk)).map (·.2)).or ((c.sent.find? (fun x => x.num == chunk)).map (·.bytes)) = some n)
    (hd : s.deltasOf (.command c.uid chunk) = false) :
    Answers (exec (.earrive k slot chunk) s) (fun t => t.waited = false ∧ t.cmd? k slot = some (c.without chunk) ∧
      (c.err.isSome = true → t.cohorts = s.cohorts) ∧
      (c.err = none → c.moved = c.len * c.rows → (c.without chunk).settled = true → ∀ l ∈ (t.cluster k).rlt, l.cmd ≠ slot) ∧
      (∀ off, c.err = none → c.mcast = false → c.aw = some off →
        t.cohort? c.cohort = (s.arrive c.cohort off n).cohort? c.cohort) ∧
      (c.aw = none → t.cohorts = s.cohorts)) := by
  have hruns := exec_earrive_active h ha hn hd
  have hslot := State.cmd?_slot h
  have hcmd : (s.onCmd k slot (fun _ => c.without chunk)).cmd? k slot = some (c.without chunk) := State.cmd?_onCmd h hslot
  have hcohorts : (s.onCmd k slot (fun _ => c.without chunk)).cohorts = s.cohorts := by rw [State.onCmd_frame]
  generalize s.onCmd k slot (fun _ => c.without chunk) = u at hruns hcmd hcohorts
  subst hc
  cases he : c.err with
  | some f =>
    rw [he] at hruns
    exact ⟨_, hruns, rfl, hcmd, fun _ => hcohorts, fun e => absurd e (by simp), fun _ e => absurd e (by simp), fun _ => hcohorts⟩
  | none =>
    rw [he, if_neg (by simp)] at hruns
    obtain ⟨v, hv, hvcmd, hvcohorts, hvlocks⟩ : ∃ v, (if decide (c.moved = c.len * c.rows) && (c.without chunk).settled then
        u.clearLocks c else u) = v ∧ v.cmd? c.cluster slot = some (c.without chunk) ∧ v.cohorts = s.cohorts ∧
        (c.moved = c.len * c.rows → (c.without chunk).settled = true → ∀ l ∈ (v.cluster c.cluster).rlt, l.cmd ≠ slot) := by
      refine ⟨_, rfl, ?_⟩
      split
      · refine ⟨(State.cmd?_clearLocks u c slot).trans hcmd, ?_, fun _ _ l hl => hslot ▸ State.mem_rlt_clearLocks hl⟩
        rw [State.clearLocks_frame]
        exact hcohorts
      · next hn => exact ⟨hcmd, hcohorts, fun h1 h2 => absurd (by simp [h1, h2]) hn⟩
    rw [hv] at hruns
    have hclusters := State.cmdArrive_clusters v c n
    have hnone : c.aw = none → (v.cmdArrive c n).cohorts = s.cohorts := fun e => by rw [State.cmdArrive_none e, hvcohorts]
    have hsome : ∀ off, c.mcast = false → c.aw = some off →
        (v.cmdArrive c n).cohort? c.cohort = (s.arrive c.cohort off n).cohort? c.cohort := fun off hm e => by
      rw [State.cmdArrive_some e, State.receivers_of_single hm]
      exact State.cohort?_congr (State.arrive_cohorts_congr hvcohorts c.cohort off n) _
    generalize v.cmdArrive c n = t at hruns hclusters hnone hsome
    refine ⟨_, hruns, rfl, (State.cmd?_congr hclusters _ _).trans hvcmd, fun e => absurd e (by simp), fun _ h1 h2 l hl => ?_,
      fun off _ => hsome off, hnone⟩
    refine hvlocks h1 h2 l ?_
    rw [State.cluster, ← hclusters]
    exact hl

end

end Sys2Proof.Machine
end

section
namespace Sys2Proof.Machine

/-! ### A command that leaves its queue (R241, R249, R266) -/

theorem State.sendMsi_frame (s : State) (k v : Nat) :
    s.sendMsi k v = { s with parts := (s.sendMsi k v).parts, msiOut := (s.sendMsi k v).msiOut } := by
  cases h : s.part? k with
  | none => rw [show s.sendMsi k v = s by simp [State.sendMsi, h]]
  | some p =>
    rw [State.sendMsi_eq h]
    split <;> rfl

/-- The command out of its queue, with its locks. -/
def State.unqueued (s : State) (c : Cmd) : State :=
  (s.clearLocks c).onCluster c.cluster (fun cl => { cl with eq := cl.eq.filter (fun x => x.slot != c.slot) })

theorem State.unqueued_frame (s : State) (c : Cmd) : s.unqueued c = { s with clusters := (s.unqueued c).clusters } := rfl

theorem State.cluster_unqueued (s : State) (c : Cmd) : (s.unqueued c).cluster c.cluster =
    { s.cluster c.cluster with
      rlt := (s.cluster c.cluster).rlt.filter (fun l => l.cmd != c.slot)
      eq := (s.cluster c.cluster).eq.filter (fun x => x.slot != c.slot) } := by
  unfold State.unqueued State.clearLocks
  rw [State.cluster_onCluster, State.cluster_onCluster]

/-- What a command's notice adds to the decrements on their way. -/
def Cmd.notice (c : Cmd) : List (Nat × Option Nat) :=
  if c.notify = 0 then [] else [(c.ntid, if c.kind = .cpyh then some c.vec else none)]

section
variable {s : State} {c : Cmd}

theorem State.retireCmd_notifies (h : c.notify ≠ 0) :
    s.retireCmd c = (s.unqueued c).sendDecrementThen c.part c.ntid (if c.kind = .cpyh then some c.vec else none) := by
  unfold State.retireCmd
  exact if_neg h

theorem State.retireCmd_interrupts (h : c.notify = 0) (hk : c.kind = .cpyh) : s.retireCmd c = (s.unqueued c).sendMsi c.part c.vec := by
  unfold State.retireCmd
  dsimp only
  rw [if_pos h, if_pos hk]
  rfl

theorem State.retireCmd_silent (h : c.notify = 0) (hk : c.kind ≠ .cpyh) : s.retireCmd c = s.unqueued c := by
  unfold State.retireCmd
  dsimp only
  rw [if_pos h, if_neg hk]
  rfl

/-- Beside the queue a retired command changes partitions and interrupts at most. -/
theorem State.retireCmd_frame (s : State) (c : Cmd) :
    s.retireCmd c = { s.unqueued c with parts := (s.retireCmd c).parts, msiOut := (s.retireCmd c).msiOut } := by
  by_cases h : c.notify = 0
  · by_cases hk : c.kind = .cpyh
    · rw [State.retireCmd_interrupts h hk, State.sendMsi_frame]
    · rw [State.retireCmd_silent h hk]
  · rw [State.retireCmd_notifies h, State.sendDecrementThen, State.onPart_frame]

theorem State.retireCmd_part {p : Part} (hp : s.part? c.part = some p) :
    ∃ q, (s.retireCmd c).part? c.part = some q ∧ q.decrements = p.decrements ++ c.notice := by
  have hu : (s.unqueued c).part? c.part = some p := by
    rw [State.unqueued_frame]
    exact hp
  unfold Cmd.notice
  by_cases h : c.notify = 0
  · rw [if_pos h, List.append_nil]
    by_cases hk : c.kind = .cpyh
    · rw [State.retireCmd_interrupts h hk]
      obtain ⟨vs, hq⟩ := State.sendMsi_part hu c.vec
      exact ⟨_, hq, rfl⟩
    · rw [State.retireCmd_silent h hk]
      exact ⟨p, hu, rfl⟩
  · rw [if_neg h, State.retireCmd_notifies h]
    have hid : p.id = c.part := State.part?_id hp
    exact ⟨_, State.part?_onPart hu (f := fun p => { p with
      decrements := p.decrements ++ [(c.ntid, if c.kind = .cpyh then some c.vec else none)] }) hid, rfl⟩

/-- A command has left its queue, and its locks and its notice are as R241, R249 and R266 have them. -/
structure Retired (s t : State) (c : Cmd) : Prop where
  cmd : t.cmd? c.cluster c.slot = none
  locks : ∀ l ∈ (t.cluster c.cluster).rlt, l.cmd ≠ c.slot
  part : ∀ p, s.part? c.part = some p → ∃ q, t.part? c.part = some q ∧ q.decrements = p.decrements ++ c.notice

theorem State.retireCmd_retired (s : State) (c : Cmd) : Retired s (s.retireCmd c) c := by
  have hcl : (s.retireCmd c).cluster c.cluster = (s.unqueued c).cluster c.cluster := by
    rw [State.retireCmd_frame]
    rfl
  refine ⟨?_, fun l hl => ?_, fun p hp => State.retireCmd_part hp⟩
  · unfold State.cmd?
    rw [hcl, State.cluster_unqueued]
    refine List.find?_eq_none.2 fun x hx => ?_
    simpa using (List.mem_filter.1 hx).2
  · rw [hcl, State.cluster_unqueued] at hl
    simpa using (List.mem_filter.1 hl).2

theorem State.endErr_retired (s : State) (c : Cmd) (f : FailKind) : Retired s (s.endErr c f) c := by
  have h := State.retireCmd_retired ((s.clearLocks c).cmdFail c f) c
  refine ⟨h.cmd, h.locks, fun p hp => ?_⟩
  obtain ⟨q, hq, e⟩ := (Continues.cmdFail (s.clearLocks c) c f).part c.part p (by rw [State.clearLocks_frame]; exact hp)
  obtain ⟨r, hr, hd⟩ := h.part q hq
  exact ⟨r, hr, by rw [hd, e.decrements]⟩

theorem State.retireCmd_cohorts (s : State) (c : Cmd) : (s.retireCmd c).cohorts = s.cohorts := by
  rw [State.retireCmd_frame]
  rfl

theorem State.endErr_cohorts_none (h : c.aw = none) (f : FailKind) : (s.endErr c f).cohorts = s.cohorts := by
  unfold State.endErr
  rw [State.retireCmd_cohorts, State.cmdFail_none h, State.clearLocks_frame]

theorem State.endErr_cohort? {off : Nat} (h : c.aw = some off) (hm : c.mcast = false) (f : FailKind) (u : Nat) :
    (s.endErr c f).cohort? u = (s.failWord c.cohort off f).cohort? u := by
  unfold State.endErr
  rw [State.cohort?_congr (State.retireCmd_cohorts _ _), State.cmdFail_some h, State.receivers_of_single hm]
  exact State.cohort?_congr (State.failWord_cohorts_congr (by rw [State.clearLocks_frame]) c.cohort off f) u

end

section
variable {s : State} {k slot : Nat} {c : Cmd}

theorem exec_eend_done (h : s.cmd? k slot = some c) (ha : c.state = .active) (hs : c.settled = true) (he : c.err = none)
    (hm : c.moved = c.len * c.rows) (hmiss : c.missesCore = false) : exec (.eend k slot) s = (s.retireCmd c).done := by
  rw [exec_eend]
  unfold execEend
  rw [h]
  dsimp only
  rw [ha, he]
  dsimp only
  rw [if_pos (by simp [hm, hs]), hmiss]
  rfl

theorem exec_eend_fails (h : s.cmd? k slot = some c) (ha : c.state = .active) (hs : c.settled = true) {f : FailKind}
    (hf : c.err = some f ∨ (c.err = none ∧ c.moved = c.len * c.rows ∧ c.missesCore = true ∧ f = .nack)) :
    exec (.eend k slot) s = (s.endErr c f).done := by
  rw [exec_eend]
  unfold execEend
  rw [h]
  dsimp only
  rcases hf with he | ⟨he, hm, hmiss, rfl⟩
  · rw [ha, he]
    exact if_pos hs
  · rw [ha, he]
    dsimp only
    rw [if_pos (by simp [hm, hs]), hmiss]
    rfl

theorem answers_eend_done (h : s.cmd? k slot = some c) (hc : c.cluster = k) (ha : c.state = .active) (hs : c.settled = true)
    (he : c.err = none) (hm : c.moved = c.len * c.rows) (hmiss : c.missesCore = false) :
    Answers (exec (.eend k slot) s) (fun t => (t.waited = false ∧ t.cmd? k slot = none ∧ (∀ l ∈ (t.cluster k).rlt, l.cmd ≠ slot) ∧
      ∀ p, s.part? c.part = some p → ∃ q, t.part? c.part = some q ∧ q.decrements = p.decrements ++ c.notice) ∧
      t.cohorts = s.cohorts ∧ t.groups = s.groups ∧ t.mem = s.mem) := by
  have hruns := exec_eend_done h ha hs he hm hmiss
  obtain ⟨h1, h2, h3⟩ := State.retireCmd_retired s c
  have hframe : (s.retireCmd c).cohorts = s.cohorts ∧ (s.retireCmd c).groups = s.groups ∧ (s.retireCmd c).mem = s.mem := by
    rw [State.retireCmd_frame]
    exact ⟨rfl, rfl, rfl⟩
  rw [hc, State.cmd?_slot h] at h1 h2
  generalize s.retireCmd c = t at hruns h1 h2 h3 hframe
  exact ⟨_, hruns, ⟨rfl, h1, h2, h3⟩, hframe⟩

theorem answers_eend_fails (h : s.cmd? k slot = some c) (hc : c.cluster = k) (ha : c.state = .active) (hs : c.settled = true)
    {f : FailKind} (hf : c.err = some f ∨ (c.err = none ∧ c.moved = c.len * c.rows ∧ c.missesCore = true ∧ f = .nack)) :
    Answers (exec (.eend k slot) s) (fun t => (t.waited = false ∧ t.cmd? k slot = none ∧ (∀ l ∈ (t.cluster k).rlt, l.cmd ≠ slot) ∧
      ∀ p, s.part? c.part = some p → ∃ q, t.part? c.part = some q ∧ q.decrements = p.decrements ++ c.notice) ∧
      (c.aw = none → t.cohorts = s.cohorts) ∧
      ∀ off, c.aw = some off → c.mcast = false → t.cohort? c.cohort = (s.failWord c.cohort off f).cohort? c.cohort) := by
  have hruns := exec_eend_fails h ha hs hf
  obtain ⟨h1, h2, h3⟩ := State.endErr_retired s c f
  have h4 : c.aw = none → (s.endErr c f).cohorts = s.cohorts := fun e => State.endErr_cohorts_none e f
  have h5 : ∀ off, c.aw = some off → c.mcast = false →
      (s.endErr c f).cohort? c.cohort = (s.failWord c.cohort off f).cohort? c.cohort := fun off e hm => State.endErr_cohort? e hm f _
  rw [hc, State.cmd?_slot h] at h1 h2
  generalize s.endErr c f = t at hruns h1 h2 h3 h4 h5
  exact ⟨_, hruns, ⟨rfl, h1, h2, h3⟩, h4, h5⟩

end

end Sys2Proof.Machine
end

section
namespace Sys2Proof.Machine

/-! ### What a write of the device itself leaves (R326) -/

/-- A claim changes bytes of memory and their keys, and nothing else. -/
theorem State.claim_frame (s : State) (k : Nat) (secs : List Nat) :
    s.claim k secs = { s with mem := (s.claim k secs).mem, memKey := (s.claim k secs).memKey } := by
  unfold State.claim
  split
  · rfl
  · refine foldl_keeps (fun t : State => t = { s with mem := t.mem, memKey := t.memKey }) _ (fun t sec h => ?_) secs s rfl
    rw [h]
    split
    · rfl
    · split <;> rfl

theorem State.writeHome_frame (s : State) (k : Nat) (bs : List WByte) : s.writeHome k bs =
    { s with mem := (s.writeHome k bs).mem, memPois := (s.writeHome k bs).memPois, memKey := (s.writeHome k bs).memKey
             groups := (s.writeHome k bs).groups } := by
  have h := State.claim_frame s k (sectorsOf (bs.filter (fun b => physOk b.addr)))
  unfold State.writeHome
  dsimp only
  generalize s.claim k (sectorsOf (bs.filter (fun b => physOk b.addr))) = u at h ⊢
  rw [h]
  rfl

theorem State.refreshPend_frame (s : State) (p : Part) (pgid : BitVec 16) : s.refreshPend p pgid =
    { s with mem := (s.refreshPend p pgid).mem, memPois := (s.refreshPend p pgid).memPois, memKey := (s.refreshPend p pgid).memKey
             groups := (s.refreshPend p pgid).groups } := by
  unfold State.refreshPend
  split
  · rfl
  · exact State.writeHome_frame s p.id _

/-! ### What keeps the deltas and the buckets (R52, R374) -/

/-- t has the deltas of s and its partitions, with the buckets of each. -/
structure Calm (s t : State) : Prop where
  pq : t.pq = s.pq
  part : ∀ k p, s.part? k = some p → ∃ q, t.part? k = some q ∧ q.buckets = p.buckets

namespace Calm

theorem of_parts {s t : State} (h : t.pq = s.pq) (hp : t.parts = s.parts) : Calm s t :=
  ⟨h, fun k p hk => ⟨p, (State.part?_congr hp k).trans hk, rfl⟩⟩

theorem refl (s : State) : Calm s s := of_parts rfl rfl

theorem trans {s t u : State} (h1 : Calm s t) (h2 : Calm t u) : Calm s u := by
  refine ⟨h2.pq.trans h1.pq, fun k p hp => ?_⟩
  obtain ⟨q, hq, e⟩ := h1.part k p hp
  obtain ⟨r, hr, e'⟩ := h2.part k q hq
  exact ⟨r, hr, e'.trans e⟩

theorem setPart {s : State} {p q : Part} (hp : s.part? q.id = some p) (h : q.buckets = p.buckets) : Calm s (s.setPart q) := by
  refine ⟨rfl, fun k x hx => ?_⟩
  by_cases hk : k = q.id
  · subst hk
    obtain rfl : p = x := Option.some.inj (hp.symm.trans hx)
    exact ⟨q, State.part?_setPart_self hp rfl, h⟩
  · exact ⟨x, (State.part?_setPart_ne rfl hk).trans hx, rfl⟩

theorem noteTask (s : State) (k tid : Nat) (x : Chkiv) : Calm s (s.noteTask k tid x) := by
  unfold State.noteTask
  cases h : s.part? k with
  | none =>
    rw [show s.onPart k _ = s by simp [State.onPart, h]]
    exact refl s
  | some p =>
    rw [State.onPart_eq _ h]
    obtain rfl : p.id = k := State.part?_id h
    exact setPart h rfl

theorem noteExited (s : State) (uid k tid : Nat) (x : Chkiv) : Calm s (s.noteExited uid k tid x) := by
  unfold State.noteExited
  split
  · split
    · exact noteTask s k tid x
    · exact refl s
  · exact refl s

theorem noteCohort (s : State) (uid k tid : Nat) (x : Chkiv) : Calm s (s.noteCohort uid k tid x) := by
  unfold State.noteCohort
  split
  · split
    · exact noteExited s uid k tid x
    · exact of_parts rfl rfl
  · exact noteExited s uid k tid x

theorem noteCmd (s : State) (c : Cmd) (x : Chkiv) : Calm s (s.noteCmd c x) := by
  unfold State.noteCmd
  split
  · exact noteExited s _ _ _ x
  · exact noteCohort s _ _ _ x

theorem onCmd (s : State) (k slot : Nat) (f : Cmd → Cmd) : Calm s (s.onCmd k slot f) := of_parts rfl rfl

theorem engineFault (s : State) (c : Cmd) (a : Nat) : Calm s (s.engineFault c a false) := by
  have hlog : Calm s (s.logOnly (dieOf c.core) 0x0B 1 c.part c.tid 0 a) := of_parts rfl rfl
  exact (hlog.trans (noteCmd _ c _)).trans (onCmd _ _ _ _)

theorem closeChunk (s : State) (id : Nat) : Calm s (s.closeChunk id) := by
  unfold State.closeChunk
  split
  · exact refl s
  · next o _ =>
    split
    · split
      · exact of_parts rfl rfl
      · split <;> exact of_parts rfl rfl
    · next u num _ =>
      dsimp only
      split
      · exact of_parts rfl rfl
      · next c _ =>
        have hdrop : Calm s (s.dropOpen id) := of_parts rfl rfl
        split
        · exact (hdrop.trans (onCmd _ _ _ _)).trans (engineFault _ c o.va)
        · exact hdrop.trans (onCmd _ _ _ _)

/-- A delta that leaves PQ takes no other with it, and changes no bucket (R339, R375). -/
theorem dropDelta (s : State) (d : Delta) : Calm { s with pq := s.pq.filter (fun x => x.id != d.id) } (s.dropDelta d) := by
  unfold State.dropDelta
  dsimp only
  generalize ({ s with pq := s.pq.filter (fun x => x.id != d.id) } : State) = u
  have hpend : ∀ p, Calm u (u.refreshPend p d.pgid) := fun p => by
    rw [State.refreshPend_frame]
    exact of_parts rfl rfl
  split
  · split
    · split
      · exact (hpend _).trans (closeChunk _ _)
      · exact hpend _
    · split
      · exact closeChunk _ _
      · exact refl u
  · split
    · exact hpend _
    · exact refl u

end Calm

theorem State.dropDelta_linkOut {s : State} {d : Delta} (h : ∀ o, d.source ≠ .peer o) : (s.dropDelta d).linkOut = s.linkOut := by
  unfold State.dropDelta
  dsimp only
  split
  · next o e => exact absurd e (h o)
  · split
    · rw [State.refreshPend_frame]
    · rfl

/-! ### A delta's member (R376) -/

theorem State.parityRecord?_congr {s t : State} {p q : Part} (hid : q.id = p.id) (hctl : q.ctl = p.ctl)
    (h : ∀ a, t.readAs p.id a = s.readAs p.id a) (g : BitVec 16) : t.parityRecord? q g = s.parityRecord? p g := by
  have hw : ∀ a, t.readWordAs q.id a = s.readWordAs p.id a := fun a => by
    rw [hid]
    exact State.readWordAs_congr fun i _ => h _
  unfold State.parityRecord?
  rw [hctl]
  simp only [hw]

/-- A change of a bucket is one that a write makes too: of the partitions only buckets differ. -/
theorem Stored.setBucket {s : State} {p : Part} (hp : s.part? p.id = some p) (id : BucketId) (f : Bucket → Bucket) :
    Stored s (s.setPart (p.onBucket id f)) := by
  refine ⟨DeskFrame.setPart s _, fun k => ?_⟩
  by_cases hk : k = p.id
  · subst hk
    refine ⟨fun _ => (p.onBucket id f).buckets, ?_⟩
    rw [State.part?_setPart_self (q := p.onBucket id f) hp rfl, hp]
    rfl
  · refine ⟨Part.buckets, ?_⟩
    rw [State.part?_setPart_ne (show (p.onBucket id f).id = p.id from rfl) hk]
    exact Option.map_id'.symm

/-- Whether a delta's member is live depends on what its partition reads, and not on buckets. -/
theorem State.deltaLive_congr {s t : State} (h : Stored s t) (hread : ∀ k a, t.readAs k a = s.readAs k a) (d : Delta) :
    t.deltaLive d = s.deltaLive d := by
  obtain ⟨b, hb⟩ := h.parts d.part
  unfold State.deltaLive
  rw [hb]
  cases s.part? d.part with
  | none => rw [Option.map_none, Option.bind_none, Option.bind_none]
  | some p =>
    have hrec : t.parityRecord? { p with buckets := b p } d.pgid = s.parityRecord? p d.pgid :=
      State.parityRecord?_congr rfl rfl (hread p.id) d.pgid
    rw [Option.map_some, Option.bind_some, Option.bind_some, hrec]

end Sys2Proof.Machine
end

section
namespace Sys2Proof.Machine

/-! ### A piece that leaves its bucket (R52) -/

theorem Part.mutes_iff {p : Part} {id : BucketId} : p.mutes id = true ↔ p.totals.linku = 0 ∧ ∃ port, id = .link port := by
  cases id with
  | memory k => simp [Part.mutes]
  | link port => simp [Part.mutes]

/-- The bucket has given its tokens, and its oldest piece. -/
def State.tookPiece (s : State) (p : Part) (id : BucketId) (n : Nat) (rest : List (Transfer × Nat)) : State :=
  s.setPart (p.onBucket id (fun b => { b with tokens := b.tokens - 11 * n, pieces := rest }))

theorem exec_bucketPieceLeave_of {s : State} {kp : Nat} {p : Part} {id : BucketId} {b : Bucket} {x : Transfer} {n : Nat}
    {rest : List (Transfer × Nat)} (hp : s.part? kp = some p) (hb : p.buckets.find? (fun y => y.1 == id) = some (id, b))
    (hpieces : b.pieces = (x, n) :: rest) :
    exec (.bucketPieceLeave kp id) s =
      if (p.mutes id || decide (b.tokens < 11 * n)) = true then s.done else ((s.tookPiece p id n rest).pieceLeft x).done := by
  rw [exec_bucketPieceLeave]
  unfold execBucketPieceLeave
  rw [hp]
  dsimp only
  rw [hb]
  dsimp only [Option.map_some]
  rw [hpieces]
  rfl

section
variable {s : State} {kp : Nat} {p : Part} {id : BucketId} {b : Bucket}

theorem State.part?_tookPiece (hp : s.part? kp = some p) (hb : p.buckets.find? (fun y => y.1 == id) = some (id, b)) (n : Nat)
    (rest : List (Transfer × Nat)) : ∃ q, (s.tookPiece p id n rest).part? kp = some q ∧
      q.buckets.find? (fun y => y.1 == id) = some (id, { b with tokens := b.tokens - 11 * n, pieces := rest }) := by
  have hid : p.id = kp := State.part?_id hp
  refine ⟨_, State.part?_setPart_self hp hid, ?_⟩
  rw [Part.find?_onBucket, hb, Option.map_some, if_pos rfl]

theorem State.deltaLive_tookPiece (hp : s.part? kp = some p) (n : Nat) (rest : List (Transfer × Nat)) (d : Delta) :
    (s.tookPiece p id n rest).deltaLive d = s.deltaLive d := by
  have hid : p.id = kp := State.part?_id hp
  have hstored : Stored s (s.tookPiece p id n rest) := Stored.setBucket (hid ▸ hp) id _
  exact State.deltaLive_congr hstored (fun k a =>
    State.readAs_congr (s := s) (t := s.tookPiece p id n rest) rfl rfl rfl (hstored.keyOf k) a) d

end

/-! ### What follows a piece (R52, R376) -/

section
variable {u : State} {did : Nat} {d : Delta}

theorem State.pieceLeft_delta_none (h : u.pq.find? (fun d => d.id == did) = none) : u.pieceLeft (.delta did) = u := by
  unfold State.pieceLeft
  dsimp only
  rw [h]

theorem State.pieceLeft_delta_dead (h : u.pq.find? (fun d => d.id == did) = some d) (hl : u.deltaLive d = false) :
    u.pieceLeft (.delta did) = u.dropDelta d := by
  unfold State.pieceLeft
  dsimp only
  rw [h]
  dsimp only
  rw [hl]
  rfl

theorem State.pieceLeft_delta_live (h : u.pq.find? (fun d => d.id == did) = some d) (hl : u.deltaLive d = true) :
    u.pieceLeft (.delta did) = ({ u with pq := u.pq.map (fun x => if x.id = did then { x with sent := true, sentUs := u.refUs } else x) }
      : State).links [.delta d.id d.pgid d.member d.va d.bytes d.pois] := by
  unfold State.pieceLeft
  dsimp only
  rw [h]
  dsimp only
  rw [hl]
  rfl

/-- A delta marked as sent is found under its number. -/
theorem find?_marked {l : List Delta} (h : l.find? (fun d => d.id == did) = some d) (us : Nat) :
    (l.map (fun x => if x.id = did then { x with sent := true, sentUs := us } else x)).find? (fun d => d.id == did) =
      some { d with sent := true, sentUs := us } := by
  have hd : d.id = did := by simpa using List.find?_some h
  rw [List.find?_map, show (fun d : Delta => d.id == did) ∘ (fun x : Delta => if x.id = did then
      { x with sent := true, sentUs := us } else x) = fun d => d.id == did from funext fun x => by
    rw [Function.comp_apply]
    split <;> rfl, h, Option.map_some, if_pos hd]

/-- A piece that leaves, but for a delta that goes nowhere, leaves memory and the partitions as they are. -/
theorem State.pieceLeft_frame {x : Transfer} (h : ∀ did d, x = .delta did → u.pq.find? (fun d => d.id == did) = some d →
    u.deltaLive d = true) : (u.pieceLeft x).mem = u.mem ∧ (u.pieceLeft x).parts = u.parts := by
  cases x with
  | command k uid => exact ⟨rfl, rfl⟩
  | delta did =>
    cases hd : u.pq.find? (fun d => d.id == did) with
    | none =>
      rw [State.pieceLeft_delta_none hd]
      exact ⟨rfl, rfl⟩
    | some d =>
      rw [State.pieceLeft_delta_live hd (h did d rfl hd)]
      exact ⟨rfl, rfl⟩
  | push uid =>
    show (u.onCohort uid _).mem = u.mem ∧ (u.onCohort uid _).parts = u.parts
    rw [State.onCohort_frame]
    exact ⟨rfl, rfl⟩
  | reply va data => exact ⟨rfl, rfl⟩

/-- The command whose piece it was has one fewer at the buckets. -/
theorem State.cmd?_pieceLeft {k slot : Nat} {c : Cmd} (h : u.cmd? k slot = some c) :
    (u.pieceLeft (.command k c.uid)).cmd? k slot = some { c with pieces := c.pieces - 1 } := by
  have hkeep : (fun x : Cmd => x.slot == slot) ∘ (fun x : Cmd => if x.uid = c.uid then { x with pieces := x.pieces - 1 } else x) =
      fun x => x.slot == slot := funext fun x => by
    rw [Function.comp_apply]
    split <;> rfl
  show (u.onCluster k _).cmd? k slot = _
  unfold State.cmd?
  rw [State.cluster_onCluster, List.find?_map, hkeep, show (u.cluster k).eq.find? (fun x => x.slot == slot) = some c from h,
    Option.map_some, if_pos rfl]

/-- The push whose piece it was has one fewer at the buckets. -/
theorem State.cohort?_pieceLeft {uid m : Nat} {co : Cohort} {w : Walk} (h : u.cohort? uid = some co) (hw : co.seq.walk = some w)
    (hm : w.pieces = some m) : ∃ co', (u.pieceLeft (.push uid)).cohort? uid = some co' ∧
      co' = { co with seq := { co.seq with walk := some { w with pieces := some (m - 1) } } } := by
  refine ⟨_, State.cohort?_onCohort (fun co => { co with seq := { co.seq with
    walk := co.seq.walk.map (fun w => { w with pieces := w.pieces.map (· - 1) }) } }) h rfl, ?_⟩
  rw [hw, Option.map_some, hm]
  rfl

end

end Sys2Proof.Machine
end

section
namespace Sys2Proof.Machine

/-! ### The engine in motion -/

section
variable {s : State} {kp n : Nat} {p : Part} {id : BucketId} {b : Bucket} {x : Transfer} {rest : List (Transfer × Nat)}

theorem exec_bucketPieceLeave_waits (hp : s.part? kp = some p) (hb : p.buckets.find? (fun y => y.1 == id) = some (id, b))
    (hpieces : b.pieces = (x, n) :: rest) (h : (p.totals.linku = 0 ∧ ∃ port, id = .link port) ∨ b.tokens < 11 * n) :
    exec (.bucketPieceLeave kp id) s = .next { s with waited := false } := by
  rw [exec_bucketPieceLeave_of hp hb hpieces]
  refine if_pos ?_
  rw [Bool.or_eq_true, decide_eq_true_eq, Part.mutes_iff]
  exact h

theorem exec_bucketPieceLeave_leaves (hp : s.part? kp = some p) (hb : p.buckets.find? (fun y => y.1 == id) = some (id, b))
    (hpieces : b.pieces = (x, n) :: rest) (hmute : ¬ (p.totals.linku = 0 ∧ ∃ port, id = .link port)) (htokens : 11 * n ≤ b.tokens) :
    exec (.bucketPieceLeave kp id) s = ((s.tookPiece p id n rest).pieceLeft x).done := by
  rw [exec_bucketPieceLeave_of hp hb hpieces]
  refine if_neg ?_
  rw [Bool.or_eq_true, decide_eq_true_eq, Part.mutes_iff]
  exact not_or.2 ⟨hmute, Nat.not_lt.2 htokens⟩

/-- R376: a delta to a member that is live no more leaves its bucket, and is sent nowhere. -/
theorem answers_bucketPieceLeave_dead {did : Nat} {d : Delta} (hp : s.part? kp = some p)
    (hb : p.buckets.find? (fun y => y.1 == id) = some (id, b)) (hpieces : b.pieces = (.delta did, n) :: rest)
    (hmute : ¬ (p.totals.linku = 0 ∧ ∃ port, id = .link port)) (htokens : 11 * n ≤ b.tokens)
    (hd : s.pq.find? (fun d => d.id == did) = some d) (hl : s.deltaLive d = false) :
    Answers (exec (.bucketPieceLeave kp id) s) (fun t => t.waited = false ∧ t.pq = s.pq.filter (fun y => y.id != did) ∧
      ((∀ o, d.source ≠ .peer o) → t.linkOut = s.linkOut) ∧ ∃ q, t.part? kp = some q ∧
        q.buckets.find? (fun x => x.1 == id) = some (id, { b with tokens := b.tokens - 11 * n, pieces := rest })) := by
  have hruns := exec_bucketPieceLeave_leaves hp hb hpieces hmute htokens
  obtain ⟨q, hq, hqb⟩ := State.part?_tookPiece hp hb n rest
  have hlive := State.deltaLive_tookPiece (id := id) hp n rest d
  have hpq : (s.tookPiece p id n rest).pq = s.pq := rfl
  have hlink : (s.tookPiece p id n rest).linkOut = s.linkOut := rfl
  generalize s.tookPiece p id n rest = u at hruns hq hlive hpq hlink
  rw [State.pieceLeft_delta_dead (by rw [hpq]; exact hd) (hlive.trans hl)] at hruns
  obtain ⟨h1, h2⟩ := Calm.dropDelta u d
  obtain ⟨r, hr, hrb⟩ := h2 kp q hq
  have hid : d.id = did := by simpa using List.find?_some hd
  have h3 : (∀ o, d.source ≠ .peer o) → (u.dropDelta d).linkOut = s.linkOut := fun h => (State.dropDelta_linkOut h).trans hlink
  generalize u.dropDelta d = t at hruns h1 hr h3
  refine ⟨_, hruns, rfl, ?_, h3, r, hr, by rw [hrb]; exact hqb⟩
  rw [← hid, ← hpq]
  exact h1

/-- R52: the oldest piece leaves for its tokens, and what waited for it goes on. -/
theorem answers_bucketPieceLeave (hp : s.part? kp = some p) (hb : p.buckets.find? (fun y => y.1 == id) = some (id, b))
    (hpieces : b.pieces = (x, n) :: rest) (hmute : ¬ (p.totals.linku = 0 ∧ ∃ port, id = .link port)) (htokens : 11 * n ≤ b.tokens)
    (hl : ∀ did d, x = .delta did → s.pq.find? (fun d => d.id == did) = some d → s.deltaLive d = true) {k slot : Nat} {c : Cmd}
    (hc : s.cmd? k slot = some c) :
    Answers (exec (.bucketPieceLeave kp id) s) (fun t => t.waited = false ∧ t.mem = s.mem ∧
      (∃ q, t.part? kp = some q ∧
        q.buckets.find? (fun x => x.1 == id) = some (id, { b with tokens := b.tokens - 11 * n, pieces := rest })) ∧
      (x = .command k c.uid → t.cmd? k slot = some { c with pieces := c.pieces - 1 }) ∧
      (∀ did d, x = .delta did → s.pq.find? (fun d => d.id == did) = some d →
        t.linkOut = s.linkOut ++ [.delta d.id d.pgid d.member d.va d.bytes d.pois] ∧
        t.pq.find? (fun d => d.id == did) = some { d with sent := true, sentUs := s.refUs }) ∧
      (∀ va data, x = .reply va data → t.linkOut = s.linkOut ++ [.readReply va data]) ∧
      ∀ uid co w m, x = .push uid → s.cohort? uid = some co → co.seq.walk = some w → w.pieces = some m →
        ∃ co', t.cohort? uid = some co' ∧ co' = { co with seq := { co.seq with walk := some { w with pieces := some (m - 1) } } }) := by
  have hruns := exec_bucketPieceLeave_leaves hp hb hpieces hmute htokens
  obtain ⟨q, hq, hqb⟩ := State.part?_tookPiece hp hb n rest
  have hframe : s.tookPiece p id n rest = { s with parts := (s.tookPiece p id n rest).parts } := rfl
  have hlive := fun d => State.deltaLive_tookPiece (id := id) hp n rest d
  generalize s.tookPiece p id n rest = u at hruns hq hframe hlive
  have hupq : u.pq = s.pq := by rw [hframe]
  have hulive : ∀ did d, x = .delta did → u.pq.find? (fun d => d.id == did) = some d → u.deltaLive d = true := by
    intro did d hx hd
    rw [hlive d]
    exact hl did d hx (by rw [← hupq]; exact hd)
  obtain ⟨hmem, hparts⟩ := State.pieceLeft_frame hulive
  refine ⟨_, hruns, rfl, ?_, ⟨q, (State.part?_congr hparts kp).trans hq, hqb⟩, ?_, ?_, ?_, ?_⟩
  · exact hmem.trans (by rw [hframe])
  · rintro rfl
    exact State.cmd?_pieceLeft (u := u) ((State.cmd?_congr (by rw [hframe]) k slot).trans hc)
  · rintro did d rfl hd
    have hud : u.pq.find? (fun d => d.id == did) = some d := by rw [hupq]; exact hd
    rw [State.pieceLeft_delta_live hud (hulive did d rfl hud)]
    refine ⟨?_, (find?_marked hud u.refUs).trans ?_⟩
    · show u.linkOut ++ _ = _
      rw [hframe]
    · rw [hframe]
  · rintro va data rfl
    show u.linkOut ++ _ = _
    rw [hframe]
  · rintro uid co w m rfl hco hw hm
    exact State.cohort?_pieceLeft ((State.cohort?_congr (by rw [hframe]) uid).trans hco) hw hm

end

/-- Settles O49: one lemma for each step of a command's life, and for a piece that leaves its bucket. -/
theorem commandsRun : Obligations.CommandsRun := by
  unfold Obligations.CommandsRun
  intro s k slot c h hc
  dsimp only
  refine ⟨fun hq hg hh => ⟨exec_activate_waits h, fun hl => answers_activate h hq hg hh hl⟩, fun p bytes hp ha he hm hk => ⟨?_, ?_⟩,
    fun n a b hn => Cmd.mem_chunkMoves hn, fun chunk n ha hn hd => answers_earrive h hc ha hn hd, fun ha hs => ⟨?_, ?_⟩, ?_⟩
  · exact fun h0 hids => answers_move_asks h hc hp ha he hm hk h0 hids
  · intro co f hids hpieces hpeer ho hkr hd hmc hco hsrc
    exact answers_move_scratch h hc hp ha he hm hk hids hpieces hpeer ho hkr hd hmc hco hsrc
  · exact fun he hm hmiss => answers_eend_done h hc ha hs he hm hmiss
  · exact fun f hf => answers_eend_fails h hc ha hs hf
  · intro kp p id b x n rest hp hb hpieces
    refine ⟨exec_bucketPieceLeave_waits hp hb hpieces, ?_, ?_⟩
    · rintro did d hmute htokens rfl hd hl
      exact answers_bucketPieceLeave_dead hp hb hpieces hmute htokens hd hl
    · intro hmute htokens hl
      obtain ⟨t, hruns, h1, h2, h3, h4, h5, h6, h7⟩ := answers_bucketPieceLeave hp hb hpieces hmute htokens hl h
      exact ⟨t, hruns, h1, h2, h3, fun hx _ => h4 hx, h5, h6, h7⟩

end Sys2Proof.Machine
end

section
namespace Sys2Proof

open Laws.RoundTrip in
/-- Settles O55: the round trip of each instruction, constructor by constructor in the order of `Instr`. -/
theorem encodeThenDecode : Obligations.EncodeThenDecode := by
  unfold Obligations.EncodeThenDecode
  intro i
  exact Instr.casesOn (motive := Statement) i
    createKernelTask createJoinTask lpstatClear cqheadWrite prqheadWrite registerWrite pageRequestAnswer
    createPartition resizePartition destroyPartition setBuckets attest pwrcapWrite clockStepChange thermHot
    thermNormal thermalTrip supplySag reset memUe corrected ctrlUe taskDecrement dispatch cohortPlacement groupAdmit
    preemptionDiscard groupEnd cohortExit taskComplete earlyRelease completionEntry cohortKill headerFetch turn drain
    lift home refresh drop fillComplete bucketPieceLeave activate move earrive eend peerChunkReceive peerNackReceive
    ackTimeout targetChunkTimeout reduceApply parityDeltaApply parityAck parityDrop landingPermitGrant tilePush
    multicastDelivery operandFetch lmmServe engineHandover streamOvertake replay reclaim nop bra brp bru brx call ret
    exit yield regang vote plop maskrd bar loopb refill bkpt commit iadd iaddI isub isubI imul imulI imad imulh imulhI
    imnx imnxI iabs icmp icmpI sel mov movi lea leaI idot4 idot8 lop lopI shf shfI bfx bfi popc clz brev lxch fadd
    faddI fmul fmulI ffma fmnx fmnxI fcmp fcmpI fsfu fclass hfma2 hadd2 hmul2 cvt qcvt ld st lds sts ldk wld wstat trb
    pref atom cas lr sc fence xfence cpy cpyg cpys cpyr cpyh crel bin bpatch awset awadd awwait awgen lmm mrd mwr capo
    spawn arm tdec trig park acquire shed halloc hfree hweak hupg hrel hpri ldw rebuild trap rft chkerr crd cwr pmap
    preq mdesc mld mmul msca mzero madd mscl mcvt mpub msettle mst mbar mloop mpri mend lflitWrite malformedWord
    malformedFtWord peerRead

end Sys2Proof
end

section
namespace Sys2Proof

/-! ### What a decoded group word names (R61, R68) -/

/-- A source field of the decoder takes its own literals from the words after it, and no others (R61). -/
theorem Src.literals_of_ofCode {c : BitVec 8} {w : Bool} {lits left : List Word64} {x : Src}
    (h : Src.ofCode c w lits = some (x, left)) : lits = x.literals ++ left := by
  unfold Src.ofCode at h
  split at h
  · cases lits with
    | nil => cases h
    | cons l rest => cases h; rfl
  · cases h; rfl

theorem Src.literals_length (x : Src) : x.literals.length = x.words := by cases x <;> rfl

theorem literalsOf_length (a b c : Src) : (literalsOf a b c).length = a.words + b.words + c.words := by
  simp only [literalsOf, List.length_append, Src.literals_length]

theorem readSources_literals {w : Word64} {lits left : List Word64} {a b c : Src}
    (h : readSources w lits = some (a, b, c, left)) : lits = literalsOf a b c ++ left := by
  unfold readSources at h
  split at h
  · cases h
  · next la ha =>
    split at h
    · cases h
    · next lb hb =>
      split at h
      · cases h
      · next lc hc =>
        cases h
        rw [Src.literals_of_ofCode ha, Src.literals_of_ofCode hb, Src.literals_of_ofCode hc]
        simp only [literalsOf, List.append_assoc]

/-- The words of a block after a group word are the word's n − 1 literals and what is left over. -/
def Takes (n : Nat) (rest left : List Word64) : Prop := ∃ lits, rest = lits ++ left ∧ n = 1 + lits.length

theorem readF3_takes {w : Word64} {rest left : List Word64} {x : F3} (h : readF3 w rest = some (x, left)) :
    Takes x.words rest left := by
  unfold readF3 at h
  split at h
  · cases h
  · next hs =>
    cases h
    exact ⟨_, readSources_literals hs, by simp only [F3.words, literalsOf_length]; omega⟩

theorem readFI_takes {w : Word64} {rest left : List Word64} {x : FI} (h : readFI w rest = some (x, left)) :
    Takes x.words rest left := by
  unfold readFI at h
  split at h
  · cases h
  · next hs =>
    cases h
    exact ⟨_, Src.literals_of_ofCode hs, by rw [FI.words, Src.literals_length]⟩

theorem readFM_takes {w : Word64} {rest left : List Word64} {x : FM} (h : readFM w rest = some (x, left)) :
    Takes x.words rest left := by
  unfold readFM at h
  split at h
  · cases h
  · next hs =>
    cases h
    exact ⟨_, readSources_literals hs, by simp only [FM.words, literalsOf_length]; omega⟩

theorem readFX_takes {w : Word64} {rest left : List Word64} {x : FX} (h : readFX w rest = some (x, left)) :
    Takes x.words rest left := by
  unfold readFX at h
  split at h
  · cases h
  · next hs =>
    cases h
    exact ⟨_, readSources_literals hs, by simp only [FX.words, literalsOf_length]; omega⟩

/-! The opcode map gives each OPC an instruction of that OPC, which takes the words of its format (R68). -/

theorem ctorF3_opcode {opc : Nat} {mk : F3 → Instr} (h : ctorF3 opc = some mk) (x : F3) :
    (mk x).opcode = opc ∧ (mk x).words = x.words := by
  unfold ctorF3 at h
  split at h <;> cases h <;> exact ⟨rfl, rfl⟩

theorem ctorFI_opcode {opc : Nat} {mk : FI → Instr} (h : ctorFI opc = some mk) (x : FI) :
    (mk x).opcode = opc ∧ (mk x).words = x.words := by
  unfold ctorFI at h
  split at h <;> cases h <;> exact ⟨rfl, rfl⟩

theorem ctorFM_opcode {opc : Nat} {mk : FM → Instr} (h : ctorFM opc = some mk) (x : FM) :
    (mk x).opcode = opc ∧ (mk x).words = x.words := by
  unfold ctorFM at h
  split at h <;> cases h <;> exact ⟨rfl, rfl⟩

theorem ctorFX_opcode {opc : Nat} {mk : FX → Instr} (h : ctorFX opc = some mk) (x : FX) :
    (mk x).opcode = opc ∧ (mk x).words = x.words := by
  unfold ctorFX at h
  split at h <;> cases h <;> exact ⟨rfl, rfl⟩

theorem ctorFB_opcode {opc : Nat} {mk : FB → Instr} (h : ctorFB opc = some mk) (x : FB) :
    (mk x).opcode = opc ∧ (mk x).words = 1 := by
  unfold ctorFB at h
  split at h <;> cases h <;> exact ⟨rfl, rfl⟩

/-- A read that gave an instruction read a format. -/
theorem finishRead_ok {α : Type} {mk : α → Instr} {r : Option (α × List Word64)} {i : Instr} {left : List Word64}
    (h : finishRead mk r = .ok (i, left)) : ∃ x, r = some (x, left) ∧ i = mk x := by
  cases r with
  | none => cases h
  | some y => cases h; exact ⟨_, rfl, rfl⟩

/-- A group word that decodes is the instruction of its OPC, and takes itself and its literals: the decoder reads it in the
format of its OPC. -/
theorem decode_ok {w : Word64} {rest left : List Word64} {i : Instr} (h : decode w rest = .ok (i, left)) :
    i.opcode = (bits w 54 10).toNat ∧ Takes i.words rest left := by
  unfold decode at h
  split at h
  · cases h
  split at h
  · next mk hc =>
    obtain ⟨x, hr, rfl⟩ := finishRead_ok h
    obtain ⟨ho, hw⟩ := ctorF3_opcode hc x
    exact ⟨ho, hw ▸ readF3_takes hr⟩
  split at h
  · next mk hc =>
    obtain ⟨x, hr, rfl⟩ := finishRead_ok h
    obtain ⟨ho, hw⟩ := ctorFI_opcode hc x
    exact ⟨ho, hw ▸ readFI_takes hr⟩
  split at h
  · next mk hc =>
    obtain ⟨x, hr, rfl⟩ := finishRead_ok h
    obtain ⟨ho, hw⟩ := ctorFM_opcode hc x
    exact ⟨ho, hw ▸ readFM_takes hr⟩
  split at h
  · next mk hc =>
    obtain ⟨x, hr, rfl⟩ := finishRead_ok h
    obtain ⟨ho, hw⟩ := ctorFX_opcode hc x
    exact ⟨ho, hw ▸ readFX_takes hr⟩
  split at h
  · next mk hc =>
    cases h
    obtain ⟨ho, hw⟩ := ctorFB_opcode hc (readFB w)
    exact ⟨ho, [], rfl, hw⟩
  · cases h

/-- Settles O56: the stream decoder by the cases of its opcode map, and the group decoder by what a decoded word is. -/
theorem decodeReadsTheOpcode : Obligations.DecodeReadsTheOpcode := by
  unfold Obligations.DecodeReadsTheOpcode
  refine ⟨fun w => ?_, fun w rest left i h => ?_⟩
  · unfold decodeFT ctorFT
    generalize (bits w 56 8).toNat = mopc
    split
    case h_16 => simp only [*, Option.map_none]
    all_goals rfl
  · obtain ⟨ho, lits, rfl, hw⟩ := decode_ok h
    refine ⟨ho, ?_, lits, rfl⟩
    rw [List.length_append, hw]
    omega

end Sys2Proof
end

section
namespace Sys2Proof

/-- Settles O57: each word is read to its end, field by field. -/
theorem wordsDecode : Obligations.WordsDecode := by
  unfold Obligations.WordsDecode
  exact ⟨rfl, rfl, rfl, rfl, rfl, rfl, rfl, rfl, rfl⟩

end Sys2Proof
end

section
namespace Sys2Proof.Machine

/-! ### A header fetch that joins a path which waits in its block (R89)

The statement asks that the fetch of a header leaves every slice off the path as it was, but for its path's name. Where another
path waits at the block's first word in its ACQUIRE, the slices that enter the block join it there, and the joined path issues the
word anew (log 85): the slices that waited wait no more. -/

/-- A header of a block of one word. -/
def meetingHeader : Word64 := 0xF010000000000000

/-- Slice 0 stands at the header at address 8. Slice 1 is a path of its own, which waits in an ACQUIRE at the first word of that
header's block. The other slices have exited. -/
def meetingGroup : Group :=
  { Group.probe 0 0 with
    slices := { Slice.fresh 0 with pc := 8, hdr := true } ::
      { Slice.fresh 0 with pc := 16, hdr := false, path := 1, blkPc := 8, blk := meetingHeader, wait := .acquire false } ::
      List.replicate 30 Slice.gone }

/-- The device with that group, and the header where it lies. -/
def meetingState : State := { State.reset.placeWord 64 meetingHeader.toNat with groups := [meetingGroup] }

/-- The path of slice 0. -/
def meetingCtx : Ctx :=
  { g := meetingGroup, co := Cohort.fresh 0 0 Task.probe 0 0 0 0 0 0
    p := { Part.probe with tasks := [Task.probe], dispatched := [0], lastCore := some 0 }
    slices := [0], head := { Slice.fresh 0 with pc := 8, hdr := true } }

theorem meeting_ctx : ({ meetingState with cur := .path 0 0 } : State).ctx? = some meetingCtx := by rfl

theorem meeting_fetches : meetingCtx.g.letsIssue meetingCtx.head = true ∧ meetingState.mayIssue meetingCtx.g = true ∧
    meetingCtx.g.arrivals meetingCtx.path = meetingCtx.slices := by decide +kernel

theorem meeting_header :
    ((meetingState.setGroup meetingCtx.g).headerAt meetingCtx.p meetingCtx.g meetingCtx.pc).1 = .header meetingHeader := by
  decide +kernel

theorem meeting_not_regang (j : Nat) : (meetingCtx.g.sliceAt j).wait.isRegang = false := by
  have hall : meetingGroup.slices.all (fun x => !x.wait.isRegang) = true := by decide +kernel
  show (meetingGroup.sliceAt j).wait.isRegang = false
  rw [Group.sliceAt, List.getD_eq_getElem?_getD]
  cases h : meetingGroup.slices[j]? with
  | none => rfl
  | some x => simpa using List.all_eq_true.1 hall x (List.mem_of_getElem? h)

/-- Slice 1 after the fetch. -/
def meetingAfter : Option Slice :=
  match exec (.headerFetch 0 0) meetingState with
  | .next t => (t.group? 0).map (fun g => g.sliceAt 1)
  | _ => none

theorem meeting_joins : meetingAfter.map (·.wait) = some .none := by decide +kernel

/-- Refutes O46: the fetch of a header ends the wait of a path that stands in its ACQUIRE at the block's first word, since the
entering slices join it there, while the statement lets slices off the fetching path change in their path's name alone. -/
theorem not_headersAndMalformedWords : ¬ Obligations.HeadersAndMalformedWords := by
  unfold Obligations.HeadersAndMalformedWords
  intro ⟨_, hfetch⟩
  obtain ⟨hlets, hmay, harr⟩ := meeting_fetches
  obtain ⟨_, hheader⟩ := hfetch meetingState 0 0 meetingCtx (.header meetingHeader) _ meeting_ctx rfl hlets hmay harr
    (Prod.ext meeting_header rfl)
  obtain ⟨_, _, henter⟩ := hheader meetingHeader rfl
  obtain ⟨t, ht, _, _, g, hg, _, _, hothers⟩ := henter (by decide) (by decide) (by decide) (by decide) rfl rfl meeting_not_regang
  have hafter : meetingAfter = some (g.sliceAt 1) := by
    simp only [meetingAfter, ht]
    rw [hg]
    rfl
  have hkept : (g.sliceAt 1).wait = .acquire false := by rw [hothers 1 (by decide)]; rfl
  have hjoined := meeting_joins
  rw [hafter, Option.map_some, hkept] at hjoined
  revert hjoined
  decide

end Sys2Proof.Machine
end

section
namespace Sys2Proof.Machine

/-! ### What a fetch may change (R52, R199, R200) -/

/-- t differs from s at most in what a fetch uses: TLBs and victim storage, the free choices taken there, and the tokens of the
buckets that walks read through. -/
def FetchFrame (s t : State) : Prop :=
  t = { s with cores := t.cores, clusters := t.clusters, free := t.free, parts := t.parts }

namespace FetchFrame

theorem trans {s t u : State} (h1 : FetchFrame s t) (h2 : FetchFrame t u) : FetchFrame s u := by
  unfold FetchFrame at *
  rw [h1] at h2
  exact h2

variable {s t : State} (h : FetchFrame s t)
include h

theorem setCore (n : Nat) (c : Core) : FetchFrame s (t.setCore n c) := h.trans rfl
theorem setCluster (n : Nat) (c : Cluster) : FetchFrame s (t.setCluster n c) := h.trans rfl
theorem onPart (k : Nat) (f : Part → Part) : FetchFrame s (t.onPart k f) := h.trans (by unfold State.onPart; split <;> rfl)
theorem tlbInsert (cap : Nat) (tlb : List TlbEntry) (e : TlbEntry) : FetchFrame s (t.tlbInsert cap tlb e).1 :=
  h.trans (by unfold State.tlbInsert; split <;> rfl)

theorem groups : t.groups = s.groups := by rw [h]
theorem cohorts : t.cohorts = s.cohorts := by rw [h]
theorem readDM (a : Nat) : t.readDM a = s.readDM a := by rw [h]; rfl
theorem group? (i : Nat) : t.group? i = s.group? i := by rw [State.group?, h.groups]; rfl
theorem cohort? (u : Nat) : t.cohort? u = s.cohort? u := State.cohort?_congr h.cohorts u

end FetchFrame

theorem State.tlbFill_frame (s : State) (core : Nat) (e : TlbEntry) : FetchFrame s (s.tlbFill core e) := by
  have h0 : FetchFrame s s := rfl
  unfold State.tlbFill
  dsimp only
  split
  · rfl
  · split
    · exact (h0.tlbInsert _ _ _).setCore _ _
    · split
      · exact (((h0.tlbInsert _ _ _).setCore _ _).tlbInsert _ _ _).setCluster _ _
      · exact (((((h0.tlbInsert _ _ _).setCore _ _).tlbInsert _ _ _).setCluster _ _).tlbInsert _ _ _).setCluster _ _

theorem State.chargeWalk_frame (s : State) (p : Part) (asid : BitVec 8) (va : Nat) : FetchFrame s (s.chargeWalk p asid va) := by
  unfold State.chargeWalk
  split
  · rfl
  · exact foldl_keeps (FetchFrame s) _ (fun t _ ht => ht.onPart _ _) _ s rfl

theorem State.translate_frame (s : State) (p : Part) (core : Nat) (asid : BitVec 8) (va : Nat) :
    FetchFrame s (s.translate p core asid va).2 := by
  unfold State.translate
  dsimp only
  split
  · exact s.tlbFill_frame core _
  · split
    · exact (s.chargeWalk_frame p asid va).trans (State.tlbFill_frame _ core _)
    all_goals exact s.chargeWalk_frame p asid va

theorem State.fetchWord_frame (s : State) (p : Part) (core : Nat) (asid : BitVec 8) (va : Nat) :
    FetchFrame s (s.fetchWord p core asid va).2 := by
  have h := s.translate_frame p core asid va
  unfold State.fetchWord
  dsimp only
  split
  · refine h.trans ?_
    rw [State.reclaimVictims_frame]
    rfl
  · exact h

/-- Looking for a header changes no group, no cohort and no byte of memory. -/
theorem State.headerAt_frame {s t : State} {p : Part} {g : Group} {va : Addr} {x : HeaderAt} (h : s.headerAt p g va = (x, t)) :
    FetchFrame s t := by
  have h1 := s.fetchWord_frame p g.core g.ctl.asid va.toNat
  have h2 : (s.headerAt p g va).2 = (s.fetchWord p g.core g.ctl.asid va.toNat).2 := by
    unfold State.headerAt
    dsimp only
    split <;> rfl
  rw [h] at h2
  rwa [← h2] at h1

theorem State.atTarget_header {s t : State} {c : Ctx} {va : Addr} {w : Word64} (k : State → Word64 → Result)
    (h : s.headerAt c.p c.g va = (.header w, t)) : s.atTarget c va k = k t w := by
  unfold State.atTarget
  rw [h]

/-! ### Slices that part or meet (R89, R94) -/

theorem Group.keepTurn_eq (g old : Group) : g.keepTurn old =
    { g with ctl := { g.ctl with turns := (g.keepTurn old).ctl.turns, curPath := (g.keepTurn old).ctl.curPath } } := by
  unfold Group.keepTurn
  dsimp only
  split
  · rfl
  · split <;> rfl

@[simp] theorem Group.keepTurn_gid (g old : Group) : (g.keepTurn old).gid = g.gid := by rw [Group.keepTurn_eq]
@[simp] theorem Group.keepTurn_slices (g old : Group) : (g.keepTurn old).slices = g.slices := by rw [Group.keepTurn_eq]
@[simp] theorem Group.keepTurn_sliceAt (g old : Group) (i : Nat) : (g.keepTurn old).sliceAt i = g.sliceAt i := by
  rw [Group.sliceAt, Group.keepTurn_slices]; rfl
@[simp] theorem Group.keepTurn_splits (g old : Group) : (g.keepTurn old).splits = g.splits := by rw [Group.keepTurn_eq]

theorem Group.regroup_eq (g : Group) (is : List Nat) : g.regroup is = { g with slices := (g.regroup is).slices } := rfl

/-- Naming slices anew changes their path and nothing else. -/
theorem Group.sliceAt_regroup (g : Group) (is : List Nat) (i : Nat) :
    ∃ p, (g.regroup is).sliceAt i = { g.sliceAt i with path := p } := by
  unfold Group.regroup
  rw [Group.sliceAt_mapSlices]
  split
  · exact ⟨_, rfl⟩
  · exact ⟨(g.sliceAt i).path, rfl⟩

theorem Group.sliceAt_regroup_other {g : Group} {is : List Nat} {i : Nat} (h : i ∉ is) :
    (g.regroup is).sliceAt i = g.sliceAt i := by
  unfold Group.regroup
  rw [Group.sliceAt_mapSlices, if_neg (fun x => h x.1)]

/-- Every slice of the issuing path moved by `f` and the paths named anew, under the group's turn. -/
theorem Ctx.regroup_spec {s : State} {c : Ctx} (h : s.ctx? = some c) (g old : Group) (hg : g.slices = c.g.slices)
    (f : Nat → Slice → Slice) :
    let g' := ((g.mapSlices c.slices f).regroup c.slices).keepTurn old
    (∀ i ∈ c.slices, ∃ p, g'.sliceAt i = { f i (c.g.sliceAt i) with path := p }) ∧
    ∀ i, i ∉ c.slices → g'.sliceAt i = c.g.sliceAt i := by
  obtain ⟨hin, hout⟩ := Ctx.mapSlices_spec h g hg f
  refine ⟨fun i hi => ?_, fun i hi => ?_⟩
  · obtain ⟨p, e⟩ := Group.sliceAt_regroup (g.mapSlices c.slices f) c.slices i
    exact ⟨p, by rw [Group.keepTurn_sliceAt, e, hin i hi]⟩
  · rw [Group.keepTurn_sliceAt, Group.sliceAt_regroup_other hi, hout i hi]

/-- The end of a word that changes its group by `f`: the signature check may meet a kill condition, and nothing else is touched. -/
theorem State.onGroup_checkSig_done {s : State} {c : Ctx} {g : Group} (f : Group → Group) (opc words : Nat)
    (hs : s.group? c.g.gid = some g) (hf : (f g).gid = g.gid) :
    Answers ((s.onGroup c.g.gid f).checkSig c opc words).done (fun t =>
      t.waited = false ∧ OnlyGroup s t c.g.gid ∧ t.group? c.g.gid = some (f g)) := by
  obtain ⟨hg, honly⟩ := State.onGroup_spec f hs hf
  refine ⟨_, rfl, rfl, (honly.trans (State.checkSig_only _ c opc words _)).trans (OnlyGroup.waited _ _ _), ?_⟩
  exact (State.checkSig_group? (s.onGroup c.g.gid f) c opc words c.g.gid).trans hg

end Sys2Proof.Machine
end

section
namespace Sys2Proof.Machine

/-! ### Branches that part slices and lanes (R95, R96, R99, R117) -/

theorem State.atRcv_header {s t : State} {c : Ctx} {words : Nat} {target : Addr} {taken : List Nat} (k : State → Result)
    (h : match c.rcv with
      | some rpc => if !(c.partedBy taken).isEmpty || c.splitBy words target taken
          then ∃ w, s.headerAt c.p c.g rpc = (.header w, t) else t = s
      | none => t = s) :
    FetchFrame s t ∧ s.atRcv c words target taken k = k t := by
  unfold State.atRcv
  cases hr : c.rcv with
  | none =>
    rw [hr] at h
    subst h
    exact ⟨rfl, rfl⟩
  | some rpc =>
    simp only [hr] at h
    dsimp only
    split at h
    · next hd =>
      obtain ⟨w, hw⟩ := h
      rw [if_pos hd, State.atTarget_header _ hw]
      exact ⟨State.headerAt_frame hw, rfl⟩
    · next hd =>
      subst h
      rw [if_neg hd]
      exact ⟨rfl, rfl⟩

/-- The path's slices under the split entry of a branch that leaves them at different PCs (R99). -/
def Ctx.withSplit (c : Ctx) (splits : Bool) (g : Group) : Group :=
  match c.rcv, g.freeSplit with
  | some rpc, some k =>
    if splits then (g.setSplit k (some (c.newSplit rpc))).mapSlices c.slices (fun _ x => { x with spl := some k }) else g
  | _, _ => g

theorem Ctx.withSplit_eq (c : Ctx) (splits : Bool) (g : Group) : c.withSplit splits g =
    { g with slices := (c.withSplit splits g).slices, splits := (c.withSplit splits g).splits } := by
  unfold Ctx.withSplit
  split
  · split <;> rfl
  · rfl

/-- With a free entry at hand, the path's slices name it where the branch splits them, and no other entry changes. -/
theorem Ctx.withSplit_spec (c : Ctx) (splits : Bool) (g : Group)
    (h : splits = true → c.rcv.isSome = true → g.freeSplit.isSome = true) :
    (∀ i, (c.withSplit splits g).sliceAt i = if i ∈ c.slices ∧ i < g.slices.length
      then { g.sliceAt i with spl := if splits && c.rcv.isSome then g.freeSplit else (g.sliceAt i).spl } else g.sliceAt i) ∧
    ∀ k, (c.withSplit splits g).split? k = if splits && c.rcv.isSome && g.freeSplit == some k
      then some (c.newSplit (c.rcv.getD 0)) else g.split? k := by
  unfold Ctx.withSplit
  cases hr : c.rcv with
  | none => simp
  | some rpc =>
    cases splits with
    | false => cases g.freeSplit <;> simp
    | true =>
      obtain ⟨j, hj⟩ := Option.isSome_iff_exists.1 (h rfl (by rw [hr]; rfl))
      simp only [hj, if_true, Option.isSome_some, Bool.and_self, Bool.true_and, Option.getD_some, beq_iff_eq, Option.some.injEq]
      refine ⟨fun i => Group.sliceAt_mapSlices (g.setSplit j (some (c.newSplit rpc))) c.slices _ i, fun k => ?_⟩
      exact (SMap.get_put none g.splits j k (some (c.newSplit rpc))).trans (if_congr eq_comm rfl rfl)

/-- The group after a branch: each slice as R95 moves it, under its split entry, the paths named anew. -/
def Ctx.branched (c : Ctx) (opc words : Nat) (target : Addr) (taken : List Nat) (g : Group) : Group :=
  ((c.withSplit (c.splitBy words target taken)
    (g.mapSlices c.slices (fun i x => branchSlice c opc words target (sliceLanes i taken) x))).regroup c.slices).keepTurn g

theorem Ctx.branched_eq (c : Ctx) (opc words : Nat) (target : Addr) (taken : List Nat) (g : Group) :
    let g' := c.branched opc words target taken g
    g' = { g with slices := g'.slices, splits := g'.splits
                  ctl := { g.ctl with turns := g'.ctl.turns, curPath := g'.ctl.curPath } } := by
  intro g'
  have h : g' = c.branched opc words target taken g := rfl
  rw [Ctx.branched, Group.keepTurn_eq, Group.regroup_eq, Ctx.withSplit_eq] at h
  rw [h]
  rfl

/-- A branch with room for its lane entries and its split entry traps nowhere (R96, R99). -/
theorem State.branch_eq {s : State} {c : Ctx} (opc words : Nat) (target : Addr) (taken : List Nat)
    (hlanes : ∀ i ∈ c.partedBy taken, (c.g.sliceAt i).lstk.length < 16)
    (hsplit : c.splitBy words target taken = true → c.rcv.isSome = true → c.g.freeSplit.isSome = true) :
    s.branch c opc words target taken =
      ((s.onGroup c.g.gid (c.branched opc words target taken)).checkSig c opc words).done := by
  have hroom : ¬ ((c.partedBy taken).any (fun i => decide (16 ≤ (c.g.sliceAt i).lstk.length)) = true) := by
    rw [List.any_eq_true]
    rintro ⟨i, hi, hlen⟩
    exact absurd (hlanes i hi) (Nat.not_lt.2 (of_decide_eq_true hlen))
  have hfree : ¬ ((c.splitBy words target taken && c.rcv.isSome && c.g.freeSplit.isNone) = true) := by
    rw [Bool.and_eq_true, Bool.and_eq_true]
    rintro ⟨⟨h1, h2⟩, h3⟩
    rw [Option.isNone_iff_eq_none] at h3
    have := hsplit h1 h2
    rw [h3] at this
    cases this
  unfold State.branch
  rw [if_neg hroom, if_neg hfree]
  rfl

/-- Each slice of the path after a branch, its split entry aside (R95). -/
theorem Ctx.branched_sliceAt {s : State} {c : Ctx} (h : s.ctx? = some c) (opc words : Nat) (target : Addr) (taken : List Nat)
    (hsplit : c.splitBy words target taken = true → c.rcv.isSome = true → c.g.freeSplit.isSome = true) :
    let splits := c.splitBy words target taken
    let g' := c.branched opc words target taken c.g
    (∀ i ∈ c.slices, ∃ p, g'.sliceAt i = { branchSlice c opc words target (sliceLanes i taken) (c.g.sliceAt i) with
      spl := if splits && c.rcv.isSome then c.g.freeSplit
             else (branchSlice c opc words target (sliceLanes i taken) (c.g.sliceAt i)).spl
      path := p }) ∧
    (∀ i, i ∉ c.slices → g'.sliceAt i = c.g.sliceAt i) ∧
    ∀ k, g'.split? k = if splits && c.rcv.isSome && c.g.freeSplit == some k
      then some (c.newSplit (c.rcv.getD 0)) else c.g.split? k := by
  intro splits g'
  obtain ⟨hin, hout⟩ := Ctx.mapSlices_spec h c.g rfl (fun i x => branchSlice c opc words target (sliceLanes i taken) x)
  obtain ⟨hslice, hsp⟩ := c.withSplit_spec splits
    (c.g.mapSlices c.slices (fun i x => branchSlice c opc words target (sliceLanes i taken) x)) hsplit
  refine ⟨fun i hi => ?_, fun i hi => ?_, fun k => ?_⟩
  · obtain ⟨p, e⟩ := Group.sliceAt_regroup (c.withSplit splits
      (c.g.mapSlices c.slices (fun i x => branchSlice c opc words target (sliceLanes i taken) x))) c.slices i
    have hlen := (State.ctx?_mem h hi).1
    refine ⟨p, ?_⟩
    rw [hslice, if_pos ⟨hi, by simpa [Group.mapSlices] using hlen⟩, hin i hi] at e
    exact (Group.keepTurn_sliceAt _ _ i).trans e
  · refine (Group.keepTurn_sliceAt _ _ i).trans ?_
    rw [Group.sliceAt_regroup_other hi, hslice, if_neg (fun x => hi x.1), hout i hi]
  · refine Eq.trans ?_ (hsp k)
    unfold Group.split?
    exact congrArg (SMap.get none · k) (Group.keepTurn_splits _ _)

/-- R95 in one slice: whole to the target, whole past the branch, or parted. -/
theorem branchSlice_spec (c : Ctx) (opc words : Nat) (target : Addr) (taken : BitVec 4) (x : Slice) :
    let y := branchSlice c opc words target taken x
    y.sig = c.folded opc ∧ y.wait = .none ∧ y.spl = x.spl ∧
    (taken = x.amask → y.pc = target ∧ y.hdr = true ∧ y.amask = x.amask ∧ y.lstk = x.lstk) ∧
    (taken ≠ x.amask → y.pc = c.next words ∧ y.hdr = c.isLast words ∧
      (taken = 0 → y.amask = x.amask ∧ y.lstk = x.lstk) ∧
      (taken ≠ 0 → y.amask = x.amask &&& ~~~taken ∧
        y.lstk = ⟨.branch, c.rcv, x.amask, taken, 0, target, false, none⟩ :: x.lstk)) := by
  intro y
  by_cases hall : taken = x.amask
  · have hy : y = { x with pc := target, hdr := true, sig := c.folded opc, wait := .none } := if_pos hall
    rw [hy]
    exact ⟨rfl, rfl, rfl, fun _ => ⟨rfl, rfl, rfl, rfl⟩, fun hn => absurd hall hn⟩
  · by_cases hnone : taken = 0
    · have hy : y = { x with pc := c.next words, hdr := c.isLast words, sig := c.folded opc, wait := .none } :=
        (if_neg hall).trans (if_pos hnone)
      rw [hy]
      exact ⟨rfl, rfl, rfl, fun h => absurd h hall, fun _ => ⟨rfl, rfl, fun _ => ⟨rfl, rfl⟩, fun hn => absurd hnone hn⟩⟩
    · have hy : y = { x with
          pc := c.next words, hdr := c.isLast words, sig := c.folded opc, wait := .none, amask := x.amask &&& ~~~taken
          lstk := ⟨.branch, c.rcv, x.amask, taken, 0, target, false, none⟩ :: x.lstk } := (if_neg hall).trans (if_neg hnone)
      rw [hy]
      exact ⟨rfl, rfl, rfl, fun h => absurd h hall, fun _ => ⟨rfl, rfl, fun h => absurd h hnone, fun _ => ⟨rfl, rfl⟩⟩⟩

/-- A BRP whose target and, where it diverges, RCV name headers runs its branch on the acting lanes (R74, R117). -/
theorem exec_brp_branches {w : FB} {s s1 s2 : State} {c : Ctx} {h : Word64} (hc : s.ctx? = some c)
    (htarget : s.headerAt c.p c.g (c.target w) = (.header h, s1)) (hpass : c.Passes (Need.bare w.legalBrp false w.guard))
    (hrcv : match c.rcv with
      | some rpc => if !(c.partedBy (c.acting w.guard)).isEmpty || c.splitBy 1 (c.target w) (c.acting w.guard)
          then ∃ w, s1.headerAt c.p c.g rpc = (.header w, s2) else s2 = s1
      | none => s2 = s1) :
    FetchFrame s s2 ∧ exec (.brp w) s = s2.branch c 0x002 1 (c.target w) (c.acting w.guard) := by
  have hclean : c.guardPoisoned w.guard = false := by obtain ⟨-, -, -, -, h⟩ := hpass; exact h
  obtain ⟨hf, hat⟩ := State.atRcv_header
    (fun s => s.gate c (Need.bare w.legalBrp false w.guard) (fun lanes => s.branch c 0x002 1 (c.target w) lanes)) hrcv
  refine ⟨(State.headerAt_frame htarget).trans hf, ?_⟩
  show execBrp w s = _
  unfold execBrp
  rw [State.issue_ctx _ hc, State.atTarget_header _ htarget]
  dsimp only
  rw [if_neg (by rw [hclean]; exact Bool.false_ne_true), hat,
    State.gate_passes _ _ _ _ hpass]
  rfl

/-- Settles O8, slice by slice as `branchSlice_spec` has it, under the split entry of `Ctx.withSplit_spec`. -/
theorem predicatedBranchParts : Obligations.PredicatedBranchParts := by
  unfold Obligations.PredicatedBranchParts
  intro w s s1 s2 c h hc target taken parted splits htarget hpass hrcv hlen hfree
  obtain ⟨hf, hrun⟩ := exec_brp_branches hc htarget hpass hrcv
  have hs : s2.group? c.g.gid = some c.g := (hf.group? _).trans (State.ctx?_group hc)
  have heq := c.branched_eq 0x002 1 target (c.acting w.guard) c.g
  obtain ⟨hin, hout, hsp⟩ := Ctx.branched_sliceAt hc 0x002 1 target (c.acting w.guard) hfree
  rw [hrun.trans (State.branch_eq _ _ _ _ hlen hfree)]
  obtain ⟨t, ht, hw, ho, hg⟩ := State.onGroup_checkSig_done (c.branched 0x002 1 target (c.acting w.guard)) 0x002 1 hs
    (by rw [heq])
  refine ⟨t, ht, hw, ho, _, hg, heq, fun i hi => ?_, hout, hsp⟩
  obtain ⟨p, e⟩ := hin i hi
  obtain ⟨hsig, hwait, hspl, hparts⟩ := branchSlice_spec c 0x002 1 target (taken i) (c.g.sliceAt i)
  rw [e]
  refine ⟨hsig, hwait, ?_, hparts⟩
  rw [hspl]
  rfl

end Sys2Proof.Machine
end

section
namespace Sys2Proof.Machine

/-! ### What follows a change of slices: releases, the loop's exit (R100 to R102, R107) -/

/-- Every slice of g' waits as in g, or no longer. -/
def Eases (g g' : Group) : Prop := ∀ i, (g'.sliceAt i).wait = (g.sliceAt i).wait ∨ (g'.sliceAt i).wait = .none

theorem Eases.refl (g : Group) : Eases g g := fun _ => .inl rfl

theorem Eases.trans {g g' g'' : Group} (h1 : Eases g g') (h2 : Eases g' g'') : Eases g g'' := by
  intro i
  rcases h2 i with h | h
  · rw [h]; exact h1 i
  · exact .inr h

/-- A change of slices that at most ends waits. -/
theorem Eases.mapSlices (g : Group) (is : List Nat) {f : Nat → Slice → Slice}
    (hf : ∀ i x, (f i x).wait = x.wait ∨ (f i x).wait = .none) : Eases g (g.mapSlices is f) := by
  intro i
  rw [Group.sliceAt_mapSlices]
  split
  · exact hf i _
  · exact .inl rfl

/-- No slice waits in a REGANG. -/
def Group.noRegang (g : Group) : Prop := ∀ i, (g.sliceAt i).wait.isRegang = false

theorem Eases.noRegang {g g' : Group} (h : Eases g g') (hg : g.noRegang) : g'.noRegang := by
  intro i
  rcases h i with e | e
  · rw [e]; exact hg i
  · rw [e]; rfl

/-- g' is g but for slices and split entries. -/
def SlicesOnly (g g' : Group) : Prop := g' = { g with slices := g'.slices, splits := g'.splits }

theorem SlicesOnly.trans {g g' g'' : Group} (h1 : SlicesOnly g g') (h2 : SlicesOnly g' g'') : SlicesOnly g g'' := by
  unfold SlicesOnly at *
  rw [h1] at h2
  exact h2

theorem Group.tryRelease_only (g : Group) (k : Nat) : SlicesOnly g (g.tryRelease k).1 := by
  unfold Group.tryRelease
  split
  · rfl
  · dsimp only
    split <;> rfl

theorem Group.releaseRegang_only (g : Group) (i : Nat) : SlicesOnly g (g.releaseRegang i).1 := by
  unfold Group.releaseRegang
  split
  · dsimp only
    split <;> rfl
  · rfl

/-- A property that each entry's release keeps holds after all of them. -/
theorem Group.tryReleases_keeps {P : Group → Prop} (hstep : ∀ g k, P g → P (g.tryRelease k).1) {g : Group} (h : P g) :
    P g.tryReleases.1 := by
  unfold Group.tryReleases
  generalize List.range 32 = ks
  exact foldl_keeps (fun x : Group × Bool => P x.1) _ (fun ⟨g, _⟩ k hx => hstep g k hx) ks (g, false) h

theorem Group.tryRegangs_keeps {P : Group → Prop} (hstep : ∀ g k, P g → P (g.releaseRegang k).1) {g : Group} (h : P g) :
    P g.tryRegangs.1 := by
  unfold Group.tryRegangs
  generalize List.range 32 = is
  exact foldl_keeps (fun x : Group × Bool => P x.1) _ (fun ⟨g, _⟩ i hx => hstep g i hx) is (g, false) h

theorem Group.tryReleases_only (g : Group) : SlicesOnly g g.tryReleases.1 :=
  Group.tryReleases_keeps (P := SlicesOnly g) (fun g' k h => h.trans (g'.tryRelease_only k)) rfl

theorem Group.tryRegangs_only (g : Group) : SlicesOnly g g.tryRegangs.1 :=
  Group.tryRegangs_keeps (P := SlicesOnly g) (fun g' k h => h.trans (g'.releaseRegang_only k)) rfl

/-- A released slice stands where it stood, at a header (R100). -/
theorem Group.sliceAt_tryRelease (g : Group) (k i : Nat) :
    (g.tryRelease k).1.sliceAt i = g.sliceAt i ∨ ∃ sp p, (g.tryRelease k).1.sliceAt i =
      { g.sliceAt i with wait := .none, spl := sp, hdr := true, path := p } := by
  unfold Group.tryRelease
  split
  · exact .inl rfl
  · next e _ =>
    dsimp only
    split
    · exact .inl rfl
    · show (Group.asPath _ _).sliceAt i = _ ∨ ∃ sp p, (Group.asPath _ _).sliceAt i = _
      unfold Group.asPath
      rw [Group.sliceAt_mapSlices, Group.sliceAt_mapSlices]
      have hlen : (g.mapSlices (slicesOf (e.arrs &&& ~~~g.dead)) (fun _ x =>
          { x with wait := .none, spl := e.parent, hdr := true })).slices.length = g.slices.length := by simp [Group.mapSlices]
      rw [hlen]
      by_cases hi : i ∈ slicesOf (e.arrs &&& ~~~g.dead) ∧ i < g.slices.length
      · rw [if_pos hi, if_pos hi]
        exact .inr ⟨_, _, rfl⟩
      · rw [if_neg hi, if_neg hi]
        exact .inl rfl

theorem Group.tryRelease_eases (g : Group) (k : Nat) : Eases g (g.tryRelease k).1 := by
  intro i
  rcases g.sliceAt_tryRelease k i with e | ⟨sp, p, e⟩
  · exact .inl (by rw [e])
  · exact .inr (by rw [e])

theorem Group.tryReleases_eases (g : Group) : Eases g g.tryReleases.1 :=
  Group.tryReleases_keeps (P := Eases g) (fun g' k h => h.trans (g'.tryRelease_eases k)) (Eases.refl g)

/-- A group with no split entry has none to release. -/
theorem Group.tryReleases_nil {g : Group} (h : g.splits = []) : g.tryReleases = (g, false) := by
  have hk : ∀ k, g.tryRelease k = (g, false) := fun k => by
    unfold Group.tryRelease Group.split?
    rw [h]
    rfl
  unfold Group.tryReleases
  generalize List.range 32 = ks
  refine foldl_keeps (fun x => x = (g, false)) _ ?_ ks (g, false) rfl
  rintro _ k rfl
  dsimp only
  rw [hk k]
  rfl

theorem Group.releaseRegang_idle {g : Group} {i : Nat} (h : (g.sliceAt i).wait.isRegang = false) :
    g.releaseRegang i = (g, false) := by
  unfold Group.releaseRegang
  split
  · next e => rw [e] at h; cases h
  · rfl

/-- Where no slice waits in a REGANG there is none to satisfy. -/
theorem Group.tryRegangs_none {g : Group} (h : g.noRegang) : g.tryRegangs = (g, false) := by
  unfold Group.tryRegangs
  generalize List.range 32 = is
  refine foldl_keeps (fun x => x = (g, false)) _ ?_ is (g, false) rfl
  rintro _ i rfl
  dsimp only
  rw [Group.releaseRegang_idle (h i)]
  rfl

/-- A release moves no slice but those that wait in its REGANG (R101). -/
theorem Group.sliceAt_releaseRegang_other {g : Group} {j : Nat} (h : (g.sliceAt j).wait.isRegang = false) (i : Nat) :
    (g.releaseRegang i).1.sliceAt j = g.sliceAt j := by
  unfold Group.releaseRegang
  split
  · next gang words hw =>
    dsimp only
    split
    · rfl
    · have hj : j ∉ g.regangMates i := by
        intro hm
        simp only [Group.regangMates, List.mem_filter, Bool.and_eq_true, beq_iff_eq] at hm
        obtain ⟨-, ⟨-, hwait⟩, -⟩ := hm
        rw [hwait, hw] at h
        cases h
      show (Group.asPath _ _).sliceAt j = _
      unfold Group.asPath
      rw [Group.sliceAt_mapSlices, if_neg (fun x => hj x.1), Group.sliceAt_mapSlices, if_neg (fun x => hj x.1)]
  · rfl

theorem Group.sliceAt_tryRegangs_other {g : Group} {j : Nat} (h : (g.sliceAt j).wait.isRegang = false) :
    g.tryRegangs.1.sliceAt j = g.sliceAt j :=
  Group.tryRegangs_keeps (P := fun g' => g'.sliceAt j = g.sliceAt j)
    (fun g' i e => (Group.sliceAt_releaseRegang_other (by rw [e]; exact h) i).trans e) rfl

theorem Group.tryExit_none {g : Group} (h : g.loop = none) : g.tryExit = (g, false) := by
  unfold Group.tryExit
  rw [h]

/-! ### Deadlock (R102) -/

theorem Group.deadlocked_congr {g g' : Group} (h : g'.slices = g.slices) : g'.deadlocked = g.deadlocked := by
  unfold Group.deadlocked
  rw [h]

/-- A slice that stands in the list of a group, at its place. -/
theorem Group.sliceAt_of_mem {g : Group} {x : Slice} (h : x ∈ g.slices) : ∃ i, g.sliceAt i = x ∧ i < g.slices.length := by
  obtain ⟨i, hi, e⟩ := List.mem_iff_getElem.1 h
  exact ⟨i, by rw [Group.sliceAt, List.getD_eq_getElem _ _ hi, e], hi⟩

theorem Group.sliceAt_mem {g : Group} {i : Nat} (h : i < g.slices.length) : g.sliceAt i ∈ g.slices := by
  rw [Group.sliceAt, List.getD_eq_getElem _ _ h]
  exact List.getElem_mem h

theorem Group.lt_of_live {g : Group} {i : Nat} (h : (g.sliceAt i).live = true) : i < g.slices.length := by
  by_contra hn
  rw [Group.sliceAt, List.getD_eq_default _ _ (Nat.le_of_not_lt hn)] at h
  exact absurd h (by decide)

theorem Group.not_deadlocked_of_noRegang {g : Group} (h : g.noRegang) : g.deadlocked = false := by
  unfold Group.deadlocked
  dsimp only
  have hany : (g.slices.filter (·.live)).any (fun x => x.wait.isRegang) = false := by
    rw [List.any_eq_false]
    intro x hx
    obtain ⟨i, e, -⟩ := Group.sliceAt_of_mem (List.mem_of_mem_filter hx)
    rw [← e, h i]
    exact Bool.false_ne_true
  rw [hany, Bool.and_false]

/-- A group in which a live slice waits for nothing is not deadlocked. -/
theorem Group.not_deadlocked_of_runs {g : Group} {i : Nat} (hl : (g.sliceAt i).live = true) (hw : (g.sliceAt i).wait = .none) :
    g.deadlocked = false := by
  unfold Group.deadlocked
  dsimp only
  rw [Bool.and_eq_false_iff]
  left
  rw [List.all_eq_false]
  refine ⟨g.sliceAt i, List.mem_filter.2 ⟨Group.sliceAt_mem (Group.lt_of_live hl), hl⟩, ?_⟩
  rw [hw]
  simp [Wait.isRegang]

/-! ### What `settlePaths` answers -/

/-- The group after the loop's exit, the releases and the satisfied REGANGs, under its turn. -/
def Group.settled (g : Group) : Group := (g.tryExit.1.tryReleases.1.tryRegangs.1).keepTurn g

theorem State.settlePaths_eq {s : State} {c : Ctx} {g : Group} (hs : s.group? c.g.gid = some g) : s.settlePaths c =
    if g.tryExit.2 || g.tryExit.1.tryReleases.2 then
      ((s.setGroup g.settled).requestKill g.settled.cohort (killMask c.pc.toNat)).done
    else if g.tryExit.1.tryReleases.1.tryRegangs.2 then
      ((s.setGroup g.settled).requestKill g.settled.cohort (killSignature c.pc.toNat)).done
    else if g.settled.deadlocked then (s.setGroup g.settled).regangDeadlock c g.settled
    else (s.setGroup g.settled).done := by
  unfold State.settlePaths Group.settled
  rw [hs]

/-- Where no deadlock is left the step ends with the settled group; a failed comparison meets a kill condition. -/
theorem State.settlePaths_done {s : State} {c : Ctx} {g : Group} (hs : s.group? c.g.gid = some g)
    (hgid : g.settled.gid = c.g.gid) (hd : g.settled.deadlocked = false) :
    Answers (s.settlePaths c) (fun t => t.waited = false ∧ OnlyGroup s t c.g.gid ∧ t.group? c.g.gid = some g.settled) := by
  obtain ⟨hg, honly⟩ := State.setGroup_spec g.settled hs hgid
  have kills : ∀ r, Answers ((s.setGroup g.settled).requestKill g.settled.cohort r).done
      (fun t => t.waited = false ∧ OnlyGroup s t c.g.gid ∧ t.group? c.g.gid = some g.settled) := fun r =>
    ⟨_, rfl, rfl, (honly.trans (State.requestKill_only _ _ _ _)).trans (OnlyGroup.waited _ _ _), by
      show (State.requestKill _ _ _).group? c.g.gid = _
      rw [State.group?, State.requestKill_groups]
      exact hg⟩
  rw [State.settlePaths_eq hs, hd]
  split
  · exact kills _
  · split
    · exact kills _
    · exact ⟨_, rfl, rfl, honly.trans (OnlyGroup.waited _ _ _), hg⟩

end Sys2Proof.Machine
end

section
namespace Sys2Proof.Machine

/-! ### REGANG by slices that all stand at the word (R101) -/

/-- A fold that meets x reaches Q: P holds until a step establishes Q, the step at x does, and later steps keep it. -/
theorem foldl_reaches {α β : Type} {P Q : β → Prop} {f : β → α → β} {x : α} (hstep : ∀ s y, P s → P (f s y) ∨ Q (f s y))
    (hx : ∀ s, P s → Q (f s x)) (hkeep : ∀ s y, Q s → Q (f s y)) :
    ∀ (l : List α) (s : β), x ∈ l → P s → Q (l.foldl f s)
  | y :: l, s, hm, h => by
    rcases List.mem_cons.1 hm with e | hm
    · subst e
      exact foldl_keeps Q f hkeep l _ (hx s h)
    · rcases hstep s y h with h | h
      · exact foldl_reaches hstep hx hkeep l _ hm h
      · exact foldl_keeps Q f hkeep l _ h

/-- The path's slices wait at their REGANG of some words with an effective gang. -/
def Ctx.meeting (c : Ctx) (eff : BitVec 32) (words : Nat) : Group :=
  c.g.mapSlices c.slices (fun _ x => { x with wait := .regang eff words })

/-- What a satisfied REGANG of the path leaves: the path's slices past the word, and no other moved. -/
def Ctx.Met (c : Ctx) (words : Nat) (g : Group) : Prop :=
  SlicesOnly c.g g ∧
  (∀ i ∈ c.slices, (g.sliceAt i).pc = (c.g.sliceAt i).pc + 8 * BitVec.ofNat 57 words ∧ (g.sliceAt i).wait = .none ∧
    (g.sliceAt i).amask = (c.g.sliceAt i).amask) ∧
  ∀ i, i ∉ c.slices → g.sliceAt i = c.g.sliceAt i

theorem Ctx.Met.noRegang {c : Ctx} {words : Nat} {g : Group} (hm : c.Met words g)
    (hother : ∀ i, i ∉ c.slices → (c.g.sliceAt i).wait.isRegang = false) : g.noRegang := by
  obtain ⟨-, hin, hout⟩ := hm
  intro i
  by_cases hi : i ∈ c.slices
  · obtain ⟨-, hw, -⟩ := hin i hi
    rw [hw]; rfl
  · rw [hout i hi]; exact hother i hi

theorem State.ctx?_mem_iff {s : State} {c : Ctx} (h : s.ctx? = some c) : ∃ sl, c.slices = c.g.members sl ∧
    ∀ i, i ∈ c.slices ↔ i < 32 ∧ (c.g.sliceAt i).onPath = true ∧ (c.g.sliceAt i).path = sl := by
  obtain ⟨sl, e, -⟩ := State.ctx?_slices h
  refine ⟨sl, e, fun i => ?_⟩
  rw [e]
  simp [Group.members]

/-- A slice of the issuing path is live. -/
theorem State.ctx?_live {s : State} {c : Ctx} (h : s.ctx? = some c) {i : Nat} (hi : i ∈ c.slices) :
    (c.g.sliceAt i).live = true := by
  obtain ⟨sl, -, hmem⟩ := State.ctx?_mem_iff h
  obtain ⟨-, hon, -⟩ := (hmem i).1 hi
  simp only [Slice.onPath, Bool.and_eq_true] at hon
  exact hon.1.1

/-- Changes of slices that leave EXITs alone leave the dead slices. -/
theorem Group.dead_congr {g g' : Group} (h : ∀ i, (g'.sliceAt i).live = (g.sliceAt i).live) : g'.dead = g.dead := by
  unfold Group.dead
  simp only [h]

section
variable {s : State} {c : Ctx} (h : s.ctx? = some c)
include h

theorem Ctx.sliceAt_meeting (eff : BitVec 32) (words : Nat) :
    (∀ i ∈ c.slices, (c.meeting eff words).sliceAt i = { c.g.sliceAt i with wait := .regang eff words }) ∧
    ∀ i, i ∉ c.slices → (c.meeting eff words).sliceAt i = c.g.sliceAt i :=
  Ctx.mapSlices_spec h c.g rfl (fun _ x => { x with wait := .regang eff words })

theorem Ctx.dead_meeting (eff : BitVec 32) (words : Nat) : (c.meeting eff words).dead = c.g.dead := by
  obtain ⟨hin, hout⟩ := Ctx.sliceAt_meeting h eff words
  refine Group.dead_congr fun i => ?_
  by_cases hi : i ∈ c.slices
  · rw [hin i hi]; rfl
  · rw [hout i hi]

variable (hother : ∀ i, i ∉ c.slices → (c.g.sliceAt i).wait.isRegang = false)
  (hpc : ∀ i ∈ c.slices, (c.g.sliceAt i).pc = c.pc)
include hother hpc

/-- The slices that meet at the word are those of the path. -/
theorem Ctx.regangMates_meeting (eff : BitVec 32) (words : Nat) {i : Nat} (hi : i ∈ c.slices) :
    (c.meeting eff words).regangMates i = c.slices := by
  obtain ⟨hin, hout⟩ := Ctx.sliceAt_meeting h eff words
  obtain ⟨sl, hsl, hmem⟩ := State.ctx?_mem_iff h
  rw [hsl]
  refine List.filter_congr fun j hj => ?_
  rw [hin i hi]
  by_cases hjs : j ∈ c.slices
  · obtain ⟨-, hon, hpath⟩ := (hmem j).1 hjs
    have hl : (c.g.sliceAt j).live = true := State.ctx?_live h hjs
    rw [hin j hjs, hon, hpath]
    show ((c.g.sliceAt j).live && _ && ((c.g.sliceAt j).pc == (c.g.sliceAt i).pc)) = _
    rw [hl, hpc j hjs, hpc i hi]
    simp
  · have hr := hother j hjs
    have hw : ((c.g.sliceAt j).wait == Wait.regang eff words) = false := by
      rw [beq_eq_false_iff_ne]
      intro e
      rw [e] at hr
      cases hr
    have hnot : ((c.g.sliceAt j).onPath && (c.g.sliceAt j).path == sl) = false := by
      rw [Bool.eq_false_iff]
      intro hon
      simp only [Bool.and_eq_true, beq_iff_eq] at hon
      exact hjs ((hmem j).2 ⟨List.mem_range.1 hj, hon⟩)
    rw [hout j hjs, hnot]
    show ((c.g.sliceAt j).live && ((c.g.sliceAt j).wait == Wait.regang eff words) && _) = false
    rw [hw, Bool.and_false, Bool.false_and]

variable {eff : BitVec 32} (words : Nat) (heff : eff &&& ~~~c.g.dead &&& ~~~(gangMask c.slices) = 0)
include heff

/-- A REGANG whose effective gang names only the path and dead slices is satisfied by the path. -/
theorem Ctx.met_releaseRegang {i : Nat} (hi : i ∈ c.slices) : c.Met words ((c.meeting eff words).releaseRegang i).1 := by
  obtain ⟨hin, hout⟩ := Ctx.sliceAt_meeting h eff words
  refine ⟨SlicesOnly.trans (g' := c.meeting eff words) rfl (Group.releaseRegang_only _ i), fun j hj => ?_, fun j hj => ?_⟩
  · have hlen : j < (c.meeting eff words).slices.length := by
      simpa [Ctx.meeting, Group.mapSlices] using (State.ctx?_mem h hj).1
    unfold Group.releaseRegang
    rw [hin i hi]
    dsimp only
    rw [Ctx.regangMates_meeting h hother hpc eff words hi, Ctx.dead_meeting h, heff, if_neg (by simp)]
    show (((Group.asPath _ _).sliceAt j).pc = _ ∧ ((Group.asPath _ _).sliceAt j).wait = _ ∧ ((Group.asPath _ _).sliceAt j).amask = _)
    unfold Group.asPath
    rw [Group.sliceAt_mapSlices, if_pos ⟨hj, by simpa [Group.mapSlices] using hlen⟩, Group.sliceAt_mapSlices, if_pos ⟨hj, hlen⟩,
      hin j hj]
    exact ⟨rfl, rfl, rfl⟩
  · rw [Group.sliceAt_releaseRegang_other (by rw [hout j hj]; exact hother j hj), hout j hj]

theorem Ctx.met_tryRegangs : c.Met words (c.meeting eff words).tryRegangs.1 := by
  obtain ⟨-, hout⟩ := Ctx.sliceAt_meeting h eff words
  obtain ⟨-, -, hne⟩ := State.ctx?_slices h
  obtain ⟨i, hi⟩ := List.exists_mem_of_ne_nil _ hne
  unfold Group.tryRegangs
  have hmem : i ∈ List.range 32 := List.mem_range.2 (State.ctx?_mem h hi).2
  generalize List.range 32 = is at hmem
  refine foldl_reaches (P := fun x : Group × Bool => x.1 = c.meeting eff words) (Q := fun x => c.Met words x.1)
    ?_ ?_ ?_ is _ hmem rfl
  · rintro ⟨_, b⟩ j rfl
    by_cases hj : j ∈ c.slices
    · exact .inr (Ctx.met_releaseRegang h hother hpc words heff hj)
    · refine .inl ?_
      show (Group.releaseRegang _ j).1 = _
      rw [Group.releaseRegang_idle (by rw [hout j hj]; exact hother j hj)]
  · rintro ⟨_, b⟩ rfl
    exact Ctx.met_releaseRegang h hother hpc words heff hi
  · rintro ⟨g, b⟩ j hm
    show c.Met words (g.releaseRegang j).1
    rw [Group.releaseRegang_idle (hm.noRegang hother j)]
    exact hm

end

end Sys2Proof.Machine
end

section
namespace Sys2Proof.Machine

/-- A REGANG that leaves no deadlock makes its path wait, and what follows is that change of slices (R101, R102, R125). -/
theorem exec_regang_waits {w : F3} {s : State} {c : Ctx} (hc : s.ctx? = some c)
    (hpass : c.Passes ⟨w.legalRegang, true, w.guard, [], [(w.sa, 1)]⟩) (hclean : (c.uniform s w.sa).2 = none)
    (hloop : c.g.loop = none) :
    let eff := (c.uniform s w.sa).1.setWidth 32 ||| gangMask c.slices
    (c.meeting eff w.words).tryRegangs.1.deadlocked = false →
    exec (.regang w) s = ((s.setGroup (c.meeting eff w.words)).checkSig c 0x009 w.words).settlePaths c := by
  intro eff hd
  show execRegang w s = _
  unfold execRegang
  rw [State.issue_ctx _ hc]
  dsimp only
  rw [State.gate_passes _ _ _ _ hpass, hclean, if_neg (by simp), if_neg (by simp [hloop])]
  exact if_neg (Bool.eq_false_iff.1 hd)

theorem regang_meets {w : F3} {s : State} {c : Ctx} (hc : s.ctx? = some c)
    (hpass : c.Passes ⟨w.legalRegang, true, w.guard, [], [(w.sa, 1)]⟩) (hclean : (c.uniform s w.sa).2 = none)
    (hloop : c.g.loop = none) (hsplits : c.g.splits = []) (hpc : ∀ i ∈ c.slices, (c.g.sliceAt i).pc = c.pc)
    (hother : ∀ i, i ∉ c.slices → (c.g.sliceAt i).wait.isRegang = false)
    (heff : ((c.uniform s w.sa).1.setWidth 32 ||| gangMask c.slices) &&& ~~~c.g.dead &&& ~~~(gangMask c.slices) = 0) :
    Answers (exec (.regang w) s) (fun t => t.waited = false ∧ OnlyGroup s t c.g.gid ∧
      ∃ g, t.group? c.g.gid = some g ∧ g.regs = c.g.regs ∧ g.sq = c.g.sq ∧
        (∀ i ∈ c.slices, (g.sliceAt i).pc = (c.g.sliceAt i).pc + 8 * BitVec.ofNat 57 w.words ∧ (g.sliceAt i).wait = .none ∧
          (g.sliceAt i).amask = (c.g.sliceAt i).amask) ∧
        ∀ i, i ∉ c.slices → g.sliceAt i = c.g.sliceAt i) := by
  have hmet := Ctx.met_tryRegangs hc hother hpc w.words heff
  rw [exec_regang_waits hc hpass hclean hloop (Group.not_deadlocked_of_noRegang (hmet.noRegang hother))]
  generalize (c.uniform s w.sa).1.setWidth 32 ||| gangMask c.slices = eff at hmet
  obtain ⟨hg, ho⟩ := State.setGroup_spec (c.meeting eff w.words) (State.ctx?_group hc) rfl
  have hsettled : (c.meeting eff w.words).settled =
      (c.meeting eff w.words).tryRegangs.1.keepTurn (c.meeting eff w.words) := by
    unfold Group.settled
    rw [Group.tryExit_none (g := c.meeting eff w.words) hloop, Group.tryReleases_nil (g := c.meeting eff w.words) hsplits]
  obtain ⟨honly, hin, hout⟩ := hmet
  obtain ⟨t, ht, hw, ho', hg'⟩ := State.settlePaths_done (s := (s.setGroup (c.meeting eff w.words)).checkSig c 0x009 w.words)
    (c := c) (g := c.meeting eff w.words) (by rw [State.checkSig_group?]; exact hg)
    (by rw [hsettled, Group.keepTurn_gid, honly])
    (by
      rw [hsettled, Group.deadlocked_congr (Group.keepTurn_slices _ _)]
      exact Group.not_deadlocked_of_noRegang (Ctx.Met.noRegang ⟨honly, hin, hout⟩ hother))
  refine ⟨t, ht, hw, (ho.trans (State.checkSig_only _ _ _ _ _)).trans ho', _, hg', ?_, ?_, fun i hi => ?_, fun i hi => ?_⟩
  · rw [hsettled, Group.keepTurn_eq, honly]
  · rw [hsettled, Group.keepTurn_eq, honly]
  · rw [hsettled, Group.keepTurn_sliceAt]
    exact hin i hi
  · rw [hsettled, Group.keepTurn_sliceAt]
    exact hout i hi

end Sys2Proof.Machine
end

section
namespace Sys2Proof.Machine

/-! ### A BAR that its whole group reaches (R129, R130) -/

/-- The slice's BAR has acted. -/
def Slice.barActed (x : Slice) : Slice :=
  match x.wait with | .bar n m q ws _ => { x with wait := .bar n m q ws true } | _ => x

def Group.barActed (g : Group) : Group := { g with slices := g.slices.map Slice.barActed }

theorem Group.sliceAt_barActed (g : Group) (i : Nat) : g.barActed.sliceAt i = (g.sliceAt i).barActed :=
  Group.sliceAt_map g Slice.barActed rfl i

/-- A list of asks that are all one has none missing and none that differs in its barrier or its mode. -/
theorem barAsks_agree {asks : List (Option (Nat × Nat × Nat))} {nb mode count : Nat} (h : ∀ a ∈ asks, a = some (nb, mode, count)) :
    asks.any (·.isNone) = false ∧ asks.any (fun a => (a.map (fun x => (x.1, x.2.1))) != some (nb, mode)) = false := by
  constructor
  · rw [List.any_eq_false]
    intro a ha
    rw [h a ha]
    exact Bool.false_ne_true
  · rw [List.any_eq_false]
    intro a ha
    rw [h a ha]
    simp

section
variable {g : Group} {nb mode count : Nat} (hask : ∀ i, (g.sliceAt i).live = true → (g.sliceAt i).barAsk = some (nb, mode, count))
include hask

theorem Group.barAsks_all : ∀ a ∈ (g.slices.filter (·.live)).map (·.barAsk), a = some (nb, mode, count) := by
  intro a ha
  obtain ⟨x, hx, rfl⟩ := List.mem_map.1 ha
  obtain ⟨hx, hl⟩ := List.mem_filter.1 hx
  obtain ⟨i, e, -⟩ := Group.sliceAt_of_mem hx
  rw [← e] at hl ⊢
  exact hask i hl

/-- The lowest live slice asks as every one does. -/
theorem Group.barAsk_lowest (hlive : ∃ i, i < 32 ∧ (g.sliceAt i).live = true) :
    (g.sliceAt (((List.range 32).find? (fun i => (g.sliceAt i).live)).getD 0)).barAsk = some (nb, mode, count) := by
  obtain ⟨i, hi, hl⟩ := hlive
  have hsome : ((List.range 32).find? (fun i => (g.sliceAt i).live)).isSome :=
    List.find?_isSome.2 ⟨i, List.mem_range.2 hi, hl⟩
  obtain ⟨j, hj⟩ := Option.isSome_iff_exists.1 hsome
  rw [hj]
  exact hask j (List.find?_some (p := fun i => (g.sliceAt i).live) hj)

variable {s : State} {c : Ctx} (hs : s.group? c.g.gid = some g) (hlive : ∃ i, i < 32 ∧ (g.sliceAt i).live = true)
  (hsq : g.sq.any (·.committed) = false) (hnb : nb ≤ 15) (hcount : count ≤ 17)
include hs hlive hsq hnb hcount

/-- What a BAR does that every live slice of its group asks for alike, its operands in range and its stores drained (R130). -/
theorem State.barTry_eq :
    let cnt := if count = 0 then c.co.ngm1 + 1 else count
    let b := c.co.barrier nb
    let acted := s.setGroup g.barActed
    (mode ≠ 2 → b.cnt = 0 ∨ b.cnt = cnt) →
    s.barTry c = some (
      if mode = 2 then (if b.passed g.sp.grp.toNat then acted.passGroup g.gid nb else acted).done
      else
        let r := (b.record g.sp.grp.toNat).arrive cnt
        let s1 := acted.onCohort c.co.uid (fun co => co.setBarrier nb r.1)
        let s2 := if mode = 1 then s1.passGroup g.gid nb else s1
        (if r.2 then s2.completePhase c.co.uid nb else s2).done) := by
  intro cnt b acted hcnt
  obtain ⟨hnone, hsame⟩ := barAsks_agree (Group.barAsks_all hask)
  have hlow := Group.barAsk_lowest hask hlive
  have hagree : (mode != 2 && b.cnt != 0 && b.cnt != cnt) = false := by
    by_cases hm : mode = 2
    · simp [hm]
    · rcases hcnt hm with e | e <;> simp [e]
  unfold State.barTry
  rw [hs]
  dsimp only
  rw [hnone, if_neg Bool.false_ne_true, hlow]
  dsimp only
  rw [hsame, if_neg Bool.false_ne_true, hsq, if_neg Bool.false_ne_true,
    if_neg (by simp only [Bool.or_eq_true, decide_eq_true_eq]; omega)]
  rw [show (mode != 2 && (c.co.barrier nb).cnt != 0 &&
      (c.co.barrier nb).cnt != if count = 0 then c.co.ngm1 + 1 else count) = false from hagree, if_neg Bool.false_ne_true]
  split
  · exact congrArg some (apply_ite State.done _ _ _).symm
  · exact congrArg some (apply_ite State.done _ _ _).symm

end
end Sys2Proof.Machine
end

section
namespace Sys2Proof.Machine

/-! ### The release of a barrier's waiters (R130) -/

theorem State.passGroup_some {s : State} {gid : Nat} {g : Group} (n : Nat) (h : s.group? gid = some g) :
    (s.passGroup gid n).group? gid = some (g.passBars n) ∧ OnlyGroup s (s.passGroup gid n) gid := by
  obtain ⟨hg, ho⟩ := State.setGroup_spec (g.passBars n) h (State.group?_gid (g := g) h)
  unfold State.passGroup
  rw [h]
  dsimp only
  split
  · refine ⟨?_, ho.trans (State.requestKill_only _ _ _ _)⟩
    rw [State.group?, State.requestKill_groups]
    exact hg
  · exact ⟨hg, ho⟩

theorem State.passGroup_only (s : State) (gid n : Nat) : OnlyGroup s (s.passGroup gid n) gid := by
  cases h : s.group? gid with
  | none =>
    unfold State.passGroup
    rw [h]
    exact OnlyGroup.refl s gid
  | some g => exact (State.passGroup_some n h).2

/-- What changes a group alone leaves the barriers of every cohort. -/
theorem OnlyGroup.bars {s t : State} {gid : Nat} (h : OnlyGroup s t gid) (u : Nat) :
    (t.cohort? u).map Cohort.bars = (s.cohort? u).map Cohort.bars := by
  obtain ⟨-, -, hco, -, -⟩ := h
  have e := congrArg (Option.map Cohort.bars) (hco u)
  rwa [Option.map_map, Option.map_map] at e

/-- A change of a cohort that leaves its number and its barriers leaves the barriers of every cohort. -/
theorem State.onCohort_bars (s : State) (uid : Nat) {f : Cohort → Cohort} (hf : ∀ co, (f co).uid = co.uid ∧ (f co).bars = co.bars)
    (u : Nat) : ((s.onCohort uid f).cohort? u).map Cohort.bars = (s.cohort? u).map Cohort.bars := by
  unfold State.onCohort
  split
  · next co hco =>
    rw [State.cohort?_setCohort, (hf co).1, State.cohort?_uid hco]
    split
    · next e => rw [e, hco]; exact congrArg some (hf co).2
    · rfl
  · rfl

theorem State.completePhase_bars (s : State) (uid n u : Nat) :
    ((s.completePhase uid n).cohort? u).map Cohort.bars = (s.cohort? u).map Cohort.bars := by
  unfold State.completePhase
  dsimp only
  rw [State.onCohort_bars]
  · exact foldl_keeps (fun t : State => (t.cohort? u).map Cohort.bars = (s.cohort? u).map Cohort.bars) _
      (fun t gid h => ((t.passGroup_only gid n).bars u).trans h) _ s rfl
  · exact fun co => ⟨rfl, rfl⟩

theorem Group.sliceAt_passBars (g : Group) (n i : Nat) : (g.passBars n).sliceAt i =
    match (g.sliceAt i).atBar n with | some words => (g.sliceAt i).passBar words | none => g.sliceAt i :=
  Group.sliceAt_map g _ rfl i

/-- The slices stand past their BAR of some words. -/
def Ctx.Passed (c : Ctx) (words : Nat) (g : Group) : Prop :=
  ∀ i ∈ c.slices, (g.sliceAt i).pc = (c.g.sliceAt i).pc + 8 * BitVec.ofNat 57 words ∧ (g.sliceAt i).wait = .none

theorem Ctx.Passed.passBars {c : Ctx} {words : Nat} {g : Group} (h : c.Passed words g) (n : Nat) :
    c.Passed words (g.passBars n) := by
  intro i hi
  obtain ⟨hpc, hw⟩ := h i hi
  have hat : (g.sliceAt i).atBar n = none := by
    unfold Slice.atBar
    rw [hw]
  rw [Group.sliceAt_passBars, hat]
  exact ⟨hpc, hw⟩

/-- A group of the cohort is released as the phase completes, whatever groups are released with it. -/
theorem State.completePhase_passes {s : State} {c : Ctx} {g : Group} {n words : Nat} (hs : s.group? c.g.gid = some g)
    (hp : c.Passed words (g.passBars n)) (uid : Nat) (hu : g.cohort = uid) :
    ∃ g', (s.completePhase uid n).group? c.g.gid = some g' ∧ c.Passed words g' := by
  have hmem : c.g.gid ∈ (s.groups.filter (fun g => g.cohort == uid)).map (·.gid) :=
    List.mem_map.2 ⟨g, List.mem_filter.2 ⟨List.mem_of_find?_eq_some hs, by simpa using hu⟩, State.group?_gid hs⟩
  have hfold := foldl_reaches (P := fun t : State => t.group? c.g.gid = some g)
    (Q := fun t : State => ∃ g', t.group? c.g.gid = some g' ∧ c.Passed words g') (f := fun s gid => s.passGroup gid n)
    (x := c.g.gid) ?_ (fun t ht => ⟨_, (State.passGroup_some n ht).1, hp⟩) ?_ _ s hmem hs
  · obtain ⟨g', hg', hp'⟩ := hfold
    refine ⟨g', ?_, hp'⟩
    unfold State.completePhase
    rw [State.onCohort_frame]
    exact hg'
  · intro t gid ht
    by_cases he : gid = c.g.gid
    · subst he
      exact .inr ⟨_, (State.passGroup_some n ht).1, hp⟩
    · obtain ⟨-, hother, -⟩ := t.passGroup_only gid n
      exact .inl ((hother _ (Ne.symm he)).trans ht)
  · rintro t gid ⟨g', hg', hp'⟩
    by_cases he : gid = c.g.gid
    · subst he
      exact ⟨_, (State.passGroup_some n hg').1, hp'.passBars n⟩
    · obtain ⟨-, hother, -⟩ := t.passGroup_only gid n
      exact ⟨g', (hother _ (Ne.symm he)).trans hg', hp'⟩

/-! ### The barrier (R129, R130) -/

@[simp] theorem Barrier.record_cnt (b : Barrier) (k : Nat) : (b.record k).cnt = b.cnt := rfl
@[simp] theorem Barrier.record_arr (b : Barrier) (k : Nat) : (b.record k).arr = b.arr := rfl
@[simp] theorem Barrier.record_phase (b : Barrier) (k : Nat) : (b.record k).phase = b.phase := rfl

/-- An arrival that agrees with the barrier's count: the last one completes the phase, another one counts. -/
theorem Barrier.arrive_spec {b : Barrier} {cnt : Nat} (h : b.cnt = 0 ∨ b.cnt = cnt) :
    if b.arr + 1 = cnt
      then (b.arrive cnt).2 = true ∧ (b.arrive cnt).1.phase = !b.phase ∧ (b.arrive cnt).1.arr = 0 ∧ (b.arrive cnt).1.cnt = 0
      else (b.arrive cnt).2 = false ∧ (b.arrive cnt).1.phase = b.phase ∧ (b.arrive cnt).1.arr = b.arr + 1 ∧
        (b.arrive cnt).1.cnt = cnt := by
  have hc : (if b.cnt = 0 then cnt else b.cnt) = cnt := by
    split
    · rfl
    · next hn => exact h.resolve_left hn
  unfold Barrier.arrive
  rw [hc]
  dsimp only
  split
  · exact ⟨rfl, rfl, rfl, rfl⟩
  · exact ⟨rfl, rfl, rfl, rfl⟩

theorem Cohort.barrier_setBarrier (co : Cohort) (n m : Nat) (b : Barrier) :
    (co.setBarrier n b).barrier m = if m = n then b else co.barrier m := SMap.get_put _ _ _ _ _

theorem Cohort.barrier_congr {c c' : Cohort} (h : c'.bars = c.bars) (n : Nat) : c'.barrier n = c.barrier n := by
  unfold Cohort.barrier
  rw [h]

end Sys2Proof.Machine
end

section
namespace Sys2Proof.Machine

/-- The path waits at its BAR, and the group's work has committed (R129). -/
def Ctx.asking (c : Ctx) (nb mode count words : Nat) : Group :=
  (c.committed 0x00D words).mapSlices c.slices (fun _ x => { x with wait := .bar nb mode count words false })

section
variable {s : State} {c : Ctx} (h : s.ctx? = some c) (nb mode count words : Nat)
include h

theorem Ctx.sliceAt_asking :
    (∀ i ∈ c.slices, (c.asking nb mode count words).sliceAt i = { c.g.sliceAt i with wait := .bar nb mode count words false }) ∧
    ∀ i, i ∉ c.slices → (c.asking nb mode count words).sliceAt i = c.g.sliceAt i :=
  Ctx.mapSlices_spec h (c.committed 0x00D words) rfl _

/-- Where the path is the whole live group, every live slice asks for the same barrier. -/
theorem Ctx.barAsk_asking (hall : ∀ i, (c.g.sliceAt i).live = true → i ∈ c.slices)
    (hheld : ∀ i ∈ c.slices, (c.g.sliceAt i).held = false) (i : Nat)
    (hl : ((c.asking nb mode count words).sliceAt i).live = true) :
    ((c.asking nb mode count words).sliceAt i).barAsk = some (nb, mode, count) := by
  obtain ⟨hin, hout⟩ := Ctx.sliceAt_asking h nb mode count words
  have hi : i ∈ c.slices := by
    by_contra hn
    rw [hout i hn] at hl
    exact hn (hall i hl)
  rw [hin i hi]
  exact if_neg (by rw [hheld i hi]; exact Bool.false_ne_true)

theorem Ctx.live_asking : ∃ i, i < 32 ∧ ((c.asking nb mode count words).sliceAt i).live = true := by
  obtain ⟨-, -, hne⟩ := State.ctx?_slices h
  obtain ⟨i, hi⟩ := List.exists_mem_of_ne_nil _ hne
  obtain ⟨hin, -⟩ := Ctx.sliceAt_asking h nb mode count words
  exact ⟨i, (State.ctx?_mem h hi).2, by rw [hin i hi]; exact State.ctx?_live h hi⟩

/-- The path stands past its BAR once that has acted and its barrier lets it go. -/
theorem Ctx.passed_asking : c.Passed words ((c.asking nb mode count words).barActed.passBars nb) := by
  obtain ⟨hin, -⟩ := Ctx.sliceAt_asking h nb mode count words
  intro i hi
  have hx : ((c.asking nb mode count words).barActed).sliceAt i =
      { c.g.sliceAt i with wait := .bar nb mode count words true } := by
    rw [Group.sliceAt_barActed, hin i hi]
    rfl
  have hat : (((c.asking nb mode count words).barActed).sliceAt i).atBar nb = some words := by
    rw [hx]
    exact if_pos ((Bool.and_eq_true _ _).mpr ⟨decide_eq_true rfl, State.ctx?_live h hi⟩)
  rw [Group.sliceAt_passBars, hat, hx]
  exact ⟨rfl, rfl⟩

end

theorem exec_bar_asks {w : F3} {s : State} {c : Ctx} (hc : s.ctx? = some c)
    (hpass : c.Passes ⟨w.legalBar, true, w.guard, [], [(w.sa, 1), (w.sb, 1)]⟩)
    (hfirst : ∀ n m q ws a, c.head.wait ≠ .bar n m q ws a) (ha : (c.uniform s w.sa).2 = none) (hb : (c.uniform s w.sb).2 = none)
    (hsec : c.sec = 0) :
    let s1 := s.setGroup (c.asking (c.uniform s w.sa).1.toNat w.sub.toNat (c.uniform s w.sb).1.toNat w.words)
    exec (.bar w) s = (s1.barTry c).getD s1.done := by
  show execBar w s = _
  unfold execBar
  rw [State.issue_ctx _ hc]
  dsimp only
  split
  · next e => exact absurd e (hfirst _ _ _ _ _)
  · rw [State.gate_passes _ _ _ _ hpass, ha, hb, hsec]
    rfl

theorem Cohort.of_bars {t : State} {u : Nat} {co : Cohort} (h : (t.cohort? u).map Cohort.bars = some co.bars) :
    ∃ co', t.cohort? u = some co' ∧ ∀ m, co'.barrier m = co.barrier m := by
  obtain ⟨co', hco, e⟩ := Option.map_eq_some_iff.1 h
  exact ⟨co', hco, fun m => Cohort.barrier_congr e m⟩

/-- What ARRIVE does once the barrier was stepped: the group itself goes on, or all of them do as the phase completes. -/
def State.barRelease (s : State) (gid uid nb mode : Nat) (complete : Bool) : State :=
  let s2 := if mode = 1 then s.passGroup gid nb else s
  if complete then s2.completePhase uid nb else s2

theorem State.barRelease_bars (s : State) (gid uid nb mode : Nat) (complete : Bool) (u : Nat) :
    ((s.barRelease gid uid nb mode complete).cohort? u).map Cohort.bars = (s.cohort? u).map Cohort.bars := by
  have h2 : ((if mode = 1 then s.passGroup gid nb else s).cohort? u).map Cohort.bars = (s.cohort? u).map Cohort.bars := by
    split
    · exact (s.passGroup_only gid nb).bars u
    · rfl
  unfold State.barRelease
  dsimp only
  split
  · exact (State.completePhase_bars _ _ _ _).trans h2
  · exact h2

theorem State.barRelease_passes {s : State} {c : Ctx} {g : Group} {nb words : Nat} (hs : s.group? c.g.gid = some g)
    (hp : c.Passed words (g.passBars nb)) {uid mode : Nat} (hu : g.cohort = uid) {complete : Bool} (h : mode = 1 ∨ complete = true) :
    ∃ g', (s.barRelease c.g.gid uid nb mode complete).group? c.g.gid = some g' ∧ c.Passed words g' := by
  unfold State.barRelease
  dsimp only
  by_cases hm : mode = 1
  · have hg := (State.passGroup_some nb hs).1
    rw [if_pos hm]
    split
    · exact State.completePhase_passes hg (hp.passBars nb) uid hu
    · exact ⟨_, hg, hp⟩
  · rw [if_neg hm, if_pos (h.resolve_left hm)]
    exact State.completePhase_passes hs hp uid hu

/-- The group's BAR has acted, and its barrier has not been stepped. -/
def State.withBarActed (s : State) (c : Ctx) (nb mode count words : Nat) : State :=
  (s.setGroup (c.asking nb mode count words)).setGroup (c.asking nb mode count words).barActed

theorem State.withBarActed_group? {s : State} {c : Ctx} (hc : s.ctx? = some c) (nb mode count words : Nat) :
    (s.withBarActed c nb mode count words).group? c.g.gid = some (c.asking nb mode count words).barActed := by
  have h1 := (State.setGroup_spec (c.asking nb mode count words) (State.ctx?_group hc) rfl).1
  exact (State.setGroup_spec (c.asking nb mode count words).barActed h1 rfl).1

theorem State.withBarActed_cohort? {s : State} {c : Ctx} (hc : s.ctx? = some c) (nb mode count words : Nat) :
    (s.withBarActed c nb mode count words).cohort? c.g.cohort = some c.co := by
  have h := State.ctx?_cohort hc
  exact h

@[simp] theorem State.group?_waited (s : State) (b : Bool) (i : Nat) : ({ s with waited := b } : State).group? i = s.group? i := rfl
@[simp] theorem State.cohort?_waited (s : State) (b : Bool) (u : Nat) : ({ s with waited := b } : State).cohort? u = s.cohort? u := rfl

section
variable {w : F3} {s : State} {c : Ctx} (hc : s.ctx? = some c)
  (hpass : c.Passes ⟨w.legalBar, true, w.guard, [], [(w.sa, 1), (w.sb, 1)]⟩)
  (hfirst : ∀ n m q ws a, c.head.wait ≠ .bar n m q ws a) (ha : (c.uniform s w.sa).2 = none) (hb : (c.uniform s w.sb).2 = none)
  (hsec : c.sec = 0) (hsq : c.g.sq = []) (hall : ∀ i, (c.g.sliceAt i).live = true → i ∈ c.slices)
  (hheld : ∀ i ∈ c.slices, (c.g.sliceAt i).held = false) {nb count : Nat} (enb : (c.uniform s w.sa).1.toNat = nb)
  (ecount : (c.uniform s w.sb).1.toNat = count) (hnb : nb ≤ 15) (hcount : count ≤ 17)
include hc hpass hfirst ha hb hsec hsq hall hheld enb ecount hnb hcount

theorem exec_bar_acts :
    let cnt := if count = 0 then c.co.ngm1 + 1 else count
    let b := c.co.barrier nb
    let acted := s.withBarActed c nb w.sub.toNat count w.words
    (w.sub.toNat ≠ 2 → b.cnt = 0 ∨ b.cnt = cnt) →
    exec (.bar w) s =
      if w.sub.toNat = 2 then (if b.passed c.g.sp.grp.toNat then acted.passGroup c.g.gid nb else acted).done
      else
        let r := (b.record c.g.sp.grp.toNat).arrive cnt
        ((acted.onCohort c.co.uid (fun co => co.setBarrier nb r.1)).barRelease c.g.gid c.co.uid nb w.sub.toNat r.2).done := by
  intro cnt b acted hcnt
  have hdrained : (c.asking nb w.sub.toNat count w.words).sq.any (·.committed) = false := by
    show (c.g.sq.map _).any _ = false
    rw [hsq]
    rfl
  rw [exec_bar_asks hc hpass hfirst ha hb hsec, enb, ecount]
  dsimp only
  rw [State.barTry_eq (Ctx.barAsk_asking hc nb w.sub.toNat count w.words hall hheld)
    (State.setGroup_spec (c.asking nb w.sub.toNat count w.words) (State.ctx?_group hc) rfl).1 (Ctx.live_asking hc nb w.sub.toNat count w.words) hdrained
    hnb hcount hcnt]
  rfl

/-- A WAIT changes no barrier (R130). -/
theorem bar_waits (hm : w.sub.toNat = 2) : Answers (exec (.bar w) s) (fun t => t.waited = false ∧
    ∃ co, t.cohort? c.g.cohort = some co ∧ ∀ m, co.barrier m = c.co.barrier m) := by
  rw [exec_bar_acts hc hpass hfirst ha hb hsec hsq hall hheld enb ecount hnb hcount (fun hn => absurd hm hn), if_pos hm]
  refine ⟨_, rfl, rfl, Cohort.of_bars ?_⟩
  have hco := State.withBarActed_cohort? hc nb w.sub.toNat count w.words
  show ((if _ then State.passGroup _ c.g.gid nb else _).cohort? c.g.cohort).map Cohort.bars = some c.co.bars
  split
  · rw [(State.passGroup_only _ c.g.gid nb).bars, hco]; rfl
  · rw [hco]; rfl

/-- An arrival steps the count, and the last one completes the phase (R130). -/
theorem bar_arrives (hm : w.sub.toNat ≠ 2) :
    let cnt := if count = 0 then c.co.ngm1 + 1 else count
    let b := c.co.barrier nb
    b.cnt = 0 ∨ b.cnt = cnt →
    Answers (exec (.bar w) s) (fun t => t.waited = false ∧ ∃ co, t.cohort? c.g.cohort = some co ∧
      (∀ m, m ≠ nb → co.barrier m = c.co.barrier m) ∧
      (if b.arr + 1 = cnt
        then (co.barrier nb).phase = !b.phase ∧ (co.barrier nb).arr = 0 ∧ (co.barrier nb).cnt = 0
        else (co.barrier nb).phase = b.phase ∧ (co.barrier nb).arr = b.arr + 1 ∧ (co.barrier nb).cnt = cnt) ∧
      (w.sub.toNat = 1 ∨ b.arr + 1 = cnt → ∃ g, t.group? c.g.gid = some g ∧ c.Passed w.words g)) := by
  intro cnt b hcnt
  have huid : c.co.uid = c.g.cohort := State.cohort?_uid (State.ctx?_cohort hc)
  have hstep := Barrier.arrive_spec (b := b.record c.g.sp.grp.toNat) (cnt := cnt) hcnt
  rw [exec_bar_acts hc hpass hfirst ha hb hsec hsq hall hheld enb ecount hnb hcount (fun _ => hcnt), if_neg hm]
  generalize (b.record c.g.sp.grp.toNat).arrive cnt = r at hstep
  have hco := State.cohort?_onCohort (fun co => co.setBarrier nb r.1)
    (State.withBarActed_cohort? hc nb w.sub.toNat count w.words) rfl
  have hg : ((s.withBarActed c nb w.sub.toNat count w.words).onCohort c.g.cohort (fun co => co.setBarrier nb r.1)).group? c.g.gid =
      some (c.asking nb w.sub.toNat count w.words).barActed := by
    rw [State.onCohort_frame]
    exact State.withBarActed_group? hc nb w.sub.toNat count w.words
  rw [huid]
  obtain ⟨co, hco', heq⟩ := Cohort.of_bars ((State.barRelease_bars _ c.g.gid c.g.cohort nb w.sub.toNat r.2 c.g.cohort).trans
    (congrArg (Option.map Cohort.bars) hco))
  refine ⟨_, rfl, rfl, co, by rw [State.cohort?_waited, hco'], fun m hne => ?_, ?_, fun hgo => ?_⟩
  · rw [heq, Cohort.barrier_setBarrier, if_neg hne]
  · rw [heq, Cohort.barrier_setBarrier, if_pos rfl]
    split
    · next e => rw [if_pos (show (b.record c.g.sp.grp.toNat).arr + 1 = cnt from e)] at hstep; exact hstep.2
    · next e => rw [if_neg (show ¬ (b.record c.g.sp.grp.toNat).arr + 1 = cnt from e)] at hstep; exact hstep.2
  · rw [State.group?_waited]
    refine State.barRelease_passes hg (Ctx.passed_asking hc nb w.sub.toNat count w.words) rfl (hgo.imp id fun e => ?_)
    rw [if_pos (show (b.record c.g.sp.grp.toNat).arr + 1 = cnt from e)] at hstep
    exact hstep.1

end

/-- Settles O10: a REGANG by `regang_meets`; a BAR by `bar_waits` and `bar_arrives`. -/
theorem slicesMeetAtRegangAndBarrier : Obligations.SlicesMeetAtRegangAndBarrier := by
  unfold Obligations.SlicesMeetAtRegangAndBarrier
  refine ⟨fun w s c hc hpass hclean hloop hsplits hpc hother _ heff =>
    regang_meets hc hpass hclean hloop hsplits hpc hother heff, ?_⟩
  intro w s c hc hpass hfirst ha hb hsec hsq hall hheld nb count cnt b hnb hcount hcnt
  have hsub : ∀ k : BitVec 3, w.sub.toNat = k.toNat ↔ w.sub = k := fun k => BitVec.toNat_inj
  by_cases hm : w.sub = 2
  · obtain ⟨t, ht, hw, co, hco, heq⟩ := bar_waits hc hpass hfirst ha hb hsec hsq hall hheld rfl rfl hnb hcount ((hsub 2).2 hm)
    refine ⟨t, ht, hw, co, hco, fun m _ => heq m, fun _ => heq nb, fun hn => absurd hm hn, fun hgo => ?_⟩
    rw [hm] at hgo
    exact absurd hgo (by simp)
  · obtain ⟨t, ht, hw, co, hco, hother, hstep, hgo⟩ := bar_arrives hc hpass hfirst ha hb hsec hsq hall hheld rfl rfl hnb hcount
      (fun e => hm ((hsub 2).1 e)) (hcnt hm)
    exact ⟨t, ht, hw, co, hco, hother, fun e => absurd e hm, fun _ => hstep, fun h => hgo (h.imp (hsub 1).2 fun h => h.2)⟩

end Sys2Proof.Machine
end

section
namespace Sys2Proof.Machine

/-! ### A loop's exit and its Turns (R107, R406, R409) -/

/-- What the exit of a loop may change of a group. -/
theorem Group.tryExit_eq (g : Group) : g.tryExit.1 =
    { g with slices := g.tryExit.1.slices, loop := g.tryExit.1.loop, sq := g.tryExit.1.sq
             regs := { g.regs with iter := g.tryExit.1.regs.iter } } := by
  unfold Group.tryExit
  split
  · rfl
  · dsimp only
    split <;> rfl

/-- The exit of a loop lets its last CMTD entry forward, and changes no other entry (R409). -/
theorem Group.tryExit_sq (g : Group) : g.tryExit.1.sq = g.sq ∨ ∃ last, g.tryExit.1.sq = g.sq.map (·.finalCmtd last) := by
  unfold Group.tryExit
  split
  · exact .inl rfl
  · dsimp only
    split
    · exact .inl rfl
    · exact .inr ⟨_, rfl⟩

theorem Eases.regroup (g : Group) (is : List Nat) : Eases g (g.regroup is) := Eases.mapSlices g is fun _ _ => .inl rfl

theorem Group.tryExit_eases (g : Group) : Eases g g.tryExit.1 := by
  unfold Group.tryExit
  split
  · exact Eases.refl g
  · dsimp only
    split
    · exact Eases.refl g
    · have hidle : Eases g (g.mapSlices (List.range 32) (fun _ x => { x with imask := 0 })) :=
        Eases.mapSlices g _ fun _ _ => .inl rfl
      exact (hidle.trans (Eases.mapSlices _ _ fun _ _ => .inr rfl)).trans (Eases.regroup _ _)

theorem SQEntry.finalCmtd_spec (e : SQEntry) (last : Option Nat) :
    let e' := e.finalCmtd last
    e'.id = e.id ∧ e'.place = e.place ∧ e'.iter = e.iter ∧ e'.committed = e.committed ∧
      (e'.op = e.op ∨ ∃ off v b, e.op = .cmtd off v b ∧ e'.op = .cmtd off v true) := by
  intro e'
  have h : e' = e ∨ ∃ off v b, e.op = .cmtd off v b ∧ e' = { e with op := .cmtd off v true } := by
    simp only [e', SQEntry.finalCmtd]
    split
    · next off v b hop =>
      split
      · exact .inr ⟨off, v, b, hop, rfl⟩
      · exact .inl rfl
    · exact .inl rfl
  rcases h with h | ⟨off, v, b, hop, h⟩
  · rw [h]; exact ⟨rfl, rfl, rfl, rfl, .inl rfl⟩
  · rw [h]; exact ⟨rfl, rfl, rfl, rfl, .inr ⟨off, v, b, hop, rfl⟩⟩

/-- What settling may change of a group. -/
theorem Group.settled_eq (g : Group) : g.settled =
    { g.tryExit.1 with slices := g.settled.slices, splits := g.settled.splits
                       ctl := { g.ctl with turns := g.settled.ctl.turns, curPath := g.settled.ctl.curPath } } := by
  have h1 := (g.tryExit.1.tryReleases_only).trans g.tryExit.1.tryReleases.1.tryRegangs_only
  have h2 : g.settled = (g.tryExit.1.tryReleases.1.tryRegangs.1).keepTurn g := rfl
  rw [Group.keepTurn_eq, h1, g.tryExit_eq] at h2
  rw [h2, g.tryExit_eq]

theorem Group.settled_gid (g : Group) : g.settled.gid = g.gid := by rw [Group.settled_eq, Group.tryExit_eq]

theorem Group.settled_sliceAt (g : Group) (i : Nat) : g.settled.sliceAt i = g.tryExit.1.tryReleases.1.tryRegangs.1.sliceAt i :=
  Group.keepTurn_sliceAt _ _ i

/-- A group in which no slice waits in a REGANG settles without one. -/
theorem Group.settled_noRegang {g : Group} (h : g.noRegang) : g.settled.noRegang := by
  have h2 := (g.tryExit_eases.trans g.tryExit.1.tryReleases_eases).noRegang h
  intro i
  have e : g.settled.sliceAt i = g.tryExit.1.tryReleases.1.sliceAt i := by
    rw [Group.settled_sliceAt, Group.tryRegangs_none h2]
  rw [e]
  exact h2 i

theorem mem_insertBehind {p : SQEntry → Bool} {e x : SQEntry} {l : List SQEntry} : x ∈ insertBehind p e l ↔ x = e ∨ x ∈ l := by
  have hp : (l.reverse.dropWhile (fun x => !p x)).reverse <+: l := by
    have := (List.dropWhile_suffix (l := l.reverse) (fun x => !p x)).reverse
    rwa [List.reverse_reverse] at this
  have hl := List.prefix_iff_eq_append.1 hp
  unfold insertBehind
  dsimp only
  conv_rhs => rw [← hl]
  simp only [List.mem_append, List.mem_cons]
  tauto

/-- The queue after a Turn holds the CMTD entry of its iteration, and every entry that was held of it is committed. -/
theorem Loop.mem_turnQueue (lp : Loop) (i : Word32) (id : Nat) (sq : List SQEntry) :
    (⟨id, id, true, none, .cmtd (lp.queue + 8) (i + 1) false⟩ : SQEntry) ∈ lp.turnQueue i id sq ∧
    ∀ e ∈ sq, { e with committed := e.committed || e.iter == some i } ∈ lp.turnQueue i id sq := by
  unfold Loop.turnQueue
  refine ⟨mem_insertBehind.2 (.inl rfl), fun e he => mem_insertBehind.2 (.inr (List.mem_map.2 ⟨e, he, ?_⟩))⟩
  by_cases h : e.iter = some i
  · rw [if_pos h]
    simp [h]
  · rw [if_neg h]
    have : (e.iter == some i) = false := by simpa using h
    rw [this, Bool.or_false]

/-- The group once the iteration i has had its Turn. -/
def Group.turned (g : Group) (lp : Loop) (i : Word32) (id : Nat) : Group :=
  { g with sq := lp.turnQueue i id g.sq, loop := some { lp with turned := lp.turned ++ [i], lastCmtd := some id } }

theorem exec_turn_next {s : State} {gid : Nat} {g : Group} {lp : Loop} {i : Word32} {co : Cohort} {p : Part}
    (hg : s.group? gid = some g) (hd : g.discarding = false) (hloop : g.loop = some lp) (hi : lp.nextTurn = some i)
    (hco : s.cohort? g.cohort = some co) (hp : s.part? g.part = some p) :
    exec (.turn gid) s = (({ s with nextUid := s.nextUid + 1 } : State).setGroup (g.turned lp i s.nextUid)).settlePaths
      ⟨g.turned lp i s.nextUid, co, p, [], (g.turned lp i s.nextUid).sliceAt 0⟩ := by
  show execTurn gid s = _
  unfold execTurn
  have hl : (if g.discarding then none else g.loop) = some lp := by rw [hd, if_neg Bool.false_ne_true, hloop]
  rw [hg]
  dsimp only
  rw [hl]
  dsimp only
  rw [hi, hco, hp]
  rfl

/-- The TURN of the next iteration commits its held entries and puts its CMTD entry into the store queue. -/
theorem turn_commits {s : State} {gid : Nat} {g : Group} {lp : Loop} {i : Word32} {co : Cohort} {p : Part}
    (hg : s.group? gid = some g) (hd : g.discarding = false) (hloop : g.loop = some lp) (hi : lp.nextTurn = some i)
    (hco : s.cohort? g.cohort = some co) (hp : s.part? g.part = some p) (hr : g.noRegang) :
    Answers (exec (.turn gid) s) (fun t => ∃ g', t.group? gid = some g' ∧
      (g'.sq = lp.turnQueue i s.nextUid g.sq ∨ ∃ last, g'.sq = (lp.turnQueue i s.nextUid g.sq).map (·.finalCmtd last))) := by
  have hgid := State.group?_gid hg
  set g1 := g.turned lp i s.nextUid
  have h1 : (({ s with nextUid := s.nextUid + 1 } : State).setGroup g1).group? gid = some g1 :=
    (State.setGroup_spec (s := { s with nextUid := s.nextUid + 1 }) g1 hg hgid).1
  have hsettled := Group.settled_noRegang (g := g1) hr
  obtain ⟨t, ht, -, -, hg'⟩ := State.settlePaths_done (c := ⟨g1, co, p, [], g1.sliceAt 0⟩)
    (s := ({ s with nextUid := s.nextUid + 1 } : State).setGroup g1) (g := g1)
    (by rw [show g1.gid = gid from hgid]; exact h1) g1.settled_gid (Group.not_deadlocked_of_noRegang hsettled)
  rw [exec_turn_next hg hd hloop hi hco hp]
  refine ⟨t, ht, g1.settled, by rw [← hgid]; exact hg', ?_⟩
  rw [Group.settled_eq]
  exact g1.tryExit_sq

end Sys2Proof.Machine
end

section
namespace Sys2Proof.Machine

/-- After a Turn every entry is still there, committed if it was held of the Turn's iteration, beside the CMTD entry. -/
theorem turn_keeps_entries {s : State} {gid : Nat} {g : Group} {lp : Loop} {i : Word32} {co : Cohort} {p : Part}
    (hg : s.group? gid = some g) (hd : g.discarding = false) (hloop : g.loop = some lp) (hi : lp.nextTurn = some i)
    (hco : s.cohort? g.cohort = some co) (hp : s.part? g.part = some p) (hr : g.noRegang) :
    Answers (exec (.turn gid) s) (fun t => ∃ g', t.group? gid = some g' ∧
      (∃ e ∈ g'.sq, e.committed = true ∧ ∃ b, e.op = .cmtd (lp.queue + 8) (i + 1) b) ∧
      ∀ e ∈ g.sq, ∃ e' ∈ g'.sq, e'.id = e.id ∧ e'.place = e.place ∧ e'.iter = e.iter ∧
        e'.committed = (e.committed || e.iter == some i) ∧
        (e'.op = e.op ∨ ∃ off v b, e.op = .cmtd off v b ∧ e'.op = .cmtd off v true)) := by
  obtain ⟨t, ht, g', hg', hsq⟩ := turn_commits hg hd hloop hi hco hp hr
  obtain ⟨hcmtd, hkept⟩ := lp.mem_turnQueue i s.nextUid g.sq
  refine ⟨t, ht, g', hg', ?_⟩
  rcases hsq with e | ⟨last, e⟩
  · rw [e]
    exact ⟨⟨_, hcmtd, rfl, _, rfl⟩, fun x hx => ⟨_, hkept x hx, rfl, rfl, rfl, rfl, .inl rfl⟩⟩
  · rw [e]
    refine ⟨⟨_, List.mem_map_of_mem hcmtd, ?_⟩, fun x hx => ⟨_, List.mem_map_of_mem (hkept x hx), SQEntry.finalCmtd_spec _ last⟩⟩
    obtain ⟨-, -, -, hc, hop⟩ := SQEntry.finalCmtd_spec
      ⟨s.nextUid, s.nextUid, true, none, .cmtd (lp.queue + 8) (i + 1) false⟩ last
    refine ⟨hc, ?_⟩
    rcases hop with hop | ⟨off, v, b, h1, h2⟩
    · exact ⟨_, hop⟩
    · cases h1
      exact ⟨_, h2⟩

/-! ### REFILL (R106, R131) -/

/-- The group after a REFILL whose refilling lanes are rs: each slice as R106 moves it, and the paths named anew. -/
def Ctx.refilled (c : Ctx) (lp : Loop) (words : Nat) (rs : List Nat) (g : Group) : Group :=
  ((g.mapSlices c.slices (fun i x => refillSlice c lp words (sliceLanes i rs) x)).regroup c.slices).keepTurn g

theorem Ctx.refilled_eq (c : Ctx) (lp : Loop) (words : Nat) (rs : List Nat) (g : Group) :
    let g' := c.refilled lp words rs g
    g' = { g with slices := g'.slices, ctl := { g.ctl with turns := g'.ctl.turns, curPath := g'.ctl.curPath } } := by
  intro g'
  have h : g' = c.refilled lp words rs g := rfl
  rw [Ctx.refilled, Group.keepTurn_eq, Group.regroup_eq] at h
  rw [h]
  rfl

/-- R106 in one slice: past the word, or the lowest refilling lane in its retire section under a side-trip entry. -/
theorem refillSlice_spec (c : Ctx) (lp : Loop) (words : Nat) (r : BitVec 4) (x : Slice) :
    let y := refillSlice c lp words r x
    if r = 0 then y.pc = c.next words ∧ y.hdr = c.isLast words ∧ y.amask = x.amask ∧ y.lstk = x.lstk
    else y.pc = lp.ret ∧ y.hdr = true ∧ y.amask = r &&& (-r) ∧
      ∃ e, y.lstk = e :: x.lstk ∧ e.kind = .sideTrip ∧ e.orig = x.amask ∧ e.taken = r ∧ e.arr = r ∧ e.tpc = c.next words := by
  intro y
  by_cases hr : r = 0
  · have hy : y = { x with pc := c.next words, hdr := c.isLast words, sig := c.folded 0x00F, wait := .none } := if_pos hr
    rw [if_pos hr, hy]
    exact ⟨rfl, rfl, rfl, rfl⟩
  · have hy : y = { x with
        lstk := { kind := .sideTrip, rpc := none, orig := x.amask, taken := r, arr := r, tpc := c.next words
                  phase := false, back := some (x.blkPc, x.blk, c.folded 0x00F) } :: x.lstk
        amask := lowestLane r, pc := lp.ret, hdr := true, sig := c.folded 0x00F, wait := .none } := if_neg hr
    rw [if_neg hr, hy]
    exact ⟨rfl, rfl, rfl, _, rfl, rfl, rfl, rfl, rfl, rfl⟩

/-- A REFILL in a loop's body with room for its entries traps nowhere (R106). -/
theorem exec_refill_moves {w : F3} {s : State} {c : Ctx} {lp : Loop} (hc : s.ctx? = some c)
    (hpass : c.Passes (Need.bare w.legalRefill true w.guard)) (hloop : c.g.loop = some lp) (hsec : c.sec = 2)
    (hclean : ∀ l ∈ c.acting w.guard, c.g.pPois (srcP w.sa) l = none) :
    let rs := (c.acting w.guard).filter (fun l => c.g.pBit (srcP w.sa) l)
    (∀ i ∈ c.slices, sliceLanes i rs ≠ 0 → (c.g.sliceAt i).lstk.length < 16) →
    exec (.refill w) s = ((s.onGroup c.g.gid (c.refilled lp w.words rs)).checkSig c 0x00F w.words).done := by
  intro rs hroom
  have hpois : ¬ ((c.acting w.guard).any (fun l => (c.g.pPois (srcP w.sa) l).isSome) = true) := by
    rw [List.any_eq_true]
    rintro ⟨l, hl, hp⟩
    rw [hclean l hl] at hp
    cases hp
  have hfull : ¬ (c.slices.any (fun i => sliceLanes i rs != 0 && decide (16 ≤ (c.g.sliceAt i).lstk.length)) = true) := by
    rw [List.any_eq_true]
    rintro ⟨i, hi, hb⟩
    rw [Bool.and_eq_true, bne_iff_ne, decide_eq_true_iff] at hb
    exact absurd (hroom i hi hb.1) (Nat.not_lt.2 hb.2)
  show execRefill w s = _
  unfold execRefill
  rw [State.issue_ctx _ hc, State.gate_passes _ _ _ _ hpass, hloop]
  dsimp only
  rw [hsec, if_neg (by simp)]
  exact (if_neg hpois).trans (if_neg hfull)

theorem refill_completes {w : F3} {s : State} {c : Ctx} {lp : Loop} (hc : s.ctx? = some c)
    (hpass : c.Passes (Need.bare w.legalRefill true w.guard)) (hloop : c.g.loop = some lp) (hsec : c.sec = 2)
    (hclean : ∀ l ∈ c.acting w.guard, c.g.pPois (srcP w.sa) l = none) :
    let r := fun (i : Nat) => sliceLanes i ((c.acting w.guard).filter (fun l => c.g.pBit (srcP w.sa) l))
    (∀ i ∈ c.slices, r i ≠ 0 → (c.g.sliceAt i).lstk.length < 16) →
    Answers (exec (.refill w) s) (fun t => t.waited = false ∧ OnlyGroup s t c.g.gid ∧ ∃ g, t.group? c.g.gid = some g ∧
      g = { c.g with slices := g.slices, ctl := { c.g.ctl with turns := g.ctl.turns, curPath := g.ctl.curPath } } ∧
      (∀ i ∈ c.slices,
        let x := c.g.sliceAt i
        let y := g.sliceAt i
        if r i = 0 then y.pc = c.next w.words ∧ y.hdr = c.isLast w.words ∧ y.amask = x.amask ∧ y.lstk = x.lstk
        else y.pc = lp.ret ∧ y.hdr = true ∧ y.amask = r i &&& (-r i) ∧
          ∃ e, y.lstk = e :: x.lstk ∧ e.kind = .sideTrip ∧ e.orig = x.amask ∧ e.taken = r i ∧ e.arr = r i ∧
            e.tpc = c.next w.words) ∧
      ∀ i, i ∉ c.slices → g.sliceAt i = c.g.sliceAt i) := by
  intro r hroom
  have heq := c.refilled_eq lp w.words ((c.acting w.guard).filter (fun l => c.g.pBit (srcP w.sa) l)) c.g
  obtain ⟨hin, hout⟩ := Ctx.regroup_spec hc c.g c.g rfl (fun i x => refillSlice c lp w.words (r i) x)
  rw [exec_refill_moves hc hpass hloop hsec hclean hroom]
  obtain ⟨t, ht, hw, ho, hg⟩ := State.onGroup_checkSig_done
    (c.refilled lp w.words ((c.acting w.guard).filter (fun l => c.g.pBit (srcP w.sa) l))) 0x00F w.words (State.ctx?_group hc)
    (by rw [heq])
  refine ⟨t, ht, hw, ho, _, hg, heq, fun i hi => ?_, hout⟩
  obtain ⟨p, e⟩ := hin i hi
  have hspec := refillSlice_spec c lp w.words (r i) (c.g.sliceAt i)
  dsimp only
  rw [show (c.refilled lp w.words _ c.g).sliceAt i = _ from e]
  exact hspec

end Sys2Proof.Machine
end

section
namespace Sys2Proof.Machine

/-! ### What the takes of an iteration queue may change (R103, R105, R209) -/

/-- A group without its reservations. -/
def Group.sansResv (g : Group) : Group := { g with resv := [] }
/-- A cohort without notes and without the bytes of its scratchpad. -/
def Cohort.sansScratch (co : Cohort) : Cohort := { co.sansNotes with scratch := [], scratchPois := [] }

/-- t differs from s in group gid, in the scratchpad of cohort uid, in reservations and in notes: no byte of memory, no other
group and no other cohort changes. -/
structure QueueFrame (s t : State) (gid uid : Nat) : Prop where
  mem : ∀ a, t.readDM a = s.readDM a
  groups : ∀ h, h ≠ gid → (t.group? h).map Group.sansResv = (s.group? h).map Group.sansResv
  cohorts : ∀ u, u ≠ uid → (t.cohort? u).map Cohort.sansNotes = (s.cohort? u).map Cohort.sansNotes
  cohort : (t.cohort? uid).map Cohort.sansScratch = (s.cohort? uid).map Cohort.sansScratch

namespace QueueFrame

theorem trans {s t u : State} {gid uid : Nat} (h1 : QueueFrame s t gid uid) (h2 : QueueFrame t u gid uid) :
    QueueFrame s u gid uid :=
  ⟨fun a => (h2.mem a).trans (h1.mem a), fun h hh => (h2.groups h hh).trans (h1.groups h hh),
    fun u hu => (h2.cohorts u hu).trans (h1.cohorts u hu), h2.cohort.trans h1.cohort⟩

theorem of_onlyGroup {s t : State} {gid : Nat} (h : OnlyGroup s t gid) (uid : Nat) : QueueFrame s t gid uid := by
  obtain ⟨-, hg, hco, -, hmem⟩ := h
  refine ⟨hmem, fun h hh => congrArg _ (hg h hh), fun u _ => hco u, ?_⟩
  have := congrArg (Option.map (fun co : Cohort => { co with scratch := [], scratchPois := [] })) (hco uid)
  rwa [Option.map_map, Option.map_map] at this

theorem of_fetch {s t : State} (h : FetchFrame s t) (gid uid : Nat) : QueueFrame s t gid uid :=
  ⟨h.readDM, fun i _ => congrArg _ (h.group? i), fun u _ => congrArg _ (h.cohort? u), congrArg _ (h.cohort? uid)⟩

end QueueFrame

/-- A write of scratchpad takes reservations from groups, and nothing else. -/
theorem State.group?_writeScratch (s : State) (uid : Nat) (bs : List WByte) :
    ∃ r : Group → List Reservation, ∀ h, (s.writeScratch uid bs).group? h = (s.group? h).map (fun g => { g with resv := r g }) := by
  unfold State.writeScratch
  split
  · exact ⟨Group.resv, fun h => by simp⟩
  · next co _ =>
    refine ⟨fun g => g.resv.filter (fun r => !clearsReservation g r (granulesOf bs) (some uid) (.core co.core)), fun h => ?_⟩
    exact List.find?_map ..

theorem QueueFrame.writeScratch (s : State) (uid : Nat) (bs : List WByte) (gid : Nat) :
    QueueFrame s (s.writeScratch uid bs) gid uid := by
  refine ⟨fun a => by rw [State.writeScratch_frame]; rfl, fun h _ => ?_, fun u hu => ?_, ?_⟩
  · obtain ⟨r, e⟩ := State.group?_writeScratch s uid bs
    rw [e, Option.map_map]
    rfl
  · unfold State.writeScratch
    split
    · rfl
    · next co hco =>
      show ((s.setCohort (co.writeScratch bs)).cohort? u).map _ = _
      rw [State.cohort?_setCohort, if_neg (by rw [show (co.writeScratch bs).uid = uid from State.cohort?_uid (c := co) hco]; exact hu)]
  · cases h : s.cohort? uid with
    | none =>
      unfold State.writeScratch
      rw [h]
      show (s.cohort? uid).map _ = _
      rw [h]
    | some co =>
      rw [State.cohort?_writeScratch h]
      rfl

/-- A take that finds an index steps NEXT in scratchpad; one that finds none changes nothing (R105). -/
theorem State.takeIndex_frame (s : State) (uid q gid : Nat) : QueueFrame s (s.takeIndex uid q).2 gid uid ∧
    ∃ r : Group → List Reservation, ∀ h, (s.takeIndex uid q).2.group? h = (s.group? h).map (fun g => { g with resv := r g }) := by
  unfold State.takeIndex
  dsimp only
  split
  · exact ⟨QueueFrame.writeScratch s uid _ gid, State.group?_writeScratch s uid _⟩
  · exact ⟨QueueFrame.of_onlyGroup (OnlyGroup.refl s gid) uid, Group.resv, fun h => by simp⟩

/-- Lane l with what it took: its index, or idle. -/
def Group.takes (g : Group) (l : Nat) : Option Word32 → Group
  | some it => { (g.setIter l it) with loop := g.loop.map (fun lp => { lp with taken := lp.taken ++ [it] }) }
  | none => g.goIdle l

@[simp] theorem Group.takes_gid (g : Group) (l : Nat) (o : Option Word32) : (g.takes l o).gid = g.gid := by cases o <;> rfl

/-- One lane takes an index (R103, R105). -/
def State.takeLane (s : State) (uid gid q l : Nat) : State :=
  (s.takeIndex uid q).2.onGroup gid (fun g => g.takes l (s.takeIndex uid q).1)

theorem State.takeAll_eq (s : State) (uid gid q : Nat) (ls : List Nat) :
    s.takeAll uid gid q ls = ls.foldl (fun s l => s.takeLane uid gid q l) s := by
  have h : (fun (s : State) (l : Nat) => s.takeLane uid gid q l) = fun s l =>
      (s.takeIndex uid q).2.onGroup gid (fun g =>
        match (s.takeIndex uid q).1 with
        | some it => { (g.setIter l it) with loop := g.loop.map (fun lp => { lp with taken := lp.taken ++ [it] }) }
        | none => g.goIdle l) := by
    funext s l
    unfold State.takeLane
    cases (s.takeIndex uid q).1 <;> rfl
  rw [h]
  rfl

/-- A lane that takes changes its group, but for reservations, as `Group.takes` has it. -/
theorem State.takeLane_spec {s : State} {gid : Nat} {g : Group} (h : s.group? gid = some g) (uid q l : Nat) :
    QueueFrame s (s.takeLane uid gid q l) gid uid ∧
    ∃ rv, (s.takeLane uid gid q l).group? gid = some (({ g with resv := rv } : Group).takes l (s.takeIndex uid q).1) := by
  obtain ⟨hf, r, hr⟩ := s.takeIndex_frame uid q gid
  have hg : (s.takeIndex uid q).2.group? gid = some { g with resv := r g } := by rw [hr, h]; rfl
  obtain ⟨hg', ho⟩ := State.onGroup_spec (fun g => g.takes l (s.takeIndex uid q).1) hg (Group.takes_gid _ _ _)
  exact ⟨hf.trans (.of_onlyGroup ho uid), r g, hg'⟩

end Sys2Proof.Machine
end

section
namespace Sys2Proof.Machine

/-! ### The lanes of a loop take their iterations (R103) -/

/-- g is the group of a LOOPB that began the loop lp, while its lanes take indices: its slices idle where they found none. -/
structure Ctx.Taking (c : Ctx) (lp : Loop) (g : Group) : Prop where
  frame : g = { c.g with slices := g.slices, loop := g.loop, resv := g.resv, regs := { c.g.regs with iter := g.regs.iter } }
  loop : ∃ taken, g.loop = some { lp with taken := taken }
  length : g.slices.length = c.g.slices.length
  slices : ∀ i, ∃ m, g.sliceAt i = { c.g.sliceAt i with imask := m }

/-- Lane l took the index it first and is not idle. -/
structure Ctx.FirstTook (lp : Loop) (l : Nat) (it : Word32) (g : Group) : Prop where
  loop : ∃ rest, g.loop = some { lp with taken := it :: rest }
  iter : g.iterOf l = it
  running : bit (g.sliceAt (l / 4)).imask (l % 4) = false

theorem Group.iterOf_setIter (g : Group) (l m : Nat) (it : Word32) :
    (g.setIter l it).iterOf m = if m = l then it else g.iterOf m := SMap.get_put _ _ _ _ _

theorem Group.sliceAt_goIdle (g : Group) (l i : Nat) : (g.goIdle l).sliceAt i =
    if i = l / 4 ∧ i < g.slices.length then { g.sliceAt i with imask := (g.sliceAt i).imask ||| laneBit l } else g.sliceAt i := by
  refine (Group.sliceAt_mapSlices (g.setIter l 0xFFFFFFFF) [l / 4] _ i).trans ?_
  simp only [List.mem_singleton]
  rfl

theorem Ctx.Taking.takes {c : Ctx} {lp : Loop} {g : Group} (h : c.Taking lp g) (rv : List Reservation) (l : Nat)
    (o : Option Word32) : c.Taking lp (({ g with resv := rv } : Group).takes l o) := by
  obtain ⟨hf, ⟨taken, hl⟩, hlen, hs⟩ := h
  cases o with
  | some it =>
    refine ⟨?_, ⟨taken ++ [it], ?_⟩, hlen, hs⟩
    · unfold Group.takes Group.setIter
      rw [hf]
    · show g.loop.map _ = _
      rw [hl]
      rfl
  | none =>
    refine ⟨?_, ⟨taken, hl⟩, ?_, fun i => ?_⟩
    · unfold Group.takes Group.goIdle Group.setIter Group.mapSlices
      rw [hf]
    · unfold Group.takes Group.goIdle Group.setIter Group.mapSlices
      simpa using hlen
    · obtain ⟨m, e⟩ := hs i
      rw [show ({ g with resv := rv } : Group).takes l none = ({ g with resv := rv } : Group).goIdle l from rfl, Group.sliceAt_goIdle]
      split
      · exact ⟨m ||| laneBit l, by rw [show ({ g with resv := rv } : Group).sliceAt i = g.sliceAt i from rfl, e]⟩
      · exact ⟨m, e⟩

theorem bit_laneBit {l j : Nat} (hj : j < 4) : bit (laneBit l) j = decide (j = l % 4) := by
  unfold bit laneBit
  rw [BitVec.getLsbD_shiftLeft]
  have hl : l % 4 < 4 := Nat.mod_lt _ (by decide)
  by_cases e : j = l % 4
  · subst e; simp [hj]
  · by_cases hlt : j < l % 4
    · simp [hlt, e]
    · have : j - l % 4 ≠ 0 := by omega
      simp [hj, hlt, e, this]

/-- A later lane takes behind the first, whose iteration and running stand. -/
theorem Ctx.FirstTook.takes {lp : Loop} {l k : Nat} {it : Word32} {g : Group} (h : Ctx.FirstTook lp l it g) (hne : k ≠ l)
    (rv : List Reservation) (o : Option Word32) : Ctx.FirstTook lp l it (({ g with resv := rv } : Group).takes k o) := by
  obtain ⟨⟨rest, hl⟩, hit, hrun⟩ := h
  have hset : ∀ x, (g.setIter k x).iterOf l = it := fun x => by rw [Group.iterOf_setIter, if_neg hne.symm, hit]
  cases o with
  | some x =>
    refine ⟨⟨rest ++ [x], ?_⟩, hset x, hrun⟩
    show g.loop.map _ = _
    rw [hl]
    rfl
  | none =>
    refine ⟨⟨rest, hl⟩, hset _, ?_⟩
    rw [show ({ g with resv := rv } : Group).takes k none = ({ g with resv := rv } : Group).goIdle k from rfl, Group.sliceAt_goIdle]
    split
    · next e =>
      have hlane : l % 4 ≠ k % 4 := by omega
      show bit ((g.sliceAt (l / 4)).imask ||| laneBit k) (l % 4) = false
      have hb := bit_laneBit (l := k) (j := l % 4) (Nat.mod_lt _ (by decide))
      unfold bit at hrun hb ⊢
      rw [BitVec.getLsbD_or, hrun, hb, decide_eq_false hlane]
      rfl
    · exact hrun

/-- The first take of the loop. -/
theorem Ctx.FirstTook.of_take {lp : Loop} {l : Nat} {g : Group} (hl : g.loop = some lp) (h0 : lp.taken = [])
    (hi : (g.sliceAt (l / 4)).imask = 0) (it : Word32) (rv : List Reservation) :
    Ctx.FirstTook lp l it (({ g with resv := rv } : Group).takes l (some it)) := by
  refine ⟨⟨[], ?_⟩, ?_, ?_⟩
  · show g.loop.map _ = _
    rw [hl]
    show some { lp with taken := lp.taken ++ [it] } = _
    rw [h0]
    rfl
  · exact (Group.iterOf_setIter g l l it).trans (if_pos rfl)
  · show bit (g.sliceAt (l / 4)).imask (l % 4) = false
    rw [hi]
    simp [bit]

/-- After the lanes took in order, the first of them holds the queue's next index (R103, R105). -/
theorem State.takeAll_spec {s : State} {c : Ctx} {lp : Loop} {g : Group} {q l0 : Nat} {ls : List Nat} {uid : Nat}
    (hs : s.group? c.g.gid = some g) (hg : c.Taking lp g) (hloop : g.loop = some lp) (h0 : lp.taken = [])
    (hidle : (g.sliceAt (l0 / 4)).imask = 0) (hnd : (l0 :: ls).Nodup)
    (hq : ((s.queueWord uid q).ult (s.queueWord uid (q + 4))) = true) :
    QueueFrame s (s.takeAll uid c.g.gid q (l0 :: ls)) c.g.gid uid ∧
    ∃ g', (s.takeAll uid c.g.gid q (l0 :: ls)).group? c.g.gid = some g' ∧ c.Taking lp g' ∧
      Ctx.FirstTook lp l0 (s.queueWord uid q) g' := by
  have hfirst : (s.takeIndex uid q).1 = some (s.queueWord uid q) := by
    unfold State.takeIndex
    dsimp only
    rw [if_pos hq]
  obtain ⟨hf1, rv, hg1⟩ := State.takeLane_spec hs uid q l0
  rw [hfirst] at hg1
  rw [State.takeAll_eq, List.foldl_cons]
  refine List.foldlRecOn (motive := fun t => QueueFrame s t c.g.gid uid ∧ ∃ g', t.group? c.g.gid = some g' ∧ c.Taking lp g' ∧
    Ctx.FirstTook lp l0 (s.queueWord uid q) g') ls _ ⟨hf1, _, hg1, hg.takes rv l0 _, .of_take hloop h0 hidle _ rv⟩ ?_
  rintro t ⟨hf, g', hg', htk, hft⟩ l hl
  obtain ⟨hf2, rv2, hg2⟩ := State.takeLane_spec hg' uid q l
  have hne : l ≠ l0 := fun e => (List.nodup_cons.1 hnd).1 (e ▸ hl)
  exact ⟨hf.trans hf2, _, hg2, htk.takes rv2 l _, hft.takes hne rv2 _⟩

end Sys2Proof.Machine
end

section
namespace Sys2Proof.Machine

/-! ### LOOPB (R103, R131, R132) -/

theorem State.atSection_header {s t : State} {c : Ctx} {va : Addr} {h : Word64} {sec : Nat} (k : State → Result)
    (hh : s.headerAt c.p c.g va = (.header h, t)) (hsec : (bits h 16 2).toNat = sec) : s.atSection c va sec k = k t := by
  unfold State.atSection
  rw [State.atTarget_header _ hh, if_pos hsec]

/-- The record of the loop that a LOOPB begins, before its lanes take (R103). -/
def Ctx.loopRecord (c : Ctx) (lit : Word64) (q words : Nat) : Loop :=
  { pro := sectionTarget c lit 0, body := sectionTarget c lit 21, ret := sectionTarget c lit 42, exit := c.next words, queue := q
    lmask := laneMask c.active, taken := [], complete := [], turned := [], lastCmtd := none }

/-- The path's slices as the loop's first iterations start (R103). -/
def Ctx.started (c : Ctx) (lp : Loop) (g : Group) : Group :=
  ((g.mapSlices c.slices (fun _ x => loopSlice c lp x)).regroup c.slices).keepTurn g

/-- The state in which the path's lanes have taken their first indices. -/
def State.loopTaken (s : State) (c : Ctx) (lp : Loop) : State :=
  (s.onGroup c.g.gid (fun g => { g with loop := some lp })).takeAll c.co.uid c.g.gid lp.queue c.active

theorem exec_loopb_begins {w : F3} {s s1 s2 s3 : State} {c : Ctx} {h1 h2 h3 : Word64} (hc : s.ctx? = some c)
    (hpass : c.Passes ⟨w.legalLoopb && c.isLast w.words, true, w.guard, [], [(w.sa, 1)]⟩) (hclean : (c.uniform s w.sa).2 = none)
    (hsec : c.sec = 0) (hloop : c.g.loop = none) :
    let q := (c.uniform s w.sa).1.toNat
    let lit := (c.uniform s w.sb).1
    let lp := c.loopRecord lit q w.words
    q % 16 = 0 → q + 16 ≤ c.scratchBelow →
    s.headerAt c.p c.g (sectionTarget c lit 0) = (.header h1, s1) → bits h1 16 2 = 1 →
    s1.headerAt c.p c.g (sectionTarget c lit 21) = (.header h2, s2) → bits h2 16 2 = 2 →
    s2.headerAt c.p c.g (sectionTarget c lit 42) = (.header h3, s3) → bits h3 16 2 = 3 →
    exec (.loopb w) s =
      (((s3.loopTaken c lp).onGroup c.g.gid (c.started lp)).checkSig c 0x00E w.words).settlePaths c := by
  intro q lit lp halign hrange hh1 hs1 hh2 hs2 hh3 hs3
  show execLoopb w s = _
  unfold execLoopb
  rw [State.issue_ctx _ hc]
  dsimp only
  rw [State.gate_passes _ _ _ _ hpass, hclean, hsec, hloop, if_neg (by simp), if_neg (by simp), if_neg (by simp),
    if_neg (by rw [bne_iff_ne]; exact fun hn => hn halign), if_neg (Nat.not_lt.2 hrange), State.atSection_header _ hh1 (by rw [hs1]; rfl),
    State.atSection_header _ hh2 (by rw [hs2]; rfl), State.atSection_header _ hh3 (by rw [hs3]; rfl)]
  rfl

/-- A loop does not exit while a lane of it runs (R107). -/
theorem Group.tryExit_running {g : Group} {lp : Loop} {l : Nat} (hloop : g.loop = some lp) (hl : l < 128)
    (hmask : bit lp.lmask l = true) (hx : bit (g.sliceAt (l / 4)).xmask (l % 4) = false)
    (hi : bit (g.sliceAt (l / 4)).imask (l % 4) = false) : g.tryExit = (g, false) := by
  have hj : l % 4 < 4 := Nat.mod_lt _ (by decide)
  have hbit : (bits lp.lmask (4 * (l / 4)) 4).getLsbD (l % 4) = true := by
    unfold bit at hmask
    rw [bits, BitVec.getLsbD_extractLsb', show 4 * (l / 4) + l % 4 = l by omega, hmask, decide_eq_true hj]
    rfl
  have hmem : l / 4 ∈ (List.range 32).filter (fun i => bits lp.lmask (4 * i) 4 != 0) := by
    refine List.mem_filter.2 ⟨List.mem_range.2 (by omega), ?_⟩
    rw [bne_iff_ne]
    intro e
    rw [e] at hbit
    simp at hbit
  have hruns : ((bits lp.lmask (4 * (l / 4)) 4 &&& ~~~(g.sliceAt (l / 4)).xmask &&& ~~~(g.sliceAt (l / 4)).imask) == 0) = false := by
    rw [beq_eq_false_iff_ne]
    intro e
    have := congrArg (fun x : BitVec 4 => x.getLsbD (l % 4)) e
    unfold bit at hx hi
    simp only [BitVec.getLsbD_and, BitVec.getLsbD_not, hbit, hx, hi, decide_eq_true hj] at this
    simp at this
  unfold Group.tryExit
  rw [hloop]
  dsimp only
  rw [if_pos]
  rw [Bool.not_eq_true', Bool.and_eq_false_iff]
  left
  rw [List.all_eq_false]
  exact ⟨l / 4, hmem, by rw [hruns]; simp⟩

end Sys2Proof.Machine
end

section
namespace Sys2Proof.Machine

/-- The slice of a running lane at the header of its loop's prologue: it waits for nothing. -/
structure Slice.AtPrologue (pro : Addr) (j : Nat) (x : Slice) : Prop where
  pc : x.pc = pro
  hdr : x.hdr = true
  active : bit x.amask j = true
  stays : bit x.xmask j = false
  wait : x.wait = .none

theorem Slice.AtPrologue.live {pro : Addr} {j : Nat} {x : Slice} (h : x.AtPrologue pro j) (hj : j < 4) : x.live = true := by
  have hx := h.stays
  unfold Slice.live
  rw [bne_iff_ne]
  intro e
  rw [e] at hx
  have : ∀ k < 4, bit (0xF : BitVec 4) k = true := by decide
  rw [this j hj] at hx
  cases hx

theorem loopSlice_atPrologue (c : Ctx) (lp : Loop) {x : Slice} {j : Nat} (ha : bit x.amask j = true)
    (hi : bit x.imask j = false) (hx : bit x.xmask j = false) : (loopSlice c lp x).AtPrologue lp.pro j := by
  have hgot : bit (x.amask &&& ~~~x.imask) j = true := by
    unfold bit at *
    have hj : j < 4 := BitVec.lt_of_getLsbD ha
    rw [BitVec.getLsbD_and, BitVec.getLsbD_not, ha, hi, decide_eq_true hj]
    rfl
  have hne : x.amask &&& ~~~x.imask ≠ 0 := by
    intro e
    rw [e] at hgot
    simp [bit] at hgot
  unfold loopSlice
  dsimp only
  rw [if_neg hne]
  exact ⟨rfl, rfl, hgot, hx, rfl⟩

theorem loopSlice_imask (c : Ctx) (lp : Loop) (x : Slice) : (loopSlice c lp x).imask = x.imask := by
  unfold loopSlice
  dsimp only
  split <;> rfl

/-- A slice of the path as the loop starts, its path's name aside. -/
theorem Ctx.started_sliceAt (c : Ctx) (lp : Loop) {g : Group} {i : Nat} (hi : i ∈ c.slices) (hlen : i < g.slices.length) :
    ∃ p, (c.started lp g).sliceAt i = { loopSlice c lp (g.sliceAt i) with path := p } := by
  obtain ⟨p, e⟩ := Group.sliceAt_regroup (g.mapSlices c.slices (fun _ x => loopSlice c lp x)) c.slices i
  refine ⟨p, ?_⟩
  rw [Ctx.started, Group.keepTurn_sliceAt, e, Group.sliceAt_mapSlices, if_pos ⟨hi, hlen⟩]

/-- The loop's start moves slices and the group's turn, and nothing else. -/
theorem Ctx.started_eq (c : Ctx) (lp : Loop) (g : Group) : c.started lp g =
    { g with slices := (c.started lp g).slices
             ctl := { g.ctl with turns := (c.started lp g).ctl.turns, curPath := (c.started lp g).ctl.curPath } } := by
  refine (Group.keepTurn_eq _ _).trans ?_
  rw [Ctx.started, Group.keepTurn_slices]
  rfl

/-- Settling keeps a slice at the prologue, where the loop does not exit. -/
theorem Group.settled_atPrologue {g : Group} {pro : Addr} {i j : Nat} (hexit : g.tryExit = (g, false))
    (h : (g.sliceAt i).AtPrologue pro j) : (g.settled.sliceAt i).AtPrologue pro j := by
  have hrel : (g.tryReleases.1.sliceAt i).AtPrologue pro j := by
    refine Group.tryReleases_keeps (P := fun g' => (g'.sliceAt i).AtPrologue pro j) (fun g' k hg => ?_) h
    obtain ⟨hpc, hhdr, ha, hx, hw⟩ := hg
    rcases g'.sliceAt_tryRelease k i with e | ⟨sp, p, e⟩
    · rw [e]; exact ⟨hpc, hhdr, ha, hx, hw⟩
    · rw [e]; exact ⟨hpc, rfl, ha, hx, rfl⟩
  rw [Group.settled_sliceAt, hexit, Group.sliceAt_tryRegangs_other (by rw [hrel.wait]; rfl)]
  exact hrel

theorem Ctx.mem_active {c : Ctx} {l : Nat} (h : l ∈ c.active) :
    l / 4 ∈ c.slices ∧ bit (c.g.sliceAt (l / 4)).amask (l % 4) = true := by
  simp only [Ctx.active, Group.activeLanes, List.mem_flatMap] at h
  obtain ⟨i, hi, hl⟩ := h
  obtain ⟨rfl, hb⟩ := mem_lanesOf.1 hl
  exact ⟨hi, hb⟩

/-- The group in which a LOOPB has begun its loop, before a lane takes. -/
theorem Ctx.Taking.begins (c : Ctx) (lp : Loop) : c.Taking lp { c.g with loop := some lp } :=
  ⟨rfl, ⟨lp.taken, rfl⟩, rfl, fun i => ⟨(c.g.sliceAt i).imask, rfl⟩⟩

/-- The group as its path's first iterations start: settled, its first lane stands at the prologue with the index it took. -/
theorem Ctx.started_settles {s : State} {c : Ctx} {lp : Loop} {g : Group} {l0 : Nat} {it : Word32} (hc : s.ctx? = some c)
    (htk : c.Taking lp g) (hft : Ctx.FirstTook lp l0 it g) (hl0 : l0 ∈ c.active) (hmask : lp.lmask = laneMask c.active)
    (hx : bit (c.g.sliceAt (l0 / 4)).xmask (l0 % 4) = false) :
    let g' := (c.started lp g).settled
    g'.deadlocked = false ∧ g'.gid = c.g.gid ∧ g'.loop = g.loop ∧ g'.iterOf l0 = it ∧
    (g'.sliceAt (l0 / 4)).AtPrologue lp.pro (l0 % 4) ∧
    g' = { c.g with slices := g'.slices, splits := g'.splits, loop := g'.loop, resv := g'.resv
                    regs := { c.g.regs with iter := g'.regs.iter }
                    ctl := { c.g.ctl with turns := g'.ctl.turns, curPath := g'.ctl.curPath } } := by
  obtain ⟨hframe, -, hlen, hslices⟩ := htk
  obtain ⟨⟨rest, hloop⟩, hit, hrun⟩ := hft
  obtain ⟨hmem, ha⟩ := Ctx.mem_active hl0
  obtain ⟨m, hs0⟩ := hslices (l0 / 4)
  obtain ⟨p, hs⟩ := c.started_sliceAt lp (g := g) hmem (by rw [hlen]; exact (State.ctx?_mem hc hmem).1)
  have hat : (loopSlice c lp (g.sliceAt (l0 / 4))).AtPrologue lp.pro (l0 % 4) :=
    loopSlice_atPrologue c lp (by rw [hs0]; exact ha) hrun (by rw [hs0]; exact hx)
  have hstart : ((c.started lp g).sliceAt (l0 / 4)).AtPrologue lp.pro (l0 % 4) := by
    rw [hs]; exact ⟨hat.pc, hat.hdr, hat.active, hat.stays, hat.wait⟩
  have hlane : bit lp.lmask l0 = true := by
    rw [hmask, bit_laneMask _ (Ctx.active_nodup hc) _ (Ctx.active_lt hc hl0)]; exact decide_eq_true hl0
  have hexit : (c.started lp g).tryExit = (c.started lp g, false) :=
    Group.tryExit_running (lp := { lp with taken := it :: rest }) (l := l0) (by rw [c.started_eq]; exact hloop) (Ctx.active_lt hc hl0)
      hlane hstart.stays (by rw [hs]; exact (congrArg (bit · (l0 % 4)) (loopSlice_imask c lp _)).trans hrun)
  have hend := Group.settled_atPrologue hexit hstart
  have hfirst := c.started_eq lp g
  have heq := (c.started lp g).settled_eq
  rw [hexit] at heq
  generalize (c.started lp g).settled = y at heq hend ⊢
  generalize c.started lp g = x at hfirst heq
  rw [hfirst] at heq
  refine ⟨Group.not_deadlocked_of_runs (hend.live (Nat.mod_lt _ (by decide))) hend.wait, ?_, ?_, ?_, hend, ?_⟩
  · rw [heq, hframe]
  · rw [heq]
  · rw [heq]; exact hit
  · rw [hframe] at heq
    rw [heq]

end Sys2Proof.Machine
end

section
namespace Sys2Proof.Machine

@[simp] theorem State.onGroup_cohorts (s : State) (gid : Nat) (f : Group → Group) : (s.onGroup gid f).cohorts = s.cohorts := by
  unfold State.onGroup
  split <;> rfl

@[simp] theorem State.onGroup_parts (s : State) (gid : Nat) (f : Group → Group) : (s.onGroup gid f).parts = s.parts := by
  unfold State.onGroup
  split <;> rfl

theorem State.queueWord_onGroup {s : State} {u : Nat} {co : Cohort} (h : s.cohort? u = some co) (gid : Nat) (f : Group → Group)
    (off : Nat) : (s.onGroup gid f).queueWord u off = co.scratchWord off := by
  unfold State.queueWord
  rw [State.cohort?_congr (s.onGroup_cohorts gid f), h]

/-- A LOOPB begins its loop: the record, the first lane's iteration, its slice at the prologue, and what else may change. -/
theorem loopb_begins {w : F3} {s s1 s2 s3 : State} {c : Ctx} {h1 h2 h3 : Word64} {l0 : Nat} {ls : List Nat} (hc : s.ctx? = some c)
    (hpass : c.Passes ⟨w.legalLoopb && c.isLast w.words, true, w.guard, [], [(w.sa, 1)]⟩) (hclean : (c.uniform s w.sa).2 = none)
    (hsec : c.sec = 0) (hloop : c.g.loop = none) :
    let q := (c.uniform s w.sa).1.toNat
    let lit := (c.uniform s w.sb).1
    q % 16 = 0 → q + 16 ≤ c.scratchBelow →
    s.headerAt c.p c.g (sectionTarget c lit 0) = (.header h1, s1) → bits h1 16 2 = 1 →
    s1.headerAt c.p c.g (sectionTarget c lit 21) = (.header h2, s2) → bits h2 16 2 = 2 →
    s2.headerAt c.p c.g (sectionTarget c lit 42) = (.header h3, s3) → bits h3 16 2 = 3 →
    c.active = l0 :: ls → (∀ i, (c.g.sliceAt i).imask = 0) → bit (c.g.sliceAt (l0 / 4)).xmask (l0 % 4) = false →
    ((c.co.scratchWord q).ult (c.co.scratchWord (q + 4)) = true) →
    Answers (exec (.loopb w) s) (fun t => t.waited = false ∧ QueueFrame s t c.g.gid c.co.uid ∧ ∃ g rest,
      t.group? c.g.gid = some g ∧ g.loop = some { c.loopRecord lit q w.words with taken := c.co.scratchWord q :: rest } ∧
      g = { c.g with slices := g.slices, splits := g.splits, loop := g.loop, resv := g.resv
                     regs := { c.g.regs with iter := g.regs.iter }
                     ctl := { c.g.ctl with turns := g.ctl.turns, curPath := g.ctl.curPath } } ∧
      (g.sliceAt (l0 / 4)).AtPrologue (sectionTarget c lit 0) (l0 % 4) ∧ g.iterOf l0 = c.co.scratchWord q) := by
  intro q lit halign hrange hh1 hs1 hh2 hs2 hh3 hs3 hact hidle hx hindex
  have hfetch : FetchFrame s s3 :=
    ((State.headerAt_frame hh1).trans (State.headerAt_frame hh2)).trans (State.headerAt_frame hh3)
  have hgroup : s3.group? c.g.gid = some c.g := (hfetch.group? _).trans (State.ctx?_group hc)
  have hcohort : s3.cohort? c.co.uid = some c.co := by
    rw [hfetch.cohort?, State.cohort?_uid (State.ctx?_cohort hc)]
    exact State.ctx?_cohort hc
  have hl0 : l0 ∈ c.active := by rw [hact]; exact List.mem_cons_self
  obtain ⟨hg1, ho1⟩ := State.onGroup_spec (fun g => { g with loop := some (c.loopRecord lit q w.words) }) hgroup rfl
  obtain ⟨hf2, g2, hg2, htk, hft⟩ := State.takeAll_spec (c := c) (lp := c.loopRecord lit q w.words) (uid := c.co.uid) hg1
    (Ctx.Taking.begins c _) rfl rfl (hidle _) (by rw [← hact]; exact Ctx.active_nodup hc)
    (q := q) (by rw [State.queueWord_onGroup hcohort, State.queueWord_onGroup hcohort]; exact hindex)
  rw [State.queueWord_onGroup hcohort] at hft
  rw [← hact] at hg2 hf2
  obtain ⟨hdead, hgid, hloop', hiter, hat, heq⟩ := Ctx.started_settles hc htk hft hl0 rfl hx
  have hgid2 : (c.started (c.loopRecord lit q w.words) g2).gid = c.g.gid := by rw [← hgid, Group.settled_gid]
  have hg3 : g2.gid = c.g.gid := by rw [← hgid2, c.started_eq]
  obtain ⟨hg4, ho4⟩ := State.onGroup_spec (c.started (c.loopRecord lit q w.words)) hg2 (hgid2.trans hg3.symm)
  obtain ⟨t, ht, hw, ho, hg⟩ := State.settlePaths_done (c := c)
    ((State.checkSig_group? _ c 0x00E w.words c.g.gid).trans hg4) hgid hdead
  rw [exec_loopb_begins hc hpass hclean hsec hloop halign hrange hh1 hs1 hh2 hs2 hh3 hs3]
  obtain ⟨rest, hrest⟩ := hft.loop
  refine ⟨t, ht, hw, ?_, _, rest, hg, hloop'.trans hrest, heq, hat, hiter⟩
  have hbegun := (QueueFrame.of_fetch hfetch c.g.gid c.co.uid).trans ((QueueFrame.of_onlyGroup ho1 c.co.uid).trans hf2)
  exact hbegun.trans (.of_onlyGroup (ho4.trans ((State.checkSig_only _ c 0x00E w.words _).trans ho)) _)

/-- Settles O19: the settled group of a LOOPB, the slices a REFILL moves and the queue a TURN leaves. -/
theorem loopsRunTheirSections : Obligations.LoopsRunTheirSections := by
  unfold Obligations.LoopsRunTheirSections
  refine ⟨?_, ?_, ?_⟩
  · intro w s s1 s2 s3 c h1 h2 h3 l0 ls hc hpass hclean hsec hloop q lit halign hrange hh1 hs1 hh2 hs2 hh3 hs3 hact hidle hx hindex
      bare dry
    obtain ⟨t, ht, hw, hf, g, rest, hg, hl, heq, hat, hiter⟩ :=
      loopb_begins hc hpass hclean hsec hloop halign hrange hh1 hs1 hh2 hs2 hh3 hs3 hact hidle hx hindex
    exact ⟨t, ht, hw, hf.mem, hf.groups, hf.cohorts, hf.cohort, g, _, hg, hl, heq, hat.pc, hat.hdr, hat.active,
      rfl, rfl, rfl, rfl, rfl, rfl, rfl, hiter⟩
  · intro w s c lp hc hpass hloop hsec hclean r hroom
    exact refill_completes hc hpass hloop hsec hclean hroom
  · intro s gid g lp i co p hg hd hloop hi hco hp hr kept
    exact turn_keeps_entries hg hd hloop hi hco hp hr

end Sys2Proof.Machine
end

section
namespace Sys2Proof.Machine

/-! ### The pick of a quarter with one group and one path (R92 to R94) -/

/-- The group but for the turns that its current path has taken. -/
def Group.withTurns (g : Group) (n : Nat) : Group := { g with ctl := { g.ctl with turns := n } }

/-- The group after the turn of group gid has ended. -/
def Group.endTurnOf (gid : Nat) (g : Group) : Group := if g.gid = gid then g.endTurn else g

theorem Group.endTurnOf_place (gid : Nat) (g : Group) : (g.endTurnOf gid).core = g.core ∧
    (g.endTurnOf gid).quarter = g.quarter ∧ (g.endTurnOf gid).slot = g.slot := by
  unfold Group.endTurnOf
  split <;> exact ⟨rfl, rfl, rfl⟩

/-- A group that alone has its number, found by it. -/
theorem State.group?_of_unique {s : State} {g : Group} (hg : g ∈ s.groups) (huniq : ∀ h ∈ s.groups, h.gid = g.gid → h = g) :
    s.group? g.gid = some g := by
  cases h : s.group? g.gid with
  | none => exact absurd (List.find?_eq_none.1 h g hg) (by simp)
  | some x => rw [huniq x (List.mem_of_find?_eq_some h) (State.group?_gid h)]

theorem State.onGroup_endTurn_groups {s : State} {g : Group} (hg : g ∈ s.groups)
    (huniq : ∀ h ∈ s.groups, h.gid = g.gid → h = g) :
    (s.onGroup g.gid Group.endTurn).groups = s.groups.map (Group.endTurnOf g.gid) := by
  unfold State.onGroup
  rw [State.group?_of_unique hg huniq]
  refine List.map_congr_left fun h hh => ?_
  show (if h.gid = g.gid then g.endTurn else h) = if h.gid = g.gid then h.endTurn else h
  split
  · next e => rw [huniq h hh e]
  · rfl

theorem State.mayIssue_endTurnOf {s t : State} (h : t.cohorts = s.cohorts) (gid : Nat) (g : Group) :
    t.mayIssue (g.endTurnOf gid) = s.mayIssue g := by
  unfold State.mayIssue Group.endTurnOf
  rw [State.cohort?_congr h]
  split <;> rfl

/-- The end of a turn leaves a quarter its groups, the one with its turn ended. -/
theorem State.quarterGroups_endTurn {s : State} {g : Group} (hg : g ∈ s.groups) (huniq : ∀ h ∈ s.groups, h.gid = g.gid → h = g)
    (core q : Nat) : (s.onGroup g.gid Group.endTurn).quarterGroups core q =
      (s.quarterGroups core q).map (Group.endTurnOf g.gid) := by
  have hready : (fun h : Group => h.core == core && h.quarter == q && (s.onGroup g.gid Group.endTurn).mayIssue h) ∘
      Group.endTurnOf g.gid = fun h => h.core == core && h.quarter == q && s.mayIssue h := by
    funext h
    obtain ⟨hcore, hquarter, -⟩ := h.endTurnOf_place g.gid
    simp only [Function.comp_apply, hcore, hquarter, State.mayIssue_endTurnOf (s.onGroup_cohorts g.gid Group.endTurn)]
  have hslot : ∀ k, (fun h : Group => h.slot == k) ∘ Group.endTurnOf g.gid = fun h => h.slot == k := fun k => by
    funext h
    simp only [Function.comp_apply, (h.endTurnOf_place g.gid).2.2]
  unfold State.quarterGroups
  rw [State.onGroup_endTurn_groups hg huniq]
  dsimp only
  rw [List.filter_map, List.map_flatMap, hready]
  refine congrArg (List.flatMap · (List.range 16)) (funext fun k => ?_)
  rw [List.filter_map, hslot]

theorem State.mem_quarterGroups {s : State} {core q : Nat} {g : Group} (h : g ∈ s.quarterGroups core q) : g ∈ s.groups := by
  unfold State.quarterGroups at h
  obtain ⟨k, -, hk⟩ := List.mem_flatMap.1 h
  exact List.mem_of_mem_filter (List.mem_of_mem_filter hk)

/-- Where one group may issue in a quarter it is the one after the turns that cannot go on have ended (R94). -/
theorem State.endTurns_one {s : State} {run : Run} {core q : Nat} {g : Group} (h : s.quarterGroups core q = [g])
    (huniq : ∀ x ∈ s.groups, x.gid = g.gid → x = g) :
    (∃ n, (s.endTurns run [g]).quarterGroups core q = [g.withTurns n]) ∧
      (s.endTurns run [g]).parts = s.parts ∧ (s.endTurns run [g]).cohorts = s.cohorts := by
  have hg : g ∈ s.groups := State.mem_quarterGroups (by rw [h]; exact List.mem_singleton_self g)
  unfold State.endTurns
  rw [List.foldl_cons, List.foldl_nil]
  split
  · exact ⟨⟨g.ctl.turns, h⟩, rfl, rfl⟩
  · refine ⟨⟨2 ^ 16, ?_⟩, State.onGroup_parts _ _ _, State.onGroup_cohorts _ _ _⟩
    rw [State.quarterGroups_endTurn hg huniq, h, List.map_singleton, Group.endTurnOf, if_pos rfl]
    rfl

/-- The path order of a group with one path. -/
theorem Group.pathOrder_one {g : Group} {path : Nat} (h : g.paths = [path]) : g.pathOrder = [path] := by
  unfold Group.pathOrder
  rw [h]
  rcases Nat.lt_trichotomy g.ctl.curPath path with e | e | e
  · simp [e, Nat.ne_of_gt e, Nat.not_lt_of_gt e]
  · simp [e]
  · simp [e, Nat.ne_of_lt e, Nat.not_lt_of_gt e]

/-- Clean words that decode are fetched as their instruction. -/
theorem decodeFetched_clean {w : Word64} {lits : List (Word64 × Option Tag)} {i : Instr} {left : List Word64}
    (hlits : ∀ y ∈ lits, y.2 = none) (hdec : decode w (lits.map (·.1)) = .ok (i, left)) (cut : Bool) :
    decodeFetched ((w, none) :: lits) cut = .instr i := by
  have hclean : (((w, none) :: lits).take i.words).any (·.2.isSome) = false := by
    rw [List.any_eq_false]
    intro y hy
    rcases List.mem_cons.1 (List.mem_of_mem_take hy) with rfl | hm
    · exact Bool.false_ne_true
    · rw [hlits y hm]; exact Bool.false_ne_true
  unfold decodeFetched
  dsimp only
  rw [hdec]
  dsimp only
  rw [hclean]
  rfl

theorem effective_of_moves {r : Result} (h : ∀ u, r = .next u → u.waited = false) : effective r = some r := by
  cases r with
  | next u => exact if_neg (by rw [h u rfl]; exact Bool.false_ne_true)
  | fault _ => rfl
  | refused _ => rfl

/-- A path past its header, whose words decode, issues their instruction with itself as the issuer. -/
theorem State.issuePath_instr {run : Run} {s s1 : State} {g : Group} {path : Nat} {pt : Part} {co : Cohort} {i : Instr}
    (hhdr : (g.sliceAt path).hdr = false) (hp : s.part? g.part = some pt) (hco : s.cohort? g.cohort = some co)
    (hf : s.fetchInstr pt g path = (.instr i, s1)) :
    s.issuePath run g path = run i { s1.onGroup g.gid (fun g => g.countTurn path) with cur := .path g.gid path } := by
  unfold State.issuePath
  rw [hhdr, if_neg Bool.false_ne_true, hp, hco]
  dsimp only
  rw [hf]

/-- A group with one path, whose issue moves, issues it. -/
theorem State.issueGroup_one {run : Run} {s : State} {g : Group} {path : Nat} {r : Result} (h : g.paths = [path])
    (hissue : s.issuePath run g path = r) (hmoves : ∀ u, r = .next u → u.waited = false) : s.issueGroup run g = some r := by
  unfold State.issueGroup
  rw [Group.pathOrder_one h, List.findSome?_cons, hissue, effective_of_moves hmoves]

/-- A quarter without a capo holder and with one group, whose issue moves, takes that issue (R92). -/
theorem State.pickQuarter_one {run : Run} {s : State} {core q : Nat} {g g' : Group} {r : Result}
    (hcapo : SMap.get none (s.core core).capo q = none) (h : s.quarterGroups core q = [g])
    (h' : (s.endTurns run [g]).quarterGroups core q = [g'])
    (hissue : ((s.endTurns run [g]).onCore core (fun c => (c.withPicks q 0).withSlot q g'.slot)).issueGroup run g' = some r) :
    s.pickQuarter run core q = r := by
  have hrot : ∀ last : Nat, [g'].filter (fun g => decide (last ≤ g.slot)) ++ [g'].filter (fun g => decide (g.slot < last)) = [g'] := by
    intro last
    rcases Nat.lt_or_ge g'.slot last with e | e
    · simp [e, Nat.not_le_of_gt e]
    · simp [e, Nat.not_lt_of_ge e]
  unfold State.pickQuarter
  dsimp only
  rw [h, h', hcapo, show [g'].filter (fun g => some g.gid != none) = [g'] from rfl,
    show [g'].filter (fun g => some g.gid == none) = [] from rfl, hrot]
  rw [List.findSome?_cons, hissue]
  split <;> rfl

/-- A stream that runs issues its next clean word (R280). -/
theorem State.pickSequencer_runs {run : Run} {s s1 : State} {uid : Nat} {co : Cohort} {p : Part} {w : Word64} {i : Instr}
    (hco : s.cohort? uid = some co) (hp : s.part? co.part = some p) (hact : co.seq.active = true) (hend : co.seq.ended = false)
    (hkill : co.kill = none) (hkilled : co.killed = false) (hw : s.streamWord p co co.seq.pc = (some (w, none), s1))
    (hdec : decodeFT w = some i) : s.pickSequencer run uid = run i { s1 with cur := .stream uid } := by
  unfold State.pickSequencer
  rw [hco]
  dsimp only
  rw [hp]
  dsimp only
  rw [hact, hend, hkill, hkilled, hw, if_neg (by decide)]
  dsimp only
  rw [hdec]
  rfl

/-- A step of a device that runs: the streams that wait are noted, time passes, and the head of the agenda performs. -/
theorem step_of_agenda {s : State} {a : Action} {rest : List Action} (h : s.agenda = a :: rest) (hstop : s.mgmt.stopped = false) :
    step s = State.perform exec
      (({ s with agenda := rest, choices := s.choices + 1, cur := .none, waited := false } : State).noteStreams.elapse
        (Config.cyclesPerStep s.choices) (Config.microsPerStep s.choices)) a := by
  show s.stepWith exec State.noteStreams = _
  unfold State.stepWith State.takeAction
  rw [h]
  dsimp only
  rw [hstop]
  rfl

/-- Settles O58: the head of the agenda performs, the one group of a quarter issues its one path, and a stream its next word. -/
theorem stepRunsTheDecoded : Obligations.StepRunsTheDecoded := by
  unfold Obligations.StepRunsTheDecoded
  intro s rest hstop later e
  refine ⟨fun i ha hi => (step_of_agenda ha hstop).trans (if_pos hi), ?_, ?_⟩
  · intro core q g path pt co i s1 w t lits left ha hone huniq hpath hcapo hhdr hp hco picked x hfetch ht hlits hdec run hrun
    obtain ⟨⟨n, hone'⟩, hparts, hcohorts⟩ := State.endTurns_one (run := exec) hone huniq
    have hinstr : picked.fetchInstr pt (g.withTurns n) path = (.instr i, s1) := by
      show (let r := State.fetchWords pt g.core g.ctl.asid x.wordsLeft picked x.pc.toNat; (decodeFetched r.1 r.2.1, r.2.2)) = _
      rw [hfetch, ht]
      dsimp only
      rw [decodeFetched_clean hlits hdec]
    have hissue : picked.issuePath exec (g.withTurns n) path = run :=
      State.issuePath_instr (g := g.withTurns n) hhdr ((State.part?_congr hparts _).trans hp)
        ((State.cohort?_congr hcohorts _).trans hco) hinstr
    rw [step_of_agenda ha hstop]
    exact State.pickQuarter_one hcapo hone hone' (State.issueGroup_one (g := g.withTurns n) hpath hissue hrun)
  · intro uid co p w s1 i ha hco hp hact hend hkill hkilled hw hdec
    rw [step_of_agenda ha hstop]
    exact State.pickSequencer_runs hco hp hact hend hkill hkilled hw hdec

end Sys2Proof.Machine
end

section
namespace Sys2Proof.Machine

/-! ### Kill conditions (R399) -/

/-- A cohort that meets a kill condition keeps its groups, and has a reason to be killed from then on. -/
theorem State.requestKill_asks {s : State} {c : Ctx} (hc : s.ctx? = some c) (r : KillReason) :
    Answers (s.requestKill c.g.cohort r).done (fun t => t.groups = s.groups ∧
      ∃ co, t.cohort? c.g.cohort = some co ∧ co = { c.co with kill := co.kill } ∧ co.kill.isSome = true) := by
  have hco := State.cohort?_onCohort (fun co => if co.kill.isSome then co else { co with kill := some r }) (State.ctx?_cohort hc)
    (by split <;> rfl)
  refine ⟨_, rfl, State.requestKill_groups s _ r, _, hco, ?_⟩
  dsimp only
  split
  · next hk => exact ⟨rfl, hk⟩
  · exact ⟨rfl, rfl⟩

/-! ### Taking a trap (R380, R381) -/

theorem mem_vectoring {slices lanes : List Nat} {i : Nat} :
    i ∈ vectoring slices lanes ↔ i ∈ slices ∧ lanes.any (fun l => l / 4 == i) = true := List.mem_filter

theorem Group.mapSlices_length (g : Group) (is : List Nat) (f : Nat → Slice → Slice) :
    (g.mapSlices is f).slices.length = g.slices.length := by simp [Group.mapSlices]

/-- What the entry into the handler may change of a group. -/
theorem Group.enterHandler_eq (g : Group) (slices : List Nat) (th : Addr) (x : Trap) :
    let g' := g.enterHandler slices th x
    g' = { g with slices := g'.slices, frame := g'.frame, ctl := { g.ctl with turns := g'.ctl.turns }
                  resv := g.resv.filter (fun r => !x.lanes.contains r.lane) } := by
  unfold Group.enterHandler
  dsimp only
  split <;> rfl

/-- The slices of a path that a trap holds at its instruction: those without a TMASK lane. -/
def heldBack (slices lanes : List Nat) : List Nat := slices.filter (fun i => !(vectoring slices lanes).contains i)

theorem mem_heldBack {slices lanes : List Nat} {i : Nat} : i ∈ heldBack slices lanes ↔ i ∈ slices ∧ i ∉ vectoring slices lanes := by
  simp [heldBack]

theorem Group.slices_enterHandler (g : Group) (slices : List Nat) (th : Addr) (x : Trap) :
    (g.enterHandler slices th x).slices =
      ((g.mapSlices (heldBack slices x.lanes) (fun _ y => { y with held := true, path := (heldBack slices x.lanes).foldl min 31 })).mapSlices
        (vectoring slices x.lanes) (fun i y =>
          { y with amask := bits (laneMask x.lanes) (4 * i) 4, pc := th, hdr := true, handler := true, wait := .none
                   path := (vectoring slices x.lanes).foldl min 31, preq := none })).slices := by
  unfold Group.enterHandler
  dsimp only
  split <;> rfl

/-- The changes of a trap's slices, one after the other. -/
theorem Group.sliceAt_enterHandler (g : Group) (slices : List Nat) (th : Addr) (x : Trap) (i : Nat) :
    let held := if i ∈ heldBack slices x.lanes ∧ i < g.slices.length
      then { g.sliceAt i with held := true, path := (heldBack slices x.lanes).foldl min 31 } else g.sliceAt i
    (g.enterHandler slices th x).sliceAt i = if i ∈ vectoring slices x.lanes ∧ i < g.slices.length
      then { held with amask := bits (laneMask x.lanes) (4 * i) 4, pc := th, hdr := true, handler := true, wait := .none
                       path := (vectoring slices x.lanes).foldl min 31, preq := none } else held := by
  have e := congrArg (fun l => l.getD i Slice.gone) (g.slices_enterHandler slices th x)
  refine (e.trans (Group.sliceAt_mapSlices _ _ _ i)).trans ?_
  rw [Group.mapSlices_length, Group.sliceAt_mapSlices]

section
variable {g : Group} {slices : List Nat} (th : Addr) (x : Trap) {i : Nat}

/-- A vectoring slice goes to the handler with its TMASK lanes only. -/
theorem Group.sliceAt_enterHandler_vectoring (hv : i ∈ vectoring slices x.lanes) (hi : i < g.slices.length) :
    (g.enterHandler slices th x).sliceAt i =
      { g.sliceAt i with amask := bits (laneMask x.lanes) (4 * i) 4, pc := th, hdr := true, handler := true, wait := .none
                         path := (vectoring slices x.lanes).foldl min 31, preq := none } := by
  rw [Group.sliceAt_enterHandler, if_pos ⟨hv, hi⟩, if_neg (fun h => (mem_heldBack.1 h.1).2 hv)]

theorem Group.sliceAt_enterHandler_held (hh : i ∈ heldBack slices x.lanes) (hi : i < g.slices.length) :
    (g.enterHandler slices th x).sliceAt i =
      { g.sliceAt i with held := true, path := (heldBack slices x.lanes).foldl min 31 } := by
  rw [Group.sliceAt_enterHandler, if_neg (fun h => (mem_heldBack.1 hh).2 h.1), if_pos ⟨hh, hi⟩]

theorem Group.sliceAt_enterHandler_other (hi : i ∉ slices) : (g.enterHandler slices th x).sliceAt i = g.sliceAt i := by
  rw [Group.sliceAt_enterHandler, if_neg (fun h => hi (mem_vectoring.1 h.1).1), if_neg (fun h => hi (mem_heldBack.1 h.1).1)]

end

theorem State.takeTrap_enters {s : State} {c : Ctx} (x : Trap) (hm : c.mayTrap) :
    s.takeTrap c x = (s.setGroup (c.g.enterHandler c.slices c.p.ctl.thandler x)).done := by
  obtain ⟨hh, hb, ht⟩ := hm
  unfold State.takeTrap
  rw [hh, hb, if_neg Bool.false_ne_true, if_neg Bool.false_ne_true, if_neg ht]

/-- A trap at a path whose group may take one vectors, after changes that left its group alone. -/
theorem State.takeTrap_vectors {s0 s : State} {c : Ctx} (x : Trap) (hc : s0.ctx? = some c) (hs : s.group? c.g.gid = some c.g)
    (ho : OnlyGroup s0 s c.g.gid) (hm : c.mayTrap) : Answers (s.takeTrap c x) (fun t => Vectored s0 t c x) := by
  have heq := c.g.enterHandler_eq c.slices c.p.ctl.thandler x
  obtain ⟨hg, hset⟩ := State.setGroup_spec (c.g.enterHandler c.slices c.p.ctl.thandler x) hs (by rw [heq])
  rw [State.takeTrap_enters x hm]
  refine ⟨_, rfl, rfl, (ho.trans hset).trans (OnlyGroup.waited _ _ _), _, hg, heq, rfl, rfl, rfl, rfl, rfl, rfl, rfl, rfl, rfl,
    fun i hi => ?_, fun i hi => Group.sliceAt_enterHandler_other _ x hi⟩
  by_cases hv : x.lanes.any (fun l => l / 4 == i) = true
  · have hmem := mem_vectoring.2 ⟨hi, hv⟩
    rw [if_pos hv, Group.sliceAt_enterHandler_vectoring _ x hmem (State.ctx?_mem hc hi).1]
    exact ⟨List.mem_map.2 ⟨i, hmem, rfl⟩, rfl, rfl, rfl, rfl⟩
  · have hmem := mem_heldBack.2 ⟨hi, fun h => hv (mem_vectoring.1 h).2⟩
    rw [if_neg hv, Group.sliceAt_enterHandler_held _ x hmem (State.ctx?_mem hc hi).1]
    exact ⟨hmem, rfl, rfl, rfl⟩

/-! ### The checks of an issued word, in order (R137, R143, R144, R160, R382) -/

section
variable (s : State) (c : Ctx) {n : Need} (k : List Nat → Result)

theorem State.gate_illegal (h : n.legal = false) : s.gate c n k = s.trapAll c trapIllegal := by
  unfold State.gate
  rw [h]
  rfl

variable (hl : n.legal = true)
include hl

theorem State.gate_forbidden (hf : (n.forbidden && c.handler) = true) : s.gate c n k = s.doubleTrap c 0 := by
  unfold State.gate
  rw [hl, hf]
  rfl

variable (hf : (n.forbidden && c.handler) = false)
include hf

theorem State.gate_range (hr : n.inRange c.g = false) : s.gate c n k = s.trapAll c trapRegRange := by
  unfold State.gate
  rw [hl, hf, hr]
  rfl

variable (hr : n.inRange c.g = true)
include hr

theorem State.gate_wait (hw : n.ready c.g c.handler = .wait) : s.gate c n k = s.wait := by
  unfold State.gate
  rw [hl, hf, hr, hw]
  rfl

theorem State.gate_emptyRead (he : n.ready c.g c.handler = .emptyRead) : s.gate c n k = s.trapAll c trapEmptyRead := by
  unfold State.gate
  rw [hl, hf, hr, he]
  rfl

theorem State.gate_poisoned (ho : n.ready c.g c.handler = .ok) (hp : c.guardPoisoned n.guard = true) :
    s.gate c n k = s.poisonKill c := by
  unfold State.gate
  rw [hl, hf, hr, ho, hp]
  rfl

end

/-- Settles O29: the check that fails first, by the lemma for it. -/
theorem issueChecksInOrder : Obligations.IssueChecksInOrder := by
  unfold Obligations.IssueChecksInOrder
  intro s c n k hc traps kills may
  have vectors : ∀ cause, s.gate c n k = s.trapAll c cause → traps cause := fun cause e hm => by
    rw [e]
    exact State.takeTrap_vectors (Trap.plain cause c.active c.pc) hc (State.ctx?_group hc) (OnlyGroup.refl s _) hm
  have killed : ∀ r, s.gate c n k = (s.requestKill c.g.cohort r).done → kills := fun r e => by
    obtain ⟨t, ht, hg, co, hco, -, hk⟩ := State.requestKill_asks hc r
    exact ⟨t, e.trans ht, hg, co, hco, hk⟩
  exact ⟨fun hl => vectors _ (State.gate_illegal s c k hl), fun hl hf hr => vectors _ (State.gate_range s c k hl hf hr),
    fun hl hf hr he => vectors _ (State.gate_emptyRead s c k hl hf hr he), fun hl hf hr hw => State.gate_wait s c k hl hf hr hw,
    fun hl hf hr ho hp => killed _ (State.gate_poisoned s c k hl hf hr ho hp),
    fun hl hf hh => killed _ (State.gate_forbidden s c k hl (by rw [hf, hh]; rfl)), State.gate_passes s c n k⟩

end Sys2Proof.Machine
end

section
namespace Sys2Proof.Machine

/-! ### BKPT and TRAP (R124, R387) -/

theorem exec_bkpt_runs {w : F3} {s : State} {c : Ctx} (hc : s.ctx? = some c)
    (hpass : c.Passes (Need.bare w.legalBkpt false w.guard)) : exec (.bkpt w) s =
      if (c.acting w.guard).isEmpty then s.finish c 0x010 w.words
      else s.takeTrap c { Trap.plain trapBreakpoint (c.acting w.guard) (c.next w.words) with detail := w.sub.toNat } := by
  show execBkpt w s = _
  unfold execBkpt
  rw [State.issue_ctx _ hc, State.gate_passes _ _ _ _ hpass]
  rfl

/-- A TRAP with an acting lane takes its trap, or fails the task where it stands in handler mode. -/
theorem exec_trap_runs {w : F3} {s : State} {c : Ctx} (hc : s.ctx? = some c)
    (hpass : c.Passes ⟨w.legalTrap, false, w.guard, [], [(w.sa, 1)]⟩) (hact : c.acting w.guard ≠ []) :
    let v := c.uniform s w.sa
    let code := (bits v.1 0 16).toNat
    exec (.trap w) s =
      if c.handler then ((s.notePois c.g v.2).handlerFail c code).done
      else (s.notePois c.g v.2).takeTrap c ((Trap.plain trapSoft (c.acting w.guard) (c.next w.words)).withCode code) := by
  intro v code
  show execTrap w s = _
  unfold execTrap
  rw [State.issue_ctx _ hc]
  dsimp only
  rw [State.gate_passes _ _ _ _ hpass, if_neg (by rw [List.isEmpty_iff]; exact hact)]

/-- A clean value notes nothing. -/
theorem State.notePois_none (s : State) (g : Group) : s.notePois g none = s := by
  unfold State.notePois State.noteGroup
  exact if_pos rfl

/-- A running task that is no continuation fails with its entry (R29, R30). -/
theorem taskFailed_failTask {s : State} {k tid : Nat} {p : Part} {u : Task} (cause : Nat) (h : s.part? k = some p)
    (hu : s.task? k tid = some u) (hk : u.kind ≠ .continuation) (hs : u.state = .running) (hr : u.reported = false) :
    TaskFailed (s.failTask k tid cause) k p u ⟨tid, 6, cause, u.chkiv.word, true⟩ := by
  have hp : p.task? tid = some u := (State.task?_of_part h tid).symm.trans hu
  have e : s.failTask k tid cause = s.failTaskFuel (p.tasks.length + 1) k tid cause := by
    unfold State.failTask
    rw [h]
    dsimp only
    rw [hp]
    exact if_neg (by rw [beq_iff_eq]; exact hk)
  rw [e]
  exact taskFailed_failTaskFuel _ cause h hp (by rw [hs, hr]; rfl)

/-! ### The return from a handler (R388) -/

/-- A slice as the return leaves it: at the return point, out of handler mode and held no more. -/
def Slice.returned (x : Slice) (tpc : Addr) : Slice :=
  { x with pc := tpc, handler := false, held := false, wait := Wait.none
           hdr := x.hdr || x.blkPc + 8 * (1 + (bits x.blk 52 8).setWidth 57) == tpc }

/-- A slice of a frame as the return restores it from what the frame saved. -/
def TrapFrame.restored (f : TrapFrame) (i : Nat) (x : Slice) : Slice :=
  match f.saved.find? (fun p => p.1 == i) with
  | some (_, old) => ({ old with xmask := x.xmask } : Slice).returned f.tpc
  | none => x

/-- A group whose handler slices are as the frame saved them, and whose held slices stand at the return point. -/
def Group.reinstated (g : Group) : Group :=
  (g.mapSlices (g.frame.saved.map (·.1)) g.frame.restored).mapSlices g.frame.heldSlices (fun _ x => x.returned g.frame.tpc)

/-- The group after a return: those slices are one path, and no slice is held (R388). -/
def Group.returned (g : Group) : Group :=
  (g.reinstated.asPath (g.frame.saved.map (·.1) ++ g.frame.heldSlices)).mapSlices (List.range 32) (fun _ x => { x with held := false })

theorem Group.returned_eq (g : Group) : g.returned = { g with slices := g.returned.slices } := rfl

theorem Group.leaveHandler_returned (g : Group) : g.leaveHandler =
    { (if g.frame.heldSlices.isEmpty then g.returned else g.returned.endTurn) with
      frame := { g.frame with busy := false, tcause := g.frame.tcause &&& 0x7FFFFFFFFFFFFFFF, saved := [], heldSlices := [] } } := rfl

/-- What the return may change of a group. -/
theorem Group.leaveHandler_endTurn_eq (g : Group) : g.leaveHandler.endTurn =
    { g with slices := g.returned.slices, ctl := g.endTurn.ctl
             frame := { g.frame with busy := false, tcause := g.frame.tcause &&& 0x7FFFFFFFFFFFFFFF, saved := [], heldSlices := [] } } := by
  rw [Group.leaveHandler_returned, Group.returned_eq]
  split <;> rfl

theorem Group.sliceAt_reinstated (g : Group) {i : Nat} (hi : i < g.slices.length) : g.reinstated.sliceAt i =
    let x := if i ∈ g.frame.saved.map (·.1) then g.frame.restored i (g.sliceAt i) else g.sliceAt i
    if i ∈ g.frame.heldSlices then x.returned g.frame.tpc else x := by
  unfold Group.reinstated
  rw [Group.sliceAt_mapSlices, Group.mapSlices_length, Group.sliceAt_mapSlices]
  simp only [hi, and_true]

/-- A slice at the return point stays there, under the name of the path that returned. -/
theorem Group.sliceAt_returned {g : Group} {i : Nat} {x : Slice} (h : g.reinstated.sliceAt i = x.returned g.frame.tpc) :
    ∃ p, g.returned.sliceAt i = { x.returned g.frame.tpc with path := p } := by
  have hpath : ∃ p, (g.reinstated.asPath (g.frame.saved.map (·.1) ++ g.frame.heldSlices)).sliceAt i =
      { x.returned g.frame.tpc with path := p } := by
    unfold Group.asPath
    rw [Group.sliceAt_mapSlices, h]
    split
    · exact ⟨_, rfl⟩
    · exact ⟨x.path, rfl⟩
  obtain ⟨p, e⟩ := hpath
  refine ⟨p, ?_⟩
  unfold Group.returned
  rw [Group.sliceAt_mapSlices, e]
  split <;> rfl

/-- A saved slice returns with what the frame saved, and the exits since. -/
theorem Group.sliceAt_returned_saved {g : Group} {i : Nat} {x : Slice} (hx : g.frame.saved.find? (fun y => y.1 == i) = some (i, x))
    (hi : i < g.slices.length) (hh : i ∉ g.frame.heldSlices) :
    ∃ p, g.returned.sliceAt i = { ({ x with xmask := (g.sliceAt i).xmask } : Slice).returned g.frame.tpc with path := p } := by
  have hm : i ∈ g.frame.saved.map (·.1) := List.mem_map.2 ⟨_, List.mem_of_find?_eq_some hx, rfl⟩
  refine Group.sliceAt_returned ?_
  rw [Group.sliceAt_reinstated g hi, if_pos hm, if_neg hh]
  unfold TrapFrame.restored
  rw [hx]

/-- A slice that the trap held returns as it stood, but for its place. -/
theorem Group.sliceAt_returned_held {g : Group} {i : Nat} (hh : i ∈ g.frame.heldSlices) (hi : i < g.slices.length)
    (hs : ∀ y ∈ g.frame.saved, y.1 ≠ i) : ∃ p, g.returned.sliceAt i = { (g.sliceAt i).returned g.frame.tpc with path := p } := by
  have hm : i ∉ g.frame.saved.map (·.1) := fun h => by
    obtain ⟨y, hy, e⟩ := List.mem_map.1 h
    exact hs y hy e
  refine Group.sliceAt_returned ?_
  rw [Group.sliceAt_reinstated g hi, if_neg hm, if_pos hh]

theorem exec_rft_returns {w : F3} {s : State} {c : Ctx} (hc : s.ctx? = some c)
    (hpass : c.Passes (Need.bare (w.legalBare && c.handler) false w.guard)) (hact : c.acting w.guard ≠ []) (hw : c.wholeHandler = true) :
    exec (.rft w) s = ((s.onGroup c.g.gid (fun g => g.leaveHandler.endTurn)).checkSig c 0x2C1 w.words).done := by
  show execRft w s = _
  unfold execRft
  rw [State.issue_ctx _ hc, State.gate_passes _ _ _ _ hpass]
  rw [if_neg (by rw [List.isEmpty_iff]; exact hact), hw]
  rfl

/-- Settles O30: BKPT and TRAP by the trap they take, TRAP in handler mode by its task's failure, and RFT slice by slice. -/
theorem breakpointTrapAndReturn : Obligations.BreakpointTrapAndReturn := by
  unfold Obligations.BreakpointTrapAndReturn
  refine ⟨fun w s c hc hpass => ⟨fun hnone => ?_, fun hsome hm => ?_⟩, fun w s c hc hact => ⟨fun hpass => ⟨fun hm => ?_, ?_⟩, ?_⟩⟩
  · rw [exec_bkpt_runs hc hpass, hnone]
    exact State.finish_spec 0x010 w.words hc (State.ctx?_group hc) rfl (OnlyGroup.refl s _)
  · rw [exec_bkpt_runs hc hpass, if_neg (by rw [List.isEmpty_iff]; exact hsome)]
    exact State.takeTrap_vectors _ hc (State.ctx?_group hc) (OnlyGroup.refl s _) hm
  · rw [exec_trap_runs hc hpass hact, hm.1, if_neg Bool.false_ne_true]
    have hcode : ∀ x : BitVec 16, BitVec.ofNat 64 x.toNat = x.setWidth 64 := fun x => BitVec.ofNat_toNat 64 x
    unfold Trap.withCode Trap.plain
    rw [hcode]
    exact State.takeTrap_vectors _ hc ((State.notePois_group? s c.g _ _).trans (State.ctx?_group hc)) (State.notePois_only s c.g _ _) hm
  · intro hh k hk hkind hrun hrep hclean
    have hp : s.part? c.p.id = some c.p := by
      rw [State.part?_id (State.ctx?_part hc)]
      exact State.ctx?_part hc
    rw [exec_trap_runs hc hpass hact, hh, if_pos rfl, hclean, State.notePois_none]
    exact ⟨_, rfl, taskFailed_failTask 7 hp hk hkind hrun hrep⟩
  · intro hpass hw
    have heq := c.g.leaveHandler_endTurn_eq
    obtain ⟨t, ht, hwait, ho, hg⟩ := State.onGroup_checkSig_done (fun g => g.leaveHandler.endTurn) 0x2C1 w.words
      (State.ctx?_group hc) (by rw [heq])
    rw [exec_rft_returns hc hpass hact hw]
    have hslice : ∀ i, c.g.leaveHandler.endTurn.sliceAt i = c.g.returned.sliceAt i := fun i => by
      rw [heq]
      rfl
    refine ⟨t, ht, hwait, ho, _, hg, ?_, by rw [heq], by rw [heq], fun i x hx hi hh => ?_, fun i hh hi hs => ?_⟩
    · dsimp only
      rw [heq]
      rfl
    · obtain ⟨p, e⟩ := Group.sliceAt_returned_saved hx hi hh
      dsimp only
      rw [hslice, e]
      exact ⟨rfl, rfl, rfl, rfl, rfl, rfl, rfl, rfl, rfl⟩
    · obtain ⟨p, e⟩ := Group.sliceAt_returned_held hh hi hs
      dsimp only
      rw [hslice, e]
      exact ⟨rfl, rfl, rfl, rfl, rfl⟩

end Sys2Proof.Machine
end

section
namespace Sys2Proof.Machine

/-! ### The end of a word after a fetch, which changed caches alone (R117, R199) -/

section
variable {s0 s1 s : State} {c : Ctx} {g : Group} (opc words : Nat) (hc : s0.ctx? = some c) (hs : s.group? c.g.gid = some g)
  (hg : g.slices = c.g.slices) (ho : OnlyGroup s1 s c.g.gid)
include hc hs hg ho

/-- The path falls through from a state that differs from s1 in its group at most. -/
theorem State.finish_after : Answers (s.finish c opc words) (fun t => After s1 t c g opc words) := by
  obtain ⟨t, ht, hw, hot, hgt⟩ := State.onGroup_checkSig_done (fun g => g.advance c opc words) opc words hs rfl
  exact ⟨t, ht, hw, ho.trans hot, _, hgt, rfl, Ctx.mapSlices_spec hc g hg _⟩

/-- The path goes to a header from a state that differs from s1 in its group at most. -/
theorem State.finishAt_goes (target : Addr) : Answers (s.finishAt c opc words target) (fun t => Goes s1 t c g opc target) := by
  obtain ⟨t, ht, hw, hot, hgt⟩ := State.onGroup_checkSig_done (fun g => g.mapSlices c.slices (fun _ x =>
    { x with pc := target, sig := c.folded opc, hdr := true, wait := .none })) opc words hs rfl
  exact ⟨t, ht, hw, ho.trans hot, _, hgt, rfl, Ctx.mapSlices_spec hc g hg _⟩

end

/-! ### Sources of a word that is ready (R59, R143) -/

/-- No source of a word that is ready is empty. -/
theorem Need.srcs_full {n : Need} {g : Group} {handler : Bool} (h : n.ready g handler = .ok) {x : Src} {k : Nat} (hx : (x, k) ∈ n.srcs) :
    g.srcEmpty handler x k = false := by
  unfold Need.ready at h
  split at h
  · cases h
  · split at h
    · next hnone => exact Bool.eq_false_iff.2 (List.find?_eq_none.1 hnone _ hx)
    · split at h <;> cases h

theorem Src.eq_s_of_isS {x : Src} (h : x.isS = true) : ∃ n b, x = .reg (.s n) b := by
  unfold Src.isS at h
  split at h
  · exact ⟨_, _, rfl⟩
  · cases h

/-- A full and clean s register gives the address that it holds. -/
theorem Ctx.targetIn_full {c : Ctx} {s : State} {x : Src} (hx : x.isS = true) (hfull : c.g.srcEmpty c.handler x 1 = false)
    (hclean : (c.uniform s x).2 = none) : c.targetIn s x = some (c.uniform s x).1 := by
  obtain ⟨n, b, rfl⟩ := Src.eq_s_of_isS hx
  have hn : c.g.sIsEmpty c.handler n.toNat = false := by simpa [Group.srcEmpty, Group.specEmpty] using hfull
  unfold Ctx.targetIn
  dsimp only
  rw [hn, hclean]
  rfl

/-- A write of an s register changes the values of s registers alone. -/
theorem Group.writeS_values (g : Group) (handler : Bool) (d : Spec) (r : Read) :
    g.writeS handler d r = { g with regs := { g.regs with s := (g.writeS handler d r).regs.s } } := by
  unfold Group.writeS
  split <;> rfl

/-! ### Branches of the whole path (R118, R120, R121) -/

section
variable {s s1 : State} {c : Ctx} {h : Word64} (hc : s.ctx? = some c)
include hc

section
variable {w : FB} (ht : s.headerAt c.p c.g (c.target w) = (.header h, s1))
include ht

theorem exec_bra_goes (hpass : c.Passes (Need.bare w.legalBra false w.guard)) :
    exec (.bra w) s = s1.finishAt c 0x001 1 (c.target w) := by
  show execBra w s = _
  unfold execBra
  rw [State.issue_ctx _ hc, State.atTarget_header _ ht, State.gate_passes _ _ _ _ hpass]

theorem exec_bru_goes (hpass : c.Passes ⟨w.legalBru, false, w.guard, [], [(bruSrc w, 1)]⟩) (hclean : (c.uniform s1 (bruSrc w)).2 = none) :
    exec (.bru w) s = if condZero (bits w.low 4 3).toNat (c.uniform s1 (bruSrc w)).1
      then s1.finishAt c 0x003 1 (c.target w) else s1.finish c 0x003 1 := by
  show execBru w s = _
  unfold execBru
  rw [State.issue_ctx _ hc, State.atTarget_header _ ht]
  dsimp only
  rw [State.gate_passes _ _ _ _ hpass, hclean, if_neg (by simp)]

/-- The group once a CALL has written its link and pushed it on the return predictor (R121). -/
def Ctx.linked (c : Ctx) (dst : Spec) (g : Group) : Group :=
  { g.writeS c.handler dst ((c.next 1).setWidth 64, none) with
    ctl := { g.ctl with predictor := (c.next 1 :: g.ctl.predictor).take 16 } }

theorem exec_call_goes (hpass : c.Passes ⟨w.legalCall && c.isLast 1, false, w.guard, [(w.dst, 1)], []⟩) :
    exec (.call w) s = (s1.onGroup c.g.gid (c.linked w.dst)).finishAt c 0x005 1 (c.target w) := by
  have hlink : c.linked w.dst = fun g =>
      let g := g.writeS c.handler w.dst ((c.next 1).setWidth 64, none)
      { g with ctl := { g.ctl with predictor := (c.next 1 :: g.ctl.predictor).take 16 } } := by
    funext g
    unfold Ctx.linked
    rw [Group.writeS_values]
  show execCall w s = _
  unfold execCall
  rw [State.issue_ctx _ hc, State.atTarget_header _ ht]
  dsimp only
  rw [State.gate_passes _ _ _ _ hpass, hlink]

end

/-- A full and clean register that holds the address of a header is a jump's target (R117, R121). -/
theorem State.jumpRegister_goes {w : F3} (k : State → Ctx → Addr → Result)
    (hpass : c.Passes ⟨w.legalBrx, false, w.guard, [], [(w.sa, 1)]⟩) (hclean : (c.uniform s w.sa).2 = none)
    (hhigh : bits (c.uniform s w.sa).1 57 7 = 0) (hlow : bits (c.uniform s w.sa).1 0 3 = 0)
    (ht : s.headerAt c.p c.g ((c.uniform s w.sa).1.setWidth 57) = (.header h, s1)) :
    s.jumpRegister w k = k s1 c ((c.uniform s w.sa).1.setWidth 57) := by
  obtain ⟨hl, -, -, hr, -⟩ := id hpass
  have hs : w.sa.isS = true := by
    simp only [F3.legalBrx, Bool.and_eq_true] at hl
    tauto
  have hsrc := Ctx.targetIn_full hs (Need.srcs_full hr List.mem_cons_self) hclean
  unfold State.jumpRegister
  rw [State.issue_ctx _ hc]
  dsimp only
  rw [hsrc]
  dsimp only
  rw [hhigh, hlow, if_neg (by simp), State.atTarget_header _ ht, State.gate_passes _ _ _ _ hpass]

end

/-- Settles O7: each branch ends at the header that its target holds, or BRU past its word. -/
theorem branchesGoToHeaders : Obligations.BranchesGoToHeaders := by
  unfold Obligations.BranchesGoToHeaders
  refine fun s c hc => ⟨fun w h s1 ht => ?_, fun w h s1 hpass hclean hhigh hlow ht => ?_⟩
  · have hs : s1.group? c.g.gid = some c.g := ((State.headerAt_frame ht).group? _).trans (State.ctx?_group hc)
    refine ⟨fun hpass => ?_, fun hpass hclean => ?_, fun hpass => ?_⟩
    · rw [exec_bra_goes hc ht hpass]
      exact State.finishAt_goes 0x001 1 hc hs rfl (OnlyGroup.refl s1 _) _
    · rw [exec_bru_goes hc ht hpass hclean]
      split
      · exact State.finishAt_goes 0x003 1 hc hs rfl (OnlyGroup.refl s1 _) _
      · exact State.finish_after 0x003 1 hc hs rfl (OnlyGroup.refl s1 _)
    · have hframe : (c.linked w.dst c.g).gid = c.g.gid ∧ (c.linked w.dst c.g).slices = c.g.slices := by
        unfold Ctx.linked
        rw [Group.writeS_values]
        exact ⟨rfl, rfl⟩
      obtain ⟨hgid, hslices⟩ := hframe
      obtain ⟨hg, ho⟩ := State.onGroup_spec (c.linked w.dst) hs hgid
      rw [exec_call_goes hc ht hpass]
      exact State.finishAt_goes 0x005 1 hc hg hslices ho _
  · have hs : s1.group? c.g.gid = some c.g := ((State.headerAt_frame ht).group? _).trans (State.ctx?_group hc)
    obtain ⟨hg, ho⟩ := State.onGroup_spec (fun g => { g with ctl := { g.ctl with predictor := g.ctl.predictor.tail } }) hs rfl
    constructor
    · rw [show exec (.brx w) s = _ from State.jumpRegister_goes hc _ hpass hclean hhigh hlow ht]
      exact State.finishAt_goes 0x004 w.words hc hs rfl (OnlyGroup.refl s1 _) _
    · rw [show exec (.ret w) s = _ from State.jumpRegister_goes hc _ hpass hclean hhigh hlow ht]
      exact State.finishAt_goes 0x006 w.words hc hg rfl ho _

end Sys2Proof.Machine
end

section
namespace Sys2Proof.Machine

/-! ### The issuing stream (R280) -/

theorem State.stream?_cohort {s : State} {c : SCtx} (h : s.stream? = some c) : s.cohort? c.uid = some c.co := by
  unfold State.stream? at h
  split at h
  · split at h
    · cases h
    · next co hco =>
      obtain ⟨p, -, rfl⟩ := Option.map_eq_some_iff.1 h
      show s.cohort? co.uid = some co
      rw [State.cohort?_uid hco]
      exact hco
  · cases h

theorem State.stream_ctx {s : State} {c : SCtx} (k : SCtx → Result) (h : s.stream? = some c) : s.stream k = k c := by
  unfold State.stream
  rw [h]

/-- t is s but for the cohort of number uid, and for what is neither a group nor a cohort nor a byte of memory. -/
structure StreamFrame (s t : State) (uid : Nat) : Prop where
  groups : t.groups = s.groups
  cohorts : ∀ u, u ≠ uid → t.cohort? u = s.cohort? u
  memory : ∀ a, t.readDM a = s.readDM a

namespace StreamFrame

theorem refl (s : State) (uid : Nat) : StreamFrame s s uid := ⟨rfl, fun _ _ => rfl, fun _ => rfl⟩

theorem trans {s t u : State} {uid : Nat} (h1 : StreamFrame s t uid) (h2 : StreamFrame t u uid) : StreamFrame s u uid :=
  ⟨h2.groups.trans h1.groups, fun v hv => (h2.cohorts v hv).trans (h1.cohorts v hv), fun a => (h2.memory a).trans (h1.memory a)⟩

theorem onCore (s : State) (n : Nat) (f : Core → Core) (uid : Nat) : StreamFrame s (s.onCore n f) uid :=
  ⟨rfl, fun _ _ => rfl, fun _ => rfl⟩

end StreamFrame

/-- A change of the sequencer shows in its cohort, and nowhere else. -/
theorem State.onSeq_spec {s : State} {uid : Nat} {co : Cohort} (f : Sequencer → Sequencer) (h : s.cohort? uid = some co) :
    (s.onSeq uid f).cohort? uid = some { co with seq := f co.seq } ∧ StreamFrame s (s.onSeq uid f) uid := by
  refine ⟨State.cohort?_onCohort _ h rfl, ?_⟩
  have e : s.onSeq uid f = s.setCohort { co with seq := f co.seq } := by
    unfold State.onSeq State.onCohort
    rw [h]
  rw [e]
  refine ⟨rfl, fun u hu => ?_, fun _ => rfl⟩
  rw [State.cohort?_setCohort, if_neg]
  rw [← State.cohort?_uid h] at hu
  exact hu

/-- The stream goes on at an address from a state that differs from s in its cohort at most. -/
theorem State.seqAt_after {s t : State} {c : SCtx} {co : Cohort} (pc : Addr) (h : t.cohort? c.uid = some co)
    (hf : StreamFrame s t c.uid) : Answers (t.seqAt c pc) (fun u => StreamAfter s u c co pc) := by
  obtain ⟨hco, hseq⟩ := State.onSeq_spec (fun q => { q with pc := pc }) h
  obtain ⟨hg, hc, hm⟩ := hf.trans hseq
  exact ⟨_, rfl, rfl, hg, hc, hm, _, hco, fun _ => rfl, rfl⟩

/-- The same, of a word that changes the sequencer too. -/
theorem State.onSeq_seqAt_after {s : State} {c : SCtx} (f : Sequencer → Sequencer) (pc : Addr) (h : s.stream? = some c) :
    Answers ((s.onSeq c.uid f).seqAt c pc) (fun u => StreamAfter s u c { c.co with seq := f c.co.seq } pc) := by
  obtain ⟨hco, hf⟩ := State.onSeq_spec f (State.stream?_cohort h)
  exact State.seqAt_after pc hco hf

/-! ### MLOOP, MPRI and MEND (R318, R319) -/

/-- A sequencer with a loop count and its owner: the second pair where `one`, and else the first. -/
def Sequencer.withLoop (q : Sequencer) (one : Bool) (lc : Nat) (owner : Option Addr) : Sequencer :=
  if one then { q with lc1 := lc, own1 := owner } else { q with lc0 := lc, own0 := owner }

/-- A core whose engine the cohort does not hold. -/
def Core.sansEngine (k : Core) (uid : Nat) : Core := if k.engine = some uid then { k with engine := none } else k

theorem Core.sansEngine_engine (k : Core) (uid : Nat) : (k.sansEngine uid).engine ≠ some uid := by
  unfold Core.sansEngine
  split
  · exact fun h => by cases h
  · next h => exact h

section
variable {w : FT} {s : State} {c : SCtx} (hs : s.stream? = some c)
include hs

/-- An MLOOP whose count is its own or nobody's goes back, or ends its loop. -/
theorem exec_mloop_counts (hl : w.legalMloop = true) :
    let back := 8 * (bits w.ops 0 14).toNat
    let one := bit w.ops 28
    let q := c.co.seq
    let lc := if one then q.lc1 else q.lc0
    let owner := if one then q.own1 else q.own0
    q.strm.toNat + back ≤ c.pc.toNat → (owner = none ∨ owner = some c.pc) →
    exec (.mloop w) s =
      if lc + 1 < (bits w.ops 14 14).toNat
      then (s.onSeq c.uid (·.withLoop one (lc + 1) (some c.pc))).seqAt c (c.pc - BitVec.ofNat 57 back)
      else (s.onSeq c.uid (·.withLoop one 0 none)).seqAt c (c.pc + 8) := by
  intro back one q lc owner hback howner
  have hfree : ¬ ((owner.isSome && owner != some c.pc) = true) := by
    rcases howner with e | e <;> simp [e]
  show execMloop w s = _
  unfold execMloop
  rw [State.stream_ctx _ hs]
  dsimp only
  rw [hl, if_neg (by simp only [Bool.not_true, Bool.false_or, decide_eq_true_eq]; exact Nat.not_lt.2 hback)]
  exact if_neg hfree

theorem exec_mpri_sets (hl : w.legalMpri = true) :
    exec (.mpri w) s = (s.onSeq c.uid (fun q => { q with mxpri := (bits w.ops 0 3).toNat })).seqAt c (c.pc + 8) := by
  show execMpri w s = _
  unfold execMpri
  rw [State.stream_ctx _ hs, hl]
  rfl

theorem exec_mend_ends (hl : w.legalMend = true) (hopen : (s.core c.co.core).linMask c.uid .open = 0)
    (hending : (s.core c.co.core).linMask c.uid .ending = 0) (hsettled : c.co.seq.settledWords = true) :
    exec (.mend w) s = ((s.onCore c.co.core (·.sansEngine c.uid)).onSeq c.uid (fun q => { q with active := false, ended := true })).done := by
  show execMend w s = _
  unfold execMend
  rw [State.stream_ctx _ hs]
  dsimp only
  rw [hl, hopen, hending, hsettled]
  rfl

theorem mend_completes (hl : w.legalMend = true) (hopen : (s.core c.co.core).linMask c.uid .open = 0)
    (hending : (s.core c.co.core).linMask c.uid .ending = 0) (hsettled : c.co.seq.settledWords = true) :
    Answers (exec (.mend w) s) (fun t =>
      StreamAfter s t c { c.co with seq := { c.co.seq with active := false, ended := true } } c.pc ∧
      (t.core c.co.core).engine ≠ some c.uid) := by
  have hcore := StreamFrame.onCore s c.co.core (·.sansEngine c.uid) c.uid
  obtain ⟨hco, hseq⟩ := State.onSeq_spec (s := s.onCore c.co.core (·.sansEngine c.uid))
    (fun q => { q with active := false, ended := true }) (State.stream?_cohort hs)
  obtain ⟨hg, hc, hm⟩ := hcore.trans hseq
  rw [exec_mend_ends hs hl hopen hending hsettled]
  refine ⟨_, rfl, ⟨rfl, hg, hc, hm, _, hco, fun _ => rfl, rfl⟩, ?_⟩
  have e : ((s.onCore c.co.core (·.sansEngine c.uid)).onSeq c.uid (fun q => { q with active := false, ended := true })).core c.co.core =
      (s.core c.co.core).sansEngine c.uid := by
    unfold State.onSeq
    rw [State.onCohort_frame]
    exact SMap.get_put_self _ _ _ _
  show (State.core (State.onSeq _ _ _) _).engine ≠ _
  rw [e]
  exact Core.sansEngine_engine (s.core c.co.core) c.uid

/-! ### MBAR (R129, R130, R283, R317) -/

theorem exec_mbar_released (hl : w.legalMbar = true) {k : Nat} (hb : c.co.seq.bar = some (k, true)) :
    exec (.mbar w) s = (s.onSeq c.uid (fun q => { q with bar := none })).seqAt c (c.pc + 8) := by
  show execMbar w s = _
  unfold execMbar
  rw [State.stream_ctx _ hs]
  dsimp only
  rw [hl, hb]
  rfl

/-- A WAIT on a barrier whose phase of the sequencer's last arrival is over passes. -/
theorem exec_mbar_passes (hl : w.legalMbar = true) (hb : c.co.seq.bar = none) (hm : (bits w.ops 8 2).toNat = 2) :
    let b := c.co.barrier (bits w.ops 0 4).toNat
    b.seqSeen = true → b.phase ≠ b.seqLast → exec (.mbar w) s = s.seqAt c (c.pc + 8) := by
  intro b hseen hphase
  show execMbar w s = _
  unfold execMbar
  rw [State.stream_ctx _ hs]
  dsimp only
  rw [hl, hb, hm]
  have hover : (b.seqSeen && b.phase != b.seqLast) = true := by
    rw [hseen, Bool.true_and, bne_iff_ne]
    exact hphase
  exact if_pos hover

/-- An arrival, its count as the word gives it, at a barrier that agrees. -/
theorem exec_mbar_arrives (hl : w.legalMbar = true) (hb : c.co.seq.bar = none) (hm : (bits w.ops 8 2).toNat ≠ 2)
    (hsettled : c.co.seq.settledWords = true) :
    let n := (bits w.ops 0 4).toNat
    let count := if bits w.ops 16 5 = 0 then c.co.ngm1 + 2 else (bits w.ops 16 5).toNat
    ((c.co.barrier n).cnt = 0 ∨ (c.co.barrier n).cnt = count) →
    exec (.mbar w) s = s.seqArriveAt c n count ((bits w.ops 8 2).toNat == 0) := by
  intro n count hcnt
  have hcount : (if (bits w.ops 16 5).toNat = 0 then c.co.ngm1 + 2 else (bits w.ops 16 5).toNat) = count :=
    if_congr (BitVec.toNat_inj (y := 0)) rfl rfl
  have hagree : ¬ (((c.co.barrier n).cnt != 0 && (c.co.barrier n).cnt != count) = true) := by
    rcases hcnt with e | e <;> simp [e]
  show execMbar w s = _
  unfold execMbar
  rw [State.stream_ctx _ hs]
  dsimp only
  rw [hl, hb, hcount, hsettled, if_neg (by simp)]
  dsimp only
  rw [if_neg hm, if_neg (by simp)]
  exact if_neg hagree

/-- Where the stream stands after its arrival, and the barriers of its cohort then. -/
theorem seqArriveAt_moves (n count : Nat) (waits : Bool) :
    let r := (c.co.barrier n).seqArrive count
    Answers (s.seqArriveAt c n count waits) (fun t => t.waited = false ∧ ∃ co, t.cohort? c.uid = some co ∧
      co.bars = (c.co.setBarrier n r.1).bars ∧ co.seq.pc = if waits && !r.2 then c.pc else c.pc + 8) := by
  intro r
  have hset : ((s.acquire c.co.core .dev).onCohort c.uid (fun co => co.setBarrier n r.1)).cohort? c.uid = some (c.co.setBarrier n r.1) := by
    refine State.cohort?_onCohort (fun co => co.setBarrier n r.1) ?_ rfl
    rw [State.acquire_frame]
    exact State.stream?_cohort hs
  unfold State.seqArriveAt
  dsimp only
  generalize (s.acquire c.co.core .dev).onCohort c.uid (fun co => co.setBarrier n ((c.co.barrier n).seqArrive count).1) = t at hset
  cases hlast : r.2 with
  | true =>
    obtain ⟨co, hco, hbars⟩ := Option.map_eq_some_iff.1
      ((t.completePhase_bars c.uid n c.uid).trans (congrArg (Option.map Cohort.bars) hset))
    obtain ⟨hend, -⟩ := State.onSeq_spec (fun q => { q with pc := c.pc + 8 }) hco
    rw [if_pos rfl, Bool.not_true, Bool.and_false, if_neg Bool.false_ne_true]
    exact ⟨_, rfl, rfl, _, hend, hbars, rfl⟩
  | false =>
    rw [if_neg Bool.false_ne_true, Bool.not_false, Bool.and_true]
    cases waits with
    | true =>
      obtain ⟨hend, -⟩ := State.onSeq_spec (fun q => { q with bar := some (n, false) }) hset
      exact ⟨_, rfl, rfl, _, hend, rfl, rfl⟩
    | false =>
      obtain ⟨hend, -⟩ := State.onSeq_spec (fun q => { q with pc := c.pc + 8 }) hset
      exact ⟨_, rfl, rfl, _, hend, rfl, rfl⟩

/-- An arrival that agrees with the barrier's count: the last one completes the phase and passes, another one counts. -/
theorem seqArriveAt_counts (n count : Nat) (waits : Bool) :
    let b := c.co.barrier n
    (b.cnt = 0 ∨ b.cnt = count) →
    Answers (s.seqArriveAt c n count waits) (fun t => t.waited = false ∧ ∃ co, t.cohort? c.uid = some co ∧
      (if b.arr + 1 = count
       then (co.barrier n).phase = !b.phase ∧ (co.barrier n).arr = 0 ∧ (co.barrier n).cnt = 0 ∧ co.seq.pc = c.pc + 8
       else (co.barrier n).phase = b.phase ∧ (co.barrier n).arr = b.arr + 1 ∧ (co.barrier n).cnt = count ∧
         co.seq.pc = if waits then c.pc else c.pc + 8) ∧
      ∀ k, k ≠ n → co.barrier k = c.co.barrier k) := by
  intro b hcnt
  have hspec := Barrier.arrive_spec (b := { b with seqLast := b.phase, seqSeen := true }) hcnt
  change if b.arr + 1 = count then (b.seqArrive count).2 = true ∧ _ else (b.seqArrive count).2 = false ∧ _ at hspec
  obtain ⟨t, ht, hw, co, hco, hbars, hpc⟩ := seqArriveAt_moves hs n count waits
  have hself : co.barrier n = (b.seqArrive count).1 := by
    rw [Cohort.barrier_congr hbars, Cohort.barrier_setBarrier, if_pos rfl]
  refine ⟨t, ht, hw, co, hco, ?_, fun k hk => by rw [Cohort.barrier_congr hbars, Cohort.barrier_setBarrier, if_neg hk]⟩
  rw [hself]
  split at hspec
  · next hlast =>
    obtain ⟨hdone, hphase, harr, hcnt'⟩ := hspec
    rw [if_pos hlast]
    rw [hdone, Bool.not_true, Bool.and_false] at hpc
    exact ⟨hphase, harr, hcnt', hpc⟩
  · next hlast =>
    obtain ⟨hdone, hphase, harr, hcnt'⟩ := hspec
    rw [if_neg hlast]
    rw [hdone, Bool.not_false, Bool.and_true] at hpc
    exact ⟨hphase, harr, hcnt', hpc⟩

end

/-- Settles O40: each word by what it does to the sequencer. -/
theorem streamControlCompletes : Obligations.StreamControlCompletes := by
  unfold Obligations.StreamControlCompletes
  intro w s c hs q n mode count b cnt back one loop
  have hloop : ∀ lc o, loop lc o = { c.co with seq := q.withLoop one lc o } := fun _ _ => rfl
  refine ⟨fun hl => ⟨fun k hb => ?_, fun hb hm hseen hphase => ?_, fun hb hm hsettled hcnt => ?_⟩,
    fun hl hback => ?_, fun hl => ?_,
    fun hl hopen hending hsettled => mend_completes hs hl hopen hending hsettled⟩
  · rw [exec_mbar_released hs hl hb]
    exact State.onSeq_seqAt_after _ _ hs
  · rw [exec_mbar_passes hs hl hb hm hseen hphase]
    exact State.seqAt_after _ (State.stream?_cohort hs) (StreamFrame.refl s _)
  · rw [exec_mbar_arrives hs hl hb hm hsettled hcnt]
    have h := seqArriveAt_counts hs n count (mode == 0) hcnt
    simpa only [beq_iff_eq] using h
  · intro lc owner howner
    rw [exec_mloop_counts hs hl hback howner]
    refine ⟨fun hlt => ?_, fun hge => ?_⟩
    · rw [if_pos hlt, hloop]
      exact State.onSeq_seqAt_after _ _ hs
    · rw [if_neg (Nat.not_lt.2 hge), hloop]
      exact State.onSeq_seqAt_after _ _ hs
  · rw [exec_mpri_sets hs hl]
    exact State.onSeq_seqAt_after _ _ hs

end Sys2Proof.Machine
end

section
namespace Sys2Proof.Machine

/-! ### Words that fall through (R115, R123, R126 to R128, R404) -/

/-- The group with the value of a VOTE in its destination, bit by bit or as one word (R126). -/
def Ctx.voted (c : Ctx) (dst : Spec) (lanes : List Nat) (v : Word64) (t : Option Tag) (g : Group) : Group :=
  match dst with
  | .p d => g.writeP d.toNat (lanes.map (fun l => (l, v != 0, t)))
  | d => g.writeS c.handler d (v, t)

/-- The group with the results of a PLOP in its destination (R127). -/
def Group.plopped (g : Group) (dst : Spec) (rs : List (Nat × Bool × Option Tag)) : Group :=
  match dst with
  | .p d => g.writeP d.toNat rs
  | _ => g

theorem Ctx.voted_frame (c : Ctx) (dst : Spec) (lanes : List Nat) (v : Word64) (t : Option Tag) (g : Group) :
    (c.voted dst lanes v t g).gid = g.gid ∧ (c.voted dst lanes v t g).slices = g.slices := by
  unfold Ctx.voted
  split
  · rw [Group.writeP_values]; exact ⟨rfl, rfl⟩
  · rw [Group.writeS_values]; exact ⟨rfl, rfl⟩

theorem Group.plopped_frame (g : Group) (dst : Spec) (rs : List (Nat × Bool × Option Tag)) :
    (g.plopped dst rs).gid = g.gid ∧ (g.plopped dst rs).slices = g.slices := by
  unfold Group.plopped
  split
  · rw [Group.writeP_values]; exact ⟨rfl, rfl⟩
  · exact ⟨rfl, rfl⟩

section
variable {w : F3} {s : State} {c : Ctx} (hc : s.ctx? = some c)
include hc

/-- A word whose effect is a change f of the issuing group that moves no slice: it falls through with the group so changed. -/
theorem State.onGroup_finish_after (f : Group → Group) (opc words : Nat) (hf : (f c.g).gid = c.g.gid ∧ (f c.g).slices = c.g.slices) :
    Answers ((s.onGroup c.g.gid f).finish c opc words) (fun t => After s t c (f c.g) opc words) := by
  obtain ⟨hgid, hslices⟩ := hf
  obtain ⟨hg, ho⟩ := State.onGroup_spec f (State.ctx?_group hc) hgid
  exact State.finish_spec opc words hc hg hslices ho

/-- The same, of a word that notes the poison it read. -/
theorem State.onGroup_notePois_finish_after (f : Group → Group) (t : Option Tag) (opc words : Nat)
    (hf : (f c.g).gid = c.g.gid ∧ (f c.g).slices = c.g.slices) :
    Answers (((s.onGroup c.g.gid f).notePois c.g t).finish c opc words) (fun u => After s u c (f c.g) opc words) := by
  obtain ⟨hgid, hslices⟩ := hf
  obtain ⟨hg, ho⟩ := State.onGroup_spec f (State.ctx?_group hc) hgid
  exact State.finish_spec opc words hc ((State.notePois_group? _ _ _ _).trans hg) hslices (ho.trans (State.notePois_only _ _ _ _))

theorem nop_completes (hpass : c.Passes (Need.bare w.legalBare false w.guard)) :
    Answers (exec (.nop w) s) (fun t => After s t c c.g 0x000 w.words) := by
  show Answers (execNop w s) _
  unfold execNop
  rw [State.issue_ctx _ hc, State.gate_passes _ _ _ _ hpass]
  exact State.finish_spec 0x000 w.words hc (State.ctx?_group hc) rfl (OnlyGroup.refl s _)

theorem yield_completes (hpass : c.Passes (Need.bare w.legalBareGroup false w.guard)) :
    Answers (exec (.yield w) s) (fun t => After s t c { c.g with ctl := { c.g.ctl with turns := 2 ^ 16 } } 0x008 w.words) := by
  show Answers (execYield w s) _
  unfold execYield
  rw [State.issue_ctx _ hc, State.gate_passes _ _ _ _ hpass]
  exact State.onGroup_finish_after hc (·.endTurn) 0x008 w.words ⟨rfl, rfl⟩

theorem commit_completes (hpass : c.Passes (Need.bare w.legalBareGroup true w.guard)) :
    Answers (exec (.commit w) s) (fun t => After s t c (c.committed 0x011 w.words) 0x011 w.words) := by
  obtain ⟨hg, ho⟩ := State.setGroup_spec (c.committed 0x011 w.words) (State.ctx?_group hc) rfl
  show Answers (execCommit w s) _
  unfold execCommit
  rw [State.issue_ctx _ hc, State.gate_passes _ _ _ _ hpass]
  exact State.finish_spec 0x011 w.words hc hg rfl ho

theorem maskrd_completes (hpass : c.Passes ⟨w.legalMaskrd, false, w.guard, [(w.dst, 1)], []⟩) :
    Answers (exec (.maskrd w) s) (fun t => After s t c (c.g.writeS c.handler w.dst (maskValue c w.sub.toNat, none)) 0x00C w.words) := by
  show Answers (execMaskrd w s) _
  unfold execMaskrd
  rw [State.issue_ctx _ hc]
  dsimp only
  rw [State.gate_passes _ _ _ _ hpass]
  exact State.onGroup_finish_after hc (fun g => g.writeS c.handler w.dst (maskValue c w.sub.toNat, none)) 0x00C w.words
    (by rw [Group.writeS_values]; exact ⟨rfl, rfl⟩)

theorem vote_completes (hpass : c.Passes ⟨w.legalVote, false, w.guard, [(w.dst, 1)], []⟩) :
    let lanes := c.acting w.guard
    let v := voteValue c (srcP w.sa) w.sub.toNat lanes
    let t := mergeAll (lanes.map (fun l => c.g.pPois (srcP w.sa) l))
    Answers (exec (.vote w) s) (fun u => After s u c (c.voted w.dst lanes v t c.g) 0x00A w.words) := by
  intro lanes v t
  show Answers (execVote w s) _
  unfold execVote
  rw [State.issue_ctx _ hc]
  dsimp only
  rw [State.gate_passes _ _ _ _ hpass]
  exact State.onGroup_notePois_finish_after hc (c.voted w.dst lanes v t) t 0x00A w.words (c.voted_frame w.dst lanes v t c.g)

/-- The result of a PLOP in a lane: the operation of its SUB on two predicate bits, each negated or not (R127). -/
def Ctx.plopResult (c : Ctx) (w : F3) (l : Nat) : Nat × Bool × Option Tag :=
  let a := c.g.pBit (srcP w.sa) l != w.negA
  let b := c.g.pBit (srcP w.sb) l != w.negB
  (l, (match w.sub.toNat with | 0 => a && b | 1 => a || b | _ => a != b),
    mergePois (c.g.pPois (srcP w.sa) l) (c.g.pPois (srcP w.sb) l))

theorem plop_completes (hpass : c.Passes (Need.bare w.legalPlop false w.guard)) :
    Answers (exec (.plop w) s) (fun u =>
      After s u c (c.g.plopped w.dst ((c.acting w.guard).map (c.plopResult w))) 0x00B w.words) := by
  show Answers (execPlop w s) _
  unfold execPlop
  rw [State.issue_ctx _ hc, State.gate_passes _ _ _ _ hpass]
  exact State.onGroup_notePois_finish_after hc (·.plopped w.dst ((c.acting w.guard).map (c.plopResult w))) _ 0x00B w.words
    (c.g.plopped_frame w.dst _)

end

end Sys2Proof.Machine
end

section
namespace Sys2Proof.Machine

/-! ### What the failure of a task leaves of the groups (R29, R30) -/

/-- The groups of t are those of s, but for reservations that a write has cleared. -/
def GroupsShed (s t : State) : Prop := ∃ f, ShedsResv f ∧ t.groups = s.groups.map f

namespace GroupsShed

theorem of_groups {s t : State} (h : t.groups = s.groups) : GroupsShed s t := ⟨id, ShedsResv.id, by rw [h, List.map_id]⟩

theorem of_desk {s t : State} (h : DeskFrame s t) : GroupsShed s t := h.groups

theorem trans {s t u : State} (h1 : GroupsShed s t) (h2 : GroupsShed t u) : GroupsShed s u := by
  obtain ⟨f1, g1, e1⟩ := h1
  obtain ⟨f2, g2, e2⟩ := h2
  exact ⟨f2 ∘ f1, g1.comp g2, by rw [e2, e1, List.map_map]⟩

theorem sendMsi (s : State) (k v : Nat) : GroupsShed s (s.sendMsi k v) := by
  refine of_groups ?_
  unfold State.sendMsi
  split
  · rfl
  · dsimp only
    split <;> rfl

theorem ringEntry (s : State) (p : Part) (e : Entry) : GroupsShed s (s.ringEntry p e) := by
  have hw : GroupsShed s ((s.setPart { p with ports := { p.ports with cqTail := p.ports.cqTail + 1 } }).writeWords p.id p.entryAddr e.words) :=
    of_desk ((DeskFrame.setPart s _).trans (Stored.writeWords _ _ _ _).toDeskFrame)
  unfold State.ringEntry
  dsimp only
  split
  · exact hw.trans (sendMsi _ _ _)
  · exact hw

theorem pushEntry (s : State) (k : Nat) (e : Entry) : GroupsShed s (s.pushEntry k e) := by
  cases h : s.part? k with
  | none =>
    unfold State.pushEntry
    rw [h]
    exact of_groups rfl
  | some p =>
    rcases p.entry_cases with hd | hh | hw
    · rw [State.pushEntry_destroying h hd]
      exact of_groups rfl
    · rw [State.pushEntry_holds h hh]
      exact of_groups rfl
    · rw [State.pushEntry_writes h hw, State.writeEntry_eq]
      split
      · exact (ringEntry s p e).trans (of_desk (State.freeTask_tabled _ p.id e.tid).toDeskFrame)
      · exact ringEntry s p e

theorem failTaskFuel (s : State) (fuel k tid cause : Nat) : GroupsShed s (s.failTaskFuel fuel k tid cause) := by
  refine State.failTaskFuel_keeps (P := GroupsShed s) (fun t x u cause ht _ _ => ?_) fuel s tid cause (of_groups rfl)
  have hpush := (ht.trans (of_desk (State.putTask_tabled t k u.struck).toDeskFrame)).trans
    (pushEntry (t.putTask k u.struck) k ⟨x, 6, cause, u.chkiv.word, true⟩)
  exact hpush.trans (of_groups (by unfold State.failOne; rw [State.forgetTask_frame]))

theorem failTask (s : State) (k tid cause : Nat) : GroupsShed s (s.failTask k tid cause) := by
  unfold State.failTask
  split
  · exact of_groups rfl
  · split
    · split
      · next t _ _ =>
        have hput := of_desk (State.putTask_tabled s k { t with state := .failed }).toDeskFrame
        dsimp only
        split
        · exact hput.trans (failTaskFuel _ _ _ _ _)
        · exact hput
      · exact failTaskFuel s _ k tid cause
    · exact of_groups rfl

theorem group? {s t : State} (h : GroupsShed s t) {i : Nat} {g : Group} (hg : s.group? i = some g) :
    ∃ rv, t.group? i = some { g with resv := rv } := by
  obtain ⟨f, hf, e⟩ := h
  have hk : (fun g : Group => g.gid == i) ∘ f = fun g => g.gid == i := by
    funext g
    show ((f g).gid == i) = _
    rw [(hf g).1]
  refine ⟨(f g).resv, ?_⟩
  rw [State.group?, e, List.find?_map, hk]
  exact (congrArg (Option.map f) hg).trans (congrArg some (hf g).1)

end GroupsShed

/-! ### What settling keeps of the exits (R32, R98, R100 to R102, R107) -/

/-- g' has the exited lanes of g, and every trigger marker of its store queue. -/
structure KeepsExits (g g' : Group) : Prop where
  gid : g'.gid = g.gid
  xmask : ∀ i, (g'.sliceAt i).xmask = (g.sliceAt i).xmask
  markers : ∀ e ∈ g.sq, ∀ m, e.op = .trigMarker m → e ∈ g'.sq

namespace KeepsExits

theorem refl (g : Group) : KeepsExits g g := ⟨rfl, fun _ => rfl, fun _ he _ _ => he⟩

theorem trans {g g' g'' : Group} (h1 : KeepsExits g g') (h2 : KeepsExits g' g'') : KeepsExits g g'' :=
  ⟨h2.gid.trans h1.gid, fun i => (h2.xmask i).trans (h1.xmask i), fun e he m hm => h2.markers e (h1.markers e he m hm) m hm⟩

/-- A change of slices that leaves exits alone. -/
theorem mapSlices (g : Group) (is : List Nat) {f : Nat → Slice → Slice} (hf : ∀ i x, (f i x).xmask = x.xmask) :
    KeepsExits g (g.mapSlices is f) := by
  refine ⟨rfl, fun i => ?_, fun _ he _ _ => he⟩
  rw [Group.sliceAt_mapSlices]
  split
  · exact hf i _
  · rfl

theorem regroup (g : Group) (is : List Nat) : KeepsExits g (g.regroup is) := mapSlices g is fun _ _ => rfl

theorem asPath (g : Group) (is : List Nat) : KeepsExits g (g.asPath is) :=
  mapSlices g is (f := fun _ x => { x with path := is.foldl min 31 }) fun _ _ => rfl

/-- A change of anything but the number, the slices and the store queue. -/
theorem of_frame {g g' : Group} (hid : g'.gid = g.gid) (hs : g'.slices = g.slices) (hq : g'.sq = g.sq) : KeepsExits g g' :=
  ⟨hid, fun i => by rw [Group.sliceAt, hs]; rfl, fun e he _ _ => by rw [hq]; exact he⟩

theorem endTurn (g : Group) : KeepsExits g g.endTurn := of_frame rfl rfl rfl

theorem keepTurn (g old : Group) : KeepsExits g (g.keepTurn old) := by
  rw [Group.keepTurn_eq]
  exact of_frame rfl rfl rfl

/-- The end of a loop leaves the entries but for the CMTD entry that may forward (R409). -/
theorem endLoop (g : Group) (last : Option Nat) (regs : Regs) :
    KeepsExits g { g with loop := none, regs := regs, sq := g.sq.map (·.finalCmtd last) } := by
  refine ⟨rfl, fun _ => rfl, fun e he m hm => List.mem_map.2 ⟨e, he, ?_⟩⟩
  unfold SQEntry.finalCmtd
  rw [hm]

theorem tryExit (g : Group) : KeepsExits g g.tryExit.1 := by
  unfold Group.tryExit
  split
  · exact refl g
  · next lp _ =>
    dsimp only
    split
    · exact refl g
    · have hidle : KeepsExits g (g.mapSlices (List.range 32) (fun _ x => { x with imask := 0 })) := mapSlices g _ fun _ _ => rfl
      exact hidle.trans (.trans (mapSlices _ _ (f := fun i x => { x with
        wait := .none, amask := bits lp.lmask (4 * i) 4 &&& ~~~(g.sliceAt i).xmask, pc := lp.exit, hdr := true }) fun _ _ => rfl)
        ((regroup _ _).trans (endLoop _ lp.lastCmtd _)))

theorem tryRelease (g : Group) (k : Nat) : KeepsExits g (g.tryRelease k).1 := by
  have honly := g.tryRelease_only k
  refine ⟨by rw [honly], fun i => ?_, fun e he _ _ => by rw [honly]; exact he⟩
  rcases g.sliceAt_tryRelease k i with e | ⟨sp, p, e⟩ <;> rw [e]

theorem releaseRegang (g : Group) (i : Nat) : KeepsExits g (g.releaseRegang i).1 := by
  have honly := g.releaseRegang_only i
  refine ⟨by rw [honly], fun j => ?_, fun e he _ _ => by rw [honly]; exact he⟩
  unfold Group.releaseRegang
  split
  · dsimp only
    split
    · rfl
    · refine ((asPath _ _).xmask j).trans ((mapSlices g _ ?_).xmask j)
      exact fun _ _ => rfl
  · rfl

theorem settled (g : Group) : KeepsExits g g.settled := by
  have hreleases : KeepsExits g g.tryExit.1.tryReleases.1 :=
    (tryExit g).trans (Group.tryReleases_keeps (P := KeepsExits g.tryExit.1) (fun g' k h => h.trans (tryRelease g' k)) (refl _))
  have hregangs : KeepsExits g.tryExit.1.tryReleases.1 g.tryExit.1.tryReleases.1.tryRegangs.1 :=
    Group.tryRegangs_keeps (P := KeepsExits _) (fun g' i h => h.trans (releaseRegang g' i)) (refl _)
  exact (hreleases.trans hregangs).trans (keepTurn _ g)

theorem enterHandler (g : Group) (slices : List Nat) (th : Addr) (x : Trap) : KeepsExits g (g.enterHandler slices th x) := by
  have heq := g.enterHandler_eq slices th x
  refine ⟨by rw [heq], fun i => ?_, fun e he _ _ => by rw [heq]; exact he⟩
  rw [Group.sliceAt_enterHandler]
  split <;> split <;> rfl

theorem hold (g : Group) (slices : List Nat) : KeepsExits g (g.hold slices) :=
  (mapSlices g slices (f := fun _ x => { x with held := true }) fun _ _ => rfl).trans (endTurn _)

end KeepsExits

/-- However a trap at a path ends, its group keeps its exits. -/
theorem State.takeTrap_keepsExits {s : State} {c : Ctx} (x : Trap) (hs : s.group? c.g.gid = some c.g) :
    Answers (s.takeTrap c x) (fun t => ∃ g, t.group? c.g.gid = some g ∧ KeepsExits c.g g) := by
  have set : ∀ g, KeepsExits c.g g → Answers (s.setGroup g).done (fun t => ∃ g, t.group? c.g.gid = some g ∧ KeepsExits c.g g) :=
    fun g hk => ⟨_, rfl, g, (State.setGroup_spec g hs hk.gid).1, hk⟩
  unfold State.takeTrap
  split
  · refine ⟨_, rfl, c.g, ?_, KeepsExits.refl _⟩
    show (State.requestKill _ _ _).group? _ = _
    rw [State.group?, State.requestKill_groups]
    exact hs
  split
  · exact set _ (KeepsExits.hold c.g c.slices)
  split
  · obtain ⟨rv, hrv⟩ := (GroupsShed.failTask s c.p.id c.co.tid (if x.cause = trapPageFault then 6 else 7)).group? hs
    exact ⟨_, rfl, _, hrv, KeepsExits.of_frame rfl rfl rfl⟩
  · exact set _ (KeepsExits.enterHandler c.g c.slices c.p.ctl.thandler x)

/-- However the settling of a group ends, with its releases, a kill or a deadlock's trap, the group keeps its exits. -/
theorem State.settlePaths_keepsExits {s : State} {c : Ctx} {g : Group} (hs : s.group? c.g.gid = some g) :
    Answers (s.settlePaths c) (fun t => ∃ g', t.group? c.g.gid = some g' ∧ KeepsExits g g') := by
  have hk := KeepsExits.settled g
  have hgid : g.settled.gid = c.g.gid := hk.gid.trans (State.group?_gid hs)
  have hset := (State.setGroup_spec g.settled hs hgid).1
  have kills : ∀ r, Answers ((s.setGroup g.settled).requestKill g.settled.cohort r).done
      (fun t => ∃ g', t.group? c.g.gid = some g' ∧ KeepsExits g g') := fun r => by
    refine ⟨_, rfl, g.settled, ?_, hk⟩
    show (State.requestKill _ _ _).group? _ = _
    rw [State.group?, State.requestKill_groups]
    exact hset
  rw [State.settlePaths_eq hs]
  split
  · exact kills _
  split
  · exact kills _
  split
  · rw [← hgid] at hset ⊢
    obtain ⟨t, ht, g', hg', hk'⟩ :=
      State.takeTrap_keepsExits (s := (s.setGroup g.settled).setGroup g.settled) (c := { c with g := g.settled, slices := _, head := _ }) _
        (State.setGroup_spec g.settled hset rfl).1
    exact ⟨t, ht, g', hg', hk.trans hk'⟩
  · exact ⟨_, rfl, _, hset, hk⟩

end Sys2Proof.Machine
end

section
namespace Sys2Proof.Machine

/-! ### The lanes of a slice among a list of lanes -/

theorem bit_sliceLanes {ls : List Nat} (h : ls.Nodup) (i : Nat) {j : Nat} (hj : j < 4) :
    bit (sliceLanes i ls) j = decide (4 * i + j ∈ ls) := by
  have hmask : sliceLanes i ls = (laneMask ((ls.filter (fun l => l / 4 == i)).map (· % 4))).setWidth 4 := by
    unfold sliceLanes laneMask
    rw [List.map_map, BitVec.setWidth_ofNat_of_le (by omega)]
    rfl
  have hnodup : ((ls.filter (fun l => l / 4 == i)).map (· % 4)).Nodup := by
    refine List.Nodup.map_on (fun a ha b hb e => ?_) (h.filter _)
    simp only [List.mem_filter, beq_iff_eq] at ha hb
    omega
  have hbit := bit_laneMask _ hnodup j (by omega)
  unfold bit at hbit ⊢
  rw [hmask, BitVec.getLsbD_setWidth, hbit, decide_eq_true hj, Bool.true_and, decide_eq_decide]
  simp only [List.mem_map, List.mem_filter, beq_iff_eq]
  constructor
  · rintro ⟨l, ⟨hl, hi⟩, hm⟩
    rwa [show 4 * i + j = l by omega]
  · exact fun hl => ⟨4 * i + j, ⟨hl, by omega⟩, by omega⟩

/-- The acting lanes of a slice are active in it. -/
theorem Ctx.sliceLanes_acting {s : State} {c : Ctx} (h : s.ctx? = some c) (gd : Guard) (i : Nat) :
    sliceLanes i (c.acting gd) &&& ~~~(c.g.sliceAt i).amask = 0#4 := by
  refine BitVec.eq_of_getLsbD_eq fun j hj => ?_
  rw [BitVec.getLsbD_and, BitVec.getLsbD_not, BitVec.getLsbD_zero, decide_eq_true hj, Bool.true_and]
  by_cases hm : 4 * i + j ∈ c.acting gd
  · obtain ⟨-, ha⟩ := Ctx.mem_active (List.mem_of_mem_filter hm)
    rw [show (4 * i + j) / 4 = i by omega, show (4 * i + j) % 4 = j by omega] at ha
    rw [show (c.g.sliceAt i).amask.getLsbD j = true from ha, Bool.not_true, Bool.and_false]
  · rw [show (sliceLanes i (c.acting gd)).getLsbD j = _ from bit_sliceLanes (Ctx.acting_nodup h gd) i hj, decide_eq_false hm,
      Bool.false_and]

/-- Where not all lanes of a mask go, some stay. -/
theorem stays_of_ne {gone a : BitVec 4} (hsub : gone &&& ~~~a = 0) (hne : gone ≠ a) : a &&& ~~~gone ≠ 0 := by
  revert gone a
  decide

/-! ### The slice that its lanes have left (R98, R106, R122) -/

/-- Unwinding touches no exited lane, no wait and no signature. -/
theorem unwind_keeps : ∀ (st : List LaneEntry) (x : Slice),
    (unwind x st).xmask = x.xmask ∧ (unwind x st).wait = x.wait ∧ (unwind x st).sig = x.sig
  | [], _ => ⟨rfl, rfl, rfl⟩
  | e :: rest, x => by
    unfold unwind
    split
    · exact ⟨rfl, rfl, rfl⟩
    · split
      · exact ⟨rfl, rfl, rfl⟩
      · dsimp only
        split
        · exact unwind_keeps rest _
        · exact unwind_keeps rest _

/-- With no running lane, the lanes that wait in the top entry start (R98). -/
theorem unwind_starts {x : Slice} {e : LaneEntry} (rest : List LaneEntry) (ha : x.amask = 0) (hk : e.kind ≠ .sideTrip)
    (hp : e.phase = false) (ht : e.taken &&& ~~~x.xmask ≠ 0) :
    unwind x (e :: rest) = { x with lstk := { e with arr := 0, phase := true } :: rest, amask := e.taken &&& ~~~x.xmask
                                    pc := e.tpc, hdr := true } := by
  unfold unwind
  rw [if_neg (by simp [ha, hk]), if_pos (by simpa [hp] using ht)]

theorem Slice.settle_none (i : Nat) (x : Slice) : x.settle none i = if x.amask ≠ 0 then x else x.unwound := by
  unfold Slice.settle
  simp only [bne_iff_ne]

theorem Slice.settle_keeps (lp : Option Loop) (i : Nat) (x : Slice) :
    (x.settle lp i).xmask = x.xmask ∧ ((x.settle lp i).wait = x.wait ∨ (x.settle lp i).wait = .loopExit) := by
  obtain ⟨hx, hw, -⟩ := unwind_keeps x.lstk x
  unfold Slice.settle
  split
  · exact ⟨rfl, .inl rfl⟩
  · split
    · exact ⟨hx, .inl hw⟩
    · dsimp only
      split
      · exact ⟨rfl, .inr rfl⟩
      · exact ⟨hx, .inl hw⟩

/-- The slice past its EXIT, before it unwinds. -/
def Ctx.exited (c : Ctx) (words : Nat) (gone : BitVec 4) (x : Slice) : Slice :=
  { x with pc := c.next words, hdr := c.isLast words, sig := c.folded 0x007, wait := .none, xmask := x.xmask ||| gone
           amask := x.amask &&& ~~~gone }

theorem exitSlice_eq (c : Ctx) (words i : Nat) (gone : BitVec 4) (x : Slice) :
    exitSlice c words i gone x = (c.exited words gone x).settle c.g.loop i := rfl

theorem exitSlice_xmask (c : Ctx) (words i : Nat) (gone : BitVec 4) (x : Slice) :
    (exitSlice c words i gone x).xmask = x.xmask ||| gone :=
  (Slice.settle_keeps c.g.loop i (c.exited words gone x)).1

theorem exitSlice_noRegang (c : Ctx) (words i : Nat) (gone : BitVec 4) (x : Slice) :
    (exitSlice c words i gone x).wait.isRegang = false := by
  rw [exitSlice_eq]
  rcases (Slice.settle_keeps c.g.loop i (c.exited words gone x)).2 with e | e <;> rw [e] <;> rfl

/-- A slice after the EXIT of its lanes gone, in a group with no loop (R98, R122). -/
structure Ctx.Left (c : Ctx) (words : Nat) (gone : BitVec 4) (x y : Slice) : Prop where
  wait : y.wait = .none
  sig : y.sig = c.folded 0x007
  runs : gone ≠ x.amask → y.pc = c.next words ∧ y.hdr = c.isLast words ∧ y.amask = x.amask &&& ~~~gone ∧ y.lstk = x.lstk
  idles : gone = x.amask → x.lstk = [] → y.amask = 0 ∧ y.lstk = []
  starts : ∀ e rest, gone = x.amask → x.lstk = e :: rest → e.kind ≠ .sideTrip → e.phase = false →
    e.taken &&& ~~~(x.xmask ||| gone) ≠ 0 → y.pc = e.tpc ∧ y.hdr = true ∧
      y.amask = e.taken &&& ~~~(x.xmask ||| gone) ∧ y.lstk = { e with arr := 0, phase := true } :: rest

theorem exitSlice_left {c : Ctx} (words i : Nat) {gone : BitVec 4} {x : Slice} (hloop : c.g.loop = none)
    (hsub : gone &&& ~~~x.amask = 0#4) : c.Left words gone x (exitSlice c words i gone x) := by
  rw [exitSlice_eq, hloop, Slice.settle_none]
  by_cases hgone : gone = x.amask
  · have hidle : (c.exited words gone x).amask = 0 := by
      show x.amask &&& ~~~gone = 0
      rw [hgone, BitVec.and_not_self]
    rw [if_neg (not_not.2 hidle)]
    obtain ⟨-, hw, hs⟩ := unwind_keeps x.lstk (c.exited words gone x)
    refine ⟨hw, hs, fun hne => absurd hgone hne, fun _ hnil => ?_, fun e rest _ htop hk hp ht => ?_⟩
    · show (unwind _ x.lstk).amask = 0 ∧ (unwind _ x.lstk).lstk = []
      rw [hnil]
      exact ⟨hidle, rfl⟩
    · show (unwind _ x.lstk).pc = _ ∧ (unwind _ x.lstk).hdr = _ ∧ (unwind _ x.lstk).amask = _ ∧ (unwind _ x.lstk).lstk = _
      rw [htop, unwind_starts rest hidle hk hp ht]
      exact ⟨rfl, rfl, rfl, rfl⟩
  · rw [if_pos (show (c.exited words gone x).amask ≠ 0 from stays_of_ne hsub hgone)]
    exact ⟨rfl, rfl, fun _ => ⟨rfl, rfl, rfl, rfl⟩, fun h => absurd h hgone, fun _ _ h => absurd h hgone⟩

/-- The path a slice stands on says nothing of its exit. -/
theorem Ctx.Left.on_path {c : Ctx} {words : Nat} {gone : BitVec 4} {x y : Slice} (h : c.Left words gone x y) (p : Nat) :
    c.Left words gone x { y with path := p } := ⟨h.wait, h.sig, h.runs, h.idles, h.starts⟩

/-! ### The group that its path's lanes have left -/

/-- The group of an EXIT of some lanes, before it settles. -/
def Ctx.leaving (c : Ctx) (words : Nat) (lanes : List Nat) : Group :=
  (((c.committed 0x007 words).mapSlices c.slices (fun i x => exitSlice c words i (sliceLanes i lanes) x)).regroup c.slices).keepTurn c.g

theorem Ctx.leaving_eq (c : Ctx) (words : Nat) (lanes : List Nat) : c.leaving words lanes =
    { c.committed 0x007 words with
      slices := (c.leaving words lanes).slices
      ctl := { (c.committed 0x007 words).ctl with
        turns := (c.leaving words lanes).ctl.turns, curPath := (c.leaving words lanes).ctl.curPath } } := by
  have hslices : (c.leaving words lanes).slices = _ := Group.keepTurn_slices _ _
  rw [hslices]
  exact Group.keepTurn_eq _ _

theorem Ctx.sliceAt_leaving {s : State} {c : Ctx} (h : s.ctx? = some c) (words : Nat) (lanes : List Nat) :
    (∀ i ∈ c.slices, ∃ p, (c.leaving words lanes).sliceAt i =
      { exitSlice c words i (sliceLanes i lanes) (c.g.sliceAt i) with path := p }) ∧
    ∀ i, i ∉ c.slices → (c.leaving words lanes).sliceAt i = c.g.sliceAt i :=
  Ctx.regroup_spec h (c.committed 0x007 words) c.g rfl _

theorem Ctx.leaving_noRegang {s : State} {c : Ctx} (h : s.ctx? = some c) (words : Nat) (lanes : List Nat) (hr : c.g.noRegang) :
    (c.leaving words lanes).noRegang := by
  obtain ⟨hin, hout⟩ := Ctx.sliceAt_leaving h words lanes
  intro i
  by_cases hi : i ∈ c.slices
  · obtain ⟨p, e⟩ := hin i hi
    rw [e]
    exact exitSlice_noRegang c words i _ _
  · rw [hout i hi]
    exact hr i

/-! ### The trigger marker (R32) -/

theorem SQEntry.mem_queued {e x : SQEntry} {sq : List SQEntry} : x ∈ e.queued sq ↔ x = e ∨ x ∈ sq := by
  have hsuffix : ∀ p : SQEntry → Bool, (sq.reverse.takeWhile p).reverse <:+ sq := fun p => by
    have hprefix := (List.takeWhile_prefix (l := sq.reverse) p).reverse
    rwa [List.reverse_reverse] at hprefix
  unfold SQEntry.queued
  dsimp only
  generalize (fun y : SQEntry => _) = younger
  have hsq := List.suffix_iff_eq_append.1 (hsuffix younger)
  rw [List.length_reverse] at hsq
  conv_rhs => rw [← hsq]
  simp only [List.mem_append, List.mem_cons]
  tauto

/-- The state with the trigger marker of some exited lanes in the queue of a group. -/
def State.marked (s : State) (gid : Nat) (lanes : List Nat) : State :=
  if lanes.isEmpty then s else s.enqueue gid true [[(none, .trigMarker (laneMask lanes))]]

theorem State.marked_spec {s : State} {gid : Nat} {g : Group} (hs : s.group? gid = some g) (lanes : List Nat) :
    OnlyGroup s (s.marked gid lanes) gid ∧ ∃ sq, (s.marked gid lanes).group? gid = some { g with sq := sq } ∧
      (∀ e ∈ g.sq, e ∈ sq) ∧
      (lanes ≠ [] → ∃ e ∈ sq, e.committed = true ∧ e.op = .trigMarker (laneMask lanes)) := by
  unfold State.marked
  cases lanes with
  | nil => exact ⟨OnlyGroup.refl s gid, g.sq, hs, fun _ he => he, fun h => absurd rfl h⟩
  | cons l ls =>
    let m : SQEntry := ⟨s.nextUid, s.nextUid, true, none, .trigMarker (laneMask (l :: ls))⟩
    obtain ⟨hg, ho⟩ := State.onGroup_spec (s := { s with nextUid := s.nextUid + 1 }) (fun g => { g with sq := m.queued g.sq }) hs rfl
    exact ⟨(OnlyGroup.nextUid s gid _).trans ho, _, hg, fun e he => SQEntry.mem_queued.2 (.inr he),
      fun _ => ⟨m, SQEntry.mem_queued.2 (.inl rfl), rfl, rfl⟩⟩

/-! ### EXIT (R98, R122) -/

/-- With no loop, no split entry and no REGANG in wait there is nothing to settle. -/
theorem Group.settled_plain {g : Group} (hloop : g.loop = none) (hsplits : g.splits = []) (hr : g.noRegang) :
    g.settled = g.keepTurn g := by
  unfold Group.settled
  rw [Group.tryExit_none hloop, Group.tryReleases_nil hsplits, Group.tryRegangs_none hr]

/-- Settling changes no v register. -/
theorem Group.settled_v (g : Group) : g.settled.regs.v = g.regs.v := by rw [Group.settled_eq, Group.tryExit_eq]

theorem exec_exit_leaves {w : F3} {s : State} {c : Ctx} (hc : s.ctx? = some c) (hpass : c.Passes (Need.bare w.legalBare true w.guard))
    (hsec : c.sec = 0 ∨ c.g.loop = none) :
    exec (.exit w) s =
      (((s.setGroup (c.leaving w.words (c.acting w.guard))).marked c.g.gid (c.acting w.guard)).checkSig c 0x007 w.words).settlePaths c := by
  show execExit w s = _
  unfold execExit
  rw [State.issue_ctx _ hc, State.gate_passes _ _ _ _ hpass, if_neg (by rcases hsec with h | h <;> simp [h])]
  rfl

/-- The state in which an EXIT settles: its group has left, with its marker in the queue. -/
theorem exit_leaves {w : F3} {s : State} {c : Ctx} (hc : s.ctx? = some c) (hpass : c.Passes (Need.bare w.legalBare true w.guard))
    (hsec : c.sec = 0 ∨ c.g.loop = none) :
    let lanes := c.acting w.guard
    ∃ u sq, exec (.exit w) s = u.settlePaths c ∧ OnlyGroup s u c.g.gid ∧
      u.group? c.g.gid = some { c.leaving w.words lanes with sq := sq } ∧
      (∀ e ∈ c.g.sq, (if e.iter.isNone then { e with committed := true } else e) ∈ sq) ∧
      (lanes ≠ [] → ∃ e ∈ sq, e.committed = true ∧ e.op = .trigMarker (laneMask lanes)) := by
  intro lanes
  have heq := c.leaving_eq w.words lanes
  obtain ⟨hleft, ho⟩ := State.setGroup_spec (c.leaving w.words lanes) (State.ctx?_group hc) (by rw [heq]; rfl)
  obtain ⟨hom, sq, hg, hkept, hmark⟩ := State.marked_spec hleft lanes
  refine ⟨_, sq, exec_exit_leaves hc hpass hsec, (ho.trans hom).trans (State.checkSig_only _ c _ _ _),
    (State.checkSig_group? _ c 0x007 w.words c.g.gid).trans hg, fun e he => hkept _ ?_, hmark⟩
  rw [heq]
  exact List.mem_map.2 ⟨e, he, rfl⟩

/-- What an EXIT leaves when its group g has settled where nothing waited to be released. -/
theorem Ctx.leaving_settled {s : State} {c : Ctx} (hc : s.ctx? = some c) (words : Nat) (gd : Guard) (sq : List SQEntry)
    (hloop : c.g.loop = none) (hsplits : c.g.splits = []) (hr : c.g.noRegang) :
    let lanes := c.acting gd
    let g := ({ c.leaving words lanes with sq := sq } : Group).settled
    (g.sq = sq ∧ g.resv = [] ∧ g.ctl.rgnpc = c.next words ∧ g.regs = c.g.regs ∧ g.fills = c.g.fills) ∧
    (∀ i, i ∉ c.slices → g.sliceAt i = c.g.sliceAt i) ∧
    ∀ i ∈ c.slices, c.Left words (sliceLanes i lanes) (c.g.sliceAt i) (g.sliceAt i) := by
  intro lanes g
  obtain ⟨hin, hout⟩ := Ctx.sliceAt_leaving hc words lanes
  have hr' := Ctx.leaving_noRegang hc words lanes hr
  have heq := c.leaving_eq words lanes
  have hg : g = Group.keepTurn { c.leaving words lanes with sq := sq } _ :=
    Group.settled_plain (by rw [heq]; exact hloop) (by rw [heq]; exact hsplits) hr'
  have hslice : ∀ i, g.sliceAt i = (c.leaving words lanes).sliceAt i := fun i => by
    rw [hg, Group.keepTurn_sliceAt]
    rfl
  refine ⟨?_, fun i hi => (hslice i).trans (hout i hi), fun i hi => ?_⟩
  · rw [hg, Group.keepTurn_eq, heq]
    exact ⟨rfl, rfl, rfl, rfl, rfl⟩
  · obtain ⟨p, e⟩ := hin i hi
    rw [hslice, e]
    exact (exitSlice_left words i hloop (Ctx.sliceLanes_acting hc gd i)).on_path p

/-- Settles O9: the words that fall through change their group alone; the group that EXIT's lanes have left keeps its exits and its
marker however it settles. -/
theorem straightControlCompletes : Obligations.StraightControlCompletes := by
  unfold Obligations.StraightControlCompletes
  refine ⟨fun w s c hc => ⟨nop_completes hc, yield_completes hc, commit_completes hc, vote_completes hc, plop_completes hc,
    maskrd_completes hc⟩, fun w s c hc hpass hsec => ?_⟩
  obtain ⟨u, sq, hexec, hou, hu, hkept, hmark⟩ := exit_leaves hc hpass hsec
  obtain ⟨hin, hout⟩ := Ctx.sliceAt_leaving hc w.words (c.acting w.guard)
  obtain ⟨t, ht, g, hg, hk⟩ := State.settlePaths_keepsExits hu
  rw [hexec]
  refine ⟨t, ht, g, hg, fun i hi => ?_, fun i hi => ?_, fun hne => ?_, fun hr => ?_⟩
  · obtain ⟨p, e⟩ := hin i hi
    rw [hk.xmask i, show Group.sliceAt { c.leaving w.words (c.acting w.guard) with sq := sq } i = _ from e]
    exact exitSlice_xmask c w.words i _ _
  · rw [hk.xmask i, show Group.sliceAt { c.leaving w.words (c.acting w.guard) with sq := sq } i = _ from hout i hi]
  · obtain ⟨e, he, hcom, hop⟩ := hmark hne
    exact ⟨e, hk.markers e he _ hop, hcom, hop⟩
  · have hr' : Group.noRegang { c.leaving w.words (c.acting w.guard) with sq := sq } := Ctx.leaving_noRegang hc _ _ hr
    have hgid : (Group.settled { c.leaving w.words (c.acting w.guard) with sq := sq }).gid = c.g.gid :=
      (Group.settled_gid _).trans (State.group?_gid hu)
    obtain ⟨t', ht', hw, ho, hg'⟩ :=
      State.settlePaths_done hu hgid (Group.not_deadlocked_of_noRegang (Group.settled_noRegang hr'))
    obtain rfl : t = t' := by rw [ht] at ht'; injection ht'
    obtain rfl : g = _ := Option.some.inj (hg.symm.trans hg')
    refine ⟨hw, hou.trans ho, ?_, fun hloop hsplits => ?_⟩
    · rw [Group.settled_v, c.leaving_eq]
      rfl
    · obtain ⟨⟨hsq, hresv, hrgn, hregs, hfills⟩, hother, hleft⟩ := Ctx.leaving_settled hc w.words w.guard sq hloop hsplits hr
      refine ⟨fun e he => ?_, hresv, hrgn, hregs, hfills, hother, fun i hi => ?_⟩
      · rw [hsq]
        exact hkept e he
      · exact ⟨(hleft i hi).wait, (hleft i hi).sig, (hleft i hi).runs, (hleft i hi).idles, (hleft i hi).starts⟩

end Sys2Proof.Machine
end

section
namespace Sys2Proof.Machine

/-! ### An integer k-step (R156, R165, R288) -/

theorem KFmt.words_plain {k : KFmt} (h : k.blk = false) : k.words = 1 := by simp [KFmt.words, h]

theorem zeroPoint_plain {k : KFmt} (h : k.blk = false) (record : Nat) : zeroPoint k record = 0 := by
  simp [zeroPoint, KFmt.blockInt, h]

/-- Without scale records the partial sum is the sum of the products of the codes. -/
theorem partialInt_plain {k : KFmt} (h : k.blk = false) {a b : KRow} (ha : a.codes.length = k.depth) (hb : b.codes.length = k.depth) :
    partialInt k a b 0 = ((a.codes.zip b.codes).map
      (fun x => readInt k.ty.signed k.ty.width x.1 * readInt k.ty.signed k.ty.width x.2)).sum := by
  unfold partialInt
  simp only [KFmt.words_plain h, zeroPoint_plain h, Nat.div_one, Nat.mul_zero, List.drop_zero, sub_zero]
  rw [List.take_of_length_le ha.le, List.take_of_length_le hb.le, List.sum_eq_foldl, List.foldl_map]

/-- An accumulator taken modulo 2^32 after an integer is added to it is the 32-bit sum. -/
theorem ofNat_wrapBits_add (acc : Word32) (x : Int) :
    BitVec.ofNat 32 (wrapBits 32 ((acc.toNat : Int) + x)) = acc + BitVec.ofInt 32 x := by
  have h : BitVec.ofNat 32 (wrapBits 32 ((acc.toNat : Int) + x)) = BitVec.ofInt 32 ((acc.toNat : Int) + x) := by
    apply BitVec.eq_of_toNat_eq
    rw [BitVec.toNat_ofNat, BitVec.toNat_ofInt]
    unfold wrapBits
    omega
  rw [h, BitVec.ofInt_add, BitVec.ofInt_natCast, BitVec.ofNat_toNat, BitVec.setWidth_eq]

/-- Settles O35: one part, no zero points, and a sum that is taken modulo 2^32 once. -/
theorem integerKStepIsExact : Obligations.IntegerKStepIsExact := by
  unfold Obligations.IntegerKStepIsExact
  intro k a b acc hblk hint _ ha hb q
  have hstep : kElem false k a b acc.toNat = wrapBits 32 ((acc.toNat : Int) + partialInt k a b 0) := by
    simp [kElem, KFmt.words_plain hblk, hint]
  rw [hstep, ofNat_wrapBits_add, partialInt_plain hblk ha hb]

end Sys2Proof.Machine
end

section
namespace Sys2Proof.Machine

/-! ### Tiles as maps (R156, R276) -/

theorem SMap.get_append_left {α : Type} (d : α) (m n : SMap α) {k : Nat} (h : ∀ e ∈ n, e.1 ≠ k) :
    SMap.get d (m ++ n) k = SMap.get d m k := by
  induction m with
  | nil =>
    induction n with
    | nil => rfl
    | cons e n ih =>
      obtain ⟨he, hn⟩ := List.forall_mem_cons.1 h
      exact (if_neg (Ne.symm he)).trans (ih hn)
  | cons e m ih => simp only [List.cons_append, SMap.get, ih]

theorem SMap.get_append_right {α : Type} (d : α) (m n : SMap α) {k : Nat} (h : ∀ e ∈ m, e.1 ≠ k) :
    SMap.get d (m ++ n) k = SMap.get d n k := by
  induction m with
  | nil => rfl
  | cons e m ih =>
    obtain ⟨he, hm⟩ := List.forall_mem_cons.1 h
    exact (if_neg (Ne.symm he)).trans (ih hm)

/-- A map whose keys are renamed, at a key that no other key takes. -/
theorem SMap.get_rename {α : Type} (d : α) (f : Nat → Nat) (m : SMap α) {k : Nat} (h : ∀ e ∈ m, f e.1 = f k → e.1 = k) :
    SMap.get d (m.map (fun e => (f e.1, e.2))) (f k) = SMap.get d m k := by
  induction m with
  | nil => rfl
  | cons e m ih =>
    obtain ⟨he, hm⟩ := List.forall_mem_cons.1 h
    by_cases hk : k = e.1
    · simp [SMap.get, hk]
    · have hf : f k ≠ f e.1 := fun hf => hk (he hf.symm).symm
      simp only [List.map_cons, SMap.get, if_neg hk, if_neg hf, ih hm]

/-- A map that lists the values of a function at some keys, but for those that an unlisted key stands for. -/
theorem SMap.get_tabulate {α : Type} [DecidableEq α] (d : α) (f : Nat → α) {l : List Nat} {k : Nat} (h : k ∈ l) :
    SMap.get d ((l.map (fun k => (k, f k))).filter (fun e => e.2 != d)) k = f k := by
  have key : ∀ l : List Nat, SMap.get d ((l.map (fun k => (k, f k))).filter (fun e => e.2 != d)) k = if k ∈ l then f k else d := by
    intro l
    induction l with
    | nil => rfl
    | cons x l ih =>
      by_cases hx : f x = d
      · by_cases hk : k = x <;> simp_all
      · by_cases hk : k = x <;> simp_all [SMap.get]
  rw [key, if_pos h]

theorem matAt_matOf (f : Nat → PWord) {e : Nat} (he : e < 1024) : matAt (matOf f) e = f e :=
  SMap.get_tabulate PWord.zero f (List.mem_range.2 he)

theorem matOf_lt {f : Nat → PWord} {x : Nat × PWord} (h : x ∈ matOf f) : x.1 < 1024 := by
  obtain ⟨k, hk, rfl⟩ := List.mem_map.1 (List.mem_filter.1 h).1
  exact List.mem_range.1 hk

theorem Cohort.matAt_tile (co : Cohort) (t : Nat) {e : Nat} (he : e < 1024) : matAt (co.tile t) e = co.elem t e := by
  have hk : (1024 * t + e) % 1024 = e := by omega
  have hname := SMap.get_rename PWord.zero (· % 1024) (co.tiles.filter (fun x => x.1 / 1024 == t)) (k := 1024 * t + e)
    (fun x hx h => by
      have := (List.mem_filter.1 hx).2
      simp only [beq_iff_eq] at this
      omega)
  have htile := SMap.get_filter PWord.zero (fun k => k / 1024 == t) co.tiles (1024 * t + e)
  rw [if_pos (by simp only [beq_iff_eq]; omega)] at htile
  unfold matAt Cohort.tile Cohort.elem
  rw [← htile, ← hname, hk]

/-- A tile replaced: its elements are the new ones, and every other tile keeps its own. -/
theorem Cohort.elem_setTile (co : Cohort) (t : Nat) {m : Mat} (hm : ∀ x ∈ m, x.1 < 1024) (j : Nat) {e : Nat} (he : e < 1024) :
    (co.setTile t m).elem j e = if j = t then matAt m e else co.elem j e := by
  have hlow : ∀ x ∈ co.tiles.filter (fun x => decide (x.1 / 1024 < t)), x.1 / 1024 < t := fun x hx => by
    simpa using (List.mem_filter.1 hx).2
  have hmid : ∀ x ∈ m.map (fun x => (x.1 + 1024 * t, x.2)), x.1 / 1024 = t := fun x hx => by
    obtain ⟨y, hy, rfl⟩ := List.mem_map.1 hx
    have := hm y hy
    show (y.1 + 1024 * t) / 1024 = t
    omega
  have hhigh : ∀ x ∈ co.tiles.filter (fun x => decide (t < x.1 / 1024)), t < x.1 / 1024 := fun x hx => by
    simpa using (List.mem_filter.1 hx).2
  show SMap.get PWord.zero (_ ++ _ ++ _) (1024 * j + e) = _
  split
  · next hj =>
    subst hj
    rw [SMap.get_append_left _ _ _ (fun x hx => by have := hhigh x hx; omega),
      SMap.get_append_right _ _ _ (fun x hx => by have := hlow x hx; omega), Nat.add_comm (1024 * j)]
    exact SMap.get_rename PWord.zero (· + 1024 * j) m (fun x _ h => Nat.add_right_cancel h)
  · next hj =>
    rcases Nat.lt_or_gt_of_ne hj with hlt | hgt
    · rw [SMap.get_append_left _ _ _ (fun x hx => by have := hhigh x hx; omega),
        SMap.get_append_left _ _ _ (fun x hx => by have := hmid x hx; omega),
        SMap.get_filter PWord.zero (fun k => decide (k / 1024 < t)), if_pos (by simp only [decide_eq_true_eq]; omega)]
      rfl
    · rw [List.append_assoc, SMap.get_append_right _ _ _ (fun x hx => by have := hlow x hx; omega),
        SMap.get_append_right _ _ _ (fun x hx => by have := hmid x hx; omega),
        SMap.get_filter PWord.zero (fun k => decide (t < k / 1024)), if_pos (by simp only [decide_eq_true_eq]; omega)]
      rfl

/-! ### A k-step, element by element (R156, R288, R289) -/

/-- What a k-step leaves in element e of a tile whose elements were `old`. -/
def kStepElem (scaled : Bool) (k : KFmt) (a b : StageSlot) (old : Nat → PWord) (e : Nat) : PWord :=
  let x := a.krow k (e / 32)
  let y := b.krow k (e % 32)
  ⟨BitVec.ofNat 32 (kElem scaled k x y (old e).val.toNat), mergePois (old e).pois (mergePois (x.tag scaled k) (y.tag scaled k))⟩

theorem matAt_kStep (scaled : Bool) (k : KFmt) (a b : StageSlot) (acc : Mat) {e : Nat} (he : e < 1024) :
    matAt (kStep scaled k a b acc) e = kStepElem scaled k a b (matAt acc) e := by
  have hrow : ∀ (x : StageSlot) {r : Nat}, r < 32 → ((List.range 32).map (x.krow k)).getD r ⟨[], none, []⟩ = x.krow k r :=
    fun x r hr => by simp [List.getD_eq_getElem?_getD, hr]
  refine (matAt_matOf _ he).trans ?_
  dsimp only
  rw [hrow a (by omega), hrow b (by omega)]
  rfl

theorem kStep_lt {scaled : Bool} {k : KFmt} {a b : StageSlot} {acc : Mat} : ∀ x ∈ kStep scaled k a b acc, x.1 < 1024 := by
  intro x h
  unfold kStep at h
  exact matOf_lt h

/-- The elements of a tile's cohort after a k-step into the tile. -/
theorem Cohort.elem_kStep (co : Cohort) (scaled : Bool) (k : KFmt) (a b : StageSlot) (t j : Nat) {e : Nat} (he : e < 1024) :
    (co.setTile t (kStep scaled k a b (co.tile t))).elem j e =
      if j = t then kStepElem scaled k a b (co.elem t) e else co.elem j e := by
  rw [Cohort.elem_setTile co t kStep_lt j he, matAt_kStep scaled k a b _ he]
  unfold kStepElem
  rw [Cohort.matAt_tile co t he]

end Sys2Proof.Machine
end

section
namespace Sys2Proof.Machine

/-! ### What a stream word leaves of its cohort -/

theorem Core.lineage_setLineage (k : Core) (l j : Nat) (x : Lineage) :
    (k.setLineage l x).lineage j = if j = l then x else k.lineage j := SMap.get_put _ _ _ _ _

theorem State.core_setCore (s : State) (n : Nat) (k : Core) : (s.setCore n k).core n = k := SMap.get_put_self _ _ _ _

theorem StreamFrame.setCohort (s : State) {co : Cohort} {uid : Nat} (h : co.uid = uid) : StreamFrame s (s.setCohort co) uid := by
  refine ⟨rfl, fun u hu => ?_, fun _ => rfl⟩
  rw [State.cohort?_setCohort, if_neg (by rw [h]; exact hu)]

/-- The cohort of a stream changed: the change shows there and nowhere else. -/
theorem StreamFrame.onCohort {s : State} {uid : Nat} {co : Cohort} (f : Cohort → Cohort) (h : s.cohort? uid = some co)
    (hf : (f co).uid = co.uid) : StreamFrame s (s.onCohort uid f) uid := by
  have e : s.onCohort uid f = s.setCohort (f co) := by simp only [State.onCohort, h]
  rw [e]
  exact StreamFrame.setCohort s (hf.trans (State.cohort?_uid h))

theorem State.noteTask_cohorts (s : State) (part tid : Nat) (x : Chkiv) : (s.noteTask part tid x).cohorts = s.cohorts := by
  unfold State.noteTask State.onPart
  split <;> rfl

theorem StreamFrame.noteExited (s : State) (uid part tid : Nat) (x : Chkiv) (u : Nat) : StreamFrame s (s.noteExited uid part tid x) u := by
  have h := State.noteExited_only s uid part tid x 0
  refine ⟨State.noteExited_groups s uid part tid x, fun v _ => State.cohort?_congr ?_ v, h.2.2.2.2⟩
  unfold State.noteExited
  split
  · split
    · exact State.noteTask_cohorts s part tid x
    · rfl
  · rfl

theorem OnlyGroup.cores {s t : State} {gid : Nat} (h : OnlyGroup s t gid) : t.cores = s.cores := by rw [h.1]

/-- A note for a cohort's run shows at most in the CHKIV of the cohort and of its task (R396). -/
theorem State.noteCohort_spec {s : State} {uid : Nat} {co : Cohort} (h : s.cohort? uid = some co) (part tid : Nat) (x : Chkiv) :
    (∃ k, (s.noteCohort uid part tid x).cohort? uid = some { co with chkiv := k }) ∧
    StreamFrame s (s.noteCohort uid part tid x) uid := by
  unfold State.noteCohort
  rw [h]
  dsimp only
  split
  · have hf := StreamFrame.noteExited s uid part tid x (uid + 1)
    exact ⟨⟨co.chkiv, (hf.cohorts uid (by omega)).trans h⟩, StreamFrame.noteExited s uid part tid x uid⟩
  · have hu : co.uid = uid := State.cohort?_uid h
    refine ⟨⟨co.chkiv.merge x, ?_⟩, StreamFrame.setCohort s hu⟩
    rw [State.cohort?_setCohort, if_pos hu.symm, h]
    rfl

/-- The word notes the poison it read and the stream goes on at the next: of its cohort, CHKIV and the place of the sequencer
change. -/
def StreamDone (s t : State) (c : SCtx) (co : Cohort) : Prop :=
  t.waited = false ∧ StreamFrame s t c.uid ∧ t.cores = s.cores ∧
  ∃ k, t.cohort? c.uid = some { co with seq := { co.seq with pc := c.pc + 8 }, chkiv := k }

theorem State.seqNote_seqNext {s : State} {c : SCtx} {co : Cohort} (h : s.cohort? c.uid = some co) (x : Option Tag) :
    Answers ((s.seqNote c x).seqNext c) (fun t => StreamDone s t c co) := by
  have hnote : (∃ k, (s.seqNote c x).cohort? c.uid = some { co with chkiv := k }) ∧ StreamFrame s (s.seqNote c x) c.uid ∧
      (s.seqNote c x).cores = s.cores := by
    unfold State.seqNote
    split
    · obtain ⟨hk, hf⟩ := State.noteCohort_spec h c.co.part c.co.tid (Chkiv.ofPois x)
      exact ⟨hk, hf, (State.noteCohort_only s c.uid c.co.part c.co.tid (Chkiv.ofPois x) 0).cores⟩
    · exact ⟨⟨co.chkiv, h⟩, StreamFrame.refl s _, rfl⟩
  obtain ⟨⟨k, hk⟩, hf, hcores⟩ := hnote
  obtain ⟨hco, hseq⟩ := State.onSeq_spec (fun q => { q with pc := c.pc + 8 }) hk
  obtain ⟨hgroups, hcohorts, hmem⟩ := hf.trans hseq
  refine ⟨_, rfl, rfl, ⟨hgroups, hcohorts, hmem⟩, ?_, k, hco⟩
  refine Eq.trans ?_ hcores
  show (State.onSeq _ _ _).cores = _
  unfold State.onSeq
  rw [State.onCohort_frame]

/-- A word that needs the engine and has it runs its meaning (R279, R291, R293). -/
theorem State.engineWord_runs {s : State} {c : SCtx} {legal : Bool} {t : Touch} (k : Core → Result) (hl : legal = true)
    (he : c.hasEngine s t) : s.engineWord c legal t k = k (s.core c.co.core) := by
  obtain ⟨htiles, hslots, hblocks, hlmm, hengine⟩ := he
  have h1 : (t.tiles.any fun x => !c.tileOk x) = false := List.any_eq_false.2 fun x hx => by simp [htiles x hx]
  have h2 : ((t.reads ++ t.writes).any fun x => !c.slotOk x) = false := List.any_eq_false.2 fun x hx => by simp [hslots x hx]
  unfold State.engineWord
  simp [hl, h1, h2, hblocks, hlmm, hengine]

/-! ### Derived words in their lineages (R296) -/

/-- A derived word recorded in one lineage of a core. -/
def Core.record (d : Derived) (k : Core) (l : Nat) : Core :=
  k.setLineage l { k.lineage l with derived := (k.lineage l).derived ++ [d] }

theorem Core.derived_record (d : Derived) (k : Core) (l j : Nat) :
    ((k.record d l).lineage j).derived = (k.lineage j).derived ++ if j = l then [d] else [] := by
  unfold Core.record
  rw [Core.lineage_setLineage]
  split
  · next h => rw [h]
  · rw [List.append_nil]

theorem Core.derived_foldl_record (d : Derived) (ls : List Nat) (h : ls.Nodup) (k : Core) (j : Nat) :
    ((ls.foldl (Core.record d) k).lineage j).derived = (k.lineage j).derived ++ if j ∈ ls then [d] else [] := by
  induction ls generalizing k with
  | nil => simp
  | cons l ls ih =>
    obtain ⟨hl, hls⟩ := List.nodup_cons.1 h
    rw [List.foldl_cons, ih hls, Core.derived_record]
    by_cases hj : j = l
    · subst hj; simp [hl]
    · simp [hj]

theorem mem_maskList {m : BitVec 16} {l : Nat} : l ∈ maskList m ↔ l < 16 ∧ bit m l = true := by
  simp [maskList]

theorem maskList_nodup (m : BitVec 16) : (maskList m).Nodup := List.nodup_range.filter _

/-- A derived word stands in each lineage of its mask after what the lineage held. -/
theorem State.derived_derive (s : State) (c : SCtx) (m a b : BitVec 16) (op : DerivedOp) (w : FT) (kept : StageSlot) (rsalt : Word32)
    {l : Nat} (hl : l < 16) :
    (((s.derive c m a b op w kept rsalt).core c.co.core).lineage l).derived.map (fun d => (d.pc, d.word)) =
      ((s.core c.co.core).lineage l).derived.map (fun d => (d.pc, d.word)) ++ if bit m l then [(c.pc, w)] else [] := by
  have h : (s.derive c m a b op w kept rsalt).core c.co.core = (maskList m).foldl (Core.record
      { op := op, word := w, pc := c.pc, aDerived := a != 0, bDerived := b != 0, kept := kept, rsalt := rsalt }) (s.core c.co.core) :=
    State.core_setCore _ _ _
  rw [h, Core.derived_foldl_record _ _ (maskList_nodup m), List.map_append]
  by_cases hb : bit m l = true
  · rw [if_pos (mem_maskList.2 ⟨hl, hb⟩), if_pos hb]; rfl
  · rw [if_neg fun h => hb (mem_maskList.1 h).2, if_neg hb]; rfl

end Sys2Proof.Machine
end

section
namespace Sys2Proof.Machine

/-! ### K-steps into a tile (R295, R310) -/

/-- The cohort whose slot n a derived word has read: a slot that holds no lineage is pinned by the word's (R296). -/
def Cohort.pinned (m all : BitVec 16) (co : Cohort) (n : Nat) : Cohort :=
  let x := co.slotOf n
  if m != 0 && x.mask == 0 then co.setSlot n { x with pins := x.pins ||| all } else co

theorem Cohort.pinned_eq (m all : BitVec 16) (co : Cohort) (n : Nat) : co.pinned m all n = { co with stage := (co.pinned m all n).stage } := by
  unfold Cohort.pinned
  dsimp only
  split <;> rfl

theorem Cohort.pinned_zero (all : BitVec 16) (co : Cohort) (n : Nat) : co.pinned 0 all n = co := by simp [Cohort.pinned]

/-- The cohort after a k-step of mask m and depth d has left a tile as t. -/
def Cohort.stepped (co : Cohort) (w : FT) (m : BitVec 16) (d : Nat) (t : Mat) : Cohort :=
  let tile := w.tile.toNat
  let all := co.maskOf tile ||| m
  (((co.setTile tile t).setMask tile all d).pinned m all w.op1.toNat).pinned m all w.op2.toNat

theorem Cohort.stepped_eq (co : Cohort) (w : FT) (m : BitVec 16) (d : Nat) (t : Mat) : co.stepped w m d t =
    { (co.setTile w.tile.toNat t).setMask w.tile.toNat (co.maskOf w.tile.toNat ||| m) d with stage := (co.stepped w m d t).stage } := by
  unfold Cohort.stepped
  dsimp only
  rw [Cohort.pinned_eq m _ (Cohort.pinned _ _ _ _), Cohort.pinned_eq m _ (Cohort.setMask _ _ _ _)]

theorem Cohort.stepped_zero (co : Cohort) (w : FT) (d : Nat) (t : Mat) : co.stepped w 0 d t =
    (co.setTile w.tile.toNat t).setMask w.tile.toNat (co.maskOf w.tile.toNat) d := by
  unfold Cohort.stepped
  dsimp only
  rw [Cohort.pinned_zero, Cohort.pinned_zero, show co.maskOf w.tile.toNat ||| 0 = co.maskOf w.tile.toNat from BitVec.or_zero]

theorem Cohort.elem_stepped (co : Cohort) (w : FT) (m : BitVec 16) (d : Nat) (t : Mat) (j e : Nat) :
    (co.stepped w m d t).elem j e = (co.setTile w.tile.toNat t).elem j e := by
  rw [Cohort.stepped_eq]
  rfl

theorem Cohort.maskOf_stepped (co : Cohort) (w : FT) (m : BitVec 16) (d : Nat) (t : Mat) :
    (co.stepped w m d t).maskOf w.tile.toNat = co.maskOf w.tile.toNat ||| m := by
  rw [Cohort.stepped_eq]
  exact SMap.get_put_self _ _ _ _

/-- The depth that a k-step gives its tile (R315). -/
def Cohort.stepDepth (co : Cohort) (tile : Nat) (a b : StageSlot) : Nat :=
  if a.mask ||| b.mask = 0 then co.depthOf tile
  else newDepth (co.depthOf tile) ((if a.mask != 0 then [a.depth] else []) ++ (if b.mask != 0 then [b.depth] else []))

theorem Cohort.stepDepth_derived (co : Cohort) (tile : Nat) {a b : StageSlot} (hm : a.mask ||| b.mask ≠ 0) (h1 : a.mask = 0 ∨ b.mask = 0) :
    co.stepDepth tile a b = max (co.depthOf tile) (1 + if a.mask ≠ 0 then a.depth else b.depth) := by
  unfold Cohort.stepDepth
  rw [if_neg hm]
  by_cases ha : a.mask = 0
  · have hb : b.mask ≠ 0 := fun hb => hm (by rw [ha, hb]; rfl)
    rw [ha, if_neg (by decide), if_pos (bne_iff_ne.2 hb), if_neg (not_not_intro rfl), Nat.add_comm]
    rfl
  · have hb : b.mask = 0 := h1.resolve_left ha
    rw [hb, if_pos (bne_iff_ne.2 ha), if_neg (by decide), if_pos ha, Nat.add_comm]
    rfl

/-- The state in which the cohort is stepped and a derived word recorded, before the word's notes. -/
def State.kStepped (s : State) (c : SCtx) (w : FT) (scaled : Bool) (a b : StageSlot) : State :=
  let m := a.mask ||| b.mask
  let t := s.onCohort c.uid (·.stepped w m (c.co.stepDepth w.tile.toNat a b) (kStep scaled (kfmtOf w) a b (c.co.tile w.tile.toNat)))
  if m = 0 then t
  else t.derive c (c.co.maskOf w.tile.toNat ||| m) a.mask b.mask (if scaled then .msca else .mmul) w (if a.mask = 0 then a else b) 0

section
variable {s : State} {c : SCtx} (w : FT) (scaled : Bool) {a b : StageSlot}

/-- A k-step into a tile that the depth of its operands does not stop (R315). -/
theorem State.plainStep_eq (hd : a.mask ||| b.mask ≠ 0 → c.co.stepDepth w.tile.toNat a b ≤ 4) : s.plainStep c w scaled a b =
    ((s.kStepped c w scaled a b).seqNote c (matPois (kStep scaled (kfmtOf w) a b (c.co.tile w.tile.toNat)))).seqNext c := by
  have hstop : ((a.mask ||| b.mask != 0) && decide (4 < c.co.stepDepth w.tile.toNat a b)) = false := by
    by_cases hm : a.mask ||| b.mask = 0
    · rw [hm]; rfl
    · have := hd hm
      rw [decide_eq_false (by omega), Bool.and_false]
  exact if_neg (by rw [Bool.not_eq_true]; exact hstop)

theorem State.kStepped_spec (hs : s.stream? = some c) :
    (s.kStepped c w scaled a b).cohort? c.uid = some (c.co.stepped w (a.mask ||| b.mask) (c.co.stepDepth w.tile.toNat a b)
      (kStep scaled (kfmtOf w) a b (c.co.tile w.tile.toNat))) ∧
    StreamFrame s (s.kStepped c w scaled a b) c.uid := by
  have hco := State.stream?_cohort hs
  have huid : (c.co.stepped w (a.mask ||| b.mask) (c.co.stepDepth w.tile.toNat a b)
      (kStep scaled (kfmtOf w) a b (c.co.tile w.tile.toNat))).uid = c.co.uid := by rw [Cohort.stepped_eq]; rfl
  have h1 := State.cohort?_onCohort (·.stepped w (a.mask ||| b.mask) (c.co.stepDepth w.tile.toNat a b)
    (kStep scaled (kfmtOf w) a b (c.co.tile w.tile.toNat))) hco huid
  have h2 := StreamFrame.onCohort (·.stepped w (a.mask ||| b.mask) (c.co.stepDepth w.tile.toNat a b)
    (kStep scaled (kfmtOf w) a b (c.co.tile w.tile.toNat))) hco huid
  unfold State.kStepped
  dsimp only
  split
  · exact ⟨h1, h2⟩
  · exact ⟨h1, h2.trans (StreamFrame.onCore _ _ _ _)⟩

/-- A derived k-step is recorded in every lineage of its tile. -/
theorem State.derived_kStepped (hm : a.mask ||| b.mask ≠ 0) {l : Nat} (hl : l < 16) :
    (((s.kStepped c w scaled a b).core c.co.core).lineage l).derived.map (fun d => (d.pc, d.word)) =
      ((s.core c.co.core).lineage l).derived.map (fun d => (d.pc, d.word)) ++
        if bit (c.co.maskOf w.tile.toNat ||| (a.mask ||| b.mask)) l then [(c.pc, w)] else [] := by
  unfold State.kStepped
  dsimp only
  rw [if_neg hm, State.derived_derive _ _ _ _ _ _ _ _ _ hl, State.onCohort_frame]
  rfl

end

/-- A k-step goes into its tile, or to the tail of the lineage open on it. -/
theorem State.kWord_runs {s : State} {c : SCtx} {w : FT} (scaled : Bool) (hs : s.stream? = some c) (hl : w.legalMmul = true)
    (he : c.hasEngine s ⟨[w.tile.toNat], [w.op1.toNat, w.op2.toNat], []⟩) 
    (ha : (c.co.slotOf w.op1.toNat).badRecord (kfmtOf w) = false) (hb : (c.co.slotOf w.op2.toNat).badRecord (kfmtOf w) = false)
    (hone : (c.co.slotOf w.op1.toNat).mask = 0 ∨ (c.co.slotOf w.op2.toNat).mask = 0) :
    let a := c.co.slotOf w.op1.toNat
    let b := c.co.slotOf w.op2.toNat
    ((s.core c.co.core).openOn c.uid w.tile.toNat = none → bit w.ops 28 = false → s.kWord w scaled = s.plainStep c w scaled a b) ∧
    (∀ l, (s.core c.co.core).openOn c.uid w.tile.toNat = some l → a.mask ||| b.mask = 0 → (bit w.ops 28 = true → w.lin.toNat = l) →
      s.kWord w scaled = s.tailStep c w scaled (s.core c.co.core) l a b) := by
  intro a b
  have hrun : ∀ k, s.engineWord c w.legalMmul ⟨[w.tile.toNat], [w.op1.toNat, w.op2.toNat], []⟩ k = k (s.core c.co.core) :=
    fun k => State.engineWord_runs k hl he
  have hboth : (a.mask != 0 && b.mask != 0) = false := by
    rcases hone with h | h
    · rw [show a.mask = 0 from h]; rfl
    · rw [show b.mask = 0 from h, bne_self_eq_false, Bool.and_false]
  unfold State.kWord
  rw [State.stream_ctx _ hs, hrun]
  dsimp only
  rw [ha, hb, Bool.or_false, if_neg Bool.false_ne_true, if_neg (by rw [Bool.not_eq_true]; exact hboth)]
  refine ⟨fun hsrc hends => ?_, fun l hsrc hm hends => ?_⟩
  · rw [hsrc, hends]
    rfl
  · rw [hsrc, if_neg]
    · exact if_neg (by simpa using hm)
    · by_cases h : bit w.ops 28 = true
      · simp [hends h]
      · simp [h]

end Sys2Proof.Machine
end

section
namespace Sys2Proof.Machine

/-! ### K-steps into the tail of a lineage (R295, R310) -/

/-- The lineage whose tail a k-step has left as t; the step that ends it makes the tail a correction. -/
def Lineage.tailed (x : Lineage) (t : Mat) (int ends : Bool) (seq : Nat) : Lineage :=
  if ends then { x with tailInt := int, corrections := x.corrections ++ [t], tail := [], state := .ending, endSeq := seq }
  else { x with tail := t, tailInt := int }

/-- The place that the next END takes among the core's. -/
def Core.nextEnd (k : Core) : Nat := ((List.range 16).map (fun i => (k.lineage i).endSeq)).foldl max 0 + 1

/-- A sequencer that has ended a lineage at an address. -/
def Sequencer.withEnd (pc : Addr) (q : Sequencer) : Sequencer :=
  { q with endedAt := if q.endedAt.contains pc then q.endedAt else q.endedAt ++ [pc] }

/-- The state in which a k-step stands in the tail of lineage l, before the word's notes. -/
def State.tailed (s : State) (c : SCtx) (w : FT) (scaled : Bool) (l : Nat) (a b : StageSlot) : State :=
  let k := s.core c.co.core
  let x := k.lineage l
  let t := s.setCore c.co.core (k.setLineage l (x.tailed (kStep scaled (kfmtOf w) a b x.tail)
    (!scaled && !(kfmtOf w).ty.isFloat) (bit w.ops 28) k.nextEnd))
  if bit w.ops 28 then t.onSeq c.uid (·.withEnd c.pc) else t

theorem State.core_onSeq (s : State) (uid : Nat) (f : Sequencer → Sequencer) (n : Nat) : (s.onSeq uid f).core n = s.core n := by
  unfold State.onSeq
  rw [State.onCohort_frame]
  rfl

section
variable {s : State} {c : SCtx} (w : FT) (scaled : Bool) (l : Nat) (a b : StageSlot)

theorem State.tailStep_eq : s.tailStep c w scaled (s.core c.co.core) l a b = ((s.tailed c w scaled l a b).seqNote c
    (matPois (kStep scaled (kfmtOf w) a b ((s.core c.co.core).lineage l).tail))).seqNext c := by
  unfold State.tailStep State.tailed Lineage.tailed
  cases bit w.ops 28 <;> rfl

theorem State.lineage_tailed : ∃ int seq, ((s.tailed c w scaled l a b).core c.co.core).lineage l =
    ((s.core c.co.core).lineage l).tailed (kStep scaled (kfmtOf w) a b ((s.core c.co.core).lineage l).tail) int (bit w.ops 28) seq := by
  refine ⟨!scaled && !(kfmtOf w).ty.isFloat, (s.core c.co.core).nextEnd, ?_⟩
  unfold State.tailed
  dsimp only
  split
  · rw [State.core_onSeq, State.core_setCore, Core.lineage_setLineage, if_pos rfl]
  · rw [State.core_setCore, Core.lineage_setLineage, if_pos rfl]

theorem State.cohort?_tailed (hs : s.stream? = some c) : ∃ q, (s.tailed c w scaled l a b).cohort? c.uid = some { c.co with seq := q } := by
  have hco : ∀ k, (s.setCore c.co.core k).cohort? c.uid = some c.co := fun _ => State.stream?_cohort hs
  unfold State.tailed
  dsimp only
  split
  · exact ⟨_, (State.onSeq_spec (·.withEnd c.pc) (hco _)).1⟩
  · exact ⟨c.co.seq, hco _⟩

end

/-- What a k-step into a tile leaves: the elements of the tile with their partial sums, the cohort stepped, and the cores as
the record of a derived word has them. -/
theorem State.plainStep_done {s : State} {c : SCtx} (w : FT) (scaled : Bool) {a b : StageSlot} (hs : s.stream? = some c)
    (hd : a.mask ||| b.mask ≠ 0 → c.co.stepDepth w.tile.toNat a b ≤ 4) :
    Answers (s.plainStep c w scaled a b) (fun t => t.waited = false ∧ StreamFrame s t c.uid ∧
      TileHolds t c w.tile.toNat (kStepElem scaled (kfmtOf w) a b (c.co.elem w.tile.toNat)) ∧
      t.cores = (s.kStepped c w scaled a b).cores ∧ ∃ d tl k, let co := c.co.stepped w (a.mask ||| b.mask) d tl
        t.cohort? c.uid = some { co with seq := { co.seq with pc := c.pc + 8 }, chkiv := k }) := by
  obtain ⟨hco, hf⟩ := State.kStepped_spec w scaled (a := a) (b := b) hs
  obtain ⟨t, ht, hw, hf', hcores, k, hk⟩ := State.seqNote_seqNext hco (matPois (kStep scaled (kfmtOf w) a b (c.co.tile w.tile.toNat)))
  refine ⟨t, (State.plainStep_eq w scaled hd).trans ht, hw, hf.trans hf', ⟨_, hk, fun j e he => ?_⟩, hcores, _, _, k, hk⟩
  exact (Cohort.elem_stepped c.co w _ _ _ j e).trans (c.co.elem_kStep scaled (kfmtOf w) a b w.tile.toNat j he)

/-- Settles O34: an element of the tile or the tail that the step goes to has the partial sums added, and the word is recorded
where it is derived. -/
theorem kStepsAccumulate : Obligations.KStepsAccumulate := by
  unfold Obligations.KStepsAccumulate
  intro w s c scaled hs hl he i k tile a b m core ends step ha hb
  have hexec : exec i s = s.kWord w scaled := by cases scaled <;> rfl
  rw [hexec]
  refine ⟨fun hopen hends hm => ?_, fun hopen hends hm hone hd => ?_, fun l hopen hm hends => ?_⟩
  · obtain ⟨t, ht, hw, ⟨hgroups, hcohorts, hmem⟩, htile, -, d, tl, x, hx⟩ :=
      State.plainStep_done w scaled (a := a) (b := b) hs (fun h => absurd hm h)
    have hm0 : a.mask ||| b.mask = 0 := hm
    rw [hm0, Cohort.stepped_zero] at hx
    refine ⟨t, ((State.kWord_runs scaled hs hl he ha hb (.inl (BitVec.or_eq_zero_iff.1 hm).1)).1 hopen hends).trans ht,
      ⟨hw, hgroups, hcohorts, hmem, _, hx, fun i => ?_, rfl⟩, htile⟩
    exact (SMap.get_put _ _ _ _ _).trans (ite_eq_right_iff.2 fun h => by rw [h]; rfl)
  · obtain ⟨t, ht, hw, -, htile, hcores, d, tl, x, hx⟩ := State.plainStep_done w scaled (a := a) (b := b) hs
      (fun hm => by rw [Cohort.stepDepth_derived c.co w.tile.toNat hm hone]; exact hd)
    refine ⟨t, ((State.kWord_runs scaled hs hl he ha hb hone).1 hopen hends).trans ht, hw, htile,
      ⟨_, hx, rfl, Cohort.maskOf_stepped c.co w _ d tl⟩, fun l hl => ?_⟩
    rw [State.core, hcores]
    exact State.derived_kStepped w scaled hm hl
  · obtain ⟨q, hq⟩ := State.cohort?_tailed w scaled l a b hs
    obtain ⟨t, ht, hw, -, hcores, x, hx⟩ := State.seqNote_seqNext hq (matPois (kStep scaled k a b (core.lineage l).tail))
    obtain ⟨int, seq, hy⟩ := s.lineage_tailed (c := c) w scaled l a b
    have htail : ∀ e < 1024, matAt (kStep scaled k a b (core.lineage l).tail) e = step (matAt (core.lineage l).tail) e :=
      fun e he => matAt_kStep scaled k a b _ he
    have hl' : (t.core c.co.core).lineage l = (core.lineage l).tailed (kStep scaled k a b (core.lineage l).tail) int ends seq := by
      rw [State.core, hcores]
      exact hy
    refine ⟨t, ((State.kWord_runs scaled hs hl he ha hb (.inl (BitVec.or_eq_zero_iff.1 hm).1)).2 l hopen hm hends).trans
      ((State.tailStep_eq w scaled l a b).trans ht), hw, ⟨_, hx, rfl, rfl⟩, ?_⟩
    dsimp only
    rw [hl']
    unfold Lineage.tailed
    split
    · exact ⟨rfl, rfl, _, rfl, htail⟩
    · refine ⟨rfl, rfl, ?_⟩
      dsimp only
      exact htail

end Sys2Proof.Machine
end

section
namespace Sys2Proof.Machine

/-! ### Results that a fill delivers (R143, R163, R164) -/

/-- The group after results of a long-latency instruction were sent to a destination: a fill holds them, where some lane acts. -/
def Group.fillingLanes (g : Group) (id : Nat) (handler : Bool) (dst : Spec) (wide signed : Bool) (rs : List LaneResult)
    (wait : FillWait) (load : Bool) : Group :=
  if rs.isEmpty then g
  else g.filling ⟨id, vRegsOf dst (regsFor wide), sRegsOf handler dst, regWrites handler dst wide signed rs, wait, load⟩

theorem Group.fillingLanes_frame (g : Group) (id : Nat) (handler : Bool) (dst : Spec) (wide signed : Bool) (rs : List LaneResult)
    (wait : FillWait) (load : Bool) : (g.fillingLanes id handler dst wide signed rs wait load).slices = g.slices := by
  unfold Group.fillingLanes
  split <;> rfl

theorem Spec.eq_v_or_s {d : Spec} (h : d.isV = true ∨ d.isS = true) : (∃ n, d = .v n) ∨ ∃ n, d = .s n := by
  cases d with
  | v n => exact .inl ⟨n, rfl⟩
  | s n => exact .inr ⟨n, rfl⟩
  | _ => simp [Spec.isV, Spec.isS] at h

theorem State.fillDst_spec {s : State} {gid : Nat} {g : Group} (handler : Bool) {dst : Spec} (wide signed : Bool)
    (rs : List LaneResult) (wait : FillWait) (load : Bool) (h : s.group? gid = some g) (hd : dst.isV = true ∨ dst.isS = true) :
    (s.fillDst gid handler dst wide signed rs wait load).group? gid =
      some (g.fillingLanes s.nextUid handler dst wide signed rs wait load) ∧
    OnlyGroup s (s.fillDst gid handler dst wide signed rs wait load) gid := by
  unfold State.fillDst Group.fillingLanes
  split
  · exact ⟨h, OnlyGroup.refl s gid⟩
  · obtain ⟨n, rfl⟩ | ⟨n, rfl⟩ := Spec.eq_v_or_s hd
    · exact State.beginFill_spec _ _ _ _ _ h
    · exact State.beginFill_spec _ _ _ _ _ h

/-- A long-latency lane instruction completes by beginning the fill of its results. -/
theorem State.laneFill_after {s : State} {c : Ctx} {o : LaneOp} (f : Ctx → LaneFn) (hc : s.ctx? = some c) (hpass : c.Passes o.need)
    (hd : o.dst.isV = true ∨ o.dst.isS = true) :
    Answers (s.laneFill o f) (fun t => After s t c (c.g.fillingLanes s.nextUid c.handler o.dst o.wide o.signed
      ((c.acting o.guard).map (o.result c s (f c))) .ready false) o.opc o.words) := by
  obtain ⟨hg, ho⟩ := State.fillDst_spec c.handler o.wide o.signed ((c.acting o.guard).map (o.result c s (f c))) .ready false
    (State.ctx?_group hc) hd
  unfold State.laneFill
  rw [State.issue_ctx _ hc, State.gate_passes _ _ _ _ hpass]
  exact State.finish_spec o.opc o.words hc ((State.notePois_group? _ _ _ _).trans hg) (Group.fillingLanes_frame ..)
    (ho.trans (State.notePois_only _ _ _ _))

/-! ### FSFU (R183) -/

theorem F3.dst_of_laneDst {w : F3} (h : w.laneDst = true) : w.dst.isV = true ∨ w.dst.isS = true := by
  simp only [F3.laneDst, Bool.or_eq_true, Bool.and_eq_true] at h
  exact h.imp id (·.1.1.1)

theorem F3.legalFsfu_spec {w : F3} (h : w.legalFsfu = true) : w.laneDst = true ∧ w.ty = .f32 := by
  simp only [F3.legalFsfu, F3.lane1, Bool.and_eq_true, beq_iff_eq] at h
  exact ⟨h.1.1.1.1.1.1, h.1.1.2⟩

theorem exec_fsfu_fills {w : F3} {s : State} {c : Ctx} (hc : s.ctx? = some c) (hpass : c.Passes (laneF3 w 0x0C5 w.legalFsfu).need) :
    Answers (exec (.fsfu w) s) (fun t => After s t c (c.g.fillingLanes s.nextUid c.handler w.dst false false
      ((c.acting w.guard).map ((laneF3 w 0x0C5 w.legalFsfu).result c s (fun _ a _ _ =>
        (fsfuValue w.sub.toNat w.ftz (BitVec.ofNat 32 (floatIn fmtF32 w.negA false a.toNat))).setWidth 64))) .ready false) 0x0C5 w.words) := by
  obtain ⟨hdst, hty⟩ := F3.legalFsfu_spec hpass.1
  have h := State.laneFill_after (fun _ _ a _ _ =>
    (fsfuValue w.sub.toNat w.ftz (BitVec.ofNat 32 (floatIn fmtF32 w.negA false a.toNat))).setWidth 64) hc hpass (F3.dst_of_laneDst hdst)
  have hwide : (laneF3 w 0x0C5 w.legalFsfu).wide = false := congrArg Ty.wide hty
  have hsigned : (laneF3 w 0x0C5 w.legalFsfu).signed = false := congrArg extendsSign hty
  rw [hwide, hsigned] at h
  exact h

/-! ### QCVT (R188) -/

theorem exec_qcvt_fills {w : F3} {s : State} {c : Ctx} (hc : s.ctx? = some c)
    (hpass : c.Passes ⟨w.legalQcvt, false, w.guard, [(w.dst, 2)], [(w.sa, 1)]⟩) :
    Answers (exec (.qcvt w) s) (fun t => After s t c (if (c.acting w.guard).isEmpty then c.g
      else c.g.filling ⟨s.nextUid, vRegsOf w.dst 2, [], ((List.range 4).map (fun j =>
        qBlock c s w ((c.acting w.guard).filter (fun l => l / 32 == j)))).flatMap (·.1), .ready, false⟩) 0x104 w.words) := by
  show Answers (execQcvt w s) _
  unfold execQcvt
  rw [State.issue_ctx _ hc]
  dsimp only
  rw [State.gate_passes _ _ _ _ hpass]
  dsimp only
  split
  · exact State.finish_spec 0x104 w.words hc ((State.noteGroup_group? _ _ _ _).trans (State.ctx?_group hc)) rfl
      (State.noteGroup_only _ _ _ _)
  · obtain ⟨hg, ho⟩ := State.beginFill_spec (vRegsOf w.dst 2) [] _ .ready false (State.ctx?_group hc)
    exact State.finish_spec 0x104 w.words hc ((State.noteGroup_group? _ _ _ _).trans hg) rfl (ho.trans (State.noteGroup_only _ _ _ _))

/-- Settles O6: a lane instruction, a lane instruction whose results a fill delivers, and the fill of the four blocks. -/
theorem convertAndFunctionsComplete : Obligations.ConvertAndFunctionsComplete := by
  unfold Obligations.ConvertAndFunctionsComplete
  refine fun w => ⟨State.lane_completes (fun _ => rfl), fun s c hc hpass => exec_fsfu_fills hc hpass, fun s c hc hpass => ?_⟩
  obtain ⟨t, ht, h⟩ := exec_qcvt_fills hc hpass
  refine ⟨t, ht, ?_⟩
  simpa [List.range_succ] using h

end Sys2Proof.Machine
end

section
namespace Sys2Proof.Machine

/-! ### Frames of a step that may change caches (R52, R199, R330) -/

theorem Part.sansTokens_of_sansNotes {p q : Part} (h : p.sansNotes = q.sansNotes) : p.sansTokens = q.sansTokens := by
  have hb : p.sansNotes.buckets = q.sansNotes.buckets := congrArg (fun x : Part => x.buckets) h
  have hb : p.buckets = q.buckets := hb
  unfold Part.sansTokens
  rw [h, hb]

theorem OnlyCaches.of_onlyGroup {s t : State} {gid : Nat} (h : OnlyGroup s t gid) : OnlyCaches s t gid := by
  obtain ⟨hframe, hgroups, hcohorts, hparts, hmem⟩ := h
  refine ⟨by rw [hframe], hgroups, hcohorts, fun k => ?_, hmem⟩
  have hk := hparts k
  cases hs : s.part? k with
  | none =>
    rw [hs, Option.map_none, Option.map_eq_none_iff] at hk
    rw [hk]
  | some p =>
    rw [hs, Option.map_some, Option.map_eq_some_iff] at hk
    obtain ⟨q, hq, hqp⟩ := hk
    rw [hq, Option.map_some, Option.map_some, Part.sansTokens_of_sansNotes hqp]

theorem OnlyCaches.refl (s : State) (gid : Nat) : OnlyCaches s s gid := OnlyCaches.of_onlyGroup (OnlyGroup.refl s gid)

theorem OnlyCaches.trans {s t u : State} {gid : Nat} (h1 : OnlyCaches s t gid) (h2 : OnlyCaches t u gid) : OnlyCaches s u gid := by
  obtain ⟨frame1, groups1, cohorts1, parts1, mem1⟩ := h1
  obtain ⟨frame2, groups2, cohorts2, parts2, mem2⟩ := h2
  refine ⟨?_, fun h hh => (groups2 h hh).trans (groups1 h hh), fun u => (cohorts2 u).trans (cohorts1 u),
    fun k => (parts2 k).trans (parts1 k), fun a => (mem2 a).trans (mem1 a)⟩
  rw [frame1] at frame2
  exact frame2

/-- t differs from s in the copies alone. -/
def CopiesOnly (s t : State) : Prop := t = { s with copies := t.copies }

namespace CopiesOnly

theorem trans {s t u : State} (h1 : CopiesOnly s t) (h2 : CopiesOnly t u) : CopiesOnly s u := State.copies_trans h1 h2

theorem onlyCaches {s t : State} (h : CopiesOnly s t) (gid : Nat) : OnlyCaches s t gid := by
  rw [show t = _ from h]
  exact ⟨rfl, fun _ _ => rfl, fun _ => rfl, fun _ => rfl, fun _ => rfl⟩

theorem group? {s t : State} (h : CopiesOnly s t) (i : Nat) : t.group? i = s.group? i := by
  rw [show t = _ from h]
  rfl

theorem cohort? {s t : State} (h : CopiesOnly s t) (i : Nat) : t.cohort? i = s.cohort? i := by
  rw [show t = _ from h]
  rfl

theorem ensureCV (s : State) (core line : Nat) : CopiesOnly s (s.ensureCV core line) := by
  unfold State.ensureCV
  split
  · rfl
  · exact s.refreshCV_frame core line

theorem ensureL2 (s : State) (d line : Nat) : CopiesOnly s (s.ensureL2 d line) := by
  unfold State.ensureL2
  split <;> rfl

theorem refreshAllCV (s : State) (core : Nat) : CopiesOnly s (s.refreshAllCV core) :=
  State.foldl_copies (fun s (c : Copy) => s.refreshCV core c.line) (fun s _ => s.refreshCV_frame _ _) _ s

/-- An acquire refreshes copies and changes nothing else (R333). -/
theorem acquire (s : State) (core : Nat) (scope : Scope) : CopiesOnly s (s.acquire core scope) := by
  unfold State.acquire
  split
  · rfl
  · exact refreshAllCV s core
  · exact refreshAllCV s core
  · exact s.acquire_frame core

end CopiesOnly

/-- t differs from s at most in what translations use: TLBs, the free choices taken there, and the tokens of buckets (R52, R199). -/
structure Translates (s t : State) : Prop where
  frame : FetchFrame s t
  parts : ∀ k, (t.part? k).map Part.sansTokens = (s.part? k).map Part.sansTokens

namespace Translates

theorem refl (s : State) : Translates s s := ⟨rfl, fun _ => rfl⟩

theorem trans {s t u : State} (h1 : Translates s t) (h2 : Translates t u) : Translates s u :=
  ⟨h1.frame.trans h2.frame, fun k => (h2.parts k).trans (h1.parts k)⟩

theorem onlyCaches {s t : State} (h : Translates s t) (gid : Nat) : OnlyCaches s t gid := by
  refine ⟨?_, fun i _ => h.frame.group? i, fun u => by rw [h.frame.cohort?], h.parts, h.frame.readDM⟩
  have hf := h.frame
  unfold FetchFrame at hf
  rw [hf]

theorem tlbInsert_parts (s : State) (cap : Nat) (tlb : List TlbEntry) (e : TlbEntry) : (s.tlbInsert cap tlb e).1.parts = s.parts := by
  unfold State.tlbInsert
  split <;> rfl

theorem tlbFill_parts (s : State) (core : Nat) (e : TlbEntry) : (s.tlbFill core e).parts = s.parts := by
  unfold State.tlbFill
  dsimp only
  split
  · rfl
  · split
    · exact tlbInsert_parts _ _ _ _
    · split
      · exact (tlbInsert_parts _ _ _ _).trans (tlbInsert_parts _ _ _ _)
      · exact (tlbInsert_parts _ _ _ _).trans ((tlbInsert_parts _ _ _ _).trans (tlbInsert_parts _ _ _ _))

theorem tlbFill (s : State) (core : Nat) (e : TlbEntry) : Translates s (s.tlbFill core e) :=
  ⟨s.tlbFill_frame core e, fun k => by rw [State.part?_congr (tlbFill_parts s core e)]⟩

theorem sansTokens_onBucket (p : Part) (id : BucketId) (f : Bucket → Bucket) (hf : ∀ b, { f b with tokens := 0 } = { b with tokens := 0 }) :
    (p.onBucket id f).sansTokens = p.sansTokens := by
  have hmap : ((p.onBucket id f).buckets.map fun x => (x.1, { x.2 with tokens := 0 })) =
      p.buckets.map fun x => (x.1, { x.2 with tokens := 0 }) := by
    unfold Part.onBucket
    rw [List.map_map]
    refine List.map_congr_left fun x _ => ?_
    obtain ⟨i, b⟩ := x
    dsimp only [Function.comp]
    split
    · exact congrArg (Prod.mk i) (hf b)
    · rfl
  unfold Part.sansTokens
  rw [hmap]
  rfl

theorem chargeRead (s : State) (part pa n : Nat) : Translates s (s.chargeRead part pa n) := by
  refine ⟨(show FetchFrame s s from rfl).onPart _ _, fun k => ?_⟩
  unfold State.chargeRead State.onPart
  split
  · next p hp =>
    rw [State.part?_setPart]
    split
    · next e =>
      have hk : s.part? k = some p := by rw [e, show (p.onBucket _ _).id = p.id from rfl, State.part?_id hp, hp]
      rw [hk]
      exact congrArg some (sansTokens_onBucket p _ _ fun _ => rfl)
    · rfl
  · rfl

theorem chargeWalk (s : State) (p : Part) (asid : BitVec 8) (va : Nat) : Translates s (s.chargeWalk p asid va) := by
  unfold State.chargeWalk
  split
  · exact refl s
  · exact foldl_keeps (Translates s) _ (fun t _ ht => ht.trans (chargeRead t _ _ _)) _ s (refl s)

theorem translate (s : State) (p : Part) (core : Nat) (asid : BitVec 8) (va : Nat) : Translates s (s.translate p core asid va).2 := by
  unfold State.translate
  dsimp only
  split
  · exact tlbFill s core _
  · split
    · exact (chargeWalk s p asid va).trans (tlbFill _ core _)
    all_goals exact chargeWalk s p asid va

theorem translateLane (s : State) (c : Ctx) (o : Operand) (x : Nat × Nat × Nat × Option Tag) : Translates s (s.translateLane c o x).2 := by
  unfold State.translateLane
  dsimp only
  split
  · exact refl s
  · exact translate s _ _ _ _

theorem translateLanes (s : State) (c : Ctx) (o : Operand) : Translates s (s.translateLanes c o).st := by
  unfold State.translateLanes
  refine foldl_keeps (fun acc : TransLanes => Translates s acc.st) _ (fun acc x h => ?_) _ _ (refl s)
  have := h.trans (translateLane acc.st c o x)
  dsimp only
  split <;> exact this

end Translates

/-! ### The checks of an operand (R217) -/

/-- The word goes on with its accesses where its operand passes the checks. -/
theorem State.checkOperand_reaches {s s1 : State} {c : Ctx} {o : Operand} {accs : List Access} (k : State → List Access → Result)
    (h : o.Reaches c s s1 accs) : s.checkOperand c o k = k s1 accs := by
  obtain ⟨hlanes, hglobal, hlocal, hlocks⟩ := h
  have hpois : o.lanes.any (fun x => x.2.2.2.isSome) = false := List.any_eq_false.mpr fun x hx => by
    rw [(hlanes x hx).1]
    simp
  have hwhich : ∀ p : Nat → Bool, (∀ x ∈ o.lanes, p x.2.1 = false) → (o.which p).isEmpty = true := fun p hp => by
    unfold Operand.which
    rw [List.filter_eq_nil_iff.mpr fun x hx => by rw [hp x hx]; exact Bool.false_ne_true]
    rfl
  have hodd : (o.which fun a => a % o.size != 0).isEmpty = true := hwhich _ fun x hx => by
    simp [(hlanes x hx).2.1]
  have hfar : o.space = .global → (o.which fun a => decide (2 ^ 57 ≤ a)).isEmpty = true := fun hs => hwhich _ fun x hx =>
    decide_eq_false (Nat.not_le.mpr ((hlanes x hx).2.2.1 hs))
  have hout : o.space = .scratch →
      (o.which fun a => decide ((if o.write then c.scratchBelow else c.scratchSize) < a + o.size)).isEmpty = true := fun hs =>
    hwhich _ fun x hx => decide_eq_false (Nat.not_lt.mpr ((hlanes x hx).2.2.2.1 hs))
  have hws : o.space = .ws → (o.which fun a => decide (c.p.wsSize < a + o.size)).isEmpty = true := fun hs =>
    hwhich _ fun x hx => decide_eq_false (Nat.not_lt.mpr ((hlanes x hx).2.2.2.2.1 hs))
  have hbase : ¬ ((o.base.map (·.valid)).getD true = false ∧ o.lanes.isEmpty = false) := fun ⟨hv, hne⟩ => by
    obtain ⟨x, hx⟩ := List.exists_mem_of_ne_nil o.lanes (by simpa using hne)
    rw [(hlanes x hx).2.2.2.2.2] at hv
    exact Bool.noConfusion hv
  have hfree : (accs.filter fun a => o.locks && s.lockHit c.g o.write (o.space == .scratch) a.va o.size) = [] :=
    List.filter_eq_nil_iff.mpr fun a ha => by
      cases hl : o.locks with
      | false => simp
      | true => simp [hlocks a ha hl]
  unfold State.checkOperand
  simp only [hpois, hodd, Bool.false_eq_true, Bool.not_true, if_false]
  rw [if_neg (by simpa using fun hs => by simpa using hfar hs), if_neg (by simpa using fun hs => by simpa using hout hs),
    if_neg (by simpa using fun hs => by simpa using hws hs), if_neg (by simpa using hbase)]
  by_cases hg : o.space = .global
  · obtain ⟨hbad, hfaults, hs1, haccs⟩ := hglobal hg
    rw [if_pos hg, ← haccs, ← hs1, hfree, hbad, hfaults]
    rfl
  · obtain ⟨hs1, haccs⟩ := hlocal hg
    rw [if_neg hg, ← haccs, hfree, hs1]
    rfl

theorem Operand.Reaches.translates {s s1 : State} {c : Ctx} {o : Operand} {accs : List Access} (h : o.Reaches c s s1 accs) :
    Translates s s1 := by
  obtain ⟨-, hglobal, hlocal, -⟩ := h
  by_cases hg : o.space = .global
  · obtain ⟨-, -, rfl, -⟩ := hglobal hg
    exact Translates.translateLanes s c o
  · obtain ⟨rfl, -⟩ := hlocal hg
    exact Translates.refl s1

end Sys2Proof.Machine
end

section
namespace Sys2Proof.Machine

/-! ### The end of a word that changed caches (R52, R199, R330) -/

/-- The path falls through from a state that differs from s1 in its group and in caches at most. -/
theorem State.finish_caches {s0 s1 s : State} {c : Ctx} {g : Group} (opc words : Nat) (hc : s0.ctx? = some c)
    (hs : s.group? c.g.gid = some g) (hg : g.slices = c.g.slices) (ho : OnlyCaches s1 s c.g.gid) :
    Answers (s.finish c opc words) (fun t => AfterCaches s1 t c g opc words) := by
  obtain ⟨t, ht, hw, hot, hgt⟩ := State.onGroup_checkSig_done (fun g => g.advance c opc words) opc words hs rfl
  exact ⟨t, ht, hw, ho.trans (OnlyCaches.of_onlyGroup hot), _, hgt, rfl, Ctx.mapSlices_spec hc g hg _⟩

/-! ### What translations leave alone -/

namespace Translates

variable {s t : State} (h : Translates s t)
include h

theorem keyOf (k : Nat) : t.keyOf k = s.keyOf k := by
  have hslots : t.keySlots = s.keySlots := by rw [h.frame]
  have hkey : ∀ u : State, u.keyOf k = ((u.part? k).map Part.sansTokens).bind (fun p => SMap.get none u.keySlots p.key) := fun u => by
    unfold State.keyOf
    cases u.part? k <;> rfl
  rw [hkey, hkey, h.parts, hslots]

theorem keyOfCore (core : Nat) : t.keyOfCore core = s.keyOfCore core := by
  have howner : t.cluOwner = s.cluOwner := by rw [h.frame]
  unfold State.keyOfCore
  rw [howner, show t.keyOf = s.keyOf from funext h.keyOf]

theorem readUnder (key : Option Nat) (pa : Nat) : t.readUnder key pa = s.readUnder key pa := by
  have hkeys : t.memKey = s.memKey := by rw [h.frame]
  unfold State.readUnder
  rw [hkeys, show t.readDM = s.readDM from funext h.frame.readDM]

theorem byteAt (core : Nat) (scope : Scope) (pa : Nat) : t.byteAt core scope pa = s.byteAt core scope pa := by
  have hdf : t.df = s.df := by rw [h.frame]
  have hcfq : t.cfq = s.cfq := by rw [h.frame]
  have hcopy : t.copy? = s.copy? := funext fun v => funext fun line => by rw [State.copy?, h.frame]; rfl
  unfold State.byteAt
  rw [hdf, hcfq, hcopy, h.keyOfCore, show t.readUnder = s.readUnder from funext fun k => funext (h.readUnder k)]

end Translates

/-! ### What the accesses of a load read (R331) -/

/-- The bytes of one access are added to those read so far. -/
def State.readOne (c : Ctx) (scratch : Bool) (scope : Scope) (n : Nat) (acc : List (Nat × List PByte) × State) (a : Access) :
    List (Nat × List PByte) × State :=
  if scratch then (acc.1 ++ [(a.lane, loadScratch c.g c.co a.pa n)], acc.2)
  else
    let r := acc.2.loadGlobal c.g scope a.pa n
    (acc.1 ++ [(a.lane, r.1)], r.2)

theorem State.readAll_eq (s : State) (c : Ctx) (scratch : Bool) (scope : Scope) (n : Nat) (accs : List Access) :
    s.readAll c scratch scope n accs = accs.foldl (State.readOne c scratch scope n) ([], s) := rfl

theorem State.loadGlobal_copies (s : State) (g : Group) (scope : Scope) (pa n : Nat) : CopiesOnly s (s.loadGlobal g scope pa n).2 := by
  unfold State.loadGlobal
  dsimp only
  split
  · rfl
  · unfold State.ensureFor
    split
    · exact CopiesOnly.ensureCV s _ _
    · exact CopiesOnly.ensureL2 s _ _
    · exact CopiesOnly.ensureL2 s _ _
    · rfl

theorem State.readOne_copies (c : Ctx) (scratch : Bool) (scope : Scope) (n : Nat) (acc : List (Nat × List PByte) × State) (a : Access) :
    CopiesOnly acc.2 (State.readOne c scratch scope n acc a).2 ∧
    (State.readOne c scratch scope n acc a).1.map (·.1) = acc.1.map (·.1) ++ [a.lane] := by
  unfold State.readOne
  split
  · exact ⟨rfl, List.map_append⟩
  · exact ⟨State.loadGlobal_copies _ _ _ _ _, List.map_append⟩

theorem State.foldl_readOne (c : Ctx) (scratch : Bool) (scope : Scope) (n : Nat) (accs : List Access)
    (acc : List (Nat × List PByte) × State) :
    CopiesOnly acc.2 (accs.foldl (State.readOne c scratch scope n) acc).2 ∧
    (accs.foldl (State.readOne c scratch scope n) acc).1.map (·.1) = acc.1.map (·.1) ++ accs.map (·.lane) := by
  induction accs generalizing acc with
  | nil => exact ⟨rfl, (List.append_nil _).symm⟩
  | cons a accs ih =>
    obtain ⟨hcopies, hlanes⟩ := State.readOne_copies c scratch scope n acc a
    obtain ⟨ihcopies, ihlanes⟩ := ih (State.readOne c scratch scope n acc a)
    refine ⟨hcopies.trans ihcopies, ihlanes.trans ?_⟩
    rw [hlanes, List.append_assoc]
    rfl

/-- Where no access brings a copy, each reads what it reads in s. -/
theorem State.foldl_readOne_still {s : State} {c : Ctx} {scratch : Bool} {scope : Scope} {n : Nat} {f : Access → Nat × List PByte}
    (h : ∀ l a, State.readOne c scratch scope n (l, s) a = (l ++ [f a], s)) (accs : List Access) (l : List (Nat × List PByte)) :
    accs.foldl (State.readOne c scratch scope n) (l, s) = (l ++ accs.map f, s) := by
  induction accs generalizing l with
  | nil => rw [List.map_nil, List.append_nil]; rfl
  | cons a accs ih => rw [List.foldl_cons, h, ih, List.append_assoc]; rfl

theorem State.readAll_copies (s : State) (c : Ctx) (scratch : Bool) (scope : Scope) (n : Nat) (accs : List Access) :
    CopiesOnly s (s.readAll c scratch scope n accs).2 := (State.foldl_readOne c scratch scope n accs ([], s)).1

theorem State.readAll_lanes (s : State) (c : Ctx) (scratch : Bool) (scope : Scope) (n : Nat) (accs : List Access) :
    (s.readAll c scratch scope n accs).1.map (·.1) = accs.map (·.lane) := (State.foldl_readOne c scratch scope n accs ([], s)).2

/-- From scratchpad each byte is the store queue's, or the scratchpad's. -/
theorem State.readAll_scratch (s : State) (c : Ctx) (scope : Scope) (n : Nat) (accs : List Access) :
    (s.readAll c true scope n accs).1 = accs.map (fun a => (a.lane, loadScratch c.g c.co a.pa n)) := by
  rw [State.readAll_eq, State.foldl_readOne_still (f := fun a => (a.lane, loadScratch c.g c.co a.pa n)) fun l a => rfl]
  rfl

/-- At DEV and SYS each byte is the store queue's, or that of the core's packets and memory. -/
theorem State.readAll_home (s : State) (c : Ctx) {scope : Scope} (hscope : scope = .dev ∨ scope = .sys) (n : Nat) (accs : List Access) :
    (s.readAll c false scope n accs).1 = accs.map (fun a => (a.lane, (List.range n).map (fun i =>
      (c.g.forward false (a.pa + i)).getD (s.byteAt c.g.core scope (a.pa + i))))) := by
  have hload : ∀ pa, s.loadGlobal c.g scope pa n =
      ((List.range n).map (fun i => (c.g.forward false (pa + i)).getD (s.byteAt c.g.core scope (pa + i))), s) := fun pa => by
    have hensure : ∀ line, s.ensureFor c.g.core scope line = s := fun line => by
      obtain rfl | rfl := hscope <;> rfl
    unfold State.loadGlobal
    rw [hensure, ite_self]
  rw [State.readAll_eq, State.foldl_readOne_still (f := fun a => (a.lane, (List.range n).map (fun i =>
    (c.g.forward false (a.pa + i)).getD (s.byteAt c.g.core scope (a.pa + i))))) fun l a => ?_]
  · rfl
  · unfold State.readOne
    simp only [hload]
    rfl

/-! ### The fill of a load (R143) -/

/-- The group after a load: a fill holds what it read, where it has an access. -/
def Group.fillingLoad (g : Group) (id : Nat) (handler : Bool) (dst : Spec) (n : Nat) (reads : List (Nat × List PByte))
    (wait : FillWait) : Group :=
  if reads.isEmpty then g
  else g.filling ⟨id, vRegsOf dst (wordsFor n), sRegsOf handler dst, loadWrites handler dst n reads, wait, true⟩

theorem Group.fillingLoad_slices (g : Group) (id : Nat) (handler : Bool) (dst : Spec) (n : Nat) (reads : List (Nat × List PByte))
    (wait : FillWait) : (g.fillingLoad id handler dst n reads wait).slices = g.slices := by
  unfold Group.fillingLoad
  split <;> rfl

theorem State.fillLoad_spec {s : State} {c : Ctx} {g : Group} (dst : Spec) (n : Nat) (reads : List (Nat × List PByte)) (wait : FillWait)
    (h : s.group? c.g.gid = some g) :
    (s.fillLoad c dst n reads wait).group? c.g.gid = some (g.fillingLoad s.nextUid c.handler dst n reads wait) ∧
    OnlyGroup s (s.fillLoad c dst n reads wait) c.g.gid := by
  unfold State.fillLoad Group.fillingLoad
  split
  · exact ⟨h, OnlyGroup.refl s _⟩
  · exact State.beginFill_spec _ _ _ _ _ h

/-- A load begins the fill of what its accesses read, and changes copies at most beside. -/
theorem State.loadAll_spec {s : State} {c : Ctx} {g : Group} (w : FM) (scratch : Bool) (accs : List Access)
    (h : s.group? c.g.gid = some g) :
    OnlyCaches s (s.loadAll c w scratch accs) c.g.gid ∧ ∃ id, (s.loadAll c w scratch accs).group? c.g.gid =
      some (g.fillingLoad id c.handler w.dst w.size.bytes (s.readAll c scratch w.scope w.size.bytes accs).1 .ready) := by
  have hread := s.readAll_copies c scratch w.scope w.size.bytes accs
  obtain ⟨hg, ho⟩ := State.fillLoad_spec w.dst w.size.bytes (s.readAll c scratch w.scope w.size.bytes accs).1 .ready
    ((hread.group? _).trans h)
  have hfill := (hread.onlyCaches c.g.gid).trans (OnlyCaches.of_onlyGroup ho)
  unfold State.loadAll
  dsimp only
  split
  · have hacq := CopiesOnly.acquire ((s.readAll c scratch w.scope w.size.bytes accs).2.fillLoad c w.dst w.size.bytes
      (s.readAll c scratch w.scope w.size.bytes accs).1 .ready) c.g.core w.scope
    exact ⟨hfill.trans (hacq.onlyCaches _), _, (hacq.group? _).trans hg⟩
  · exact ⟨hfill, _, hg⟩

/-- A load that passes its checks completes: g is its group by then, which LR gave reservations. -/
theorem State.loadAll_completes {s s1 t : State} {c : Ctx} {g : Group} (w : FM) (scratch : Bool) (accs : List Access) (opc words : Nat)
    (hc : s.ctx? = some c) (hs1 : Translates s s1) (ht : OnlyGroup s1 t c.g.gid) (hg : t.group? c.g.gid = some g)
    (hslices : g.slices = c.g.slices) :
    Answers ((t.loadAll c w scratch accs).finish c opc words) (fun u => ∃ id, AfterCaches s u c
      (g.fillingLoad id c.handler w.dst w.size.bytes (t.readAll c scratch w.scope w.size.bytes accs).1 .ready) opc words) := by
  obtain ⟨ho, id, hload⟩ := State.loadAll_spec w scratch accs hg
  obtain ⟨u, hu, hafter⟩ := State.finish_caches opc words hc hload ((Group.fillingLoad_slices ..).trans hslices)
    (((hs1.onlyCaches _).trans (OnlyCaches.of_onlyGroup ht)).trans ho)
  exact ⟨u, hu, id, hafter⟩

/-- What a load's accesses read, as far as it is said: their lanes, and their bytes in scratchpad and at DEV and SYS. -/
def ReadsOf (s : State) (c : Ctx) (w : FM) (accs : List Access) (reads : List (Nat × List PByte)) : Prop :=
  reads.map (·.1) = accs.map (·.lane) ∧
  (w.space = true → reads = accs.map (fun a => (a.lane, loadScratch c.g c.co a.pa w.size.bytes))) ∧
  (w.space = false → w.scope = .dev ∨ w.scope = .sys → reads = accs.map (fun a => (a.lane, (List.range w.size.bytes).map (fun i =>
    (c.g.forward false (a.pa + i)).getD
      ((youngest (s.df.filter (fun p => p.core == c.g.core) ++ s.cfq.filter (fun p => p.core == c.g.core)) (a.pa + i)).getD
        (s.readUnder (s.keyOfCore c.g.core) (a.pa + i)))))))

/-- A load reads in t what it would read in s, where each byte is the same in both. -/
theorem State.readAll_readsOf {s t : State} {c : Ctx} (h : t.byteAt c.g.core = s.byteAt c.g.core) (w : FM) (accs : List Access) :
    ReadsOf s c w accs (t.readAll c w.space w.scope w.size.bytes accs).1 := by
  refine ⟨State.readAll_lanes .., fun hspace => ?_, fun hspace hscope => ?_⟩
  · rw [hspace, State.readAll_scratch]
  · rw [hspace, State.readAll_home t c hscope, h]
    obtain hs | hs := hscope <;> rw [hs] <;> rfl

/-- A change of a group leaves each byte that a load can read beneath the store queue. -/
theorem State.byteAt_onGroup (s : State) (gid : Nat) (f : Group → Group) : (s.onGroup gid f).byteAt = s.byteAt := by
  unfold State.onGroup
  split <;> rfl

/-! ### LD, LDS, LR and WLD -/

section
variable {w : FM} {s s1 : State} {c : Ctx} {accs : List Access} (hc : s.ctx? = some c)
include hc

theorem execLd_fills (hpass : c.Passes (fmNeed w w.legalLd false (dstRegs w.size.bytes w.dst) 1))
    (hreach : (FmOperand c s w w.ioff.toNat false true (accessLanes w (c.acting w.guard))).Reaches c s s1 accs) :
    Answers (exec (.ld w) s) (fun t => ∃ id reads,
      AfterCaches s t c (c.g.fillingLoad id c.handler w.dst w.size.bytes reads .ready) 0x140 w.words ∧ ReadsOf s c w accs reads) := by
  have htr := hreach.translates
  obtain ⟨t, ht, id, hafter⟩ := State.loadAll_completes w w.space accs 0x140 w.words hc htr (OnlyGroup.refl s1 _)
    ((htr.frame.group? _).trans (State.ctx?_group hc)) rfl
  refine ⟨t, ?_, id, _, hafter, State.readAll_readsOf (funext fun _ => funext (htr.byteAt _ _)) w accs⟩
  show execLd w s = _
  unfold execLd
  rw [State.issue_ctx _ hc, State.gate_passes _ _ _ _ hpass]
  exact (State.checkOperand_reaches _ hreach).trans ht

theorem execLds_fills (hpass : c.Passes (fmNeed w w.legalLds false (wordsFor w.size.bytes) 1))
    (hreach : (stridedOperand c s w false (c.acting w.guard)).Reaches c s s1 accs) :
    Answers (exec (.lds w) s) (fun t => ∃ id, AfterCaches s t c (c.g.fillingLoad id c.handler w.dst w.size.bytes
      (accs.map (fun a => (a.lane, loadScratch c.g c.co a.pa w.size.bytes))) .ready) 0x142 w.words) := by
  have htr := hreach.translates
  obtain ⟨t, ht, id, hafter⟩ := State.loadAll_completes w true accs 0x142 w.words hc htr (OnlyGroup.refl s1 _)
    ((htr.frame.group? _).trans (State.ctx?_group hc)) rfl
  rw [State.readAll_scratch] at hafter
  refine ⟨t, ?_, id, hafter⟩
  show execLds w s = _
  unfold execLds
  rw [State.issue_ctx _ hc, State.gate_passes _ _ _ _ hpass]
  exact (State.checkOperand_reaches _ hreach).trans ht

theorem execLr_fills (hpass : c.Passes (fmNeed w w.legalLr true (wordsFor w.size.bytes) 1)) (hloop : c.g.loop = none)
    (hreach : (FmOperand c s w w.ioff.toNat false true (c.acting w.guard)).Reaches c s s1 accs) :
    Answers (exec (.lr w) s) (fun t => ∃ id reads, AfterCaches s t c ((c.g.addReservations (accs.map (reserve c w))).fillingLoad id
      c.handler w.dst w.size.bytes reads .ready) 0x182 w.words ∧ ReadsOf s c w accs reads) := by
  have htr := hreach.translates
  obtain ⟨hg, ho⟩ := State.onGroup_spec (fun g => g.addReservations (accs.map (reserve c w)))
    ((htr.frame.group? _).trans (State.ctx?_group hc)) rfl
  obtain ⟨t, ht, id, hafter⟩ := State.loadAll_completes w w.space accs 0x182 w.words hc htr ho hg rfl
  have hbyte : (s1.onGroup c.g.gid fun g => g.addReservations (accs.map (reserve c w))).byteAt c.g.core = s.byteAt c.g.core := by
    rw [State.byteAt_onGroup]
    exact funext fun _ => funext (htr.byteAt _ _)
  refine ⟨t, ?_, id, _, hafter, State.readAll_readsOf hbyte w accs⟩
  show execLr w s = _
  unfold execLr
  rw [State.issue_ctx _ hc, State.gate_passes _ _ _ _ hpass, hloop, Option.isSome_none, if_neg Bool.false_ne_true]
  refine (State.checkOperand_reaches _ hreach).trans ?_
  exact ht

theorem execWld_fills (hpass : c.Passes (fmNeed w w.legalWld false (dstRegs w.size.bytes w.dst) 1))
    (hreach : ({ FmOperand c s w w.ioff.toNat false false (accessLanes w (c.acting w.guard)) with space := .ws }).Reaches c s s1 accs) :
    Answers (exec (.wld w) s) (fun t => ∃ id wait, AfterCaches s t c (c.g.fillingLoad id c.handler w.dst w.size.bytes
      (accs.map (fun a => (a.lane, (List.range w.size.bytes).map (fun i => s.readWs c.p (a.pa + i))))) wait) 0x145 w.words) := by
  obtain ⟨rfl, -⟩ := hreach.2.2.1 (by simp)
  obtain ⟨hg, ho⟩ := State.fillLoad_spec w.dst w.size.bytes
    (accs.map (fun a => (a.lane, (List.range w.size.bytes).map (fun i => s1.readWs c.p (a.pa + i)))))
    (if s1.wsReady c.p accs = s1.cycle then .ready else .cycle (s1.wsReady c.p accs)) (State.ctx?_group hc)
  obtain ⟨t, ht, hafter⟩ := State.finish_caches 0x145 w.words hc hg (Group.fillingLoad_slices ..) (OnlyCaches.of_onlyGroup ho)
  refine ⟨t, ?_, _, _, hafter⟩
  show execWld w s1 = _
  unfold execWld
  rw [State.issue_ctx _ hc]
  dsimp only
  rw [State.gate_passes _ _ _ _ hpass]
  exact (State.checkOperand_reaches _ hreach).trans ht

end

/-- Settles O12: each load passes its checks and its gate, reads, and begins the fill of what it read; the reads are those of the
state before translation, which no byte and no packet depends on. -/
theorem loadsBeginFills : Obligations.LoadsBeginFills := by
  unfold Obligations.LoadsBeginFills
  intro w s s1 c accs hc
  refine ⟨fun hpass hreach => ?_, fun hpass hreach => execLds_fills hc hpass hreach, fun hpass hloop hreach => ?_,
    fun hpass hreach => execWld_fills hc hpass hreach⟩
  · exact execLd_fills hc hpass hreach
  · obtain ⟨t, ht, id, reads, hafter, hreads⟩ := execLr_fills hc hpass hloop hreach
    unfold Group.addReservations at hafter
    rw [List.map_map] at hafter
    exact ⟨t, ht, id, reads, hafter, hreads⟩

end Sys2Proof.Machine
end

section
namespace Sys2Proof.Machine

/-! ### One result written to a destination (R163) -/

/-- One lane's result changes values of registers alone, whatever reservations its group holds. -/
theorem Group.writeDst_one (g : Group) (rs : List Reservation) (handler : Bool) (dst : Spec) (wide signed : Bool) (r : LaneResult) :
    { g with resv := rs }.writeDst handler dst wide signed [r] =
      { g with resv := rs, regs := (g.writeDst handler dst wide signed [r]).regs } := by
  cases dst with
  | v n => cases wide <;> rfl
  | p n =>
    unfold Group.writeDst Group.writeP Group.setP
    by_cases h : n.toNat = 7
    · simp only [if_pos h]
    · simp only [if_neg h]
      rfl
  | _ => rfl

/-! ### The first issue of an atomic (R231, R234) -/

/-- The slices of the path wait, and no other slice moves. -/
theorem State.setWait_spec {s0 s : State} {c : Ctx} {g : Group} (x : Wait) (hc : s0.ctx? = some c) (hs : s.group? c.g.gid = some g)
    (hg : g.slices = c.g.slices) :
    OnlyGroup s (s.setWait c x) c.g.gid ∧ ∃ g', (s.setWait c x).group? c.g.gid = some g' ∧ g' = { g with slices := g'.slices } ∧
      (∀ i ∈ c.slices, g'.sliceAt i = { c.g.sliceAt i with wait := x }) ∧ ∀ i, i ∉ c.slices → g'.sliceAt i = c.g.sliceAt i := by
  obtain ⟨hg', ho⟩ := State.onGroup_spec (fun g => g.mapSlices c.slices (fun _ y => { y with wait := x })) hs rfl
  exact ⟨ho, _, hg', rfl, Ctx.mapSlices_spec hc g hg _⟩

/-- The group as an atomic's commit leaves it. -/
def AtomicOp.committed (o : AtomicOp) (c : Ctx) (words : Nat) : Group :=
  { c.committed o.opc words with resv := if o.keep then c.g.resv else [] }

theorem AtomicOp.committed_eq (o : AtomicOp) (c : Ctx) (words : Nat) :
    (if o.keep then { c.committed o.opc words with resv := c.g.resv } else c.committed o.opc words) = o.committed c words := by
  unfold AtomicOp.committed
  cases o.keep <;> rfl

section
variable {s s1 : State} {c : Ctx} {w : FM} {o : AtomicOp} {accs : List Access} (hc : s.ctx? = some c)
include hc

/-- An atomic's first issue, past its checks, commits and holds its accesses with their operands. -/
theorem State.atomic_begins (hloop : c.g.loop = none) (hatomic : ∀ m r f a k, c.head.wait ≠ .atomic m r f a k)
    (hfilling : ∀ k, c.head.wait ≠ .filling k) (hpass : c.Passes o.need)
    (hreach : (o.operand c (c.acting o.need.guard)).Reaches c s s1 accs) :
    let regs := vRegsOf w.dst (regsFor o.wide)
    Answers (s.atomic w o) (fun t => t.waited = false ∧ OnlyCaches s t c.g.gid ∧ ∃ g id, t.group? c.g.gid = some g ∧
      (if o.fills && w.dst.isV && !accs.isEmpty then
        g = { (o.committed c w.words).filling ⟨id, regs, [], [], .atomic, false⟩ with slices := g.slices } ∧
        ∀ j ∈ c.slices, g.sliceAt j = { c.g.sliceAt j with wait := .atomic id (accs.map (o.load c)) (some id) false [] }
      else g = { o.committed c w.words with slices := g.slices } ∧
        ∀ j ∈ c.slices, g.sliceAt j = { c.g.sliceAt j with wait := .atomic id (accs.map (o.load c)) none false regs }) ∧
      ∀ j, j ∉ c.slices → g.sliceAt j = c.g.sliceAt j) := by
  intro regs
  have htr := hreach.translates
  obtain ⟨hset, hoset⟩ := State.setGroup_spec (o.committed c w.words) ((htr.frame.group? _).trans (State.ctx?_group hc)) rfl
  set s2 := (s1.setGroup (o.committed c w.words)).notePois c.g (mergeAll ((accs.map (o.load c)).map (·.pois)))
  have hg2 : s2.group? c.g.gid = some (o.committed c w.words) := (State.notePois_group? _ _ _ _).trans hset
  have ho2 : OnlyCaches s s2 c.g.gid :=
    (htr.onlyCaches _).trans (OnlyCaches.of_onlyGroup (hoset.trans (State.notePois_only _ _ _ _)))
  have hrun : s.atomic w o = if o.fills && w.dst.isV && !accs.isEmpty then
      ((s2.beginFill c.g.gid regs [] [] .atomic false).setWait c (.atomic s2.nextUid (accs.map (o.load c)) (some s2.nextUid) false [])).done
      else (s2.setWait c (.atomic s2.nextUid (accs.map (o.load c)) none false regs)).done := by
    unfold State.atomic
    rw [State.issue_ctx _ hc]
    dsimp only
    split
    · next h => exact absurd h (hatomic _ _ _ _ _)
    · next h => exact absurd h (hfilling _)
    · rw [State.gate_passes _ _ _ _ hpass, hloop, Option.isSome_none, if_neg Bool.false_ne_true, State.checkOperand_reaches _ hreach]
      rw [AtomicOp.committed_eq, List.isEmpty_map]
  rw [hrun]
  split
  · obtain ⟨hfill, hofill⟩ := State.beginFill_spec regs [] [] .atomic false hg2
    obtain ⟨ho, g, hg, heq, hin, hout⟩ := State.setWait_spec (.atomic s2.nextUid (accs.map (o.load c)) (some s2.nextUid) false []) hc
      hfill rfl
    have hdone := (hofill.trans ho).trans (OnlyGroup.waited _ _ false)
    exact ⟨_, rfl, rfl, ho2.trans (OnlyCaches.of_onlyGroup hdone), g, s2.nextUid, hg, ⟨heq, hin⟩, hout⟩
  · obtain ⟨ho, g, hg, heq, hin, hout⟩ := State.setWait_spec (.atomic s2.nextUid (accs.map (o.load c)) none false regs) hc hg2 rfl
    have hdone := ho.trans (OnlyGroup.waited _ _ false)
    exact ⟨_, rfl, rfl, ho2.trans (OnlyCaches.of_onlyGroup hdone), g, s2.nextUid, hg, ⟨heq, hin⟩, hout⟩

/-! ### The end of an atomic (R218, R231) -/

/-- With no lane left to act and no fill, an atomic falls through, after the acquire that is due. -/
theorem State.atomic_ends {mark : Nat} {acq : Bool} {regs : List Nat} (hwait : c.head.wait = .atomic mark [] none acq regs)
    (hready : s.atomicReady c.g mark w.scope = true) : Answers (s.atomic w o) (fun t => AfterCaches s t c c.g o.opc w.words) := by
  have hacq : CopiesOnly s (if acq then s.acquire c.g.core w.scope else s) := by
    split
    · exact CopiesOnly.acquire s _ _
    · rfl
  unfold State.atomic
  rw [State.issue_ctx _ hc]
  dsimp only
  rw [hwait]
  dsimp only
  rw [hready]
  exact State.finish_caches o.opc w.words hc ((hacq.group? _).trans (State.ctx?_group hc)) rfl (hacq.onlyCaches _)

/-- A CAS whose fill has completed falls through. -/
theorem State.atomic_filled {k : Nat} (hwait : c.head.wait = .filling k) (hfills : ∀ f ∈ c.g.fills, f.id ≠ k) :
    Answers (s.atomic w o) (fun t => After s t c c.g o.opc w.words) := by
  have hnone : c.g.fills.any (fun f => f.id == k) = false := List.any_eq_false.mpr fun f hf => by simpa using hfills f hf
  unfold State.atomic
  rw [State.issue_ctx _ hc]
  dsimp only
  rw [hwait]
  dsimp only
  rw [hnone]
  exact State.finish_spec o.opc w.words hc (State.ctx?_group hc) rfl (OnlyGroup.refl s _)

end

end Sys2Proof.Machine
end

section
namespace Sys2Proof.Machine

/-! ### Groups after an access at its point (R334, R335) -/

namespace GroupsShed

theorem refl (s : State) : GroupsShed s s := of_groups rfl

/-- A group is as it was but for reservations that a write has cleared. -/
theorem group?_some {s t : State} (h : GroupsShed s t) {j : Nat} {g : Group} (hg : s.group? j = some g) :
    ∃ rs, t.group? j = some { g with resv := rs } := by
  obtain ⟨r, hr⟩ := (⟨rfl, h⟩ : DeskFrame s { s with groups := t.groups }).group? j
  rw [hg] at hr
  exact ⟨r g, hr⟩

theorem of_copies {s t : State} (h : CopiesOnly s t) : GroupsShed s t := of_groups (by rw [show t = _ from h])

theorem clearReservations (s : State) (bs : List WByte) (scratch : Option Nat) (point : WritePoint) :
    GroupsShed s (s.clearReservations bs scratch point) := of_desk (Stored.clearReservations s bs scratch point).toDeskFrame

theorem writeScratch (s : State) (uid : Nat) (bs : List WByte) : GroupsShed s (s.writeScratch uid bs) := by
  unfold State.writeScratch
  split
  · exact refl s
  · next c _ => exact (of_groups rfl : GroupsShed s (s.setCohort (c.writeScratch bs))).trans (clearReservations _ _ _ _)

theorem sendPackets (s : State) (g : Group) (entry : Option Nat) (bs : List WByte) (holds : List Nat × List Nat) :
    GroupsShed s (s.sendPackets g entry bs holds) := by
  unfold State.sendPackets
  refine foldl_keeps (GroupsShed s) _ (fun t line ht => ?_) _ s (refl s)
  exact ht.trans (of_groups rfl)

theorem writeCV (s : State) (core : Nat) (bs : List WByte) : GroupsShed s (s.writeCV core bs) := by
  unfold State.writeCV
  refine GroupsShed.trans (foldl_keeps (GroupsShed s) _ (fun t line ht => ?_) _ s (refl s)) (clearReservations _ _ _ _)
  refine (ht.trans (of_copies (CopiesOnly.ensureCV t core line))).trans (of_groups ?_)
  dsimp only
  split <;> rfl

theorem updateCopies (s : State) (v : View) (part : Nat) (bs : List WByte) (later : List Packet) (own : Packet → Bool) :
    GroupsShed s (s.updateCopies v part bs later own) := of_groups rfl

/-- A write into the copies of a core and of its die takes reservations at both. -/
theorem clearsBoth (s : State) (g : Group) (bs : List WByte) (l1 l2 : List Packet) (own1 own2 : Packet → Bool) :
    GroupsShed s ((((s.updateCopies (.die (dieOf g.core)) g.part bs l1 own1).updateCopies (.core g.core) g.part bs l2
      own2).clearReservations bs none (.core g.core)).clearReservations bs none (.die (dieOf g.core))) :=
  (((updateCopies s _ _ _ _ _).trans (updateCopies _ _ _ _ _ _)).trans (clearReservations _ _ _ _)).trans (clearReservations _ _ _ _)

/-- A write at the point of any scope takes reservations from groups, and nothing else of them. -/
theorem writePoint (s : State) (g : Group) (scope : Scope) (bs : List WByte) : GroupsShed s (s.writePoint g scope bs) := by
  cases scope with
  | core => exact (writeCV s g.core bs).trans (sendPackets _ _ _ _ _)
  | clu =>
    have h := clearsBoth s g bs [] (s.cfq.filter fun p => p.core == g.core) (fun _ => true) (fun _ => true)
    exact h.trans (of_groups rfl)
  | die =>
    have h := clearsBoth s g bs [] (s.cfq.filter fun p => p.core == g.core) (fun _ => true) (fun _ => true)
    exact h.trans (of_groups rfl)
  | _ => exact GroupsShed.trans (clearsBoth s g bs (s.df.filter fun p => dieOf p.core == dieOf g.core)
      (s.df.filter (fun p => dieOf p.core == dieOf g.core) ++ s.cfq.filter fun p => p.core == g.core) (fun _ => true)
      (fun p => p.core == g.core)) (of_desk (Stored.writeDM _ _ _ _).toDeskFrame)

end GroupsShed

theorem State.readPoint_copies (s : State) (core : Nat) (scope : Scope) (pa n : Nat) : CopiesOnly s (s.readPoint core scope pa n).2 := by
  cases scope with
  | core => exact CopiesOnly.ensureCV s _ _
  | clu => exact CopiesOnly.ensureL2 s _ _
  | die => exact CopiesOnly.ensureL2 s _ _
  | _ => rfl

theorem State.pointRead_copies (s : State) (c : Ctx) (w : FM) (a : Access) : CopiesOnly s (s.pointRead c w a).2 := by
  unfold State.pointRead
  split
  · rfl
  · exact State.readPoint_copies s _ _ _ _

theorem State.pointWrite_shed (s : State) (c : Ctx) (w : FM) (a : Access) (v : Nat) (pois : Option Tag) :
    GroupsShed s (s.pointWrite c w a v pois) := by
  unfold State.pointWrite
  dsimp only
  split
  · exact GroupsShed.writeScratch s _ _
  · exact GroupsShed.writePoint s _ _ _

/-! ### The bytes of a number (R216) -/

theorem numOfBytes_range (f : Nat → PByte) (n : Nat) :
    numOfBytes ((List.range n).map f) = ((List.range n).map (fun i => (f i).val.toNat * 2 ^ (8 * i))).sum := by
  unfold numOfBytes
  rw [List.zipIdx_map, List.map_map]
  congr 1
  refine List.ext_getElem (by simp) fun i h1 h2 => ?_
  simp

theorem numOfBytes_succ (f : Nat → PByte) (n : Nat) :
    numOfBytes ((List.range (n + 1)).map f) = numOfBytes ((List.range n).map f) + (f n).val.toNat * 2 ^ (8 * n) := by
  rw [numOfBytes_range, numOfBytes_range, List.range_succ, List.map_append, List.sum_append]
  simp

theorem numOfBytes_lt (f : Nat → PByte) (n : Nat) : numOfBytes ((List.range n).map f) < 2 ^ (8 * n) := by
  induction n with
  | zero => exact Nat.one_pos
  | succ n ih =>
    rw [numOfBytes_succ, show 2 ^ (8 * (n + 1)) = 256 * 2 ^ (8 * n) by rw [Nat.mul_succ, Nat.pow_add]; omega]
    have hd : (f n).val.toNat + 1 ≤ 256 := (f n).val.isLt
    have := Nat.mul_le_mul_right (2 ^ (8 * n)) hd
    rw [Nat.add_mul] at this
    omega

/-- The digits of a number that bytes spell are those bytes. -/
theorem byte_numOfBytes (f : Nat → PByte) (n i : Nat) (hi : i < n) :
    BitVec.ofNat 8 (numOfBytes ((List.range n).map f) / 2 ^ (8 * i)) = (f i).val := by
  induction n with
  | zero => omega
  | succ n ih =>
    rw [numOfBytes_succ]
    by_cases h : i = n
    · subst h
      rw [Nat.add_mul_div_right _ _ (Nat.two_pow_pos _), Nat.div_eq_of_lt (numOfBytes_lt f i), Nat.zero_add, BitVec.ofNat_toNat,
        BitVec.setWidth_eq]
    · have hin : i < n := by omega
      have hpow : (f n).val.toNat * 2 ^ (8 * n) = (f n).val.toNat * 2 ^ (8 * (n - i - 1)) * 256 * 2 ^ (8 * i) := by
        rw [show 8 * n = 8 * (n - i - 1) + 8 + 8 * i by omega, Nat.pow_add, Nat.pow_add]
        simp only [Nat.mul_assoc]
      rw [hpow, Nat.add_mul_div_right _ _ (Nat.two_pow_pos _), ← ih hin]
      refine BitVec.eq_of_toNat_eq ?_
      rw [BitVec.toNat_ofNat, BitVec.toNat_ofNat]
      omega

/-! ### Scratchpad at the point of an atomic (R334) -/

/-- The cohort's scratchpad holds v at the access, and elsewhere the bytes it held. -/
def Ctx.Holds (c : Ctx) (w : FM) (a : Access) (v : Nat) (t : State) : Prop :=
  w.space = true → ∃ co, t.cohort? c.g.cohort = some co ∧
    (co.readScratchBytes a.pa w.size.bytes).map (·.val) = (List.range w.size.bytes).map (fun i => BitVec.ofNat 8 (v / 2 ^ (8 * i))) ∧
    ∀ b, (b < a.pa ∨ a.pa + w.size.bytes ≤ b) → (co.readScratch b).val = (c.co.readScratch b).val

theorem Cohort.readScratch_valueBytes_same (co : Cohort) (pa n v : Nat) (pois : Option Tag) (writer : Option (Nat × Nat)) {i : Nat}
    (hi : i < n) : ((co.writeScratch (valueBytes pa n v pois writer)).readScratch (pa + i)).val = BitVec.ofNat 8 (v / 2 ^ (8 * i)) := by
  show Memory.read (storeBytes co.scratch (valueBytes pa n v pois writer)) (pa + i) = _
  rw [read_storeBytes]
  refine lastByte_eq ⟨_, List.mem_map.2 ⟨i, List.mem_range.2 hi, rfl⟩, rfl⟩ (fun b hb e => ?_) _
  obtain ⟨j, -, rfl⟩ := List.mem_map.1 hb
  obtain rfl : j = i := Nat.add_left_cancel e
  rfl

theorem Cohort.readScratch_valueBytes_other (co : Cohort) (pa n v : Nat) (pois : Option Tag) (writer : Option (Nat × Nat)) {b : Nat}
    (hb : b < pa ∨ pa + n ≤ b) : ((co.writeScratch (valueBytes pa n v pois writer)).readScratch b).val = (co.readScratch b).val := by
  show Memory.read (storeBytes co.scratch (valueBytes pa n v pois writer)) b = _
  rw [read_storeBytes]
  refine lastByte_other (fun x hx e => ?_) _
  obtain ⟨i, hi, rfl⟩ := List.mem_map.1 hx
  have hi' : i < n := List.mem_range.1 hi
  dsimp only at e
  omega

namespace Ctx.Holds

variable {s : State} {c : Ctx} {w : FM} {a : Access} {v : Nat}

/-- A write at the point of the access leaves its value there. -/
theorem of_write {t : State} (hco : t.cohort? c.g.cohort = some c.co) (pois : Option Tag) : c.Holds w a v (t.pointWrite c w a v pois) := by
  intro hspace
  have hwrite : t.pointWrite c w a v pois =
      t.writeScratch c.g.cohort (valueBytes a.pa w.size.bytes v pois (some (c.g.gid, a.lane))) := by
    unfold State.pointWrite
    rw [hspace]
    rfl
  rw [hwrite]
  refine ⟨_, State.cohort?_writeScratch hco _, ?_, fun b hb => Cohort.readScratch_valueBytes_other _ _ _ _ _ _ hb⟩
  unfold Cohort.readScratchBytes
  rw [List.map_map]
  exact List.map_congr_left fun i hi => Cohort.readScratch_valueBytes_same _ _ _ _ _ _ (List.mem_range.1 hi)

/-- Where nothing is written the access's bytes spell what is read there. -/
theorem of_read {t : State} (hc : s.ctx? = some c) (hco : t.cohort? c.g.cohort = some c.co) :
    c.Holds w a (numOfBytes (s.pointRead c w a).1) t := by
  intro hspace
  have hread : (s.pointRead c w a).1 = c.co.readScratchBytes a.pa w.size.bytes := by
    unfold State.pointRead
    rw [if_pos hspace, State.ctx?_cohort hc]
    rfl
  rw [hread]
  refine ⟨_, hco, ?_, fun _ _ => rfl⟩
  unfold Cohort.readScratchBytes
  rw [List.map_map]
  exact List.map_congr_left fun i hi => (byte_numOfBytes (fun i => c.co.readScratch (a.pa + i)) _ _ (List.mem_range.1 hi)).symm

/-- What leaves scratchpads alone keeps what is held. -/
theorem keep {t u : State} (h : c.Holds w a v t)
    (hu : ∀ k, (u.cohort? k).map Cohort.sansNotes = (t.cohort? k).map Cohort.sansNotes) : c.Holds w a v u := by
  intro hspace
  obtain ⟨co, hco, hval, hother⟩ := h hspace
  have hk := hu c.g.cohort
  rw [hco, Option.map_some, Option.map_eq_some_iff] at hk
  obtain ⟨co', hco', heq⟩ := hk
  have hscratch : co'.sansNotes.scratch = co.sansNotes.scratch := by rw [heq]
  have hread : ∀ b, (co'.readScratch b).val = (co.readScratch b).val := fun b => by
    exact congrArg (Memory.read · b) hscratch
  refine ⟨co', hco', ?_, fun b hb => (hread b).trans (hother b hb)⟩
  rw [← hval]
  unfold Cohort.readScratchBytes
  rw [List.map_map, List.map_map]
  exact List.map_congr_left fun i _ => hread _

end Ctx.Holds

end Sys2Proof.Machine
end

section
namespace Sys2Proof.Machine

/-! ### The lane step of an atomic (R231, R334) -/

/-- The group after a lane's result went to DST, or into the fill that will deliver it. -/
def Group.resulted (g : Group) (c : Ctx) (w : FM) (wide : Bool) (fill : Option Nat) (r : LaneResult) : Group :=
  match fill with
  | none => g.writeDst c.handler w.dst wide false [r]
  | some id => { g with fills := g.fills.map (fun f =>
      if f.id = id then { f with writes := f.writes ++ regWrites c.handler w.dst wide false [r] } else f) }

theorem Group.resulted_none (g : Group) (rs : List Reservation) (c : Ctx) (w : FM) (wide : Bool) (r : LaneResult) :
    { g with resv := rs }.resulted c w wide none r = { g with resv := rs, regs := (g.writeDst c.handler w.dst wide false [r]).regs } :=
  g.writeDst_one rs c.handler w.dst wide false r

/-- A result changes values or a fill, and leaves the slices and the reservations. -/
theorem Group.resulted_frame (g : Group) (rs : List Reservation) (c : Ctx) (w : FM) (wide : Bool) (fill : Option Nat) (r : LaneResult) :
    let g' := { g with resv := rs }.resulted c w wide fill r
    g'.gid = g.gid ∧ g'.slices = g.slices ∧ g'.resv = rs := by
  cases fill with
  | none =>
    rw [Group.resulted_none]
    exact ⟨rfl, rfl, rfl⟩
  | some id => exact ⟨rfl, rfl, rfl⟩

theorem State.atomicResult_spec {s : State} {c : Ctx} {g : Group} (w : FM) (o : AtomicOp) (rs : List Reservation) (fill : Option Nat)
    (r : LaneResult) (h : s.group? c.g.gid = some { g with resv := rs }) :
    (s.atomicResult c w o fill r).group? c.g.gid = some ({ g with resv := rs }.resulted c w o.wide fill r) ∧
    OnlyGroup s (s.atomicResult c w o fill r) c.g.gid := by
  have hspec := State.onGroup_spec (fun g => g.resulted c w o.wide fill r) h (Group.resulted_frame g rs c w o.wide fill r).1
  cases fill <;> exact hspec

/-- The group after one lane's step of an atomic: its result is where it belongs, and the path falls through, waits for the fill,
or waits for the next lane's step. -/
structure Acted (c : Ctx) (w : FM) (o : AtomicOp) (mark : Nat) (rest : List Access) (fill : Option Nat) (regs : List Nat)
    (r : LaneResult) (g : Group) : Prop where
  direct : fill = none → g.regs.v = (c.g.writeDst c.handler w.dst o.wide false [r]).regs.v
  filled : ∀ id, fill = some id → g.regs.v = c.g.regs.v ∧ g.fills = c.g.fills.map (fun f => if f.id = id then
    { f with writes := f.writes ++ regWrites c.handler w.dst o.wide false [r], wait := if rest = [] then .ready else f.wait } else f)
  ends : rest = [] → fill = none → Advanced c g o.opc w.words
  waits : rest = [] → ∀ id, fill = some id → ∀ i ∈ c.slices, g.sliceAt i = { c.g.sliceAt i with wait := .filling id }
  goesOn : rest ≠ [] → ∃ acq', ∀ i ∈ c.slices, g.sliceAt i = { c.g.sliceAt i with wait := .atomic mark rest fill acq' regs }

/-- Where the fill that takes the last result is ready, one change of it says both. -/
theorem fills_ready (fs : List Fill) (id : Nat) (ws : List RegWrite) :
    (fs.map (fun f => if f.id = id then { f with writes := f.writes ++ ws } else f)).map (fun f =>
      if f.id = id then { f with wait := .ready } else f) =
    fs.map (fun f => if f.id = id then { f with writes := f.writes ++ ws, wait := .ready } else f) := by
  rw [List.map_map]
  refine List.map_congr_left fun f _ => ?_
  by_cases h : f.id = id <;> simp [h]

section
variable {s t : State} {c : Ctx} {w : FM} {o : AtomicOp} {mark : Nat} {a : Access} {rest : List Access} {fill : Option Nat} {acq : Bool}
  {regs : List Nat} {r : LaneResult} {rs : List Reservation} (hc : s.ctx? = some c)
  (ht : t.group? c.g.gid = some { c.g with resv := rs })
include hc ht

/-- After the last lane's step an atomic ends, or waits for its fill. -/
theorem State.atomicEnd_acted :
    Answers ((t.atomicResult c w o fill r).atomicEnd c w o fill acq) (fun u => u.waited = false ∧ OnlyCaches t u c.g.gid ∧
      ∃ g, u.group? c.g.gid = some g ∧ g.resv = rs ∧ Acted c w o mark [] fill regs r g) := by
  obtain ⟨hg1, ho1⟩ := State.atomicResult_spec w o rs fill r ht
  obtain ⟨-, hslices, hresv⟩ := Group.resulted_frame c.g rs c w o.wide fill r
  set t1 := t.atomicResult c w o fill r
  have hacq : CopiesOnly t1 (if acq then t1.acquire c.g.core w.scope else t1) := by
    split
    · exact CopiesOnly.acquire t1 _ _
    · rfl
  have hg2 := (hacq.group? c.g.gid).trans hg1
  have ho2 := (OnlyCaches.of_onlyGroup ho1).trans (hacq.onlyCaches c.g.gid)
  unfold State.atomicEnd
  dsimp only
  cases fill with
  | none =>
    obtain ⟨u, hu, hw, ho, g, hg, heq, hadv⟩ := State.finish_caches o.opc w.words hc hg2 hslices ho2
    refine ⟨u, hu, hw, ho, g, hg, by rw [heq]; exact hresv, ?_⟩
    exact { direct := fun _ => by rw [heq, Group.resulted_none]
            filled := fun id h => nomatch h
            ends := fun _ _ => hadv
            waits := fun _ id h => nomatch h
            goesOn := fun h => absurd rfl h }
  | some id =>
    obtain ⟨hg3, ho3⟩ := State.onGroup_spec (fun g => { g with fills := g.fills.map (fun f =>
      if f.id = id then { f with wait := .ready } else f) }) hg2 rfl
    obtain ⟨ho4, g, hg4, heq, hin, -⟩ := State.setWait_spec (.filling id) hc hg3 hslices
    refine ⟨_, rfl, rfl, ho2.trans (OnlyCaches.of_onlyGroup ((ho3.trans ho4).trans (OnlyGroup.waited _ _ _))), g, hg4,
      by rw [heq]; exact hresv, ?_⟩
    exact { direct := fun h => nomatch h
            filled := fun id' h => by
              cases h
              rw [heq]
              exact ⟨rfl, fills_ready _ _ _⟩
            ends := fun _ h => nomatch h
            waits := fun _ id' h => by cases h; exact hin
            goesOn := fun h => absurd rfl h }

/-- With a lane left, an atomic waits for its step. -/
theorem State.atomicNext_acted (hrest : rest ≠ []) :
    Answers (((t.atomicResult c w o fill r).setWait c (.atomic mark rest fill acq regs)).done) (fun u => u.waited = false ∧
      OnlyCaches t u c.g.gid ∧ ∃ g, u.group? c.g.gid = some g ∧ g.resv = rs ∧ Acted c w o mark rest fill regs r g) := by
  obtain ⟨hg1, ho1⟩ := State.atomicResult_spec w o rs fill r ht
  obtain ⟨-, hslices, hresv⟩ := Group.resulted_frame c.g rs c w o.wide fill r
  obtain ⟨ho2, g, hg, heq, hin, -⟩ := State.setWait_spec (.atomic mark rest fill acq regs) hc hg1 hslices
  refine ⟨_, rfl, rfl, OnlyCaches.of_onlyGroup ((ho1.trans ho2).trans (OnlyGroup.waited _ _ _)), g, hg,
    by rw [heq]; exact hresv, ?_⟩
  exact { direct := fun h => by rw [heq, h, Group.resulted_none]
          filled := fun id h => by
            subst h
            rw [heq]
            simp only [if_neg hrest]
            exact ⟨rfl, rfl⟩
          ends := fun h => absurd h hrest
          waits := fun h => absurd h hrest
          goesOn := fun _ => ⟨acq, hin⟩ }

end

/-- One issue of an atomic whose way is clear takes one lane's step. -/
theorem State.atomic_acts {s : State} {c : Ctx} {w : FM} {o : AtomicOp} {mark : Nat} {a : Access} {rest : List Access} {fill : Option Nat}
    {acq : Bool} {regs : List Nat} {rs : List Reservation} (hc : s.ctx? = some c)
    (hwait : c.head.wait = .atomic mark (a :: rest) fill acq regs) (hready : s.atomicReady c.g mark w.scope = true)
    (hblocked : s.atomicBlocked c w a = false) (hstep : (o.step s c a).2.2.group? c.g.gid = some { c.g with resv := rs }) :
    Answers (s.atomic w o) (fun t => t.waited = false ∧ OnlyCaches (o.step s c a).2.2 t c.g.gid ∧ ∃ g, t.group? c.g.gid = some g ∧
      g.resv = rs ∧ Acted c w o mark rest fill regs (o.step s c a).1 g) := by
  have hrun : s.atomic w o = if rest.isEmpty
      then ((o.step s c a).2.2.atomicResult c w o fill (o.step s c a).1).atomicEnd c w o fill (acq || (o.step s c a).2.1)
      else (((o.step s c a).2.2.atomicResult c w o fill (o.step s c a).1).setWait c
        (.atomic mark rest fill (acq || (o.step s c a).2.1) regs)).done := by
    unfold State.atomic
    rw [State.issue_ctx _ hc]
    dsimp only
    rw [hwait]
    dsimp only
    rw [hready, hblocked]
    rfl
  rw [hrun]
  cases rest with
  | nil => exact State.atomicEnd_acted hc hstep
  | cons b rest => exact State.atomicNext_acted hc hstep (List.cons_ne_nil b rest)

end Sys2Proof.Machine
end

section
namespace Sys2Proof.Machine

/-! ### ATOM, CAS and SC (R232, R233, R235) -/

/-- The result of an atomic is in DST, or in the fill that will deliver it. -/
def Ctx.Resulted (c : Ctx) (w : FM) (wide : Bool) (rest : List Access) (fill : Option Nat) (r : LaneResult) (g : Group) : Prop :=
  match fill with
  | none => g.regs.v = (c.g.writeDst c.handler w.dst wide false [r]).regs.v
  | some id => g.regs.v = c.g.regs.v ∧ g.fills = c.g.fills.map (fun f => if f.id = id then
      { f with writes := f.writes ++ regWrites c.handler w.dst wide false [r], wait := if rest = [] then .ready else f.wait } else f)

theorem Acted.result {c : Ctx} {w : FM} {o : AtomicOp} {mark : Nat} {rest : List Access} {fill : Option Nat} {regs : List Nat}
    {r : LaneResult} {g : Group} (h : Acted c w o mark rest fill regs r g) : c.Resulted w o.wide rest fill r g := by
  cases fill with
  | none => exact h.direct rfl
  | some id => exact h.filled id rfl

section
variable {s : State} {c : Ctx} (hc : s.ctx? = some c)
include hc

/-- A read-modify-write takes reservations of the group at most, and leaves its new value or the one it read. -/
theorem State.atomStep_spec (w : FM) (a : Access) (new : Nat → Option Nat) :
    (s.atomStep c w a new).1 = (numOfBytes (s.pointRead c w a).1, poisOfBytes (s.pointRead c w a).1) ∧
    (∃ rs, (s.atomStep c w a new).2.group? c.g.gid = some { c.g with resv := rs }) ∧
    c.Holds w a ((new (numOfBytes (s.pointRead c w a).1)).getD (numOfBytes (s.pointRead c w a).1)) (s.atomStep c w a new).2 := by
  have hread := s.pointRead_copies c w a
  have hco : (s.pointRead c w a).2.cohort? c.g.cohort = some c.co := (hread.cohort? _).trans (State.ctx?_cohort hc)
  have hg : (s.pointRead c w a).2.group? c.g.gid = some c.g := (hread.group? _).trans (State.ctx?_group hc)
  unfold State.atomStep
  cases hnew : new (numOfBytes (s.pointRead c w a).1) with
  | none =>
    simp only [hnew, true_and]
    exact ⟨⟨c.g.resv, hg⟩, Ctx.Holds.of_read hc hco⟩
  | some v =>
    simp only [hnew, true_and]
    exact ⟨(State.pointWrite_shed _ c w a v _).group?_some hg, Ctx.Holds.of_write hco _⟩

/-- SC writes where the lane's reservation holds, and clears the lane's reservations in any case. -/
theorem State.scStep_spec (w : FM) (a : Access) :
    (s.scStep c w a).1 = (a.lane, if c.g.reserved w a then 0 else 1, none) ∧
    (∃ rs, (s.scStep c w a).2.group? c.g.gid = some { c.g with resv := rs } ∧ ∀ r ∈ rs, r.lane ≠ a.lane) ∧
    c.Holds w a (if c.g.reserved w a then a.data w else numOfBytes (s.pointRead c w a).1) (s.scStep c w a).2 := by
  have hread := s.pointRead_copies c w a
  have hclear : ∀ {t : State} {rs : List Reservation}, t.group? c.g.gid = some { c.g with resv := rs } →
      ∃ rs, (t.onGroup c.g.gid (fun g => { g with resv := g.resv.filter (fun r => r.lane != a.lane) })).group? c.g.gid =
        some { c.g with resv := rs } ∧ ∀ r ∈ rs, r.lane ≠ a.lane := fun {t rs} ht =>
    ⟨_, (State.onGroup_spec _ ht rfl).1, fun r hr => by simpa using (List.mem_filter.1 hr).2⟩
  have hkeep : ∀ {t : State} {v : Nat}, c.Holds w a v t →
      c.Holds w a v (t.onGroup c.g.gid (fun g => { g with resv := g.resv.filter (fun r => r.lane != a.lane) })) := fun {t v} h =>
    h.keep fun k => by rw [State.onGroup_frame]; rfl
  unfold State.scStep
  rw [State.ctx?_group hc]
  cases hgood : c.g.reserved w a with
  | false =>
    simp only [Option.map_some, Option.getD_some, hgood, true_and]
    exact ⟨hclear (rs := c.g.resv) (State.ctx?_group hc), hkeep (Ctx.Holds.of_read hc (State.ctx?_cohort hc))⟩
  | true =>
    simp only [Option.map_some, Option.getD_some, hgood, true_and]
    obtain ⟨rs, hrs⟩ := (State.pointWrite_shed (s.pointRead c w a).2 c w a (a.data w)
      (mergePois (poisOfBytes (s.pointRead c w a).1) a.pois)).group?_some ((hread.group? _).trans (State.ctx?_group hc))
    exact ⟨hclear hrs, hkeep (Ctx.Holds.of_write ((hread.cohort? _).trans (State.ctx?_cohort hc)) _)⟩

end

section
variable {w : FM} {s : State} {c : Ctx} {mark : Nat} {a : Access} {rest : List Access} {fill : Option Nat} {acq : Bool} {regs : List Nat}
  (hc : s.ctx? = some c) (hwait : c.head.wait = .atomic mark (a :: rest) fill acq regs)
  (hready : s.atomicReady c.g mark w.scope = true) (hblocked : s.atomicBlocked c w a = false)
include hc hwait hready hblocked

/-- A lane's step of an atomic whose own step is known: its value stands in scratchpad, and the group has its result. -/
theorem State.atomic_steps {o : AtomicOp} {r : LaneResult} {v : Nat} {rs : List Reservation} (hr : (o.step s c a).1 = r)
    (hstep : (o.step s c a).2.2.group? c.g.gid = some { c.g with resv := rs }) (hholds : c.Holds w a v (o.step s c a).2.2) :
    Answers (s.atomic w o) (fun t => t.waited = false ∧ c.Holds w a v t ∧ ∃ g, t.group? c.g.gid = some g ∧ g.resv = rs ∧
      Acted c w o mark rest fill regs r g) := by
  obtain ⟨t, ht, hw, ⟨-, -, hcohorts, -, -⟩, hgroup⟩ := State.atomic_acts hc hwait hready hblocked hstep
  rw [hr] at hgroup
  exact ⟨t, ht, hw, hholds.keep hcohorts, hgroup⟩

theorem execAtom_steps :
    Answers (exec (.atom w) s) (fun t => t.waited = false ∧
      c.Holds w a (atomOp w.ioff.toNat (8 * w.size.bytes) (numOfBytes (s.pointRead c w a).1) (a.data w)) t ∧
      ∃ g, t.group? c.g.gid = some g ∧ Acted c w (atomAtomic w s) mark rest fill regs
        (a.lane, BitVec.ofNat 64 (numOfBytes (s.pointRead c w a).1), poisOfBytes (s.pointRead c w a).1) g) := by
  obtain ⟨hresult, ⟨rs, hrs⟩, hholds⟩ := State.atomStep_spec hc w a
    (fun old => some (atomOp w.ioff.toNat (8 * w.size.bytes) old (a.data w)))
  have hr : ((atomAtomic w s).step s c a).1 =
      (a.lane, BitVec.ofNat 64 (numOfBytes (s.pointRead c w a).1), poisOfBytes (s.pointRead c w a).1) := by
    unfold atomAtomic
    dsimp only
    rw [hresult]
  obtain ⟨t, ht, hw, hh, g, hg, -, hacted⟩ := State.atomic_steps hc hwait hready hblocked hr hrs hholds
  exact ⟨t, ht, hw, hh, g, hg, hacted⟩

theorem execCas_steps :
    Answers (exec (.cas w) s) (fun t => t.waited = false ∧
      c.Holds w a (if numOfBytes (s.pointRead c w a).1 = a.expected w then a.data w else numOfBytes (s.pointRead c w a).1) t ∧
      ∃ g, t.group? c.g.gid = some g ∧ Acted c w (casAtomic w s) mark rest fill regs
        (a.lane, BitVec.ofNat 64 (numOfBytes (s.pointRead c w a).1), poisOfBytes (s.pointRead c w a).1) g) := by
  obtain ⟨hresult, ⟨rs, hrs⟩, hholds⟩ := State.atomStep_spec hc w { a with pois := c.casNewPois w a }
    (fun old => if old = a.expected w then some (a.data w) else none)
  have hr : ((casAtomic w s).step s c a).1 =
      (a.lane, BitVec.ofNat 64 (numOfBytes (s.pointRead c w a).1), poisOfBytes (s.pointRead c w a).1) := by
    unfold casAtomic
    dsimp only
    rw [hresult]
    rfl
  have hvalue : c.Holds w a (if numOfBytes (s.pointRead c w a).1 = a.expected w then a.data w else numOfBytes (s.pointRead c w a).1)
      ((casAtomic w s).step s c a).2.2 := by
    by_cases hwon : numOfBytes (s.pointRead c w a).1 = a.expected w
    · rw [if_pos hwon]
      rw [show numOfBytes (s.pointRead c w { a with pois := c.casNewPois w a }).1 = a.expected w from hwon, if_pos rfl] at hholds
      exact hholds
    · rw [if_neg hwon]
      rw [if_neg (show ¬ numOfBytes (s.pointRead c w { a with pois := c.casNewPois w a }).1 = a.expected w from hwon)] at hholds
      exact hholds
  obtain ⟨t, ht, hw, hh, g, hg, -, hacted⟩ := State.atomic_steps hc hwait hready hblocked hr hrs hvalue
  exact ⟨t, ht, hw, hh, g, hg, hacted⟩

theorem execSc_steps :
    Answers (exec (.sc w) s) (fun t => t.waited = false ∧
      c.Holds w a (if c.g.reserved w a then a.data w else numOfBytes (s.pointRead c w a).1) t ∧
      ∃ g, t.group? c.g.gid = some g ∧ (∀ r ∈ g.resv, r.lane ≠ a.lane) ∧ Acted c w (scAtomic w s) mark rest fill regs
        (a.lane, BitVec.ofNat 64 (if c.g.reserved w a then 0 else 1), none) g) := by
  obtain ⟨hresult, ⟨rs, hrs, hlanes⟩, hholds⟩ := State.scStep_spec hc w a
  have hr : ((scAtomic w s).step s c a).1 = (a.lane, BitVec.ofNat 64 (if c.g.reserved w a then 0 else 1), none) := by
    refine hresult.trans ?_
    cases c.g.reserved w a <;> rfl
  obtain ⟨t, ht, hw, hh, g, hg, hresv, hacted⟩ := State.atomic_steps hc hwait hready hblocked hr hrs hholds
  exact ⟨t, ht, hw, hh, g, hg, hresv ▸ hlanes, hacted⟩

end

/-- Settles O14: the checks and the commit of the first issue, one lane's step, the end with no lane left, and the end of a fill;
each is said once of every atomic, and the three steps by what they read and write. -/
theorem atomicsComplete : Obligations.AtomicsComplete := by
  unfold Obligations.AtomicsComplete
  intro w s c hc
  refine ⟨fun hloop hatomic hfilling => ⟨fun s1 accs hpass hreach => ?_, fun s1 accs hpass hreach => ?_, fun s1 accs hpass hreach => ?_⟩,
    fun mark a rest fill acq regs hwait hready hblocked => ⟨?_, ?_, ?_⟩,
    fun mark acq regs hwait hready => ⟨State.atomic_ends (o := atomAtomic w s) hc hwait hready,
      State.atomic_ends (o := casAtomic w s) hc hwait hready, State.atomic_ends (o := scAtomic w s) hc hwait hready⟩,
    fun k hwait hfills => ⟨State.atomic_filled (o := atomAtomic w s) hc hwait hfills,
      State.atomic_filled (o := casAtomic w s) hc hwait hfills, State.atomic_filled (o := scAtomic w s) hc hwait hfills⟩⟩
  · exact State.atomic_begins (o := atomAtomic w s) hc hloop hatomic hfilling hpass hreach
  · exact State.atomic_begins (o := casAtomic w s) hc hloop hatomic hfilling hpass hreach
  · exact State.atomic_begins (o := scAtomic w s) hc hloop hatomic hfilling hpass hreach
  · obtain ⟨t, ht, hw, hholds, g, hg, hacted⟩ := execAtom_steps hc hwait hready hblocked
    exact ⟨t, ht, hw, hholds, g, hg, hacted.result, ⟨hacted.ends, hacted.waits, hacted.goesOn⟩, trivial⟩
  · obtain ⟨t, ht, hw, hholds, g, hg, hacted⟩ := execCas_steps hc hwait hready hblocked
    exact ⟨t, ht, hw, hholds, g, hg, hacted.result, ⟨hacted.ends, hacted.waits, hacted.goesOn⟩, trivial⟩
  · obtain ⟨t, ht, hw, hholds, g, hg, hlanes, hacted⟩ := execSc_steps hc hwait hready hblocked
    exact ⟨t, ht, hw, hholds, g, hg, hacted.result, ⟨hacted.ends, hacted.waits, hacted.goesOn⟩, hlanes⟩

end Sys2Proof.Machine
end

section
namespace Sys2Proof

/-! ### The widths of TYPE (R63, R162) -/

theorem Ty.width_pos (t : Ty) : 0 < t.width := by cases t <;> decide
theorem Ty.width_le (t : Ty) : t.width ≤ 64 := by cases t <;> decide
theorem Ty.wide_iff (t : Ty) : t.wide = true ↔ t.width = 64 := beq_iff_eq

end Sys2Proof
end

section
namespace Sys2Proof.Machine

/-! ### Integers at the width of TYPE (R146, R165) -/

/-- The value is one of an integer format of n bits (R146). -/
def FitsInt (signed : Bool) (n : Nat) (y : Int) : Prop := intLo signed n ≤ y ∧ y ≤ intHi signed n

theorem FitsInt.mono {signed : Bool} {n m : Nat} {y : Int} (h : FitsInt signed n y) (hnm : n ≤ m) : FitsInt signed m y := by
  have hfull : (2 : Int) ^ n ≤ 2 ^ m := pow_le_pow_right₀ (by decide) hnm
  have hhalf : (2 : Int) ^ (n - 1) ≤ 2 ^ (m - 1) := pow_le_pow_right₀ (by decide) (by omega)
  obtain ⟨hlo, hhi⟩ := h
  cases signed with
  | false => exact ⟨hlo, hhi.trans (sub_le_sub_right hfull 1)⟩
  | true => exact ⟨(neg_le_neg hhalf).trans hlo, hhi.trans (sub_le_sub_right hhalf 1)⟩

/-- A code read as an integer is the bit vector of its low n bits, read by the signedness. -/
theorem readInt_eq (signed : Bool) {n : Nat} (hn : 0 < n) (x : Nat) :
    readInt signed n x = if signed then (BitVec.ofNat n x).toInt else ((BitVec.ofNat n x).toNat : Int) := by
  obtain ⟨k, rfl⟩ := Nat.exists_eq_succ_of_ne_zero hn.ne'
  have hpow : (2 : Nat) ^ (k + 1) = 2 * 2 ^ k := by rw [pow_succ, mul_comm]
  cases signed with
  | false => simp [readInt]
  | true =>
    simp only [readInt, BitVec.toInt_eq_toNat_cond, BitVec.toNat_ofNat, Bool.true_and, if_true, decide_eq_true_eq,
      Nat.succ_eq_add_one, Nat.add_sub_cancel]
    by_cases hneg : 2 ^ k ≤ x % 2 ^ (k + 1)
    · rw [if_pos hneg, if_neg (by omega)]
      push_cast
      rfl
    · rw [if_neg hneg, if_pos (by omega)]

theorem readInt_fits (signed : Bool) {n : Nat} (hn : 0 < n) (x : Nat) : FitsInt signed n (readInt signed n x) := by
  rw [readInt_eq signed hn]
  cases signed with
  | false =>
    have hlt : ((BitVec.ofNat n x).toNat : Int) < 2 ^ n := by exact_mod_cast (BitVec.ofNat n x).isLt
    exact ⟨Int.natCast_nonneg _, Int.le_sub_one_of_lt hlt⟩
  | true => exact ⟨BitVec.le_toInt _, Int.le_sub_one_of_lt BitVec.toInt_lt⟩

theorem readInt_modEq (signed : Bool) (n x : Nat) : readInt signed n x ≡ x [ZMOD 2 ^ n] := by
  have hmod : ((x % 2 ^ n : Nat) : Int) ≡ x [ZMOD 2 ^ n] := by
    push_cast
    exact Int.mod_modEq _ _
  unfold readInt
  dsimp only
  split
  · exact (Int.sub_emod_right _ _).trans hmod
  · exact hmod

/-- Values of one format that agree modulo 2^n are equal. -/
theorem FitsInt.eq_of_modEq {signed : Bool} {n : Nat} {y z : Int} (hn : 0 < n) (hy : FitsInt signed n y) (hz : FitsInt signed n z)
    (h : y ≡ z [ZMOD 2 ^ n]) : y = z := by
  obtain ⟨k, rfl⟩ := Nat.exists_eq_succ_of_ne_zero hn.ne'
  have hpow : (2 : Int) ^ (k + 1) = 2 * 2 ^ k := by rw [pow_succ, mul_comm]
  have habs : |y - z| < 2 ^ (k + 1) := by
    obtain ⟨hy1, hy2⟩ := hy
    obtain ⟨hz1, hz2⟩ := hz
    rw [abs_lt]
    cases signed with
    | false => simp only [intLo, intHi, Bool.false_eq_true, if_false] at *; omega
    | true => simp only [intLo, intHi, if_true, Nat.succ_eq_add_one, Nat.add_sub_cancel] at *; omega
  exact sub_eq_zero.1 (Int.eq_zero_of_abs_lt_dvd h.symm.dvd habs)

/-- A value of an n-bit format survives the 64-bit word that carries it. -/
theorem readInt_ofInt {signed : Bool} {n : Nat} {y : Int} (hn : 0 < n) (hle : n ≤ 64) (h : FitsInt signed n y) :
    readInt signed n (BitVec.ofInt 64 y).toNat = y := by
  have hword : ((BitVec.ofInt 64 y).toNat : Int) ≡ y [ZMOD 2 ^ 64] := by
    rw [BitVec.toNat_ofInt, Int.toNat_of_nonneg (Int.emod_nonneg _ (by decide))]
    exact Int.mod_modEq _ _
  exact (readInt_fits signed hn _).eq_of_modEq hn h ((readInt_modEq signed n _).trans (hword.of_dvd (pow_dvd_pow 2 hle)))

theorem intLo_le_intHi (signed : Bool) (n : Nat) : intLo signed n ≤ intHi signed n := by
  have hfull : (0 : Int) < 2 ^ n := by positivity
  have hhalf : (0 : Int) < 2 ^ (n - 1) := by positivity
  cases signed with
  | false => simpa [intLo, intHi] using Int.le_sub_one_of_lt hfull
  | true => simp only [intLo, intHi, if_true]; omega

theorem clampInt_eq {lo hi : Int} (h : lo ≤ hi) (x : Int) : clampInt lo hi x = max lo (min hi x) := by
  unfold clampInt
  split
  · omega
  · split <;> omega

/-! ### The result of an integer instruction (R165) -/

/-- The exact result x wrapped modulo 2^n, or clamped under SAT: what `intResult` carries. -/
def intValue (t : Ty) (sat : Bool) (x : Int) : Int :=
  if sat then clampInt (intLo t.signed t.width) (intHi t.signed t.width) x else readInt t.signed t.width (wrapBits t.width x)

theorem intValue_clamped (t : Ty) (x : Int) :
    intValue t true x = max (intLo t.signed t.width) (min (intHi t.signed t.width) x) := clampInt_eq (intLo_le_intHi _ _) x

theorem intValue_wrapped (t : Ty) (x : Int) : intValue t false x ≡ x [ZMOD 2 ^ t.width] := by
  have hwrap : (wrapBits t.width x : Int) ≡ x [ZMOD 2 ^ t.width] := by
    unfold wrapBits
    rw [Int.toNat_of_nonneg (Int.emod_nonneg _ (by positivity))]
    exact Int.mod_modEq _ _
  exact (readInt_modEq t.signed t.width _).trans hwrap

theorem intValue_fits (t : Ty) (sat : Bool) (x : Int) : FitsInt t.signed t.width (intValue t sat x) := by
  cases sat with
  | false => exact readInt_fits t.signed t.width_pos _
  | true =>
    rw [intValue_clamped]
    exact ⟨le_max_left _ _, max_le (intLo_le_intHi _ _) (min_le_left _ _)⟩

theorem intOf_intResult (t : Ty) (sat : Bool) (x : Int) : intOf t (intResult t sat x) = intValue t sat x :=
  readInt_ofInt t.width_pos t.width_le (intValue_fits t sat x)

theorem intOf_eq (t : Ty) (a : Word64) :
    intOf t a = if t.signed then (a.setWidth t.width).toInt else ((a.setWidth t.width).toNat : Int) := by
  unfold intOf
  rw [readInt_eq t.signed t.width_pos, BitVec.ofNat_toNat]

/-- Up to 32 bits, the low 32-bit word of a result is the result extended by the signedness. -/
theorem intResult_word {t : Ty} (sat : Bool) (x : Int) (h : t.width ≤ 32) : intValue t sat x =
    if t.signed then ((intResult t sat x).setWidth 32).toInt else (((intResult t sat x).setWidth 32).toNat : Int) := by
  have hread := readInt_ofInt (by decide) (by decide) ((intValue_fits t sat x).mono h)
  rw [readInt_eq t.signed (by decide), BitVec.ofNat_toNat] at hread
  exact hread.symm

/-! ### One lane's result in its destination (R163, R164) -/

/-- One lane's result written: exactly it is. -/
theorem Group.writeDst_one_written (g : Group) (h : Bool) (dst : Spec) (wide signed : Bool) {l : Nat} (y : Word64) (p : Option Tag)
    (hl : l < 128) : Written g (g.writeDst h dst wide signed [(l, y, p)]) h dst wide signed [(l, y, p)] :=
  (Group.writeDst_spec g h dst wide signed [(l, y, p)] (List.nodup_singleton l) (by simpa using hl)).1

theorem Group.vWord_writeDst_one (g : Group) (h : Bool) (d : BitVec 7) (wide signed : Bool) {l : Nat} (y : Word64)
    (p : Option Tag) (hl : l < 128) :
    (g.writeDst h (.v d) wide signed [(l, y, p)]).vWord d.toNat l = ⟨y.setWidth 32, p⟩ ∧
    (g.writeDst h (.v d) wide signed [(l, y, p)]).vWord (d.toNat + 1) l =
      if wide then ⟨(y >>> 32).setWidth 32, p⟩ else g.vWord (d.toNat + 1) l := by
  obtain ⟨hv, -, -⟩ := g.writeDst_one_written h (.v d) wide signed y p hl
  exact ⟨by simp [hv _ _ hl, vAfter], by simp [hv _ _ hl, vAfter]⟩

theorem Group.sVal_writeDst_one (g : Group) (h : Bool) (d : BitVec 6) (wide signed : Bool) {l : Nat} (y : Word64)
    (p : Option Tag) (hl : l < 128) :
    ((g.writeDst h (.s d) wide signed [(l, y, p)]).sVal h d.toNat).val = uniformResult wide signed y := by
  obtain ⟨-, hs, -⟩ := g.writeDst_one_written h (.s d) wide signed y p hl
  simp [hs _ _ d.isLt, sAfter]

theorem setWidth_signExtend_word (x : Word32) : (x.signExtend 64).setWidth 32 = x := by
  ext i hi
  have hlt : i < 64 := by omega
  simp [BitVec.getElem_signExtend, hi, hlt]

/-- However an s register is filled, its low word is the result's. -/
theorem uniformResult_low (wide signed : Bool) (y : Word64) : (uniformResult wide signed y).setWidth 32 = y.setWidth 32 := by
  cases wide with
  | true => rfl
  | false =>
    cases signed with
    | true => exact setWidth_signExtend_word (y.setWidth 32)
    | false => exact BitVec.setWidth_setWidth_of_le (y.setWidth 32) (show 32 ≤ 64 by decide)

/-- Settles O2: a result is the one value of TYPE's range that agrees with its 64-bit word, so the narrower words agree too. -/
theorem integerResultsWrapOrClamp : Obligations.IntegerResultsWrapOrClamp := by
  unfold Obligations.IntegerResultsWrapOrClamp
  intro t sat x _ n lo hi y r
  have hr : r = intValue t sat x := intOf_intResult t sat x
  obtain ⟨hlo, hhi⟩ := intValue_fits t sat x
  refine ⟨intOf_eq t, hr ▸ hlo, hr ▸ hhi, fun hsat => ?_, fun hsat => ?_, fun hn => hr ▸ intResult_word sat x hn,
    fun g h l p hl => ⟨fun d _ => ?_, fun d => ?_⟩⟩
  · rw [hr, hsat]
    exact (intValue_wrapped t x).symm.dvd
  · rw [hr, hsat]
    exact intValue_clamped t x
  · obtain ⟨hlow, hhigh⟩ := g.vWord_writeDst_one h d t.wide t.signed y p hl
    simp only [Ty.wide_iff] at hhigh
    exact ⟨hlow, hhigh⟩
  · have hval := g.sVal_writeDst_one h d t.wide t.signed y p hl
    refine ⟨?_, fun hn => ?_⟩
    · rw [hval, uniformResult_low]
    · rw [hval, t.wide_iff.2 hn]
      rfl

end Sys2Proof.Machine
end

section
namespace Sys2Proof.Machine

/-! ### Prompt lane instructions (R163) -/

/-- Settles O1: each is a prompt lane instruction whose effect in one lane is the named operation on the operands' integers. -/
theorem integerArithmeticCompletes : Obligations.IntegerArithmeticCompletes := by
  unfold Obligations.IntegerArithmeticCompletes
  refine ⟨fun w => ⟨?iadd, ?isub, ?imul, ?imad, ?imulh, ?imnx, ?iabs⟩, fun w => ⟨?iaddI, ?isubI, ?imulI, ?imulhI, ?imnxI⟩⟩
  all_goals exact State.lane_completes (fun _ => rfl)

/-- Settles O3: each is a prompt lane instruction; LEA alone takes a 64-bit base and gives a 64-bit address at every TYPE. -/
theorem compareMoveAddressComplete : Obligations.CompareMoveAddressComplete := by
  unfold Obligations.CompareMoveAddressComplete
  refine ⟨fun w => ⟨?icmp, ?sel, ?mov, ?lea, ?idot4, ?idot8⟩, fun w => ⟨?icmpI, ?movi, ?leaI⟩⟩
  all_goals exact State.lane_completes (fun _ => rfl)

/-- Results written for the acting lanes, each in its own lane, complete the word. -/
theorem State.writeLanes_acting {s : State} {c : Ctx} (hc : s.ctx? = some c) (o : LaneOp) (gd : Guard) {f : Nat → LaneResult}
    (hf : ∀ l, (f l).1 = l) :
    Answers (s.writeLanes c o ((c.acting gd).map f)) (fun t => LaneAfter s t c o ((c.acting gd).map f)) := by
  refine State.writeLanes_spec hc o _ ?_ fun x hx => ?_
  · have hlanes : ((c.acting gd).map f).map (·.1) = c.acting gd := by
      rw [List.map_map, show (fun x => x.1) ∘ f = id from funext hf, List.map_id]
    rw [hlanes]
    exact Ctx.acting_nodup hc gd
  · obtain ⟨l, hl, rfl⟩ := List.mem_map.1 hx
    rw [hf]
    exact Ctx.acting_lt hc gd hl

/-- LXCH writes the exchanged values of its acting lanes, each with the poison of what it read (R178). -/
theorem exec_lxch_completes {w : F3} {s : State} {c : Ctx} (hc : s.ctx? = some c)
    (hpass : c.Passes { laneF3 w 0x087 w.legalLxch with bWide := false }.need) :
    Answers (exec (.lxch w) s) (fun t => LaneAfter s t c { laneF3 w 0x087 w.legalLxch with bWide := false }
      ((c.acting w.guard).map (lxchResult c s w))) := by
  show Answers (execLxch w s) _
  unfold execLxch
  rw [State.issue_ctx _ hc]
  dsimp only
  rw [State.gate_passes _ _ _ _ hpass]
  exact State.writeLanes_acting hc _ w.guard (fun _ => rfl)

/-- Settles O4: all but LXCH act on the operands of their own lane; LXCH reads a in another lane of the path. -/
theorem logicShiftFieldComplete : Obligations.LogicShiftFieldComplete := by
  unfold Obligations.LogicShiftFieldComplete
  refine ⟨fun w => ⟨?lop, ?shf, ?bfx, ?bfi, ?popc, ?clz, ?brev, ?lxch⟩, fun w => ⟨?lopI, ?shfI⟩⟩
  case lxch => exact fun s c hc hpass => exec_lxch_completes hc hpass
  all_goals exact State.lane_completes (fun _ => rfl)

/-- Settles O5: each is a prompt lane instruction on encodings, with the random word of its lane and element. -/
theorem floatArithmeticCompletes : Obligations.FloatArithmeticCompletes := by
  unfold Obligations.FloatArithmeticCompletes
  refine ⟨fun w => ⟨?fadd, ?fmul, ?ffma, ?fmnx, ?fcmp, ?fclass, ?hfma2, ?hadd2, ?hmul2⟩, fun w => ⟨?faddI, ?fmulI, ?fmnxI, ?fcmpI⟩⟩
  all_goals exact State.lane_completes (fun _ => rfl)

end Sys2Proof.Machine
end

section
namespace Sys2Proof.Machine

/-! ### Entries put into the store queue (R211, R406; log 20) -/

/-- An entry of no iteration goes to the end of the queue. -/
theorem SQEntry.queued_last {e : SQEntry} (h : e.iter = none) (sq : List SQEntry) : e.queued sq = sq ++ [e] := by
  have hnone : sq.reverse.takeWhile (fun _ => false) = [] := List.takeWhile_eq_nil_iff.2 fun _ => Bool.false_ne_true
  unfold SQEntry.queued
  simp only [h, hnone, List.length_nil, Nat.sub_zero, List.take_length, List.reverse_nil]

theorem SQEntry.length_queued (e : SQEntry) (sq : List SQEntry) : (e.queued sq).length = sq.length + 1 := by
  unfold SQEntry.queued
  dsimp only
  generalize (fun y : SQEntry => _) = younger
  have hle : (sq.reverse.takeWhile younger).length ≤ sq.length := by
    simpa using (List.takeWhile_prefix (l := sq.reverse) younger).length_le
  simp only [List.length_append, List.length_take, List.length_cons, List.length_reverse]
  omega

theorem Enqueued.refl (g : Group) (committed : Bool) : Enqueued g g committed [] :=
  ⟨rfl, fun _ hx => absurd hx List.not_mem_nil, fun _ he => he, fun _ => (List.append_nil _).symm⟩

theorem Enqueued.trans {g g1 g2 : Group} {committed : Bool} {es fs : List (Option Word32 × EntryOp)} (h1 : Enqueued g g1 committed es)
    (h2 : Enqueued g1 g2 committed fs) : Enqueued g g2 committed (es ++ fs) := by
  obtain ⟨len1, new1, old1, end1⟩ := h1
  obtain ⟨len2, new2, old2, end2⟩ := h2
  refine ⟨by rw [len2, len1, List.length_append, Nat.add_assoc], fun x hx => ?_, fun e he => old2 e (old1 e he), fun hnone => ?_⟩
  · rw [List.map_append, List.mem_append] at hx
    obtain hx | hx := hx
    · obtain ⟨e, he, rfl⟩ := List.mem_map.1 (new1 x hx)
      exact List.mem_map.2 ⟨e, old2 e he, rfl⟩
    · exact new2 x hx
  · rw [end2 fun e he => hnone e (List.mem_append_right _ he), end1 fun e he => hnone e (List.mem_append_left _ he), List.map_append,
      List.append_assoc]

/-- t is s with entries put into the store queue of a group, and nothing else changed. -/
def Puts (gid : Nat) (committed : Bool) (s t : State) (es : List (Option Word32 × EntryOp)) : Prop :=
  OnlyGroup s t gid ∧ ∀ g, s.group? gid = some g → ∃ sq, t.group? gid = some { g with sq := sq } ∧
    Enqueued g { g with sq := sq } committed es

namespace Puts

variable {gid : Nat} {committed : Bool}

theorem refl (s : State) : Puts gid committed s s [] := ⟨OnlyGroup.refl s gid, fun g hg => ⟨g.sq, hg, Enqueued.refl g committed⟩⟩

theorem trans {s t u : State} {es fs : List (Option Word32 × EntryOp)} (h1 : Puts gid committed s t es) (h2 : Puts gid committed t u fs) :
    Puts gid committed s u (es ++ fs) := by
  obtain ⟨o1, p1⟩ := h1
  obtain ⟨o2, p2⟩ := h2
  refine ⟨o1.trans o2, fun g hg => ?_⟩
  obtain ⟨sq1, hg1, hput1⟩ := p1 g hg
  obtain ⟨sq2, hg2, hput2⟩ := p2 _ hg1
  exact ⟨sq2, hg2, hput1.trans hput2⟩

/-- What each of a list of steps puts, all of them put. -/
theorem foldl {α : Type} {f : State → α → State} {es : α → List (Option Word32 × EntryOp)}
    (h : ∀ s x, Puts gid committed s (f s x) (es x)) (xs : List α) (s : State) :
    Puts gid committed s (xs.foldl f s) (xs.flatMap es) := by
  induction xs generalizing s with
  | nil => exact refl s
  | cons x xs ih => exact (h s x).trans (ih (f s x))

end Puts

/-- One piece of a beat is put into the queue. -/
theorem State.onGroup_queued_puts (s : State) (gid id place : Nat) (committed : Bool) (x : Option Word32 × EntryOp) :
    Puts gid committed s ({ s with nextUid := s.nextUid + 1 }.onGroup gid fun g =>
      { g with sq := SQEntry.queued ⟨id, place, committed && x.1.isNone, x.1, x.2⟩ g.sq }) [x] := by
  refine ⟨?_, fun g hg => ?_⟩
  · cases hg : s.group? gid with
    | none =>
      unfold State.onGroup
      rw [show State.group? { s with nextUid := s.nextUid + 1 } gid = none from hg]
      exact OnlyGroup.nextUid s gid _
    | some g => exact (OnlyGroup.nextUid s gid _).trans (State.onGroup_spec (s := { s with nextUid := s.nextUid + 1 }) _ hg rfl).2
  · refine ⟨_, (State.onGroup_spec (s := { s with nextUid := s.nextUid + 1 }) _ hg rfl).1, SQEntry.length_queued _ _, fun y hy => ?_,
      fun e he => SQEntry.mem_queued.2 (.inr he), fun hnone => ?_⟩
    · rw [List.mem_singleton.1 hy]
      exact List.mem_map.2 ⟨_, SQEntry.mem_queued.2 (.inl rfl), rfl⟩
    · rw [SQEntry.queued_last (hnone x (List.mem_singleton_self x)), List.map_append]
      rfl

/-- Beats put into the queue stand there, and nothing else changes. -/
theorem State.enqueue_puts (s : State) (gid : Nat) (committed : Bool) (bs : List Beat) :
    Puts gid committed s (s.enqueue gid committed bs) bs.flatten := by
  have hbeat : ∀ (s : State) (b : Beat), Puts gid committed s (b.foldl _ s) (b.flatMap fun x => [x]) := fun s b =>
    Puts.foldl (fun t x => State.onGroup_queued_puts t gid t.nextUid s.nextUid committed x) b s
  simp only [List.flatMap_singleton'] at hbeat
  rw [← List.flatMap_id']
  exact Puts.foldl hbeat bs s

end Sys2Proof.Machine
end

section
namespace Sys2Proof.Machine

/-! ### The locks that translations leave (R199, R252) -/

/-- t has the range locks of s, in every cluster. -/
def SameLocks (s t : State) : Prop := ∀ k, (t.cluster k).rlt = (s.cluster k).rlt

namespace SameLocks

theorem refl (s : State) : SameLocks s s := fun _ => rfl

theorem trans {s t u : State} (h1 : SameLocks s t) (h2 : SameLocks t u) : SameLocks s u := fun k => (h2 k).trans (h1 k)

theorem of_clusters {s t : State} (h : t.clusters = s.clusters) : SameLocks s t := fun k => by
  unfold State.cluster
  rw [h]

theorem setCluster (s : State) (k : Nat) (cl : Cluster) (h : cl.rlt = (s.cluster k).rlt) : SameLocks s (s.setCluster k cl) := fun j => by
  have hput : (s.setCluster k cl).cluster j = if j = k then cl else s.cluster j := SMap.get_put Cluster.reset s.clusters k j cl
  rw [hput]
  split
  · next e => rw [e, h]
  · rfl

theorem tlbInsert (s : State) (cap : Nat) (tlb : List TlbEntry) (e : TlbEntry) : SameLocks s (s.tlbInsert cap tlb e).1 :=
  of_clusters (by unfold State.tlbInsert; split <;> rfl)

theorem tlbFill (s : State) (core : Nat) (e : TlbEntry) : SameLocks s (s.tlbFill core e) := by
  have hinsert : ∀ {t cap tlb e'}, SameLocks s t → SameLocks s (State.tlbInsert t cap tlb e').1 := fun ht =>
    ht.trans (tlbInsert _ _ _ _)
  have hcore : ∀ {t n c}, SameLocks s t → SameLocks s (State.setCore t n c) := fun ht => ht.trans (of_clusters rfl)
  have hcluster : ∀ {t k cl}, SameLocks s t → cl.rlt = (State.cluster t k).rlt → SameLocks s (State.setCluster t k cl) :=
    fun ht hcl => ht.trans (setCluster _ _ _ hcl)
  unfold State.tlbFill
  dsimp only
  split
  · exact refl s
  · split
    · exact hcore (hinsert (refl s))
    · split
      · exact hcluster (hinsert (hcore (hinsert (refl s)))) rfl
      · exact hcluster (hinsert (hcluster (hinsert (hcore (hinsert (refl s)))) rfl)) rfl

theorem chargeWalk (s : State) (p : Part) (asid : BitVec 8) (va : Nat) : SameLocks s (s.chargeWalk p asid va) := by
  unfold State.chargeWalk
  split
  · exact refl s
  · exact foldl_keeps (SameLocks s) _ (fun t _ ht => ht.trans (of_clusters (by
      unfold State.chargeRead State.onPart
      split <;> rfl))) _ s (refl s)

theorem translate (s : State) (p : Part) (core : Nat) (asid : BitVec 8) (va : Nat) : SameLocks s (s.translate p core asid va).2 := by
  unfold State.translate
  dsimp only
  split
  · exact tlbFill s core _
  · split
    · exact (chargeWalk s p asid va).trans (tlbFill _ core _)
    all_goals exact chargeWalk s p asid va

theorem translateLane (s : State) (c : Ctx) (o : Operand) (x : Nat × Nat × Nat × Option Tag) :
    SameLocks s (s.translateLane c o x).2 := by
  unfold State.translateLane
  dsimp only
  split
  · exact refl s
  · exact translate s _ _ _ _

theorem translateLanes (s : State) (c : Ctx) (o : Operand) : SameLocks s (s.translateLanes c o).st := by
  unfold State.translateLanes
  refine foldl_keeps (fun acc : TransLanes => SameLocks s acc.st) _ (fun acc x h => ?_) _ _ (refl s)
  have := h.trans (translateLane acc.st c o x)
  dsimp only
  split <;> exact this

/-- A lock on global addresses is met by what the table holds alone. -/
theorem lockHit {s t : State} (h : SameLocks s t) (g : Group) (write : Bool) (a n : Nat) :
    t.lockHit g write false a n = s.lockHit g write false a n := by
  unfold State.lockHit
  dsimp only
  rw [h]
  rfl

end SameLocks

theorem Operand.Reaches.sameLocks {s s1 : State} {c : Ctx} {o : Operand} {accs : List Access} (h : o.Reaches c s s1 accs) :
    SameLocks s s1 := by
  obtain ⟨-, hglobal, hlocal, -⟩ := h
  by_cases hg : o.space = .global
  · obtain ⟨-, -, rfl, -⟩ := hglobal hg
    exact SameLocks.translateLanes s c o
  · obtain ⟨rfl, -⟩ := hlocal hg
    exact SameLocks.refl s1

/-! ### The accesses of an operand (R217) -/

/-- Each translated access is that of a lane, at its address. -/
theorem State.mem_translateLanes_ok {s : State} {c : Ctx} {o : Operand} {a : Access} (h : a ∈ (s.translateLanes c o).ok) :
    ∃ x ∈ o.lanes, a.lane = x.1 ∧ a.va = x.2.1 := by
  revert a
  unfold State.translateLanes
  refine List.foldlRecOn (motive := fun acc : TransLanes => ∀ {a}, a ∈ acc.ok → ∃ x ∈ o.lanes, a.lane = x.1 ∧ a.va = x.2.1) _ _
    (fun ha => absurd ha List.not_mem_nil) fun acc ih x hx => ?_
  dsimp only
  split
  · intro a ha
    obtain ha | ha := List.mem_append.1 ha
    · exact ih ha
    · rw [List.mem_singleton.1 ha]
      exact ⟨x, hx, rfl, rfl⟩
  · exact ih
  · exact ih

theorem Operand.Reaches.mem_lanes {s s1 : State} {c : Ctx} {o : Operand} {accs : List Access} (h : o.Reaches c s s1 accs) {a : Access}
    (ha : a ∈ accs) : ∃ x ∈ o.lanes, a.lane = x.1 ∧ a.va = x.2.1 := by
  obtain ⟨-, hglobal, hlocal, -⟩ := h
  by_cases hg : o.space = .global
  · obtain ⟨-, -, -, rfl⟩ := hglobal hg
    exact State.mem_translateLanes_ok ha
  · obtain ⟨-, rfl⟩ := hlocal hg
    obtain ⟨x, hx, rfl⟩ := List.mem_map.1 ha
    exact ⟨x, hx, rfl, rfl⟩

/-- An operand that passes its checks passes them also where no lock is asked. -/
theorem Operand.Reaches.unlocked {s s1 : State} {c : Ctx} {o : Operand} {accs : List Access} (h : o.Reaches c s s1 accs) :
    ({ o with locks := false }).Reaches c s s1 accs := by
  obtain ⟨hlanes, hglobal, hlocal, -⟩ := h
  exact ⟨hlanes, hglobal, hlocal, fun _ _ hl => Bool.noConfusion hl⟩

theorem FmOperand_lanes (c : Ctx) (s : State) (w : FM) (ioff : Nat) (write locks : Bool) (lanes : List Nat) :
    (FmOperand c s w ioff write locks lanes).lanes.map (·.1) = lanes := by
  unfold FmOperand
  dsimp only
  rw [List.map_map]
  refine (List.map_congr_left fun l _ => ?_).trans (List.map_id lanes)
  dsimp only [Function.comp]
  split <;> rfl

theorem fmNeed_guard (w : FM) (legal forbidden : Bool) (dst data : Nat) : (fmNeed w legal forbidden dst data).guard = w.guard := rfl

/-! ### ST and STS (R223, R224) -/

theorem State.withRoom_room {s : State} {c : Ctx} {n : Nat} (lanes : List Nat) (k : State → Result) (h : c.hasRoom n) :
    s.withRoom c lanes n k = k s := by
  obtain ⟨hunc, hall⟩ := h
  unfold State.withRoom
  rw [if_neg (by omega), if_neg (by omega)]

/-- The word fell through with entries put into its group's store queue as uncommitted. -/
def QueuesStores (s : State) (c : Ctx) (opc words : Nat) (es : List Beat) (t : State) : Prop :=
  t.waited = false ∧ OnlyCaches s t c.g.gid ∧ ∃ g, t.group? c.g.gid = some g ∧ g = { c.g with slices := g.slices, sq := g.sq } ∧
    Advanced c g opc words ∧ Enqueued c.g g false es.flatten

section
variable {w : FM} {s s1 : State} {c : Ctx} {accs : List Access} (hc : s.ctx? = some c)
include hc

/-- The end of a word whose entries have entered the queue. -/
theorem State.finish_stores {t : State} {es : List Beat} (opc words : Nat) (hs1 : Translates s s1)
    (ht : OnlyGroup (s1.enqueue c.g.gid false es) t c.g.gid)
    (hgt : t.group? c.g.gid = (s1.enqueue c.g.gid false es).group? c.g.gid) :
    Answers (t.finish c opc words) (QueuesStores s c opc words es) := by
  obtain ⟨ho, hput⟩ := s1.enqueue_puts c.g.gid false es
  obtain ⟨sq, hsq, hen⟩ := hput c.g ((hs1.frame.group? _).trans (State.ctx?_group hc))
  obtain ⟨u, hu, hw, hou, g, hg, heq, hadv⟩ := State.finish_caches opc words hc (hgt.trans hsq) rfl
    ((hs1.onlyCaches _).trans (OnlyCaches.of_onlyGroup (ho.trans ht)))
  have hgsq : g.sq = sq := by rw [heq]
  rw [← hgsq] at heq hen
  exact ⟨u, hu, hw, hou, g, hg, heq, hadv, hen⟩

theorem State.storeAll_stores (opc : Nat) (scratch : Bool) (hs1 : Translates s s1)
    (hroom : c.hasRoom (c.storeEntries w accs scratch).length) :
    Answers (s1.storeAll c w opc scratch accs) (QueuesStores s c opc w.words (c.storeEntries w accs scratch)) := by
  unfold State.storeAll
  dsimp only
  rw [State.withRoom_room _ _ hroom]
  exact State.finish_stores hc opc w.words hs1 (State.notePois_only _ _ _ _) (State.notePois_group? _ _ _ _)

theorem execSt_stores (hpass : c.Passes (fmNeed w w.legalSt true 1 (dataRegs w.size.bytes w.sc)))
    (hreach : (FmOperand c s w w.ioff.toNat true true (c.acting w.guard)).Reaches c s s1 accs)
    (hroom : c.hasRoom (c.storeEntries w accs w.space).length) :
    Answers (exec (.st w) s) (QueuesStores s c 0x141 w.words (c.storeEntries w accs w.space)) := by
  show Answers (execSt w s) _
  unfold execSt
  rw [State.issue_ctx _ hc, State.gate_passes _ _ _ _ hpass, fmNeed_guard, State.checkOperand_reaches _ hreach]
  exact State.storeAll_stores hc 0x141 w.space hreach.translates hroom

theorem execSts_stores (hpass : c.Passes (fmNeed w w.legalSts true 1 (dataRegs w.size.bytes w.sc)))
    (hreach : (stridedOperand c s w true (c.acting w.guard)).Reaches c s s1 accs)
    (hroom : c.hasRoom (c.storeEntries w accs true).length) :
    Answers (exec (.sts w) s) (QueuesStores s c 0x143 w.words (c.storeEntries w accs true)) := by
  show Answers (execSts w s) _
  unfold execSts
  rw [State.issue_ctx _ hc, State.gate_passes _ _ _ _ hpass, fmNeed_guard, State.checkOperand_reaches _ hreach]
  exact State.storeAll_stores hc 0x143 true hreach.translates hroom

end

/-! ### LDK (R225, R226) -/

theorem Operand.met_eq_nil {o : Operand} {p : Nat → Bool} (h : ∀ x ∈ o.lanes, p x.2.1 = false) : o.met p = [] := by
  unfold Operand.met
  rw [List.filter_eq_nil_iff.2 fun x hx => by rw [h x hx]; exact Bool.false_ne_true, List.map_nil]

theorem FM.space_of_legalLdk {w : FM} (h : w.legalLdk = true) : w.space = false := by
  unfold FM.legalLdk at h
  rw [Bool.and_eq_true] at h
  simpa using h.2

theorem mem_ldkDest {sh : LdkShape} {n : Nat} {lanes : List Nat} {x : Nat × Nat × Nat × Option Tag}
    (h : x ∈ (ldkDest sh n lanes).lanes) :
    x.1 ∈ lanes ∧ x = (x.1, sh.sdst + n * x.1, 0, none) := by
  obtain ⟨l, hl, rfl⟩ := List.mem_map.1 h
  exact ⟨hl, rfl⟩

section
variable {w : FM} {s s1 : State} {c : Ctx} {accs : List Access}

/-- An LDK passes its address checks where its source passes those of an operand, its destinations lie in the scratchpad and are aligned,
and so does its arrival word. -/
theorem State.ldkChecks_passes {src : Operand} {sh : LdkShape} {lanes : List Nat} (k : State → Result) (hreach : src.Reaches c s s1 accs)
    (hglobal : src.space = .global) (hpois : sh.pois = none) (hodd : sh.sdst % src.size = 0)
    (haw : ∀ aw, sh.aw = some aw → aw % 16 = 0 ∧ aw + 16 ≤ c.scratchSize)
    (hbelow : ∀ l ∈ lanes, sh.sdst + src.size * l + src.size ≤ c.scratchBelow) :
    s.ldkChecks c src (ldkDest sh src.size lanes) sh lanes k = k s := by
  obtain ⟨hlanes, -⟩ := hreach
  have hclean : src.lanes.any (fun x => x.2.2.2.isSome) = false := List.any_eq_false.2 fun x hx => by
    rw [(hlanes x hx).1]
    exact Bool.false_ne_true
  have hfar : src.met (fun a => decide (2 ^ 57 ≤ a)) = [] := Operand.met_eq_nil fun x hx =>
    decide_eq_false (Nat.not_le.2 ((hlanes x hx).2.2.1 hglobal))
  have haligned : src.met (fun a => a % src.size != 0) = [] := Operand.met_eq_nil fun x hx => by simp [(hlanes x hx).2.1]
  have haligned' : (ldkDest sh src.size lanes).met (fun a => a % src.size != 0) = [] := Operand.met_eq_nil fun x hx => by
    rw [(mem_ldkDest hx).2]
    simp [hodd]
  have hin : (ldkDest sh src.size lanes).met (fun a => decide (c.scratchBelow < a + src.size)) = [] := Operand.met_eq_nil fun x hx => by
    rw [(mem_ldkDest hx).2]
    exact decide_eq_false (Nat.not_lt.2 (hbelow _ (mem_ldkDest hx).1))
  have hsize : ∀ sh : LdkShape, (ldkDest sh src.size lanes).size = src.size := fun _ => rfl
  have harrival : ∀ (p : Nat × Nat × Bool → Bool) (a : Nat), (∀ l, p (l, a, true) = false) →
      (lanes.map fun l => (l, a, true)).filter p = [] := fun p a hp => List.filter_eq_nil_iff.2 fun x hx => by
    obtain ⟨l, -, rfl⟩ := List.mem_map.1 hx
    rw [hp l]
    exact Bool.false_ne_true
  obtain ⟨sdst, aw, pois⟩ := sh
  obtain rfl : pois = none := hpois
  unfold State.ldkChecks
  dsimp only
  rw [hclean, hfar, hsize, haligned, haligned', hin]
  cases aw with
  | none => exact ite_self _
  | some a =>
    obtain ⟨ha16, hain⟩ := haw a rfl
    dsimp only
    rw [harrival (fun h => h.2.1 % 16 != 0) a fun _ => by simp [ha16],
      harrival (fun h => decide (c.scratchSize < h.2.1 + 16)) a fun _ => decide_eq_false (Nat.not_lt.2 hain)]
    exact ite_self _

/-- No lock meets an LDK whose source and whose destinations both pass the checks. -/
theorem State.ldkLocks_none {lanes : List Nat} {sh : LdkShape} (hnodup : lanes.Nodup) (hspace : w.space = false)
    (hsrc : (FmOperand c s w w.ioff.toNat false true lanes).Reaches c s s1 accs)
    (hdst : (ldkDest sh w.size.bytes (accs.map (·.lane))).Reaches c s1 s1
      (accs.map (fun a => ⟨a.lane, sh.sdst + w.size.bytes * a.lane, sh.sdst + w.size.bytes * a.lane, 0, 0, none⟩))) :
    s1.ldkLocks c (FmOperand c s w w.ioff.toNat false true lanes) (ldkDest sh w.size.bytes lanes) accs = [] := by
  have hglobal : (FmOperand c s w w.ioff.toNat false true lanes).space = .global := by
    unfold FmOperand
    simp only [hspace, Bool.false_eq_true, if_false]
  have hone : ((FmOperand c s w w.ioff.toNat false true lanes).lanes.map (·.1)).Nodup := by
    rw [FmOperand_lanes]
    exact hnodup
  have hlocks := hsrc.sameLocks
  unfold State.ldkLocks
  dsimp only
  rw [Operand.met_eq_nil, Operand.met_eq_nil, List.append_nil]
  · intro x hx
    obtain ⟨hmem, hacts⟩ := List.mem_filter.1 hx
    obtain ⟨a, ha, hax⟩ := List.any_eq_true.1 hacts
    have hlane : a.lane = x.1 := by simpa using hax
    have hfree := hdst.2.2.2 _ (List.mem_map_of_mem ha) rfl
    rw [hlane] at hfree
    rw [(mem_ldkDest hmem).2]
    exact hfree
  · intro x hx
    obtain ⟨hmem, hacts⟩ := List.mem_filter.1 hx
    obtain ⟨a, ha, hax⟩ := List.any_eq_true.1 hacts
    have hlane : a.lane = x.1 := by simpa using hax
    obtain ⟨y, hy, hay, hva⟩ := hsrc.mem_lanes ha
    have hxy : x = y := List.inj_on_of_nodup_map hone hmem hy (hlane.symm.trans hay)
    have hfree := hsrc.2.2.2 a ha rfl
    rw [hglobal, hva, ← hxy] at hfree
    rw [hlocks.lockHit]
    exact hfree

theorem execLdk_stores (hc : s.ctx? = some c) (hpass : c.Passes (fmNeed w w.legalLdk true 1 1))
    (hsrc : (FmOperand c s w w.ioff.toNat false true (c.acting w.guard)).Reaches c s s1 accs)
    (hdst : (ldkDest (c.ldkShape s w) w.size.bytes (accs.map (·.lane))).Reaches c s1 s1
      (accs.map (fun a => ⟨a.lane, (c.ldkShape s w).sdst + w.size.bytes * a.lane,
        (c.ldkShape s w).sdst + w.size.bytes * a.lane, 0, 0, none⟩)))
    (hpois : (c.ldkShape s w).pois = none) (hodd : (c.ldkShape s w).sdst % w.size.bytes = 0)
    (haw : ∀ aw, (c.ldkShape s w).aw = some aw → aw % 16 = 0 ∧ aw + 16 ≤ c.scratchSize)
    (hbelow : ∀ l ∈ c.acting w.guard, (c.ldkShape s w).sdst + w.size.bytes * l + w.size.bytes ≤ c.scratchBelow)
    (hroom : c.hasRoom (c.ldkEntries w (c.ldkShape s w) w.size.bytes accs).length) :
    Answers (exec (.ldk w) s) (QueuesStores s c 0x144 w.words (c.ldkEntries w (c.ldkShape s w) w.size.bytes accs)) := by
  have hspace := FM.space_of_legalLdk hpass.1
  have hglobal : (FmOperand c s w w.ioff.toNat false true (c.acting w.guard)).space = .global := by
    unfold FmOperand
    simp only [hspace, Bool.false_eq_true, if_false]
  have hlocks := State.ldkLocks_none (Ctx.acting_nodup hc w.guard) hspace hsrc hdst
  have hchecks := fun k => State.ldkChecks_passes (lanes := c.acting w.guard) k hsrc hglobal hpois hodd haw hbelow
  show Answers (execLdk w s) _
  unfold execLdk
  rw [State.issue_ctx _ hc, State.gate_passes _ _ _ _ hpass, fmNeed_guard]
  dsimp only
  refine (congrArg (Answers · _) ((hchecks _).trans (State.checkOperand_reaches _ hsrc.unlocked))).mpr ?_
  rw [hlocks, List.isEmpty_nil, Bool.not_true, if_neg Bool.false_ne_true, State.withRoom_room _ _ hroom]
  exact State.finish_stores hc 0x144 w.words hsrc.translates (OnlyGroup.refl _ _) rfl

end

/-- Settles O13: each word passes its gate and its checks, has room, puts its entries into the queue and falls through; what it
puts there changes no byte of memory. -/
theorem storesEnterTheQueue : Obligations.StoresEnterTheQueue := by
  unfold Obligations.StoresEnterTheQueue
  intro w s s1 c accs hc
  exact ⟨fun hpass hreach hroom => execSt_stores hc hpass hreach hroom, fun hpass hreach hroom => execSts_stores hc hpass hreach hroom,
    fun hpass hsrc hdst hpois hodd haw hbelow hroom => execLdk_stores hc hpass hsrc hdst hpois hodd haw hbelow hroom⟩

end Sys2Proof.Machine
end

section
namespace Sys2Proof.Machine

/-! ### Bytes on their way to memory (R329, R332) -/

theorem CopiesOnly.setCopy (s : State) (c : Copy) : CopiesOnly s (s.setCopy c) := rfl

/-- A write into the copies of a view clears reservations, and leaves the rest as it was. -/
theorem CopiesOnly.clearReservations {s u : State} (h : CopiesOnly s u) (bs : List WByte) (scratch : Option Nat) (point : WritePoint) :
    u.clearReservations bs scratch point =
      { s with copies := u.copies, groups := (u.clearReservations bs scratch point).groups } := by
  unfold State.clearReservations
  rw [show u = _ from h]

/-- A write of global bytes into a core's view touches copies and reservations. -/
theorem State.writeCV_frame (s : State) (core : Nat) (bs : List WByte) :
    s.writeCV core bs = { s with copies := (s.writeCV core bs).copies, groups := (s.writeCV core bs).groups } := by
  refine CopiesOnly.clearReservations (foldl_keeps (CopiesOnly s) _ (fun t line ht => ?_) _ s rfl) bs none (.core core)
  dsimp only
  split
  · exact (ht.trans (CopiesOnly.ensureCV t core line)).trans (CopiesOnly.setCopy _ _)
  · exact ht.trans (CopiesOnly.ensureCV t core line)

/-- The packets of one entry: each line that its bytes touch has one, behind the packets that were there. -/
theorem State.sendPackets_cfq (s : State) (g : Group) (entry : Option Nat) (bs : List WByte) (holds : List Nat × List Nat) :
    ∃ new, (s.sendPackets g entry bs holds).cfq = s.cfq ++ new ∧ (∀ p ∈ new, p.gid = g.gid ∧ p.core = g.core) ∧
      new.map (·.bytes) = (sectorsOf bs).map (bytesIn · bs) := by
  unfold State.sendPackets
  generalize sectorsOf bs = lines
  induction lines generalizing s with
  | nil => exact ⟨[], (List.append_nil _).symm, fun _ hp => absurd hp List.not_mem_nil, rfl⟩
  | cons line lines ih =>
    rw [List.foldl_cons]
    obtain ⟨new, hcfq, hof, hbytes⟩ := ih (_ : State)
    refine ⟨_ :: new, hcfq.trans (List.append_assoc ..), fun p hp => ?_, ?_⟩
    · obtain rfl | hp := List.mem_cons.1 hp
      · exact ⟨rfl, rfl⟩
      · exact hof p hp
    · rw [List.map_cons, List.map_cons, hbytes]

theorem State.sendPackets_mem (s : State) (g : Group) (entry : Option Nat) (bs : List WByte) (holds : List Nat × List Nat) :
    (s.sendPackets g entry bs holds).mem = s.mem ∧ (s.sendPackets g entry bs holds).memPois = s.memPois := by
  unfold State.sendPackets
  refine foldl_keeps (fun t : State => t.mem = s.mem ∧ t.memPois = s.memPois) _ (fun t line ht => ?_) _ s ⟨rfl, rfl⟩
  exact ht

/-- The bytes of a list, line by line, are its bytes. -/
theorem mem_flatMap_bytesIn {bs : List WByte} {b : WByte} : b ∈ (sectorsOf bs).flatMap (bytesIn · bs) ↔ b ∈ bs := by
  unfold bytesIn
  simp only [List.mem_flatMap, List.mem_filter, beq_iff_eq]
  exact ⟨fun ⟨_, _, hb, _⟩ => hb, fun hb => ⟨_, mem_sectorsOf.2 ⟨b, hb, rfl⟩, hb, rfl⟩⟩

theorem State.readDM_congr {s t : State} (hmem : t.mem = s.mem) (hpois : t.memPois = s.memPois) (a : Nat) : t.readDM a = s.readDM a := by
  unfold State.readDM
  rw [hmem, hpois]

/-! ### What a drain leaves of the groups (R329) -/

/-- An entry that is no marker of a release or of exits takes reservations from groups, and nothing else of them. -/
theorem State.drainOp_shed (s : State) (g : Group) (entry : Nat) {op : EntryOp} (hrel : ∀ sc, op ≠ .relMarker sc)
    (htrig : ∀ lanes, op ≠ .trigMarker lanes) : GroupsShed s (s.drainOp g entry op) := by
  have harrive : ∀ (t : State) (off n : Nat), GroupsShed t (t.arrive g.cohort off n) := fun t off n => by
    cases h : t.cohort? g.cohort with
    | none => rw [State.arrive_none h]; exact GroupsShed.refl t
    | some c =>
      rw [State.arrive_some h]
      split
      · exact GroupsShed.writeScratch t _ _
      · exact (GroupsShed.writeScratch t _ _).trans (GroupsShed.of_desk (State.awWakes_desk _ _ _))
  cases op with
  | global bytes rel => exact (GroupsShed.writeCV s _ _).trans (GroupsShed.sendPackets _ _ _ _ _)
  | scratch bytes => exact GroupsShed.writeScratch s _ _
  | ldk moves aw =>
    have hread : GroupsShed s (moves.foldl (fun (acc : State × List WByte) m =>
        let s := acc.1.ensureCV g.core (m.1 / 64)
        let b := s.byteAt g.core .core m.1
        (s, acc.2 ++ [⟨m.2.1, b.val, b.pois, some (g.gid, m.2.2)⟩])) (s, [])).1 :=
      foldl_keeps (fun acc : State × List WByte => GroupsShed s acc.1) _
        (fun acc m h => h.trans (GroupsShed.of_copies (CopiesOnly.ensureCV acc.1 _ _))) _ _ (GroupsShed.refl s)
    cases aw with
    | none => exact hread.trans (GroupsShed.writeScratch _ _ _)
    | some off => exact (hread.trans (GroupsShed.writeScratch _ _ _)).trans (harrive _ _ _)
  | bin table adds =>
    refine foldl_keeps (GroupsShed s) _ (fun t a ht => ht.trans ?_) adds s (GroupsShed.refl s)
    unfold State.addBin
    split
    · exact GroupsShed.refl t
    · exact GroupsShed.writeScratch t _ _
  | awset off target => exact GroupsShed.writeScratch s _ _
  | awadd off n => exact harrive s _ _
  | relMarker scope => exact absurd rfl (hrel scope)
  | teMarker => exact GroupsShed.refl s
  | survMarker => exact GroupsShed.refl s
  | trigMarker lanes => exact absurd rfl (htrig lanes)
  | cmtd off value final => exact GroupsShed.writeScratch s _ _

/-- The group g' after an entry of g drained: g but for reservations, the holds of a release and the lanes of a trigger. -/
def AfterDrain (g g' : Group) : Prop :=
  g' = { g with resv := g'.resv, holdLifts := g'.holdLifts, holdHomes := g'.holdHomes, trig := g'.trig }

theorem State.drainOp_group? {s : State} {gid : Nat} {g : Group} (entry : Nat) (op : EntryOp) (hg : s.group? gid = some g) :
    ∃ g', (s.drainOp g entry op).group? gid = some g' ∧ AfterDrain g g' ∧
      ∀ lanes, op = .trigMarker lanes → g'.trig = g.trig ||| lanes := by
  have hgid := State.group?_gid hg
  by_cases hrel : ∃ sc, op = .relMarker sc
  · obtain ⟨sc, rfl⟩ := hrel
    have h := fun f hf => (State.onGroup_spec (s := s) f (hgid.symm ▸ hg) hf).1
    rw [← hgid]
    exact ⟨_, h _ rfl, rfl, fun _ hop => nomatch hop⟩
  · by_cases htrig : ∃ lanes, op = .trigMarker lanes
    · obtain ⟨lanes, rfl⟩ := htrig
      have h := fun f hf => (State.onGroup_spec (s := s) f (hgid.symm ▸ hg) hf).1
      rw [← hgid]
      refine ⟨_, h _ rfl, rfl, fun l hl => ?_⟩
      obtain rfl : lanes = l := by injection hl
      rfl
    · obtain ⟨rs, hrs⟩ := (State.drainOp_shed s g entry (fun sc h => hrel ⟨sc, h⟩) fun l h => htrig ⟨l, h⟩).group?_some hg
      exact ⟨_, hrs, rfl, fun l hl => absurd ⟨l, hl⟩ htrig⟩

/-! ### DRAIN (R329) -/

theorem exec_drain {s : State} {gid : Nat} {g : Group} {e : SQEntry} {rest : List SQEntry} (hg : s.group? gid = some g)
    (hsq : g.sq = e :: rest) (hcom : e.committed = true) (hdrain : s.drainable g e.op = true) :
    exec (.drain gid) s = ((s.setGroup { g with sq := rest }).drainOp { g with sq := rest } e.id e.op).done := by
  show execDrain gid s = _
  unfold execDrain
  rw [hg]
  dsimp only
  rw [hsq]
  dsimp only
  rw [hcom, hdrain]
  rfl

section
variable (s : State) (g : Group) (entry : Nat) (bytes : List WByte)

/-- A scratchpad entry leaves its bytes in the cohort's scratchpad. -/
theorem State.drainOp_scratch_reads {co : Cohort} (hco : s.cohort? g.cohort = some co) :
    ∃ co', (s.drainOp g entry (.scratch bytes)).cohort? g.cohort = some co' ∧
      ∀ a, (co'.readScratch a).val = lastByte bytes a (co.readScratch a).val :=
  ⟨_, State.cohort?_writeScratch hco bytes, read_storeBytes bytes co.scratch⟩

theorem State.drainOp_scratch_readDM (a : Nat) : (s.drainOp g entry (.scratch bytes)).readDM a = s.readDM a := by
  show (s.writeScratch g.cohort bytes).readDM a = _
  exact State.readDM_congr (by rw [State.writeScratch_frame]) (by rw [State.writeScratch_frame]) a

/-- Bytes written in a core's view go out as packets, and change no byte of memory. -/
theorem State.writeCV_sendPackets (e : Option Nat) (holds : List Nat × List Nat) :
    (∀ a, ((s.writeCV g.core bytes).sendPackets g e bytes holds).readDM a = s.readDM a) ∧
    ∃ new, ((s.writeCV g.core bytes).sendPackets g e bytes holds).cfq = s.cfq ++ new ∧
      (∀ p ∈ new, p.gid = g.gid ∧ p.core = g.core) ∧ ∀ b, b ∈ new.flatMap (·.bytes) ↔ b ∈ bytes := by
  have hframe := State.writeCV_frame s g.core bytes
  obtain ⟨hmem, hpois⟩ := State.sendPackets_mem (s.writeCV g.core bytes) g e bytes holds
  obtain ⟨new, hcfq, hof, hbytes⟩ := State.sendPackets_cfq (s.writeCV g.core bytes) g e bytes holds
  refine ⟨State.readDM_congr (by rw [hmem, hframe]) (by rw [hpois, hframe]), new, by rw [hcfq, hframe], hof, fun b => ?_⟩
  rw [List.flatMap_def, hbytes, ← List.flatMap_def]
  exact mem_flatMap_bytesIn

end

/-! ### LIFT (R327, R329) -/

/-- What t is once a packet has left its cluster's fabric queue for the die's (R329). -/
def Lifted (s : State) (p : Packet) (cfq : List Packet) (t : State) : Prop :=
  t.waited = false ∧ t.cfq = cfq ∧ t.df = s.df ++ [p] ∧ ∀ a, t.readDM a = s.readDM a

/-- A packet that has left the cluster's queue joins the die's, once the copies of the die's view have its bytes. -/
theorem State.joins_df {s u : State} {cfq : List Packet} (h : CopiesOnly { s with cfq := cfq } u) (p : Packet) (bs : List WByte)
    (point : WritePoint) :
    Answers (State.done { u.clearReservations bs none point with df := (u.clearReservations bs none point).df ++ [p] })
      (Lifted s p cfq) := by
  have hframe := h.clearReservations bs none point
  refine ⟨_, rfl, rfl, ?_, ?_, State.readDM_congr ?_ ?_⟩ <;> (dsimp only; rw [hframe])

theorem exec_lift {s : State} {id : Nat} {p : Packet} (hp : s.cfq.find? (fun q => q.id == id) = some p) (hheld : s.isHeld p = false)
    (hfirst : firstFor p (s.cfqOf (clusterOf p.core)) = true) :
    Answers (exec (.lift id) s) (Lifted s p (s.cfq.filter (fun q => q.id != id))) := by
  show Answers (execLift id s) _
  unfold execLift
  rw [hp]
  dsimp only
  rw [hheld, hfirst]
  refine State.joins_df (s := s) (cfq := s.cfq.filter (fun q => q.id != id)) ?_ p p.bytes (.die (dieOf p.core))
  refine foldl_keeps (CopiesOnly _) _ (fun t line ht => ?_) _ _ rfl
  split
  · exact (ht.trans (CopiesOnly.ensureL2 t _ line)).trans (CopiesOnly.setCopy _ _)
  · exact ht.trans (CopiesOnly.ensureL2 t _ line)

/-! ### HOME (R329, R334) -/

/-- Sectors that are not among those that pass under a key lie as before. -/
theorem State.readDM_claim_other (s : State) (part : Nat) {secs : List Nat} {a : Nat} (ha : a / 64 ∉ secs) :
    (s.claim part secs).readDM a = s.readDM a := by
  cases hk : s.keyOf part with
  | none => rw [State.claim_none hk]
  | some k =>
    rw [State.claim_some hk]
    refine List.foldlRecOn (motive := fun t : State => t.readDM a = s.readDM a) secs _ rfl fun t ht sec hsec => ?_
    rw [← ht]
    obtain ⟨-, e⟩ | ⟨-, e⟩ | e := State.claimSector_cases k t sec <;> rw [e]
    · rfl
    · have hne : a / 64 ≠ sec := fun h => ha (h ▸ hsec)
      unfold State.readDM
      dsimp only
      rw [read_storeBytes, lastByte_sector sec a (fun a => (t.readUnder (some k) a).val), if_neg hne]

/-- A store leaves the poison of a sector that it does not touch. -/
theorem storePois_other {bs : List WByte} {sec : Nat} (h : sec ∉ sectorsOf bs) (x : SMap (Option Tag)) :
    SMap.get none (storePois x bs) sec = SMap.get none x sec := by
  refine List.foldlRecOn (motive := fun y : SMap (Option Tag) => SMap.get none y sec = SMap.get none x sec) (sectorsOf bs) _ rfl
    fun y hy j hj => ?_
  have hne : sec ≠ j := fun e => h (e ▸ hj)
  rw [SMap.get_put, if_neg hne, hy]

/-- A write at home changes no sector but those of its bytes. -/
theorem State.readDM_writeHome_other (s : State) (part : Nat) {bs : List WByte} {a : Nat} (ha : ∀ b ∈ bs, b.addr / 64 ≠ a / 64) :
    (s.writeHome part bs).readDM a = s.readDM a := by
  have hsub : ∀ b ∈ existing bs, b ∈ bs := fun b hb => (List.mem_filter.1 hb).1
  have hsec : a / 64 ∉ sectorsOf (existing bs) := fun h => by
    obtain ⟨b, hb, e⟩ := mem_sectorsOf.1 h
    exact ha b (hsub b hb) e
  rw [← s.readDM_claim_other part hsec]
  unfold State.readDM
  split
  · rw [State.writeHome_mem, State.writeHome_memPois, read_storeBytes, storePois_other hsec,
      lastByte_other fun b hb e => ha b (hsub b hb) (by rw [e])]
  · rfl

theorem State.writeDM_of_noProt {s : State} {k : Nat} (h : ∀ q, s.part? k = some q → q.prot = []) (bs : List WByte)
    (src : DeltaSource) : s.writeDM k bs src = s.writeHome k bs := by
  cases hp : s.part? k with
  | none => simp [State.writeDM, State.parityFor, hp]
  | some q => exact State.writeDM_unprotected hp (h q hp) bs src

theorem State.parityRoom_of_noProt {s : State} {k : Nat} (h : ∀ q, s.part? k = some q → q.prot = []) (bs : List WByte) :
    s.parityRoom k bs = true := by
  have hnone : s.deltasFor k bs = 0 := by
    unfold State.deltasFor
    cases hp : s.part? k with
    | none => rfl
    | some q =>
      dsimp only
      rw [h q hp]
      rfl
  unfold State.parityRoom
  rw [hnone]
  rfl

theorem existing_of_physOk {bs : List WByte} (h : ∀ b ∈ bs, physOk b.addr = true) : existing bs = bs := List.filter_eq_self.2 h

theorem exec_home {s : State} {id : Nat} {p : Packet} (hp : s.df.find? (fun q => q.id == id) = some p) (hfirst : firstFor p s.df = true)
    (hprot : ∀ q, s.part? p.part = some q → q.prot = []) (hphys : ∀ b ∈ p.bytes, physOk b.addr = true) :
    Answers (exec (.home id) s) (fun t => t.waited = false ∧ t.df = s.df.filter (fun q => q.id != id) ∧ t.cfq = s.cfq ∧
      (∀ a, (t.readAs p.part a).val = lastByte p.bytes a (s.readAs p.part a).val) ∧
      ∀ a, (∀ b ∈ p.bytes, b.addr / 64 ≠ a / 64) → t.readDM a = s.readDM a) := by
  let s0 : State := { s with df := s.df.filter (fun q => q.id != id) }
  have hframe := State.writeHome_frame s0 p.part p.bytes
  have hval := fun a => State.readAs_writeHome_val s0 p.part p.bytes a
  rw [existing_of_physOk hphys] at hval
  have hhome : exec (.home id) s = (s0.writeHome p.part p.bytes).done := by
    show execHome id s = _
    unfold execHome
    rw [hp]
    dsimp only
    rw [hfirst, State.parityRoom_of_noProt hprot, State.writeDM_of_noProt (s := s0) hprot]
    rfl
  rw [hhome]
  exact ⟨_, rfl, rfl, (congrArg State.df hframe :), (congrArg State.cfq hframe :), hval,
    fun a ha => State.readDM_writeHome_other s0 p.part ha⟩

/-- Settles O17: DRAIN by what each entry leaves of its group and where its bytes go, LIFT and HOME by their frames. -/
theorem storesReachMemory : Obligations.StoresReachMemory := by
  unfold Obligations.StoresReachMemory
  refine ⟨fun s gid g e rest hg hsq hcom hdrain => ?_, fun s id p => ⟨exec_lift, exec_home⟩⟩
  have hgid := State.group?_gid hg
  have hset := (State.setGroup_spec { g with sq := rest } hg hgid).1
  obtain ⟨g', hg', heq, htrig⟩ := State.drainOp_group? e.id e.op hset
  rw [exec_drain hg hsq hcom hdrain]
  refine ⟨_, rfl, rfl, g', hg', by rw [heq], by rw [heq], by rw [heq], fun bytes co hop hco => ?_, fun bytes hop a => ?_,
    fun bytes rel hop => ?_, htrig⟩
  · rw [hop]
    exact State.drainOp_scratch_reads _ { g with sq := rest } e.id bytes hco
  · rw [hop]
    exact State.drainOp_scratch_readDM _ { g with sq := rest } e.id bytes a
  · rw [hop]
    obtain ⟨hmem, new, hcfq, hof, hbytes⟩ := State.writeCV_sendPackets (s.setGroup { g with sq := rest }) { g with sq := rest }
      bytes (some e.id) _
    exact ⟨hmem, new, hcfq, fun p hp => hgid ▸ hof p hp, hbytes⟩

end Sys2Proof.Machine
end

section
namespace Sys2Proof.Machine

/-! ### What a change of the page pools leaves (R203, R205, R361) -/

/-- t has the cohorts of s, and of partition k all but its buckets and the counts of its pools. -/
structure Pooled (k : Nat) (s t : State) : Prop where
  cohorts : t.cohorts = s.cohorts
  part : ∀ p, s.part? k = some p → ∃ b n m, t.part? k =
    some { p with buckets := b, ctl := { p.ctl with poolFree := n, hpoolFree := m } }

namespace Pooled

theorem of_parts {k : Nat} {s t : State} (hcohorts : t.cohorts = s.cohorts) (hparts : t.parts = s.parts) : Pooled k s t :=
  ⟨hcohorts, fun _ hp => ⟨_, _, _, (State.part?_congr hparts k).trans hp⟩⟩

theorem refl (k : Nat) (s : State) : Pooled k s s := of_parts rfl rfl

theorem trans {k : Nat} {s t u : State} (h1 : Pooled k s t) (h2 : Pooled k t u) : Pooled k s u := by
  refine ⟨h2.cohorts.trans h1.cohorts, fun p hp => ?_⟩
  obtain ⟨b, n, m, ht⟩ := h1.part p hp
  obtain ⟨b', n', m', hu⟩ := h2.part _ ht
  exact ⟨b', n', m', hu⟩

theorem of_stored {k : Nat} {s t : State} (h : Stored s t) : Pooled k s t := by
  refine ⟨h.cohorts, fun p hp => ?_⟩
  obtain ⟨b, hb⟩ := h.part?_some hp
  exact ⟨b, _, _, hb⟩

theorem pushFrame (k : Nat) (s : State) (frame : Nat) : Pooled k s (s.pushFrame k frame) := by
  unfold State.pushFrame
  cases hp : s.part? k with
  | none => exact refl k s
  | some p =>
    have hset : ∀ pa ws (n m : Nat), Pooled k s
        ((s.writeWords p.id pa ws).setPart { p with ctl := { p.ctl with poolFree := n, hpoolFree := m } }) := fun pa ws n m => by
      have hw := Stored.writeWords s p.id pa ws
      refine ⟨hw.cohorts, fun q hq => ?_⟩
      obtain rfl : p = q := Option.some.inj (hp.symm.trans hq)
      obtain ⟨b, hb⟩ := hw.part?_some hp
      exact ⟨_, n, m, State.part?_setPart_self hb (State.part?_id (p := p) hp)⟩
    dsimp only
    split
    · exact hset _ _ (p.ctl.poolFree + 1) p.ctl.hpoolFree
    · exact hset _ _ p.ctl.poolFree (p.ctl.hpoolFree + 1)

theorem mapFrame (k : Nat) (s : State) (part entry frame : Nat) : Pooled k s (s.mapFrame part entry frame) := by
  unfold State.mapFrame
  exact (of_parts rfl rfl : Pooled k s (s.zeroRun frame (2 ^ 17))).trans (of_stored (Stored.writeWords _ _ _ _))

theorem logAnswer (k : Nat) (s : State) (p : Part) (r : PageReq) (w0 : Word64) : Pooled k s (s.logAnswer p r w0) := of_parts rfl rfl

end Pooled

/-! ### The outcome of a page request (R205) -/

/-- Whether a path's task is lost depends on the cohorts alone. -/
theorem State.waiterLost_path_congr {s t : State} (h : t.cohorts = s.cohorts) (k uid g path : Nat) :
    t.waiterLost k (.path uid g path) = s.waiterLost k (.path uid g path) := by
  show ((t.cohort? uid).map _).getD false = ((s.cohort? uid).map _).getD false
  rw [State.cohort?_congr h]

/-- A partition reads as before after a change of itself that leaves its key. -/
theorem State.readAs_onPart {s : State} {k : Nat} {p : Part} (h : s.part? k = some p) {f : Part → Part} (hid : (f p).id = k)
    (hkey : (f p).key = p.key) (a : Nat) : (s.onPart k f).readAs k a = s.readAs k a := by
  rw [State.onPart_eq f h]
  exact State.readAs_setPart h hid hkey a

/-- The partition with the outcome kept of a request. -/
def Part.withOutcome (p : Part) (r : PageReq) (good : Bool) : Part :=
  { p with requests := p.requests.map (fun (x : PageReq) =>
      if x.rid = r.rid then
        { x with outcome := some good, waiters := x.waiters.filter (fun y => match y with | .cont _ => false | .path _ _ _ => true) }
      else x) }

/-- A request for which paths alone wait: no task is woken or failed at once. -/
theorem State.settleRequest_path {r : PageReq} {uid g path : Nat} (hw : r.waiters = [.path uid g path]) (s : State) (k : Nat)
    (good : Bool) :
    s.settleRequest k r good = (s.onPart k (·.withOutcome r good)).sweepRequests k := by
  unfold State.settleRequest
  rw [hw]
  rfl

section
variable {s t : State} {k : Nat} {p : Part} {r : PageReq} {uid g path : Nat}

/-- The outcome of a request for which a path waits is kept, and no byte of memory changes. -/
theorem State.settleRequest_keeps (h : Pooled k s t) (hp : s.part? k = some p) (hr : r ∈ p.requests) (hw : r.waiters = [.path uid g path])
    (hlost : s.waiterLost k (.path uid g path) = false) (good : Bool) :
    (∃ q, (t.settleRequest k r good).part? k = some q ∧ { r with outcome := some good } ∈ q.requests) ∧
    (∀ a, (t.settleRequest k r good).readDM a = t.readDM a) ∧ ∀ a, (t.settleRequest k r good).readAs k a = t.readAs k a := by
  obtain ⟨b, n, m, ht⟩ := h.part p hp
  set q0 : Part := { p with buckets := b, ctl := { p.ctl with poolFree := n, hpoolFree := m } }
  have hid : q0.id = k := State.part?_id (p := q0) ht
  set u := t.onPart k (·.withOutcome r good)
  have hu : u.part? k = some (q0.withOutcome r good) := State.part?_onPart ht hid
  have hframe : u = { t with parts := u.parts } := State.onPart_frame t k _
  have hstill : u.waiterLost k (.path uid g path) = false := by
    rw [State.waiterLost_path_congr ((congrArg State.cohorts hframe :).trans h.cohorts), hlost]
  have hkept : { r with outcome := some good } ∈ (q0.withOutcome r good).requests := by
    refine List.mem_map.2 ⟨r, hr, ?_⟩
    rw [if_pos rfl, hw]
    rfl
  rw [State.settleRequest_path hw]
  refine ⟨⟨_, State.part?_onPart hu hid, List.mem_filter.2 ⟨hkept, ?_⟩⟩, State.readDM_congr ?_ ?_, fun a => ?_⟩
  · rw [hw, Option.isSome_some, List.all_cons, hstill]
    rfl
  · show (u.onPart k _).mem = t.mem
    rw [State.onPart_frame, hframe]
  · show (u.onPart k _).memPois = t.memPois
    rw [State.onPart_frame, hframe]
  · exact (State.readAs_onPart hu hid rfl a).trans (State.readAs_onPart ht hid rfl a)

/-! ### A frame zeroed and mapped (R203, R389) -/

/-- A run of whole sectors that was zeroed reads 0 and clean under any key. -/
theorem State.readUnder_zeroRun (s : State) (key : Option Nat) {pa len a : Nat} (hpa : pa % 64 = 0) (hlen : len % 64 = 0) (hlo : pa ≤ a)
    (hhi : a < pa + len) (hok : physOk a = true) : (s.zeroRun pa len).readUnder key a = ⟨0, none⟩ := by
  have hin : (decide (pa ≤ 64 * (a / 64)) && decide (64 * (a / 64) < pa + len)) = true := by
    simp only [Bool.and_eq_true, decide_eq_true_eq]
    omega
  have hkey : SMap.get none (s.zeroRun pa len).memKey (a / 64) = none :=
    (SMap.get_filter none (fun sec => !(decide (pa ≤ 64 * sec) && decide (64 * sec < pa + len))) s.memKey _).trans (by rw [hin]; rfl)
  have hpois : SMap.get none (s.zeroRun pa len).memPois (a / 64) = none :=
    (SMap.get_filter none (fun sec => !(decide (pa ≤ 64 * sec) && decide (64 * sec < pa + len))) s.memPois _).trans (by rw [hin]; rfl)
  have hmem : Memory.read (s.zeroRun pa len).mem a = 0 :=
    (SMap.get_filter 0 (fun x => !(decide (pa ≤ x) && decide (x < pa + len))) s.mem a).trans (by simp [hlo, hhi])
  unfold State.readUnder State.readDM
  rw [hkey, if_pos hok, hpois]
  show PByte.mk (if physOk a = true then (⟨Memory.read (s.zeroRun pa len).mem a, _⟩ : PByte) else _).val none = _
  rw [if_pos hok, hmem]

/-- A frame that is mapped stands in its entry, and reads 0 but for the entry. -/
theorem State.mapFrame_reads (hp : s.part? k = some p) (h0 : p.prot = []) {entry frame : Nat} (hframe : frame % 64 = 0) :
    ((∀ i < 8, physOk (entry + i) = true) → (s.mapFrame k entry frame).readWordAs k entry = Pte.leafWord frame) ∧
    ∀ a, frame ≤ a → a < frame + 2 ^ 17 → (a < entry ∨ entry + 8 ≤ a) → physOk a = true →
      (s.mapFrame k entry frame).readAs k a = ⟨0, none⟩ := by
  have hz : (s.zeroRun frame (2 ^ 17)).part? k = some p := hp
  refine ⟨fun hok => State.readWordAs_writeWords (j := 0) hz h0 rfl hok, fun a hlo hhi hout hok => ?_⟩
  exact (State.readAs_writeWords_other hz h0 hout).trans (State.readUnder_zeroRun s _ hframe (by decide) hlo hhi hok)

/-! ### The host's answer (R205, R392) -/

/-- An answer for no outstanding request is discarded. -/
theorem exec_answer_discarded (hp : s.part? k = some p) {w0 w1 : Word64}
    (hnone : p.requests.find? (fun r => r.rid == (bits w0 56 8).toNat && r.outcome.isNone) = none) :
    exec (.pageRequestAnswer k w0 w1) s = .next { s with waited := false } := by
  show execPageRequestAnswer k w0 w1 s = _
  unfold execPageRequestAnswer
  rw [hp]
  dsimp only
  rw [hnone]
  rfl

/-- The partition with the RID of a request given up. -/
def Part.dropRequest (p : Part) (r : PageReq) : Part := { p with requests := p.requests.filter (fun x => x.rid != r.rid) }

/-- An answer for a request whose waiters are all lost gives the RID up. -/
theorem exec_answer_lost (hp : s.part? k = some p) {w0 w1 : Word64}
    (hr : p.requests.find? (fun r => r.rid == (bits w0 56 8).toNat && r.outcome.isNone) = some r)
    (hlost : ∀ x ∈ r.waiters, s.waiterLost k x = true) :
    Answers (exec (.pageRequestAnswer k w0 w1) s) (fun t => t.waited = false ∧
      ∃ q, t.part? k = some q ∧ q.requests = p.requests.filter (fun x => x.rid != r.rid)) := by
  have hset := State.part?_setPart_self (q := p.dropRequest r) hp (State.part?_id (p := p) hp)
  show Answers (execPageRequestAnswer k w0 w1 s) _
  unfold execPageRequestAnswer
  rw [hp]
  dsimp only
  rw [hr]
  dsimp only
  rw [if_pos (List.all_eq_true.2 hlost)]
  split
  · obtain ⟨b, n, m, hpush⟩ := (Pooled.pushFrame k (s.setPart (p.dropRequest r)) (answerFrame w1)).part _ hset
    exact ⟨_, rfl, rfl, _, hpush, rfl⟩
  · exact ⟨_, rfl, rfl, _, hset, rfl⟩

/-- An answer for a request for which a path waits, by the row of R205 that fits. -/
theorem exec_answer_path (hp : s.part? k = some p) {w0 w1 : Word64}
    (hr : p.requests.find? (fun r => r.rid == (bits w0 56 8).toNat && r.outcome.isNone) = some r) (hw : r.waiters = [.path uid g path])
    (hlost : s.waiterLost k (.path uid g path) = false) :
    exec (.pageRequestAnswer k w0 w1) s =
      if badAnswer w0 w1 then ((s.logAnswer p r w0).settleRequest k r false).done
      else if bits w0 48 8 = 1 then (s.settleRequest k r false).done
      else (s.answerSuccess p r w0 (answerFrame w1)).done := by
  show execPageRequestAnswer k w0 w1 s = _
  unfold execPageRequestAnswer
  rw [hp]
  dsimp only
  rw [hr]
  dsimp only
  rw [if_neg (by simp [hw, hlost])]

/-- What a success does, by what the walk of its page finds. -/
theorem State.answerSuccess_cases (s : State) (p : Part) (r : PageReq) (w0 : Word64) (frame : Nat) :
    (∃ l e pp x y, s.walk p r.asid r.page = .leaf l e pp x y ∧
      s.answerSuccess p r w0 frame = (s.pushFrame p.id frame).settleRequest p.id r true) ∨
    (∃ e, s.walk p r.asid r.page = .absent 3 e ∧ s.answerSuccess p r w0 frame = (s.mapFrame p.id e frame).settleRequest p.id r true) ∨
    ((∀ l e pp x y, s.walk p r.asid r.page ≠ .leaf l e pp x y) ∧ (∀ e, s.walk p r.asid r.page ≠ .absent 3 e) ∧
      s.answerSuccess p r w0 frame = ((s.logAnswer p r w0).pushFrame p.id frame).settleRequest p.id r false) := by
  unfold State.answerSuccess
  split
  · next l e pp x y hleaf => exact .inl ⟨l, e, pp, x, y, hleaf, rfl⟩
  · next e habsent => exact .inr (.inl ⟨e, habsent, rfl⟩)
  · next hleaf habsent => exact .inr (.inr ⟨hleaf, habsent, rfl⟩)

theorem answerFrame_aligned (w1 : Word64) : answerFrame w1 % 64 = 0 := by
  unfold answerFrame
  omega

/-- The outcome of request r is kept in partition k, and P holds beside. -/
def OutcomeKept (k : Nat) (r : PageReq) (good : Bool) (P : State → Prop) (t : State) : Prop :=
  t.waited = false ∧ P t ∧ ∃ q, t.part? k = some q ∧ { r with outcome := some good } ∈ q.requests

/-- A refusal keeps a failure, and changes no byte of memory. -/
theorem exec_answer_refused (hp : s.part? k = some p) {w0 w1 : Word64}
    (hr : p.requests.find? (fun r => r.rid == (bits w0 56 8).toNat && r.outcome.isNone) = some r) (hw : r.waiters = [.path uid g path])
    (hlost : s.waiterLost k (.path uid g path) = false) (hbad : badAnswer w0 w1 = true ∨ bits w0 48 8 = 1) :
    Answers (exec (.pageRequestAnswer k w0 w1) s) (OutcomeKept k r false (fun t => ∀ a, t.readDM a = s.readDM a)) := by
  have hkeeps := fun t (h : Pooled k s t) => State.settleRequest_keeps h hp (List.mem_of_find?_eq_some hr) hw hlost false
  rw [exec_answer_path hp hr hw hlost]
  split
  · obtain ⟨hq, hmem, -⟩ := hkeeps _ (Pooled.logAnswer k s p r w0)
    exact ⟨_, rfl, rfl, hmem, hq⟩
  · next hgood =>
    obtain ⟨hq, hmem, -⟩ := hkeeps s (Pooled.refl k s)
    rw [if_pos (hbad.resolve_left hgood)]
    exact ⟨_, rfl, rfl, hmem, hq⟩

/-- A well-formed success keeps the outcome that the walk of the page gives; a page with no level-3 entry is mapped to the frame. -/
theorem exec_answer_success (hp : s.part? k = some p) {w0 w1 : Word64}
    (hr : p.requests.find? (fun r => r.rid == (bits w0 56 8).toNat && r.outcome.isNone) = some r) (hw : r.waiters = [.path uid g path])
    (hlost : s.waiterLost k (.path uid g path) = false) (hgood : badAnswer w0 w1 = false) (hstatus : bits w0 48 8 = 0) :
    let frame := answerFrame w1
    let keeps := fun (good : Bool) (P : State → Prop) => Answers (exec (.pageRequestAnswer k w0 w1) s) (OutcomeKept k r good P)
    (∀ l e pp x y, s.walk p r.asid r.page = .leaf l e pp x y → keeps true (fun _ => True)) ∧
    (∀ e, s.walk p r.asid r.page = .absent 3 e → keeps true (fun t => p.prot = [] →
      ((∀ i < 8, physOk (e + i) = true) → t.readWordAs k e = Pte.leafWord frame) ∧
      ∀ a, frame ≤ a → a < frame + 2 ^ 17 → (a < e ∨ e + 8 ≤ a) → physOk a = true → t.readAs k a = ⟨0, none⟩)) ∧
    ((∀ l e pp x y, s.walk p r.asid r.page ≠ .leaf l e pp x y) → (∀ e, s.walk p r.asid r.page ≠ .absent 3 e) →
      keeps false (fun _ => True)) := by
  intro frame keeps
  have hid : p.id = k := State.part?_id (p := p) hp
  have hkeeps := fun t (h : Pooled k s t) => State.settleRequest_keeps h hp (List.mem_of_find?_eq_some hr) hw hlost
  have hexec : exec (.pageRequestAnswer k w0 w1) s = (s.answerSuccess p r w0 frame).done := by
    rw [exec_answer_path hp hr hw hlost, hgood, if_neg Bool.false_ne_true, if_neg (by rw [hstatus]; decide)]
  have hcases := s.answerSuccess_cases p r w0 frame
  rw [hid] at hcases
  simp only [keeps, hexec]
  refine ⟨fun l e pp x y hleaf => ?_, fun e habsent => ?_, fun hleaf habsent => ?_⟩
  · obtain ⟨-, -, -, -, -, -, heq⟩ | ⟨_, h, -⟩ | ⟨h, -⟩ := hcases
    · obtain ⟨hq, -⟩ := hkeeps _ (Pooled.pushFrame k s frame) true
      rw [heq]
      exact ⟨_, rfl, rfl, trivial, hq⟩
    · rw [hleaf] at h
      cases h
    · exact absurd hleaf (h l e pp x y)
  · obtain ⟨_, _, _, _, _, h, -⟩ | ⟨e', h, heq⟩ | ⟨-, h, -⟩ := hcases
    · rw [habsent] at h
      cases h
    · obtain rfl : e = e' := by
        rw [habsent] at h
        injection h
      obtain ⟨hq, -, hread⟩ := hkeeps _ (Pooled.mapFrame k s k e frame) true
      rw [heq]
      refine ⟨_, rfl, rfl, fun h0 => ?_, hq⟩
      obtain ⟨hentry, hzero⟩ := State.mapFrame_reads hp h0 (entry := e) (answerFrame_aligned w1)
      refine ⟨fun hok => ?_, fun a hlo hhi hout hok => ?_⟩
      · exact (State.readWordAs_congr fun i _ => hread (e + i)).trans (hentry hok)
      · exact (hread a).trans (hzero a hlo hhi hout hok)
    · exact absurd habsent (h e)
  · obtain ⟨l, e, pp, x, y, h, -⟩ | ⟨e, h, -⟩ | ⟨-, -, heq⟩ := hcases
    · exact absurd h (hleaf l e pp x y)
    · exact absurd h (habsent e)
    · obtain ⟨hq, -⟩ := hkeeps _ ((Pooled.logAnswer k s p r w0).trans (Pooled.pushFrame k _ frame)) false
      rw [heq]
      exact ⟨_, rfl, rfl, trivial, hq⟩

end

end Sys2Proof.Machine
end

section
namespace Sys2Proof.Machine

/-! ### Words of memory, one apart from another (R326) -/

theorem Apart.symm {a b : Nat} (h : Apart a b) : Apart b a := Or.symm h

section
variable {s t : State} {k : Nat} {p : Part}

theorem State.writeWords_unprotected (hp : s.part? k = some p) (h0 : p.prot = []) (pa : Nat) (ws : List Word64) :
    (s.writeWords k pa ws).parts = s.parts := by
  unfold State.writeWords
  rw [State.writeDM_unprotected hp h0, State.writeHome_frame]

/-- A word apart from those that the device writes reads as before, where no parity protection lies. -/
theorem State.readWordAs_writeWords_other (hp : s.part? k = some p) (h0 : p.prot = []) {pa a : Nat} {ws : List Word64}
    (h : a + 8 ≤ pa ∨ pa + 8 * ws.length ≤ a) : (s.writeWords k pa ws).readWordAs k a = s.readWordAs k a :=
  State.readWordAs_congr fun i hi => State.readAs_writeWords_other hp h0 (by omega)

theorem State.readWordAs_writeWord_apart (hp : s.part? k = some p) (h0 : p.prot = []) {pa a : Nat} {w : Word64} (h : Apart a pa) :
    (s.writeWords k pa [w]).readWordAs k a = s.readWordAs k a := State.readWordAs_writeWords_other hp h0 h

theorem State.readWordAs_writeWord_same (hp : s.part? k = some p) (h0 : p.prot = []) {pa : Nat} {w : Word64}
    (hok : ∀ i < 8, physOk (pa + i) = true) : (s.writeWords k pa [w]).readWordAs k pa = w :=
  State.readWordAs_writeWords (j := 0) hp h0 rfl hok

/-- A walk finds the same where the words that it reads are the same. -/
theorem State.walkFrom_congr {part va fuel level table : Nat}
    (h : ∀ a ∈ s.walkReads part va fuel level table, t.readWordAs part a = s.readWordAs part a) :
    t.walkFrom part va fuel level table = s.walkFrom part va fuel level table := by
  induction fuel generalizing level table with
  | zero => rfl
  | succ fuel ih =>
    unfold State.walkReads at h
    unfold State.walkFrom
    dsimp only at h ⊢
    set a := table + 8 * (va / 2 ^ levelShift level % 2 ^ levelBits level)
    have hread : t.readWordAs part a = s.readWordAs part a := by
      refine h a ?_
      split
      · exact List.mem_singleton_self a
      · exact List.mem_cons_self
    rw [hread]
    split
    · rfl
    · next hvalid =>
      split
      · rfl
      · next hmal =>
        split
        · rfl
        · next hleaf =>
          refine ih fun b hb => h b ?_
          have hmore : ¬ ((!(Pte.ofWord (s.readWordAs part a)).valid || (Pte.ofWord (s.readWordAs part a)).malformed level ||
              (Pte.ofWord (s.readWordAs part a)).leaf) = true) := by
            rw [Bool.or_eq_true, Bool.or_eq_true]
            exact fun hor => hor.elim (fun h => h.elim hvalid hmal) hleaf
          rw [if_neg hmore]
          exact List.mem_cons_of_mem _ hb

end

/-! ### What TLBs and victim storage translate (R199, R200) -/

/-- No TLB and no victim storage of the partition translates the address under its first ASID. -/
def State.Untranslated (t : State) (p : Part) (va : Nat) : Prop :=
  let gone := fun (x : TlbEntry) => x.hits p.firstAsid va = false
  (∀ n ∈ p.cores, ∀ x ∈ (t.core n).l1, gone x) ∧
  ∀ n ∈ p.clusters, (∀ x ∈ (t.cluster n).l2, gone x) ∧ ∀ x ∈ (t.cluster n).victim, gone x

/-- What t's TLBs and victim storage hold, those of s held. -/
def TlbsShrink (s t : State) : Prop :=
  ∀ n, (t.core n).l1 ⊆ (s.core n).l1 ∧ (t.cluster n).l2 ⊆ (s.cluster n).l2 ∧ (t.cluster n).victim ⊆ (s.cluster n).victim

theorem TlbsShrink.of_eq {s t : State} (hcores : t.cores = s.cores) (hclusters : t.clusters = s.clusters) : TlbsShrink s t := fun n => by
  unfold State.core State.cluster
  rw [hcores, hclusters]
  exact ⟨List.Subset.refl _, List.Subset.refl _, List.Subset.refl _⟩

theorem TlbsShrink.trans {s t u : State} (h1 : TlbsShrink s t) (h2 : TlbsShrink t u) : TlbsShrink s u := fun n => by
  obtain ⟨a1, b1, c1⟩ := h1 n
  obtain ⟨a2, b2, c2⟩ := h2 n
  exact ⟨List.Subset.trans a2 a1, List.Subset.trans b2 b1, List.Subset.trans c2 c1⟩

theorem State.Untranslated.shrink {s t : State} {p : Part} {va : Nat} (h : s.Untranslated p va) (hst : TlbsShrink s t) :
    t.Untranslated p va := by
  obtain ⟨hcores, hclusters⟩ := h
  refine ⟨fun n hn x hx => hcores n hn x ((hst n).1 hx), fun n hn => ?_⟩
  obtain ⟨hl2, hvictim⟩ := hclusters n hn
  exact ⟨fun x hx => hl2 x ((hst n).2.1 hx), fun x hx => hvictim x ((hst n).2.2 hx)⟩

theorem State.core_onCore (s : State) (n m : Nat) (f : Core → Core) : (s.onCore n f).core m = if m = n then f (s.core n) else s.core m :=
  SMap.get_put Core.reset s.cores n m (f (s.core n))

theorem State.cluster_onCluster_eq (s : State) (n m : Nat) (f : Cluster → Cluster) :
    (s.onCluster n f).cluster m = if m = n then f (s.cluster n) else s.cluster m :=
  SMap.get_put Cluster.reset s.clusters n m (f (s.cluster n))

section
variable (keep : TlbEntry → Bool)

/-- The TLB entries that a test keeps, in a core and in a cluster. -/
def Core.keeping (c : Core) : Core := { c with l1 := c.l1.filter keep }
def Cluster.keeping (c : Cluster) : Cluster := { c with l2 := c.l2.filter keep, victim := c.victim.filter keep }

theorem State.onCore_keeping (s : State) (n : Nat) : TlbsShrink s (s.onCore n (Core.keeping keep)) := fun m => by
  rw [State.core_onCore]
  refine ⟨?_, List.Subset.refl _, List.Subset.refl _⟩
  split
  · next e => exact e ▸ List.filter_sublist.subset
  · exact List.Subset.refl _

theorem State.onCluster_keeping (s : State) (n : Nat) : TlbsShrink s (s.onCluster n (Cluster.keeping keep)) := fun m => by
  rw [State.cluster_onCluster_eq]
  refine ⟨List.Subset.refl _, ?_⟩
  split
  · next e => exact e ▸ ⟨List.filter_sublist.subset, List.filter_sublist.subset⟩
  · exact ⟨List.Subset.refl _, List.Subset.refl _⟩

/-- The state with the entries alone that a test keeps, in some clusters and some cores. -/
def State.keepTlbs (s : State) (clusters cores : List Nat) : State :=
  cores.foldl (fun s n => s.onCore n (Core.keeping keep)) (clusters.foldl (fun s n => s.onCluster n (Cluster.keeping keep)) s)

theorem State.keepTlbs_shrinks (s : State) (clusters cores : List Nat) : TlbsShrink s (s.keepTlbs keep clusters cores) :=
  foldl_keeps (TlbsShrink s) _ (fun t n h => h.trans (t.onCore_keeping keep n)) cores _
    (foldl_keeps (TlbsShrink s) _ (fun t n h => h.trans (t.onCluster_keeping keep n)) clusters s (TlbsShrink.of_eq rfl rfl))

theorem State.keepTlbs_frame (s : State) (clusters cores : List Nat) :
    s.keepTlbs keep clusters cores =
      { s with clusters := (s.keepTlbs keep clusters cores).clusters, cores := (s.keepTlbs keep clusters cores).cores } := by
  let P := fun t : State => t = { s with clusters := t.clusters, cores := t.cores }
  refine foldl_keeps P _ (fun t n h => ?_) cores _ (foldl_keeps P _ (fun t n h => ?_) clusters s rfl) <;>
  · rw [show t = _ from h]
    rfl

theorem State.keepTlbs_cores (s : State) (clusters : List Nat) {cores : List Nat} {n : Nat} (hn : n ∈ cores) :
    ∀ x ∈ ((s.keepTlbs keep clusters cores).core n).l1, keep x = true := by
  refine foldl_reaches (P := fun _ => True) (Q := fun t : State => ∀ x ∈ (t.core n).l1, keep x = true) (fun _ _ _ => .inl trivial)
    (fun t _ x hx => ?_) (fun t m h x hx => h x ((t.onCore_keeping keep m n).1 hx)) cores _ hn trivial
  rw [State.core_onCore, if_pos rfl] at hx
  exact (List.mem_filter.1 hx).2

theorem State.keepTlbs_clusters (s : State) {clusters : List Nat} (cores : List Nat) {n : Nat} (hn : n ∈ clusters) :
    (∀ x ∈ ((s.keepTlbs keep clusters cores).cluster n).l2, keep x = true) ∧
    ∀ x ∈ ((s.keepTlbs keep clusters cores).cluster n).victim, keep x = true := by
  let P := fun t : State => (∀ x ∈ (t.cluster n).l2, keep x = true) ∧ ∀ x ∈ (t.cluster n).victim, keep x = true
  have hshrink : ∀ t u : State, TlbsShrink t u → P t → P u := fun t u h hP =>
    ⟨fun x hx => hP.1 x ((h n).2.1 hx), fun x hx => hP.2 x ((h n).2.2 hx)⟩
  refine foldl_keeps P _ (fun t m => hshrink t _ (t.onCore_keeping keep m)) cores _
    (foldl_reaches (P := fun _ => True) (Q := P) (fun _ _ _ => .inl trivial) (fun t _ => ?_)
      (fun t m => hshrink t _ (t.onCluster_keeping keep m)) clusters s hn trivial)
  show (∀ x ∈ ((t.onCluster n (Cluster.keeping keep)).cluster n).l2, keep x = true) ∧ _
  rw [State.cluster_onCluster]
  exact ⟨fun x hx => (List.mem_filter.1 hx).2, fun x hx => (List.mem_filter.1 hx).2⟩

end

/-! ### A page invalidated (R199) -/

/-- The entries that a page's invalidation leaves. -/
def TlbEntry.missesPage (asid : BitVec 8) (page size : Nat) (e : TlbEntry) : Bool :=
  !(e.asid == asid && decide (e.vpage < page + size) && decide (page < e.vpage + e.size))

theorem State.invalidatePage_eq (s : State) (p : Part) (asid : BitVec 8) (page size : Nat) : s.invalidatePage p asid page size =
    { s.keepTlbs (TlbEntry.missesPage asid page size) p.clusters p.cores with
      groups := (s.invalidatePage p asid page size).groups } := rfl

theorem TlbEntry.hits_of_missesPage {asid : BitVec 8} {page size : Nat} (hsize : 0 < size) {e : TlbEntry}
    (h : e.missesPage asid page size = true) : e.hits asid page = false := by
  unfold TlbEntry.missesPage at h
  unfold TlbEntry.hits
  rw [Bool.eq_false_iff]
  intro hhit
  simp only [Bool.and_eq_true, decide_eq_true_eq] at hhit
  obtain ⟨⟨hasid, hlo⟩, hhi⟩ := hhit
  have hlt : e.vpage < page + size := by omega
  rw [hasid, decide_eq_true hlt, decide_eq_true hhi] at h
  exact Bool.noConfusion h

theorem State.invalidatePage_untranslated (s : State) (p : Part) (page : Nat) {size : Nat} (hsize : 0 < size) :
    (s.invalidatePage p p.firstAsid page size).Untranslated p page := by
  rw [State.invalidatePage_eq]
  refine ⟨fun n hn x hx => ?_, fun n hn => ?_⟩
  · exact TlbEntry.hits_of_missesPage hsize (State.keepTlbs_cores _ s p.clusters hn x hx)
  · obtain ⟨hl2, hvictim⟩ := State.keepTlbs_clusters (TlbEntry.missesPage p.firstAsid page size) s p.cores hn
    exact ⟨fun x hx => TlbEntry.hits_of_missesPage hsize (hl2 x hx), fun x hx => TlbEntry.hits_of_missesPage hsize (hvictim x hx)⟩

theorem State.invalidatePage_shrinks (s : State) (p : Part) (asid : BitVec 8) (page size : Nat) :
    TlbsShrink s (s.invalidatePage p asid page size) := by
  rw [State.invalidatePage_eq]
  exact s.keepTlbs_shrinks _ _ _

theorem State.invalidatePage_frame (s : State) (p : Part) (asid : BitVec 8) (page size : Nat) : s.invalidatePage p asid page size =
    { s with clusters := (s.invalidatePage p asid page size).clusters, cores := (s.invalidatePage p asid page size).cores
             groups := (s.invalidatePage p asid page size).groups } := by
  have h := s.keepTlbs_frame (TlbEntry.missesPage asid page size) p.clusters p.cores
  rw [State.invalidatePage_eq, h]

theorem State.readWordAs_invalidatePage (s : State) (p : Part) (asid : BitVec 8) (page size k a : Nat) :
    (s.invalidatePage p asid page size).readWordAs k a = s.readWordAs k a := by
  rw [State.invalidatePage_frame]
  rfl

/-! ### A frame goes back to its pool (R203, R361) -/

/-- The slot that a frame takes in its pool, and the partition once it has. -/
def Part.slotOf (q : Part) (frame : Nat) : Nat :=
  if deviceOk frame then q.ctl.poolBase.toNat + 8 * q.ctl.poolFree else q.ctl.hpoolBase.toNat + 8 * q.ctl.hpoolFree
def Part.withFrame (q : Part) (frame : Nat) : Part :=
  if deviceOk frame then { q with ctl := { q.ctl with poolFree := q.ctl.poolFree + 1 } }
  else { q with ctl := { q.ctl with hpoolFree := q.ctl.hpoolFree + 1 } }

section
variable {s : State} {k : Nat} {q : Part} (hq : s.part? k = some q) (frame : Nat)
include hq

theorem State.pushFrame_eq : s.pushFrame k frame =
    (s.writeWords k (q.slotOf frame) [BitVec.ofNat 64 frame]).setPart (q.withFrame frame) := by
  unfold State.pushFrame Part.slotOf Part.withFrame
  rw [hq]
  dsimp only
  rw [State.part?_id (p := q) hq]
  split <;> rfl

theorem Part.withFrame_id : (q.withFrame frame).id = k := by
  unfold Part.withFrame
  split <;> exact State.part?_id (p := q) hq

theorem State.part?_pushFrame (h0 : q.prot = []) : (s.pushFrame k frame).part? k = some (q.withFrame frame) := by
  rw [State.pushFrame_eq hq]
  exact State.part?_setPart_self ((State.part?_congr (State.writeWords_unprotected hq h0 _ _) k).trans hq) (Part.withFrame_id hq frame)

theorem State.readWordAs_pushFrame (h0 : q.prot = []) (a : Nat) :
    (s.pushFrame k frame).readWordAs k a = (s.writeWords k (q.slotOf frame) [BitVec.ofNat 64 frame]).readWordAs k a := by
  have hkey : (q.withFrame frame).key = q.key := by
    unfold Part.withFrame
    split <;> rfl
  rw [State.pushFrame_eq hq]
  exact State.readWordAs_congr fun i _ =>
    State.readAs_setPart ((State.part?_congr (State.writeWords_unprotected hq h0 _ _) k).trans hq) (Part.withFrame_id hq frame) hkey _

theorem State.pushFrame_shrinks : TlbsShrink s (s.pushFrame k frame) := by
  have h := Stored.writeWords s k (q.slotOf frame) [BitVec.ofNat 64 frame]
  rw [State.pushFrame_eq hq]
  exact TlbsShrink.of_eq h.cores h.clusters

end

end Sys2Proof.Machine
end

section
namespace Sys2Proof.Machine

/-! ### The pages of an object given back (R362; log 52) -/

/-- How many of the first n frames are of device memory. -/
def deviceFrames (f : Nat → Nat) (n : Nat) : Nat := ((List.range n).filter (fun j => deviceOk (f j))).length

theorem deviceFrames_succ (f : Nat → Nat) (n : Nat) : deviceFrames f (n + 1) = deviceFrames f n + if deviceOk (f n) then 1 else 0 := by
  unfold deviceFrames
  rw [List.range_succ, List.filter_append, List.length_append, List.filter_singleton]
  cases deviceOk (f n) <;> rfl

theorem deviceFrames_le (f : Nat → Nat) (n : Nat) : deviceFrames f n ≤ n := by
  unfold deviceFrames
  simpa using List.length_filter_le (fun j => deviceOk (f j)) (List.range n)

/-- The partition once the first n frames stand in its pools. -/
def Part.withFrames (p : Part) (f : Nat → Nat) (n : Nat) : Part :=
  { p with ctl := { p.ctl with poolFree := p.ctl.poolFree + deviceFrames f n
                               hpoolFree := p.ctl.hpoolFree + (n - deviceFrames f n) } }

theorem Part.withFrames_succ (p : Part) (f : Nat → Nat) (n : Nat) : p.withFrames f (n + 1) = (p.withFrames f n).withFrame (f n) := by
  have hle := deviceFrames_le f n
  unfold Part.withFrames Part.withFrame
  rw [deviceFrames_succ]
  split
  · rw [show n + 1 - (deviceFrames f n + 1) = n - deviceFrames f n by omega]
    rfl
  · rw [Nat.add_zero, show n + 1 - deviceFrames f n = n - deviceFrames f n + 1 by omega]
    rfl

/-- The slot that takes frame n once the n before it stand in the pools. -/
def Part.slotAfter (p : Part) (f : Nat → Nat) (n : Nat) : Nat :=
  if deviceOk (f n) then p.ctl.poolBase.toNat + 8 * (p.ctl.poolFree + deviceFrames f n)
  else p.ctl.hpoolBase.toNat + 8 * (p.ctl.hpoolFree + (n - deviceFrames f n))

/-- t is s with the first n pages from va given back: their entries are 0, their frames stand in their pools, and nothing translates
them any more; words apart from those are as they were. -/
structure PagesFreed (s : State) (p : Part) (va : Nat) (e f slot : Nat → Nat) (n : Nat) (t : State) : Prop where
  part : t.part? p.id = some (p.withFrames f n)
  other : ∀ a, (∀ i < n, Apart a (e i) ∧ Apart a (slot i)) → t.readWordAs p.id a = s.readWordAs p.id a
  entries : ∀ i < n, t.readWordAs p.id (e i) = 0
  slots : ∀ i < n, t.readWordAs p.id (slot i) = BitVec.ofNat 64 (f i)
  gone : ∀ i < n, t.Untranslated p (va + 2 ^ 17 * i)

section
variable {s t : State} {p : Part} {va : Nat} {e f slot : Nat → Nat} {n : Nat}

theorem PagesFreed.zero (hp : s.part? p.id = some p) : PagesFreed s p va e f slot 0 s where
  part := hp.trans (congrArg some (by unfold Part.withFrames deviceFrames; rfl))
  other _ _ := rfl
  entries _ hi := absurd hi (Nat.not_lt_zero _)
  slots _ hi := absurd hi (Nat.not_lt_zero _)
  gone _ hi := absurd hi (Nat.not_lt_zero _)

/-- What the freeing of a mapped page does: its entry is 0, its frame stands in the next slot of its pool, nothing translates it, and
words apart from those two are as they were. -/
theorem State.freePage_spec {q : Part} {va entry frame : Nat} {x w : Bool} (hq : t.part? p.id = some q) (h0 : q.prot = [])
    (hwalk : t.walk p p.firstAsid va = .leaf 3 entry frame x w) (hapart : Apart entry (q.slotOf frame))
    (hentry : ∀ i < 8, physOk (entry + i) = true) (hslot : ∀ i < 8, physOk (q.slotOf frame + i) = true) :
    (t.freePage p va).part? p.id = some (q.withFrame frame) ∧
    (∀ a, Apart a entry → Apart a (q.slotOf frame) → (t.freePage p va).readWordAs p.id a = t.readWordAs p.id a) ∧
    (t.freePage p va).readWordAs p.id entry = 0 ∧ (t.freePage p va).readWordAs p.id (q.slotOf frame) = BitVec.ofNat 64 frame ∧
    (t.freePage p va).Untranslated p va ∧ TlbsShrink t (t.freePage p va) := by
  have hfree : t.freePage p va =
      ((t.writeWords p.id entry [0]).invalidatePage p p.firstAsid va (2 ^ 17)).pushFrame p.id frame := by
    unfold State.freePage
    rw [hwalk]
    rfl
  set t1 := t.writeWords p.id entry [0]
  set t2 := t1.invalidatePage p p.firstAsid va (2 ^ 17)
  have hframe : t2 = { t1 with clusters := t2.clusters, cores := t2.cores, groups := t2.groups } := State.invalidatePage_frame _ _ _ _ _
  have hq1 : t1.part? p.id = some q := (State.part?_congr (State.writeWords_unprotected hq h0 _ _) _).trans hq
  have hq2 : t2.part? p.id = some q := (State.part?_congr (congrArg State.parts hframe :) _).trans hq1
  have hread : ∀ a, t2.readWordAs p.id a = t1.readWordAs p.id a := State.readWordAs_invalidatePage _ _ _ _ _ _
  have hpush := State.readWordAs_pushFrame hq2 frame h0
  have hwrite : TlbsShrink t t1 := TlbsShrink.of_eq (Stored.writeWords _ _ _ _).cores (Stored.writeWords _ _ _ _).clusters
  have hpushed := State.pushFrame_shrinks hq2 frame
  rw [hfree]
  refine ⟨State.part?_pushFrame hq2 frame h0, fun a ha hs => ?_, ?_, ?_, ?_, ?_⟩
  · rw [hpush, State.readWordAs_writeWord_apart hq2 h0 hs, hread, State.readWordAs_writeWord_apart hq h0 ha]
  · rw [hpush, State.readWordAs_writeWord_apart hq2 h0 hapart, hread, State.readWordAs_writeWord_same hq h0 hentry]
  · rw [hpush, State.readWordAs_writeWord_same hq2 h0 hslot]
  · exact (State.invalidatePage_untranslated t1 p va (by decide)).shrink hpushed
  · exact (hwrite.trans (State.invalidatePage_shrinks _ _ _ _ _)).trans hpushed

/-- One page more given back. -/
theorem PagesFreed.succ (h : PagesFreed s p va e f slot n t) (h0 : p.prot = []) {x w : Bool}
    (hwalk : t.walk p p.firstAsid (va + 2 ^ 17 * n) = .leaf 3 (e n) (f n) x w) (hslot : slot n = p.slotAfter f n)
    (hapart : Apart (e n) (slot n))
    (hprev : ∀ i < n, (Apart (e i) (e n) ∧ Apart (e i) (slot n)) ∧ Apart (slot i) (e n) ∧ Apart (slot i) (slot n))
    (hokEntry : ∀ i < 8, physOk (e n + i) = true) (hokSlot : ∀ i < 8, physOk (slot n + i) = true) :
    PagesFreed s p va e f slot (n + 1) (t.freePage p (va + 2 ^ 17 * n)) := by
  have hof : (p.withFrames f n).slotOf (f n) = slot n := by
    rw [hslot]
    rfl
  obtain ⟨hpart, hother, hentry, hword, hgone, hshrink⟩ := State.freePage_spec h.part h0 hwalk (by rw [hof]; exact hapart) hokEntry
    (by rw [hof]; exact hokSlot)
  rw [hof] at hother hword
  have hlast : ∀ i, i < n + 1 → i < n ∨ i = n := fun i hi => by omega
  refine ⟨by rw [Part.withFrames_succ]; exact hpart, fun a ha => ?_, fun i hi => ?_, fun i hi => ?_, fun i hi => ?_⟩
  · obtain ⟨hae, has⟩ := ha n (Nat.lt_succ_self n)
    rw [hother a hae has, h.other a fun i hi => ha i (Nat.lt_succ_of_lt hi)]
  · obtain hi | rfl := hlast i hi
    · obtain ⟨⟨hee, hes⟩, -⟩ := hprev i hi
      rw [hother _ hee hes, h.entries i hi]
    · exact hentry
  · obtain hi | rfl := hlast i hi
    · obtain ⟨-, hse, hss⟩ := hprev i hi
      rw [hother _ hse hss, h.slots i hi]
    · exact hword
  · obtain hi | rfl := hlast i hi
    · exact (h.gone i hi).shrink hshrink
    · exact hgone

end

/-! ### Words apart in the destruction of an object (R362) -/

theorem pairwise_map_range {R : Nat → Nat → Prop} {g : Nat → Nat} {n : Nat} (h : ((List.range n).map g).Pairwise R) {i j : Nat}
    (hij : i < j) (hj : j < n) : R (g i) (g j) := by
  have := List.pairwise_iff_getElem.1 h i j (by simp; omega) (by simpa using hj) hij
  simpa using this

/-- How the words of an object's destruction lie: its record apart from the entries and the slots, and those apart from one another. -/
structure ObjLies (s : State) (p : Part) (r : ObjRec) (e slot : Nat → Nat) : Prop where
  okRec : ∀ j < 4, ∀ i < 8, physOk (p.recAddr r.idx + 8 * j + i) = true
  okEntry : ∀ n < r.npg, ∀ i < 8, physOk (e n + i) = true
  okSlot : ∀ n < r.npg, ∀ i < 8, physOk (slot n + i) = true
  record : ∀ j < 4, ∀ n < r.npg, Apart (p.recAddr r.idx + 8 * j) (e n) ∧ Apart (p.recAddr r.idx + 8 * j) (slot n)
  entries : ∀ i n, i < n → n < r.npg → Apart (e i) (e n)
  slots : ∀ i n, i < n → n < r.npg → Apart (slot i) (slot n)
  apart : ∀ i < r.npg, ∀ n < r.npg, Apart (e i) (slot n)
  tables : ∀ n < r.npg, ∀ a ∈ s.walkReads p.id (r.va.toNat + 2 ^ 17 * n) 4 0 (p.ptroot p.firstAsid).toNat, a ≠ e n →
    (∀ j < 4, Apart a (p.recAddr r.idx + 8 * j)) ∧ ∀ i < r.npg, Apart a (e i) ∧ Apart a (slot i)

theorem ObjLies.of_objApart {s : State} {p : Part} {r : ObjRec} {e slot : Nat → Nat} (h : s.ObjApart p r e slot) :
    ObjLies s p r e slot := by
  obtain ⟨hok, hpair, htables⟩ := h
  have hrec : ∀ j < 4, p.recAddr r.idx + 8 * j ∈ (List.range 4).map (fun j => p.recAddr r.idx + 8 * j) := fun j hj =>
    List.mem_map.2 ⟨j, List.mem_range.2 hj, rfl⟩
  have hmem : ∀ g : Nat → Nat, ∀ n < r.npg, g n ∈ (List.range r.npg).map g := fun g n hn =>
    List.mem_map.2 ⟨n, List.mem_range.2 hn, rfl⟩
  obtain ⟨hleft, hslots, hcross⟩ := List.pairwise_append.1 hpair
  obtain ⟨-, hentries, hrecEntry⟩ := List.pairwise_append.1 hleft
  have hrecIn := fun j hj => List.mem_append_left ((List.range r.npg).map slot)
    (List.mem_append_left ((List.range r.npg).map e) (hrec j hj))
  have hentryIn := fun n hn => List.mem_append_left ((List.range r.npg).map slot)
    (List.mem_append_right ((List.range 4).map fun j => p.recAddr r.idx + 8 * j) (hmem e n hn))
  have hslotIn := fun n hn => List.mem_append_right
    ((List.range 4).map (fun j => p.recAddr r.idx + 8 * j) ++ (List.range r.npg).map e) (hmem slot n hn)
  exact {
    okRec := fun j hj => hok _ (hrecIn j hj)
    okEntry := fun n hn => hok _ (hentryIn n hn)
    okSlot := fun n hn => hok _ (hslotIn n hn)
    record := fun j hj n hn => ⟨hrecEntry _ (hrec j hj) _ (hmem e n hn),
      hcross _ (List.mem_append_left _ (hrec j hj)) _ (hmem slot n hn)⟩
    entries := fun i n hin hn => pairwise_map_range hentries hin hn
    slots := fun i n hin hn => pairwise_map_range hslots hin hn
    apart := fun i hi n hn => hcross _ (List.mem_append_right _ (hmem e i hi)) _ (hmem slot n hn)
    tables := fun n hn a ha hne => ⟨fun j hj => htables n hn a ha hne _ (hrecIn j hj), fun i hi =>
      ⟨htables n hn a ha hne _ (hentryIn i hi), htables n hn a ha hne _ (hslotIn i hi)⟩⟩ }

/-! ### Object records (R360) -/

/-- The fields of a record fit their bits. -/
def ObjRec.Fits (r : ObjRec) : Prop := r.scnt < 2 ^ 16 ∧ r.wcnt < 2 ^ 16 ∧ r.npg < 2 ^ 32 ∧ r.stamp < 2 ^ 44

theorem State.objRec_fits (s : State) (p : Part) (i : Nat) : (s.objRec p i).Fits :=
  ⟨BitVec.isLt _, BitVec.isLt _, BitVec.isLt _, BitVec.isLt _⟩

/-- The words of a record whose fields fit, as numbers. -/
theorem ObjRec.words_eq {r : ObjRec} (hfits : r.Fits) : r.words = [
    BitVec.ofNat 64 (r.gen.toNat * 2 ^ 40 + r.state.toNat * 2 ^ 38 + b2n r.tier * 2 ^ 37 + r.scnt * 2 ^ 16 + r.wcnt),
    BitVec.ofNat 64 r.va.toNat, BitVec.ofNat 64 (r.npg * 2 ^ 32 + r.rpri.toNat * 2 ^ 28), BitVec.ofNat 64 r.stamp] := by
  obtain ⟨hs, hw, hn, hst⟩ := hfits
  have hb : b2n r.tier % 2 ^ 1 = b2n r.tier := Nat.mod_eq_of_lt (b2n_lt r.tier)
  unfold ObjRec.words at64 put64
  rw [hb, Nat.mod_eq_of_lt hs, Nat.mod_eq_of_lt hw, Nat.mod_eq_of_lt hn, Nat.mod_eq_of_lt hst]
  simp only [← BitVec.ofNat_add, pow_zero, mul_one]
  rw [← BitVec.ofNat_toNat]

/-- A record that reads as the words of r is r. -/
theorem State.objRec_of_words {t : State} {p : Part} {r : ObjRec} (hfits : r.Fits)
    (h : ∀ j w, r.words[j]? = some w → t.readWordAs p.id (p.recAddr r.idx + 8 * j) = w) : t.objRec p r.idx = r := by
  rw [ObjRec.words_eq hfits] at h
  have h0 := h 0 _ rfl
  have h1 := h 1 _ rfl
  have h2 := h 2 _ rfl
  have h3 := h 3 _ rfl
  obtain ⟨hs, hw, hn, hst⟩ := hfits
  have hgen := r.gen.isLt
  have hstate := r.state.isLt
  have hva := r.va.isLt
  have hrpri := r.rpri.isLt
  have htier := b2n_lt r.tier
  unfold State.objRec
  dsimp only
  rw [h0, h1, h2, h3, bits_of _ 40 24 r.gen (by omega) (by omega), bits_of _ 38 2 r.state (by omega) (by omega),
    bit_of _ 37 r.tier (by omega) (by omega), bitsNat_of _ 16 16 r.scnt (by omega) (by omega),
    bitsNat_of _ 0 16 r.wcnt (by omega) (by omega), bits_of _ 0 57 r.va (by omega) (by omega), bitsNat_of _ 32 32 r.npg (by omega) (by omega),
    bits_of _ 28 4 r.rpri (by omega) (by omega),
    bitsNat_of _ 0 44 r.stamp (by omega) (by omega)]

end Sys2Proof.Machine
end

section
namespace Sys2Proof.Machine

/-! ### The destruction of an object (R362) -/

/-- The record of an object once it is destroyed. -/
def ObjRec.dead (r : ObjRec) : ObjRec := { r with gen := r.gen + 1, state := if r.gen + 1 = 0xFFFFFF then 2 else 0 }

theorem State.destroyObj_eq (s : State) (p : Part) (r : ObjRec) : s.destroyObj p r =
    (List.range r.npg).foldl (fun s i => s.freePage p (r.va.toNat + 2 ^ 17 * i)) (s.putRec p r.dead) := rfl

theorem State.objRec_congr {s t : State} {p : Part} {i : Nat}
    (h : ∀ j < 4, t.readWordAs p.id (p.recAddr i + 8 * j) = s.readWordAs p.id (p.recAddr i + 8 * j)) : t.objRec p i = s.objRec p i := by
  unfold State.objRec
  dsimp only
  rw [h 0 (by decide), h 1 (by decide), h 2 (by decide), h 3 (by decide)]

section
variable {s t : State} {p : Part} {r : ObjRec} (hp : s.part? p.id = some p) (h0 : p.prot = [])
include hp h0

/-- A record that was written reads back. -/
theorem State.objRec_putRec (hfits : r.Fits) (hok : ∀ j < 4, ∀ i < 8, physOk (p.recAddr r.idx + 8 * j + i) = true) :
    (s.putRec p r).objRec p r.idx = r := by
  refine State.objRec_of_words hfits fun j w hw => State.readWordAs_writeWords hp h0 hw (hok j ?_)
  have := (List.getElem?_eq_some_iff.1 hw).1
  simpa [ObjRec.words] using this

theorem State.readWordAs_putRec_apart {a : Nat} (h : ∀ j < 4, Apart a (p.recAddr r.idx + 8 * j)) :
    (s.putRec p r).readWordAs p.id a = s.readWordAs p.id a := by
  refine State.readWordAs_writeWords_other hp h0 ?_
  have a0 := h 0 (by decide)
  have a1 := h 1 (by decide)
  have a2 := h 2 (by decide)
  have a3 := h 3 (by decide)
  unfold Apart at a0 a1 a2 a3
  simp only [ObjRec.words, List.length_cons, List.length_nil]
  omega

theorem State.part?_putRec : (s.putRec p r).part? p.id = some p :=
  (State.part?_congr (State.writeWords_unprotected hp h0 _ _) _).trans hp

variable {e f slot : Nat → Nat} (hlies : ObjLies s p r e slot)
include hlies

/-- The walk of a page that is still to be given back finds what it found before the destruction began. -/
theorem PagesFreed.walk {n : Nat} (h : PagesFreed (s.putRec p r.dead) p r.va.toNat e f slot n t) (hn : n < r.npg) :
    t.walk p p.firstAsid (r.va.toNat + 2 ^ 17 * n) = s.walk p p.firstAsid (r.va.toNat + 2 ^ 17 * n) := by
  unfold State.walk
  split
  · rfl
  · refine State.walkFrom_congr fun a ha => ?_
    have hfree : (∀ j < 4, Apart a (p.recAddr r.idx + 8 * j)) ∧ ∀ i < n, Apart a (e i) ∧ Apart a (slot i) := by
      by_cases hne : a = e n
      · subst hne
        exact ⟨fun j hj => (hlies.record j hj n hn).1.symm, fun i hi =>
          ⟨(hlies.entries i n hi hn).symm, hlies.apart n hn i (hi.trans hn)⟩⟩
      · obtain ⟨hrec, hothers⟩ := hlies.tables n hn a ha hne
        exact ⟨hrec, fun i hi => hothers i (hi.trans hn)⟩
    rw [h.other a hfree.2]
    exact State.readWordAs_putRec_apart (r := r.dead) hp h0 hfree.1

/-- The pages of the object are given back one after the other. -/
theorem State.freePages_freed (hpages : s.ObjPages p r e f slot) {n : Nat} (hn : n ≤ r.npg) :
    PagesFreed (s.putRec p r.dead) p r.va.toNat e f slot n
      ((List.range n).foldl (fun s i => s.freePage p (r.va.toNat + 2 ^ 17 * i)) (s.putRec p r.dead)) := by
  induction n with
  | zero => exact PagesFreed.zero (State.part?_putRec hp h0)
  | succ n ih =>
    have hlt : n < r.npg := hn
    obtain ⟨⟨x, w, hwalk⟩, hslot⟩ := hpages n hlt
    have hfreed := ih (Nat.le_of_lt hlt)
    rw [List.range_succ, List.foldl_append, List.foldl_cons, List.foldl_nil]
    exact hfreed.succ h0 ((hfreed.walk hp h0 hlies hlt).trans hwalk) hslot (hlies.apart n hlt n hlt)
      (fun i hi => ⟨⟨hlies.entries i n hi hlt, hlies.apart i (hi.trans hlt) n hlt⟩, (hlies.apart n hlt i (hi.trans hlt)).symm,
        hlies.slots i n hi hlt⟩) (hlies.okEntry n hlt) (hlies.okSlot n hlt)

end

/-- Destroy does what R362 says: the record first, then the pages one after the other. -/
theorem State.destroyObj_destroyed {s : State} {p : Part} {r : ObjRec} (hp : s.part? p.id = some p) (hfits : r.Fits) :
    Destroyed s (s.destroyObj p r) p r := by
  intro h0 e f slot hpages hapart
  have hlies := ObjLies.of_objApart hapart
  have hfreed := State.freePages_freed hp h0 hlies hpages (Nat.le_refl r.npg)
  have hrec : (s.putRec p r.dead).objRec p r.idx = r.dead := State.objRec_putRec (r := r.dead) hp h0 hfits hlies.okRec
  rw [State.destroyObj_eq]
  refine ⟨(State.objRec_congr fun j hj => hfreed.other _ fun i hi => hlies.record j hj i hi).trans hrec, fun i hi => ?_,
    _, hfreed.part, rfl, rfl⟩
  exact ⟨hfreed.entries i hi, hfreed.slots i hi, hfreed.gone i hi⟩

/-- What keeps the words of memory and the counts of the pools, and brings no translation, keeps an object destroyed. -/
theorem Destroyed.keep {s t u : State} {p : Part} {r : ObjRec} (h : Destroyed s t p r)
    (hread : ∀ a, u.readWordAs p.id a = t.readWordAs p.id a) (htlbs : TlbsShrink t u)
    (hpart : ∀ q, t.part? p.id = some q →
      ∃ q', u.part? p.id = some q' ∧ q'.ctl.poolFree = q.ctl.poolFree ∧ q'.ctl.hpoolFree = q.ctl.hpoolFree) : Destroyed s u p r := by
  intro h0 e f slot hpages hapart
  obtain ⟨hrec, hfreed, q, hq, hpool, hhpool⟩ := h h0 e f slot hpages hapart
  obtain ⟨q', hq', hpool', hhpool'⟩ := hpart q hq
  refine ⟨(State.objRec_congr fun j _ => hread _).trans hrec, fun i hi => ?_, q', hq', hpool'.trans hpool, hhpool'.trans hhpool⟩
  obtain ⟨hentry, hslot, hgone⟩ := hfreed i hi
  exact ⟨(hread _).trans hentry, (hread _).trans hslot, State.Untranslated.shrink (t := u) hgone htlbs⟩

theorem Pooled.destroyObj (s : State) (p : Part) (r : ObjRec) : Pooled p.id s (s.destroyObj p r) := by
  rw [State.destroyObj_eq]
  refine foldl_keeps (Pooled p.id s) _ (fun t i ht => ht.trans ?_) _ _ (of_stored (Stored.writeWords s p.id _ _))
  unfold State.freePage
  split
  · exact ((of_stored (Stored.writeWords _ _ _ _)).trans
      (of_parts (by rw [State.invalidatePage_frame]) (by rw [State.invalidatePage_frame]))).trans (pushFrame _ _ _)
  · exact refl _ t

/-! ### The object that reclaim takes, and its count (R364, R365) -/

/-- The flag of a tier brought up to date changes the partition's flags and, by the interrupt, its vectors. -/
theorem State.refreshOver_keeps {s : State} {k : Nat} {p : Part} (h : s.part? k = some p) (tier : Bool) :
    (∃ b ports, (s.refreshOver k tier).part? k = some { p with ctl := p.ctl.withFlag tier b, ports := ports }) ∧
    (∀ a, (s.refreshOver k tier).readAs k a = s.readAs k a) ∧ TlbsShrink s (s.refreshOver k tier) := by
  let q : Part := { p with ctl := p.ctl.withFlag tier (decide (p.quota tier < s.use p tier)) }
  have hid : q.id = k := State.part?_id (p := p) h
  have hset := State.part?_setPart_self (q := q) h hid
  have hread := State.readAs_setPart (q := q) h hid rfl
  unfold State.refreshOver
  rw [h]
  dsimp only
  split
  · obtain ⟨vs, hv⟩ := State.sendMsi_part hset 35
    refine ⟨⟨_, _, hv⟩, fun a => (State.readAs_sendMsi hset 35 a).trans (hread a), ?_⟩
    rw [State.sendMsi_eq hset]
    split <;> exact TlbsShrink.of_eq rfl rfl
  · exact ⟨⟨_, p.ports, hset⟩, hread, TlbsShrink.of_eq rfl rfl⟩

theorem PartCtl.withFlag_counts (c : PartCtl) (tier b : Bool) :
    (c.withFlag tier b).rcnt = c.rcnt ∧ (c.withFlag tier b).poolFree = c.poolFree ∧ (c.withFlag tier b).hpoolFree = c.hpoolFree := by
  cases tier <;> exact ⟨rfl, rfl, rfl⟩

/-- The object is destroyed, RCNT counts it, and the tier's flag is brought up to date. -/
theorem State.reclaimObj_destroyed {s : State} {p : Part} {r : ObjRec} (hp : s.part? p.id = some p) (hfits : r.Fits) (tier : Bool) :
    let t := (s.reclaimObj p r).refreshOver p.id tier
    Destroyed s t p r ∧ ∃ q, t.part? p.id = some q ∧ q.ctl.rcnt = p.ctl.rcnt + 1 := by
  let count := fun q : Part => { q with ctl := { q.ctl with rcnt := q.ctl.rcnt + 1 } }
  obtain ⟨b, n, m, hd⟩ := (Pooled.destroyObj s p r).part p hp
  have hu : (s.reclaimObj p r).part? p.id = some (count _) := State.part?_onPart hd (f := count) rfl
  obtain ⟨⟨flag, ports, hflag⟩, hread, htlbs⟩ := State.refreshOver_keeps hu tier
  obtain ⟨hrcnt, hpool, hhpool⟩ := PartCtl.withFlag_counts (count _).ctl tier flag
  have hcounted : TlbsShrink (s.destroyObj p r) (s.reclaimObj p r) :=
    TlbsShrink.of_eq (by unfold State.reclaimObj; rw [State.onPart_frame]) (by unfold State.reclaimObj; rw [State.onPart_frame])
  refine ⟨(State.destroyObj_destroyed hp hfits).keep (fun a => State.readWordAs_congr fun i _ => ?_) (hcounted.trans htlbs)
    fun q hq => ?_, _, hflag, hrcnt⟩
  · exact (hread _).trans (State.readAs_onPart hd (f := count) rfl rfl _)
  · obtain rfl := Option.some.inj (hd.symm.trans hq)
    exact ⟨_, hflag, hpool, hhpool⟩

theorem ObjRec.before_iff {s : State} {a b : ObjRec} : ObjRec.before s.tick a b = true ↔ ReclaimedFirst s a b := by
  unfold ObjRec.before ReclaimedFirst
  simp only [Bool.or_eq_true, Bool.and_eq_true, decide_eq_true_eq, beq_iff_eq]

theorem ReclaimedFirst.asymm {s : State} {a b : ObjRec} (h : ReclaimedFirst s a b) : ¬ ReclaimedFirst s b a := by
  unfold ReclaimedFirst at *
  rintro (hpri | ⟨hpri, hage⟩)
  · obtain hpri' | ⟨hpri', -⟩ := h
    · omega
    · rw [hpri'] at hpri
      omega
  · rw [hpri] at h
    omega

/-- The records that reclaim may take: no strong and some weak reference (R364). -/
def State.reclaimables (s : State) (p : Part) (tier : Bool) : List ObjRec :=
  (s.liveRecs p tier).filter (fun r => r.scnt == 0 && decide (0 < r.wcnt))

theorem State.reclaimables_eq (s : State) (p : Part) (tier : Bool) :
    (s.liveRecs p tier).filter (·.reclaimable) = s.reclaimables p tier := by
  refine List.filter_congr fun r hr => ?_
  have hlive : r.live = true := (Bool.and_eq_true_iff.1 (List.mem_filter.1 hr).2).1
  unfold ObjRec.reclaimable
  rw [hlive, Bool.true_and]

theorem State.fits_of_mem_reclaimables {s : State} {p : Part} {tier : Bool} {r : ObjRec} (h : r ∈ s.reclaimables p tier) : r.Fits := by
  obtain ⟨hlive, -⟩ := List.mem_filter.1 h
  obtain ⟨hrec, -⟩ := List.mem_filter.1 hlive
  obtain ⟨i, -, rfl⟩ := List.mem_map.1 hrec
  exact State.objRec_fits s p (i + 1)

/-- Reclaim takes the record that comes before every other. -/
theorem State.reclaimHead_first {s : State} {p : Part} {tier : Bool} {r : ObjRec} (hr : r ∈ s.reclaimables p tier)
    (hfirst : ∀ y ∈ s.reclaimables p tier, y ≠ r → ReclaimedFirst s r y) : s.reclaimHead p tier = some r := by
  unfold State.reclaimHead
  rw [State.reclaimables_eq]
  refine foldl_pick _ r _ (fun _ => rfl) (fun b x => ?_) (fun b hb => ?_) (fun x hx => ?_) hr
  · dsimp only
    split
    · exact .inr rfl
    · exact .inl rfl
  · by_cases hbr : b = r
    · rw [hbr]
      exact ite_self _
    · exact if_pos (ObjRec.before_iff.2 (hfirst b hb hbr))
  · by_cases hxr : x = r
    · rw [hxr]
      exact ite_self _
    · exact if_neg fun h => (hfirst x hx hxr).asymm (ObjRec.before_iff.1 h)

theorem State.reclaimHead_none {s : State} {p : Part} {tier : Bool} (h : s.reclaimables p tier = []) : s.reclaimHead p tier = none := by
  unfold State.reclaimHead
  rw [State.reclaimables_eq, h]
  rfl

/-! ### RECLAIM (R365) -/

section
variable {s : State} {k tier : Nat} {p : Part} (hp : s.part? k = some p)
include hp

theorem exec_reclaim_within (hle : s.use p (tier == 1) ≤ p.quota (tier == 1)) :
    exec (.reclaim k tier) s = .next { s with waited := false } := by
  show execReclaim k tier s = _
  unfold execReclaim
  rw [hp]
  dsimp only
  rw [decide_eq_true hle, Bool.or_true, if_pos rfl]
  rfl

theorem exec_reclaim_none (hhead : s.reclaimHead p (tier == 1) = none) : exec (.reclaim k tier) s = .next { s with waited := false } := by
  show execReclaim k tier s = _
  unfold execReclaim
  rw [hp]
  dsimp only
  rw [hhead]
  exact ite_self _

theorem exec_reclaim_some (htier : tier < 2) (hlt : p.quota (tier == 1) < s.use p (tier == 1)) {r : ObjRec}
    (hhead : s.reclaimHead p (tier == 1) = some r) :
    exec (.reclaim k tier) s = ((s.reclaimObj p r).refreshOver k (tier == 1)).done := by
  show execReclaim k tier s = _
  unfold execReclaim
  rw [hp]
  dsimp only
  rw [decide_eq_false (Nat.not_le.2 htier), decide_eq_false (Nat.not_le.2 hlt), Bool.or_self, if_neg Bool.false_ne_true, hhead]

end

/-- Settles O53: an answer by its row of R205, and RECLAIM by the first record in reclaim order. -/
theorem answersAndReclaim : Obligations.AnswersAndReclaim := by
  unfold Obligations.AnswersAndReclaim
  intro s k p hp
  refine ⟨fun w0 w1 => ⟨fun hnone => exec_answer_discarded hp hnone, fun r hr =>
    ⟨fun hlost => exec_answer_lost hp hr hlost, fun uid g path hw hlost =>
      ⟨fun hbad => ?_, fun _ hstatus => ?_, fun hgood hstatus => ?_⟩⟩⟩, fun tier htier => ⟨fun hle => exec_reclaim_within hp hle,
    fun _ hout => exec_reclaim_none hp (State.reclaimHead_none hout), fun r hr hlt hfirst => ?_⟩⟩
  · exact exec_answer_refused hp hr hw hlost (.inl hbad)
  · exact exec_answer_refused hp hr hw hlost (.inr hstatus)
  · exact exec_answer_success hp hr hw hlost hgood hstatus
  · obtain rfl : p.id = k := State.part?_id (p := p) hp
    rw [exec_reclaim_some hp htier hlt (State.reclaimHead_first hr hfirst)]
    exact ⟨_, rfl, rfl, State.reclaimObj_destroyed hp (State.fits_of_mem_reclaimables hr) (tier == 1)⟩

end Sys2Proof.Machine
end

section
namespace Sys2Proof.Machine

/-! ### The copies of a view after a Refresh (R329, R330) -/

theorem State.copy?_congr {s t : State} (h : t.copies = s.copies) : t.copy? = s.copy? := by
  unfold State.copy?
  rw [h]

theorem CopiesOnly.refl (s : State) : CopiesOnly s s := rfl

theorem State.copy?_some {s : State} {v : View} {line : Nat} {x : Copy} (h : s.copy? v line = some x) : x.view = v ∧ x.line = line := by
  simpa using List.find?_some h

theorem State.copy?_isSome {s : State} {v : View} {line : Nat} :
    (s.copy? v line).isSome = true ↔ line ∈ (s.copies.filter (fun x => x.view == v)).map (·.line) := by
  simp [State.copy?, and_assoc]

/-- A copy that is put into its view takes the place of what the view held of the line. -/
theorem State.copy?_setCopy (s : State) (x : Copy) (v : View) (line : Nat) :
    (s.setCopy x).copy? v line = if v = x.view ∧ line = x.line then some x else s.copy? v line := by
  unfold State.setCopy State.dropCopy State.copy?
  dsimp only
  rw [List.find?_append, List.find?_filter, List.find?_singleton]
  simp only [Bool.decide_and, Bool.decide_eq_true]
  by_cases h : v = x.view ∧ line = x.line
  · obtain ⟨rfl, rfl⟩ := h
    simp only [Bool.not_and_self, beq_self_eq_true, Bool.and_self, and_self, if_true]
    rw [List.find?_eq_none.2 fun _ _ => Bool.false_ne_true, Option.none_or]
  · have hx : (x.view == v && x.line == line) = false := by
      simpa using fun h1 h2 => h ⟨h1.symm, h2.symm⟩
    have hother : (fun y : Copy => !(y.view == x.view && y.line == x.line) && (y.view == v && y.line == line)) =
        fun y => y.view == v && y.line == line := funext fun y => by
      cases hy : y.view == v && y.line == line with
      | false => exact Bool.and_false _
      | true =>
        obtain ⟨rfl, rfl⟩ : y.view = v ∧ y.line = line := by simpa using hy
        rw [show (y.view == x.view && y.line == x.line) = false by simpa using h]
        rfl
    rw [if_neg h, hother, hx, if_neg Bool.false_ne_true, Option.or_none]

theorem Copy.opened_place (x : Copy) (key : Option Nat) : (x.opened key).view = x.view ∧ (x.opened key).line = x.line := by
  unfold Copy.opened
  split <;> exact ⟨rfl, rfl⟩

theorem Copy.writeUnder_place (x : Copy) (key : Option Nat) (bs : List WByte) :
    (x.writeUnder key bs).view = x.view ∧ (x.writeUnder key bs).line = x.line := by
  have hwrite : ((x.opened key).write bs).view = (x.opened key).view ∧ ((x.opened key).write bs).line = (x.opened key).line := by
    unfold Copy.write
    dsimp only
    split <;> exact ⟨rfl, rfl⟩
  obtain ⟨hview, hline⟩ := x.opened_place key
  unfold Copy.writeUnder
  split
  · exact ⟨rfl, rfl⟩
  · exact ⟨hwrite.1.trans hview, hwrite.2.trans hline⟩

/-- Packets written into a copy leave it the copy of its line in its view. -/
theorem State.keep_place (s : State) (x : Copy) (ps : List Packet) : (s.keep x ps).view = x.view ∧ (s.keep x ps).line = x.line :=
  foldl_keeps (fun y : Copy => y.view = x.view ∧ y.line = x.line) _ (fun y _ hy =>
    ⟨(y.writeUnder_place _ _).1.trans hy.1, (y.writeUnder_place _ _).2.trans hy.2⟩) ps x ⟨rfl, rfl⟩

/-- The die's copy of a line as a Refresh leaves it (R330). -/
def State.renewedL2 (s : State) (d line : Nat) : Copy :=
  s.keep (s.homeLine (.die d) line) (s.df.filter (fun p => dieOf p.core == d))

/-- The die's copy of a line that a Refresh in a core's view reads: the one there, or the one it brings (R330). -/
def State.dieCopy (s : State) (d line : Nat) : Copy := (s.copy? (.die d) line).getD (s.renewedL2 d line)

/-- A core's copy of a line as a Refresh leaves it, from the die's copy `l2` (R330). -/
def State.renewedCV (s : State) (core line : Nat) (l2 : Copy) : Copy :=
  s.keep { (l2.opened (s.keyOfCore core)) with view := .core core, held := s.shownIn (dieOf core) line }
    (s.cfq.filter (fun p => p.core == core))

theorem State.copy?_refreshL2 (s : State) (d line : Nat) (v : View) (l : Nat) :
    (s.refreshL2 d line).copy? v l = if v = .die d ∧ l = line then some (s.renewedL2 d line) else s.copy? v l := by
  obtain ⟨hview, hline⟩ := s.keep_place (s.homeLine (.die d) line) (s.df.filter (fun p => dieOf p.core == d))
  unfold State.refreshL2
  rw [State.copy?_setCopy, hview, hline]
  rfl

theorem State.dieCopy_none {s : State} {d line : Nat} (h : s.copy? (.die d) line = none) : s.dieCopy d line = s.renewedL2 d line := by
  unfold State.dieCopy
  rw [h]
  rfl

theorem State.dieCopy_some {s : State} {d line : Nat} {x : Copy} (h : s.copy? (.die d) line = some x) : s.dieCopy d line = x := by
  unfold State.dieCopy
  rw [h]
  rfl

theorem State.dieCopy_line (s : State) (d line : Nat) : (s.dieCopy d line).line = line := by
  cases h : s.copy? (.die d) line with
  | none => rw [State.dieCopy_none h]; exact (s.keep_place _ _).2
  | some x => rw [State.dieCopy_some h]; exact (State.copy?_some h).2

theorem State.copy?_ensureL2 (s : State) (d line : Nat) (v : View) (l : Nat) :
    (s.ensureL2 d line).copy? v l = if v = .die d ∧ l = line then some (s.dieCopy d line) else s.copy? v l := by
  unfold State.ensureL2
  cases h : s.copy? (.die d) line with
  | none => rw [State.dieCopy_none h]; exact s.copy?_refreshL2 d line v l
  | some x =>
    rw [State.dieCopy_some h, Option.isSome_some, if_pos rfl]
    split
    · next hv => rw [hv.1, hv.2, h]
    · rfl

/-- What a line's copies are made of is as it was where the copies alone changed. -/
theorem CopiesOnly.renewed {s t : State} (h : CopiesOnly s t) : t.renewedL2 = s.renewedL2 ∧ t.renewedCV = s.renewedCV := by
  rw [show t = _ from h]
  exact ⟨rfl, rfl⟩

/-- A Refresh in a core's view: the die's copy is there or brought, and the core's copy is made of it. -/
theorem State.refreshCV_eq (s : State) (core line : Nat) : s.refreshCV core line =
    (s.ensureL2 (dieOf core) line).setCopy (s.renewedCV core line (s.dieCopy (dieOf core) line)) := by
  have hdie : (s.ensureL2 (dieOf core) line).copy? (.die (dieOf core)) line = some (s.dieCopy (dieOf core) line) := by
    rw [State.copy?_ensureL2, if_pos ⟨rfl, rfl⟩]
  rw [← (CopiesOnly.ensureL2 s (dieOf core) line).renewed.2]
  unfold State.refreshCV
  dsimp only
  split
  · next h => exact absurd (h.symm.trans hdie) (Option.some_ne_none _).symm
  · next l2 h =>
    rw [← Option.some.inj (h.symm.trans hdie)]
    rfl

theorem State.renewedCV_place (s : State) (core line : Nat) :
    (s.renewedCV core line (s.dieCopy (dieOf core) line)).view = .core core ∧
    (s.renewedCV core line (s.dieCopy (dieOf core) line)).line = line := by
  obtain ⟨hview, hline⟩ := s.keep_place
    { ((s.dieCopy (dieOf core) line).opened (s.keyOfCore core)) with view := .core core, held := s.shownIn (dieOf core) line }
    (s.cfq.filter (fun p => p.core == core))
  exact ⟨hview, hline.trans ((Copy.opened_place _ _).2.trans (s.dieCopy_line _ _))⟩

/-- The die's copy a Refresh in a core's view leaves as it is, or brings. -/
theorem State.copy?_refreshCV (s : State) (core line : Nat) (v : View) (l : Nat) :
    (s.refreshCV core line).copy? v l =
      if v = .core core ∧ l = line then some (s.renewedCV core line (s.dieCopy (dieOf core) line))
      else if v = .die (dieOf core) ∧ l = line then some (s.dieCopy (dieOf core) line) else s.copy? v l := by
  obtain ⟨hview, hline⟩ := s.renewedCV_place core line
  rw [State.refreshCV_eq, State.copy?_setCopy, State.copy?_ensureL2, hview, hline]

end Sys2Proof.Machine
end

section
namespace Sys2Proof.Machine

/-! ### Copies that an access brings (R230, R331) -/

/-- t's views hold the copies of s, and beside them at most copies that s lacks, which an access at a scope by a core brings: in its
die's view, and at CORE in the core's. -/
def Brings (core : Nat) (scope : Scope) (s t : State) : Prop :=
  ∀ v line, t.copy? v line ≠ s.copy? v line →
    s.copy? v line = none ∧ (v = .die (dieOf core) ∨ (v = .core core ∧ scope = .core))

namespace Brings

variable {core : Nat} {scope : Scope}

theorem of_copies {s t : State} (h : t.copies = s.copies) : Brings core scope s t := fun v line hne =>
  absurd (congrFun (congrFun (State.copy?_congr h) v) line) hne

theorem trans {s t u : State} (h1 : Brings core scope s t) (h2 : Brings core scope t u) : Brings core scope s u := fun v line hne => by
  by_cases hst : t.copy? v line = s.copy? v line
  · rw [← hst] at hne ⊢
    exact h2 v line hne
  · exact h1 v line hst

theorem setCopy {s : State} {x : Copy} (hnone : s.copy? x.view x.line = none)
    (hview : x.view = .die (dieOf core) ∨ (x.view = .core core ∧ scope = .core)) : Brings core scope s (s.setCopy x) := by
  intro v line hne
  rw [State.copy?_setCopy] at hne
  split at hne
  · next h => rw [h.1, h.2]; exact ⟨hnone, hview⟩
  · exact absurd rfl hne

theorem ensureL2 (s : State) (core line : Nat) : Brings core scope s (s.ensureL2 (dieOf core) line) := by
  obtain ⟨hview, hline⟩ := s.keep_place (s.homeLine (.die (dieOf core)) line) (s.df.filter (fun p => dieOf p.core == dieOf core))
  unfold State.ensureL2
  split
  · exact of_copies rfl
  · next h => exact setCopy (by rw [hview, hline]; exact Option.not_isSome_iff_eq_none.1 h) (.inl hview)

theorem ensureCV (s : State) (core line : Nat) : Brings core .core s (s.ensureCV core line) := by
  obtain ⟨hview, hline⟩ := s.renewedCV_place core line
  unfold State.ensureCV
  split
  · exact of_copies rfl
  · next h =>
    rw [State.refreshCV_eq]
    refine (ensureL2 s core line).trans (setCopy ?_ (.inr ⟨hview, rfl⟩))
    rw [hview, hline, State.copy?_ensureL2, if_neg (fun h => View.noConfusion h.1)]
    exact Option.not_isSome_iff_eq_none.1 h

theorem ensureFor (s : State) (core : Nat) (scope : Scope) (line : Nat) : Brings core scope s (s.ensureFor core scope line) := by
  cases scope with
  | core => exact ensureCV s core line
  | clu => exact ensureL2 s core line
  | die => exact ensureL2 s core line
  | _ => exact of_copies rfl

end Brings

theorem CopiesOnly.ensureFor (s : State) (core : Nat) (scope : Scope) (line : Nat) : CopiesOnly s (s.ensureFor core scope line) := by
  cases scope with
  | core => exact CopiesOnly.ensureCV s core line
  | clu => exact CopiesOnly.ensureL2 s _ line
  | die => exact CopiesOnly.ensureL2 s _ line
  | _ => rfl

theorem State.copy?_ensureCV_other (s : State) (core : Nat) {line l : Nat} (h : l ≠ line) (v : View) :
    (s.ensureCV core line).copy? v l = s.copy? v l := by
  unfold State.ensureCV
  split
  · rfl
  · rw [State.copy?_refreshCV, if_neg fun hv => h hv.2, if_neg fun hv => h hv.2]

theorem State.copy?_ensureL2_other (s : State) (d : Nat) {line l : Nat} (h : l ≠ line) (v : View) :
    (s.ensureL2 d line).copy? v l = s.copy? v l := by
  rw [State.copy?_ensureL2, if_neg fun hv => h hv.2]

/-- A line is brought with no other beside it. -/
theorem State.copy?_ensureFor_other (s : State) (core : Nat) (scope : Scope) {line l : Nat} (h : l ≠ line) (v : View) :
    (s.ensureFor core scope line).copy? v l = s.copy? v l := by
  cases scope with
  | core => exact s.copy?_ensureCV_other core h v
  | clu => exact s.copy?_ensureL2_other _ h v
  | die => exact s.copy?_ensureL2_other _ h v
  | _ => rfl

theorem State.ensureL2_isSome (s : State) (d line : Nat) : ((s.ensureL2 d line).copy? (.die d) line).isSome = true := by
  rw [State.copy?_ensureL2, if_pos ⟨rfl, rfl⟩]
  rfl

theorem State.ensureCV_isSome (s : State) (core line : Nat) : ((s.ensureCV core line).copy? (.core core) line).isSome = true := by
  unfold State.ensureCV
  split
  · next h => exact h
  · rw [State.copy?_refreshCV, if_pos ⟨rfl, rfl⟩]
    rfl

/-- The line that a PREF may ask for is there once it is brought: in the core's view at CORE, in the die's at CLU and DIE. -/
theorem State.ensureFor_isSome (s : State) (core : Nat) {scope : Scope} (h : scope = .core ∨ scope = .clu ∨ scope = .die) (line : Nat) :
    ((s.ensureFor core scope line).copy? (if scope = .core then .core core else .die (dieOf core)) line).isSome = true := by
  obtain rfl | rfl | rfl := h
  · exact s.ensureCV_isSome core line
  · exact s.ensureL2_isSome _ line
  · exact s.ensureL2_isSome _ line

/-! ### The lanes of a PREF (R230) -/

/-- t is s after prefetches of a group: its caches changed and brought copies at most, and the group is as it was. -/
def Prefetches (c : Ctx) (scope : Scope) (s t : State) : Prop :=
  OnlyCaches s t c.g.gid ∧ t.group? c.g.gid = s.group? c.g.gid ∧ Brings c.g.core scope s t

namespace Prefetches

variable {c : Ctx} {scope : Scope}

theorem refl (s : State) : Prefetches c scope s s := ⟨OnlyCaches.refl s _, rfl, Brings.of_copies rfl⟩

theorem trans {s t u : State} (h1 : Prefetches c scope s t) (h2 : Prefetches c scope t u) : Prefetches c scope s u := by
  obtain ⟨o1, g1, b1⟩ := h1
  obtain ⟨o2, g2, b2⟩ := h2
  exact ⟨o1.trans o2, g2.trans g1, b1.trans b2⟩

theorem of_translates {s t : State} (h : Translates s t) : Prefetches c scope s t :=
  ⟨h.onlyCaches _, h.frame.group? _, Brings.of_copies (by rw [h.frame])⟩

theorem ensureFor (s : State) (line : Nat) : Prefetches c scope s (s.ensureFor c.g.core scope line) :=
  have h := CopiesOnly.ensureFor s c.g.core scope line
  ⟨h.onlyCaches _, h.group? _, Brings.ensureFor s _ _ _⟩

theorem prefLane (s : State) (w : FM) (o : Operand) (x : Nat × Nat × Nat × Option Tag) :
    Prefetches c w.scope s (s.prefLane c w o x) := by
  unfold State.prefLane
  split
  · exact refl s
  · dsimp only
    split
    · split
      · exact refl s
      · exact (of_translates (Translates.translateLane s c o x)).trans (ensureFor _ _)
    · exact refl s

theorem lanes (s : State) (w : FM) (o : Operand) (xs : List (Nat × Nat × Nat × Option Tag)) :
    Prefetches c w.scope s (xs.foldl (fun s x => s.prefLane c w o x) s) :=
  foldl_keeps (Prefetches c w.scope s) _ (fun t x ht => ht.trans (prefLane t w o x)) xs s (refl s)

end Prefetches

/-- A lane whose access no check and no lock stops brings its line. -/
theorem State.prefLane_brings {s : State} {c : Ctx} {w : FM} {o : Operand} {x : Nat × Nat × Nat × Option Tag} {pa : Nat}
    (hrange : x.2.1 < 2 ^ 57) (haligned : x.2.1 % o.size = 0) (hbase : (o.base.map (·.valid)).getD true = true)
    (hok : (s.translateLane c o x).1 = .ok pa) (hfree : s.lockHit c.g true false x.2.1 o.size = false) :
    s.prefLane c w o x = (s.translateLane c o x).2.ensureFor c.g.core w.scope (pa / 64) := by
  unfold State.prefLane
  simp only [hok, hfree, hbase, haligned, decide_eq_false (Nat.not_le.2 hrange)]
  rfl

theorem FM.scope_of_legalPref {w : FM} (h : w.legalPref = true) : w.scope = .core ∨ w.scope = .clu ∨ w.scope = .die := by
  unfold FM.legalPref at h
  simp only [Bool.and_eq_true, Bool.or_eq_true, beq_iff_eq] at h
  obtain ⟨⟨⟨-, hscope⟩, -⟩, -⟩ := h
  rwa [or_assoc] at hscope

/-! ### WSTAT, TRB and PREF (R228 to R230) -/

/-- The end of a word leaves the views. -/
theorem State.finish_copies {s t : State} {c : Ctx} {opc words : Nat} (h : s.finish c opc words = .next t) : t.copies = s.copies := by
  unfold State.finish State.done at h
  injection h with ht
  rw [← ht]
  show ((s.onGroup c.g.gid fun g => g.advance c opc words).checkSig c opc words).copies = _
  have hgroup : (s.onGroup c.g.gid fun g => g.advance c opc words).copies = s.copies := by rw [State.onGroup_frame]
  rw [← hgroup]
  unfold State.checkSig State.requestKill State.onCohort
  split
  · split <;> rfl
  · rfl

/-- The b register that TRB fills from an L1 entry that covers its address. -/
theorem State.trbFill_hit {s : State} {c : Ctx} {va : Nat} {e : TlbEntry}
    (h : (s.core c.g.core).l1.find? (fun e => e.hits c.g.ctl.asid va) = some e) (pa : Nat) :
    s.trbFill c va pa = { valid := true, asid := c.g.ctl.asid, vbase := BitVec.ofNat 57 va, frame := BitVec.ofNat 57 pa
                          limit := BitVec.ofNat 30 (s.trbRun c.p e va), w := e.w } := by
  unfold State.trbFill
  dsimp only
  rw [h, Option.getD_some]

/-- A 57-bit address has no bit above. -/
theorem bits_high_eq_zero {x : Word64} (h : x.toNat < 2 ^ 57) : bits x 57 7 = 0 := by
  unfold bits
  refine BitVec.eq_of_toNat_eq ?_
  rw [BitVec.extractLsb'_toNat, Nat.shiftRight_eq_div_pow, Nat.div_eq_of_lt h]
  rfl

section
variable {s : State} {c : Ctx} (hc : s.ctx? = some c)
include hc

theorem execWstat_completes {w : F3} (hpass : c.Passes ⟨w.legalWstat, false, w.guard, [(w.dst, 1)], [(w.sa, 1), (w.sb, 1)]⟩) :
    Answers (exec (.wstat w) s) (fun t => After s t c
      (if c.acting w.guard = [] then c.g
       else c.g.writeS c.handler w.dst (wstatValue c.p w.sub.toNat (c.uniform s w.sa).1.toNat (c.uniform s w.sb).1.toNat,
         mergePois (c.uniform s w.sa).2 (c.uniform s w.sb).2)) 0x146 w.words) := by
  show Answers (execWstat w s) _
  unfold execWstat
  rw [State.issue_ctx _ hc]
  dsimp only
  rw [State.gate_passes _ _ _ _ hpass]
  by_cases hacting : c.acting w.guard = []
  · rw [if_pos (List.isEmpty_iff.2 hacting), if_pos hacting]
    exact State.finish_spec 0x146 w.words hc (State.ctx?_group hc) rfl (OnlyGroup.refl s _)
  · rw [if_neg (mt List.isEmpty_iff.1 hacting), if_neg hacting]
    exact State.onGroup_notePois_finish_after hc (fun g => g.writeS c.handler w.dst _) _ 0x146 w.words
      (by rw [Group.writeS_values]; exact ⟨rfl, rfl⟩)

theorem execTrb_idle {w : F3} (hpass : c.Passes ⟨w.legalTrb, false, w.guard, [], [(w.sa, 1)]⟩) (hacting : c.acting w.guard = []) :
    Answers (exec (.trb w) s) (fun t => After s t c c.g 0x147 w.words) := by
  show Answers (execTrb w s) _
  unfold execTrb
  rw [State.issue_ctx _ hc]
  dsimp only
  rw [State.gate_passes _ _ _ _ hpass, if_pos (List.isEmpty_iff.2 hacting)]
  exact State.finish_spec 0x147 w.words hc (State.ctx?_group hc) rfl (OnlyGroup.refl s _)

/-- TRB fills its b register from the L1 entry that its translation leaves there. -/
theorem execTrb_fills {w : F3} (hpass : c.Passes ⟨w.legalTrb, false, w.guard, [], [(w.sa, 1)]⟩) (hacting : c.acting w.guard ≠ [])
    (hclean : (c.uniform s w.sa).2 = none) (hrange : (c.uniform s w.sa).1.toNat < 2 ^ 57) {pa : Nat} {x u : Bool} {e : TlbEntry}
    {r : Trans × State} (hr : s.translate c.p c.g.core c.g.ctl.asid (c.uniform s w.sa).1.toNat = r) (hok : r.1 = .ok pa x u)
    (he : (r.2.core c.g.core).l1.find? (fun e => e.hits c.g.ctl.asid (c.uniform s w.sa).1.toNat) = some e) :
    Answers (exec (.trb w) s) (fun t => AfterCaches s t c (c.g.setB (srcB w.dst)
      { valid := true, asid := c.g.ctl.asid, vbase := BitVec.ofNat 57 (c.uniform s w.sa).1.toNat, frame := BitVec.ofNat 57 pa
        limit := BitVec.ofNat 30 (r.2.trbRun c.p e (c.uniform s w.sa).1.toNat), w := e.w }) 0x147 w.words) := by
  have htr : Translates s r.2 := hr ▸ Translates.translate s _ _ _ _
  obtain ⟨hg, ho⟩ := State.onGroup_spec (fun g => g.setB (srcB w.dst) (r.2.trbFill c (c.uniform s w.sa).1.toNat pa))
    ((htr.frame.group? _).trans (State.ctx?_group hc)) rfl
  rw [← State.trbFill_hit he pa]
  show Answers (execTrb w s) _
  unfold execTrb
  rw [State.issue_ctx _ hc]
  dsimp only
  rw [State.gate_passes _ _ _ _ hpass, if_neg (mt List.isEmpty_iff.1 hacting), hclean, bits_high_eq_zero hrange, hr, hok]
  exact State.finish_caches 0x147 w.words hc hg rfl ((htr.onlyCaches _).trans (OnlyCaches.of_onlyGroup ho))

/-- PREF prefetches lane by lane and falls through. -/
theorem execPref_prefetches {w : FM} (hpass : c.Passes (fmNeed w w.legalPref false 1 1))
    {o : Operand} (ho : FmOperand c s w w.ioff.toNat false true (c.acting w.guard) = o) (hclean : ∀ x ∈ o.lanes, x.2.2.2 = none) :
    Answers (exec (.pref w) s) (fun t => AfterCaches s t c c.g 0x148 w.words ∧
      t.copies = (o.lanes.foldl (fun s x => s.prefLane c w o x) s).copies) := by
  have hpois : o.lanes.any (fun x => x.2.2.2.isSome) = false := List.any_eq_false.2 fun x hx => by
    rw [hclean x hx]
    exact Bool.false_ne_true
  obtain ⟨hcaches, hgroup, -⟩ := Prefetches.lanes (c := c) s w o o.lanes
  obtain ⟨t, ht, hafter⟩ := State.finish_caches 0x148 w.words hc (hgroup.trans (State.ctx?_group hc)) rfl hcaches
  refine ⟨t, ?_, hafter, State.finish_copies ht⟩
  show execPref w s = _
  unfold execPref
  rw [State.issue_ctx _ hc, State.gate_passes _ _ _ _ hpass, fmNeed_guard, ho]
  dsimp only
  rw [hpois, if_neg Bool.false_ne_true]
  exact ht

end

/-- Settles O15: WSTAT and TRB by what they write, and PREF by what its lanes bring. -/
theorem translationAndPrefetch : Obligations.TranslationAndPrefetch := by
  unfold Obligations.TranslationAndPrefetch
  intro s c hc
  refine ⟨fun w hpass => execWstat_completes hc hpass, fun w hpass => ⟨execTrb_idle hc hpass, ?_⟩, fun w hpass hclean => ?_⟩
  · exact fun pa x u e hacting hclean hrange hok he => execTrb_fills hc hpass hacting hclean hrange rfl hok he
  obtain ⟨t, ht, hafter, hcopies⟩ := execPref_prefetches hc hpass rfl hclean
  have hcopy? := State.copy?_congr hcopies
  refine ⟨t, ht, hafter, ?_, fun hacting => ?_, fun x pa hx hrange haligned hbase hok hfree => ?_⟩
  · obtain ⟨-, -, hbrings⟩ := Prefetches.lanes (c := c) s w (FmOperand c s w w.ioff.toNat false true (c.acting w.guard))
      (FmOperand c s w w.ioff.toNat false true (c.acting w.guard)).lanes
    rw [hcopy?]
    exact hbrings
  · rw [hcopies, hacting]
    rfl
  · have htranslates : (s.translateLane c (FmOperand c s w w.ioff.toNat false true (c.acting w.guard)) x).2.copy? = s.copy? :=
      State.copy?_congr (by rw [(Translates.translateLane s c _ x).frame])
    rw [hcopy?, hx, List.foldl_cons, List.foldl_nil, State.prefLane_brings hrange haligned hbase hok hfree]
    exact ⟨State.ensureFor_isSome _ _ (FM.scope_of_legalPref hpass.1) _, fun v line hline => by
      rw [State.copy?_ensureFor_other _ _ _ hline, htranslates]⟩

end Sys2Proof.Machine
end

section
namespace Sys2Proof.Machine

/-! ### The Refresh steps of an acquire (R333) -/

theorem State.refreshL2_copies (s : State) (d line : Nat) : CopiesOnly s (s.refreshL2 d line) := s.refreshL2_frame d line

theorem State.refreshCV_copies (s : State) (core line : Nat) : CopiesOnly s (s.refreshCV core line) := s.refreshCV_frame core line

/-- Lines refreshed in a die's view, one after the other: each is renewed. -/
theorem State.copy?_refreshL2s (d : Nat) (lines : List Nat) (s : State) (v : View) (l : Nat) :
    (lines.foldl (fun s line => s.refreshL2 d line) s).copy? v l =
      if v = .die d ∧ l ∈ lines then some (s.renewedL2 d l) else s.copy? v l := by
  induction lines generalizing s with
  | nil => exact (if_neg fun h => List.not_mem_nil h.2).symm
  | cons line lines ih =>
    rw [List.foldl_cons, ih, (s.refreshL2_copies d line).renewed.1, State.copy?_refreshL2]
    by_cases hv : v = .die d
    · by_cases hl : l = line <;> simp [hv, hl]
    · simp [hv]

/-- A Refresh in a core's view leaves the die's copy that another would read. -/
theorem State.dieCopy_refreshCV (s : State) (core line l : Nat) :
    (s.refreshCV core line).dieCopy (dieOf core) l = s.dieCopy (dieOf core) l := by
  unfold State.dieCopy
  rw [State.copy?_refreshCV, (s.refreshCV_copies core line).renewed.1, if_neg fun h => View.noConfusion h.1]
  split
  · next h => rw [← h.2]; rfl
  · rfl

/-- Lines refreshed in a core's view, one after the other: the die's copy of each is there, or brought, and the core's is made of it. -/
theorem State.copy?_refreshCVs (core : Nat) (lines : List Nat) (s : State) (v : View) (l : Nat) :
    (lines.foldl (fun s line => s.refreshCV core line) s).copy? v l =
      if v = .core core ∧ l ∈ lines then some (s.renewedCV core l (s.dieCopy (dieOf core) l))
      else if v = .die (dieOf core) ∧ l ∈ lines then some (s.dieCopy (dieOf core) l) else s.copy? v l := by
  induction lines generalizing s with
  | nil => rw [if_neg fun h => List.not_mem_nil h.2, if_neg fun h => List.not_mem_nil h.2]; rfl
  | cons line lines ih =>
    rw [List.foldl_cons, ih, (s.refreshCV_copies core line).renewed.2, State.dieCopy_refreshCV, State.copy?_refreshCV]
    by_cases hv : v = .core core
    · by_cases hl : l = line <;> simp [hv, hl]
    · by_cases hd : v = .die (dieOf core)
      · by_cases hl : l = line <;> simp [hd, hl]
      · simp [hv, hd]

theorem State.copy?_refreshAllL2 (s : State) (d : Nat) (v : View) (l : Nat) :
    (s.refreshAllL2 d).copy? v l =
      if v = .die d ∧ (s.copy? (.die d) l).isSome = true then some (s.renewedL2 d l) else s.copy? v l := by
  have hlines : s.refreshAllL2 d =
      ((s.copies.filter (fun x => x.view == .die d)).map (·.line)).foldl (fun s line => s.refreshL2 d line) s :=
    List.foldl_map.symm
  rw [hlines, State.copy?_refreshL2s]
  simp only [State.copy?_isSome]

theorem State.copy?_refreshAllCV (s : State) (core : Nat) (v : View) (l : Nat) :
    (s.refreshAllCV core).copy? v l =
      if v = .core core ∧ (s.copy? (.core core) l).isSome = true then some (s.renewedCV core l (s.dieCopy (dieOf core) l))
      else if v = .die (dieOf core) ∧ (s.copy? (.core core) l).isSome = true then some (s.dieCopy (dieOf core) l)
      else s.copy? v l := by
  have hlines : s.refreshAllCV core =
      ((s.copies.filter (fun x => x.view == .core core)).map (·.line)).foldl (fun s line => s.refreshCV core line) s :=
    List.foldl_map.symm
  rw [hlines, State.copy?_refreshCVs]
  simp only [State.copy?_isSome]

/-- The core's Refresh steps, from a state u in which the die's copies were renewed where the scope is wide. -/
theorem State.refreshAllCV_refreshed {s u : State} {core : Nat} {scope : Scope} (hscope : scope ≠ .core) (hu : CopiesOnly s u)
    (hdie : ∀ v l, u.copy? v l =
      if v = .die (dieOf core) ∧ (s.copy? (.die (dieOf core)) l).isSome = true ∧ scope ≠ .clu ∧ scope ≠ .die
      then some (s.renewedL2 (dieOf core) l) else s.copy? v l) : Refreshed s (u.refreshAllCV core) core scope := by
  have hcore : ∀ l, u.copy? (.core core) l = s.copy? (.core core) l := fun l => by
    rw [hdie, if_neg fun h => View.noConfusion h.1]
  have hstill : ∀ l, s.copy? (.core core) l = none → ∀ v, (u.refreshAllCV core).copy? v l = u.copy? v l := fun l hnone v => by
    rw [State.copy?_refreshAllCV, hcore, hnone, if_neg fun h => Bool.noConfusion h.2, if_neg fun h => Bool.noConfusion h.2]
  unfold Refreshed
  dsimp only
  rw [if_neg hscope]
  refine ⟨fun v line hc hd => ?_, fun line hline => ⟨u.dieCopy (dieOf core) line, ?_, ?_⟩, fun line hnone => ⟨?_, fun hnoDie => ?_⟩,
    fun line l2 hl2 => ?_⟩
  · rw [State.copy?_refreshAllCV, if_neg fun h => hc h.1, if_neg fun h => hd h.1, hdie, if_neg fun h => hd h.1]
  · rw [State.copy?_refreshAllCV, if_neg fun h => View.noConfusion h.1, if_pos ⟨rfl, by rw [hcore]; exact hline⟩]
  · rw [State.copy?_refreshAllCV, if_pos ⟨rfl, by rw [hcore]; exact hline⟩, hu.renewed.2]
    rfl
  · rw [hstill line hnone, hcore, hnone]
  · rw [hstill line hnone, hdie, hnoDie, if_neg fun h => Bool.noConfusion h.2.1]
  · have hdieU : u.copy? (.die (dieOf core)) line =
        some (if scope ≠ .clu ∧ scope ≠ .die then s.renewedL2 (dieOf core) line else l2) := by
      rw [hdie, hl2]
      by_cases hwide : scope ≠ .clu ∧ scope ≠ .die
      · rw [if_pos ⟨rfl, rfl, hwide⟩, if_pos hwide]
      · rw [if_neg fun h => hwide h.2.2, if_neg hwide]
    rw [State.copy?_refreshAllCV, if_neg fun h => View.noConfusion h.1, State.dieCopy_some hdieU, hdieU, ite_self]
    rfl

/-- An acquire refreshes the copies of its core's view, and at DEV and SYS first those of its die's. -/
theorem State.acquire_refreshed (s : State) (core : Nat) (scope : Scope) : Refreshed s (s.acquire core scope) core scope := by
  have hnarrow : scope ≠ .core → (scope = .clu ∨ scope = .die) → Refreshed s (s.refreshAllCV core) core scope := fun hs hn =>
    State.refreshAllCV_refreshed hs (CopiesOnly.refl s) fun v l => by
      rw [if_neg fun h => hn.elim h.2.2.1 h.2.2.2]
  have hwide : scope ≠ .core → scope ≠ .clu → scope ≠ .die →
      Refreshed s ((s.refreshAllL2 (dieOf core)).refreshAllCV core) core scope := fun hs hclu hdie =>
    State.refreshAllCV_refreshed hs (State.foldl_copies _ (fun s _ => s.refreshL2_frame _ _) _ s) fun v l => by
      rw [State.copy?_refreshAllL2]
      simp only [hclu, hdie, ne_eq, not_false_eq_true, and_true]
  cases scope with
  | core => exact (rfl : s.copies = s.copies)
  | clu => exact hnarrow (by decide) (.inl rfl)
  | die => exact hnarrow (by decide) (.inr rfl)
  | _ => exact hwide (by decide) (by decide) (by decide)

end Sys2Proof.Machine
end

section
namespace Sys2Proof.Machine

/-! ### The marker of a fence (R211, R332, R338, R340) -/

/-- The state with a fence's marker, where it puts one, in its group's store queue. -/
def State.withMarker (s : State) (gid : Nat) (marker : Option EntryOp) : State :=
  match marker with
  | some m => s.enqueue gid false [[(none, m)]]
  | none => s

/-- What a fence puts into the store queue. -/
def markerEntries (marker : Option EntryOp) : List (Option Word32 × EntryOp) := marker.toList.map (fun m => (none, m))

/-- t is s but for groups and the counter of fresh numbers. -/
def GroupsOnly (s t : State) : Prop := t = { s with groups := t.groups, nextUid := t.nextUid }

theorem State.withMarker_groups (s : State) (gid : Nat) (marker : Option EntryOp) : GroupsOnly s (s.withMarker gid marker) := by
  cases marker with
  | none => rfl
  | some m =>
    show GroupsOnly s ({ s with nextUid := s.nextUid + 1 }.onGroup gid _)
    rw [State.onGroup_frame]
    rfl

/-- The marker stands in the queue under the next fresh number, and nothing else changes. -/
theorem State.withMarker_spec {s : State} {gid : Nat} {g : Group} (marker : Option EntryOp) (h : s.group? gid = some g) :
    OnlyGroup s (s.withMarker gid marker) gid ∧ ∃ sq, (s.withMarker gid marker).group? gid = some { g with sq := sq } ∧
      Enqueued g { g with sq := sq } false (markerEntries marker) ∧ ∀ m, marker = some m → ∃ e ∈ sq, e.id = s.nextUid ∧ e.op = m := by
  cases marker with
  | none => exact ⟨OnlyGroup.refl s gid, g.sq, h, Enqueued.refl g false, fun _ hm => absurd hm.symm (Option.some_ne_none _)⟩
  | some m =>
    obtain ⟨ho, hput⟩ := s.enqueue_puts gid false [[(none, m)]]
    obtain ⟨sq, hg, hen⟩ := hput g h
    have hqueued := (State.onGroup_spec (s := { s with nextUid := s.nextUid + 1 })
      (fun g => { g with sq := SQEntry.queued ⟨s.nextUid, s.nextUid, false, none, m⟩ g.sq }) h rfl).1
    have hsq : sq = SQEntry.queued ⟨s.nextUid, s.nextUid, false, none, m⟩ g.sq :=
      congrArg Group.sq (Option.some.inj (hg.symm.trans hqueued))
    refine ⟨ho, sq, hg, hen, fun m' hm => ⟨_, hsq ▸ SQEntry.mem_queued.2 (.inl rfl), rfl, Option.some.inj hm⟩⟩

/-! ### What a fence does to the copies (R333) -/

/-- A fence that acquires refreshes the copies, and another leaves them as they are. -/
def Renews (s t : State) (core : Nat) (acquires : Bool) (scope : Scope) : Prop :=
  if acquires then Refreshed s t core scope else t.copies = s.copies

theorem Refreshed.of_copies {s t u : State} {core : Nat} {scope : Scope} (h : Refreshed s t core scope) (hu : u.copies = t.copies) :
    Refreshed s u core scope := by
  unfold Refreshed at h ⊢
  rw [State.copy?_congr hu, hu]
  exact h

/-- What an acquire refreshes depends on no group. -/
theorem Refreshed.of_groups {s t u : State} {core : Nat} {scope : Scope} (h : Refreshed t u core scope) (hs : GroupsOnly s t) :
    Refreshed s u core scope := by
  rw [show t = _ from hs] at h
  exact h

/-- Whether a fence has anything to wait for depends on no group but its own (R236). -/
theorem State.fenceReady_groups {s t : State} (h : GroupsOnly s t) : t.fenceReady = s.fenceReady := by
  rw [show t = _ from h]
  rfl

/-- The copies at the end of a fence. -/
def State.fenced (s : State) (core : Nat) (acquires : Bool) (scope : Scope) : State :=
  if acquires then s.acquire core scope else s

theorem State.fenced_copies (s : State) (core : Nat) (acquires : Bool) (scope : Scope) : CopiesOnly s (s.fenced core acquires scope) := by
  unfold State.fenced
  split
  · exact CopiesOnly.acquire s core scope
  · rfl

theorem State.fenced_renews {s t u : State} {core : Nat} {acquires : Bool} {scope : Scope} (hs : GroupsOnly s t)
    (hu : u.copies = (t.fenced core acquires scope).copies) : Renews s u core acquires scope := by
  unfold Renews
  unfold State.fenced at hu
  cases acquires with
  | true => exact ((t.acquire_refreshed core scope).of_copies hu).of_groups hs
  | false => exact hu.trans (by rw [show t = _ from hs]; rfl)

/-! ### What a fence answers (R236, R237) -/

/-- The fence falls through with its marker in the queue, and the copies refreshed where it acquires. -/
def FencePasses (s : State) (c : Ctx) (opc words : Nat) (marker : List (Option Word32 × EntryOp)) (acquires : Bool) (scope : Scope)
    (t : State) : Prop :=
  t.waited = false ∧ OnlyCaches s t c.g.gid ∧ Renews s t c.g.core acquires scope ∧
  ∃ g, t.group? c.g.gid = some g ∧ g = { c.g with slices := g.slices, sq := g.sq } ∧ Advanced c g opc words ∧
    Enqueued c.g g false marker

/-- The fence waits at its word, with its marker in the queue. -/
def FenceWaits (s : State) (c : Ctx) (loads : List Nat) (mark : Option Nat) (marker : Option EntryOp) (t : State) : Prop :=
  t.waited = false ∧ OnlyGroup s t c.g.gid ∧
  ∃ g, t.group? c.g.gid = some g ∧ g = { c.g with slices := g.slices, sq := g.sq } ∧ Enqueued c.g g false (markerEntries marker) ∧
    (∀ m, marker = some m → ∃ e ∈ g.sq, e.id = s.nextUid ∧ e.op = m) ∧
    (∀ i ∈ c.slices, g.sliceAt i = { c.g.sliceAt i with wait := .fence loads mark }) ∧
    ∀ i, i ∉ c.slices → g.sliceAt i = c.g.sliceAt i

section
variable {s : State} {c : Ctx} {opc words : Nat} {marker : Option EntryOp} {acquires surv : Bool} {scope : Scope}

/-- A fence at its first issue: its marker goes into the queue, and it completes or begins to wait. -/
theorem State.doFence_first (hwait : ∀ l m, c.head.wait ≠ .fence l m) (hroom : c.hasRoom 1) (hsurv : surv = true → marker.isSome = true) :
    s.doFence c opc words marker acquires surv scope =
      if s.fenceReady c.g (if acquires then c.g.loadFills else []) (if surv then some s.nextUid else none) then
        ((s.withMarker c.g.gid marker).fenced c.g.core acquires scope).finish c opc words
      else ((s.withMarker c.g.gid marker).setWait c
        (.fence (if acquires then c.g.loadFills else []) (if surv then some s.nextUid else none))).done := by
  rw [← State.fenceReady_groups (s.withMarker_groups c.g.gid marker)]
  unfold State.doFence
  cases hw : c.head.wait
  case fence l m => exact absurd hw (hwait l m)
  all_goals
    cases marker with
    | some m => exact State.withRoom_room _ _ hroom
    | none =>
      have hs : surv = false := Bool.eq_false_iff.2 fun h => Bool.noConfusion (hsurv h)
      rw [hs]
      rfl

/-- A fence that has waited completes when nothing that it waits for is left. -/
theorem State.doFence_again {l : List Nat} {m : Option Nat} (hwait : c.head.wait = .fence l m) (hready : s.fenceReady c.g l m = true) :
    s.doFence c opc words marker acquires surv scope = (s.fenced c.g.core acquires scope).finish c opc words := by
  unfold State.doFence
  rw [hwait]
  dsimp only
  rw [hready, if_pos rfl]
  rfl

variable (hc : s.ctx? = some c)
include hc

/-- The end of a fence, from a state t that has the fence's marker. -/
theorem State.fenced_finish {t : State} {g : Group} (ht : GroupsOnly s t) (ho : OnlyGroup s t c.g.gid) (hg : t.group? c.g.gid = some g)
    (hslices : g.slices = c.g.slices) : Answers ((t.fenced c.g.core acquires scope).finish c opc words)
      (fun u => AfterCaches s u c g opc words ∧ Renews s u c.g.core acquires scope) := by
  have hcopies := t.fenced_copies c.g.core acquires scope
  obtain ⟨u, hu, hafter⟩ := State.finish_caches opc words hc ((hcopies.group? _).trans hg) hslices
    ((OnlyCaches.of_onlyGroup ho).trans (hcopies.onlyCaches _))
  exact ⟨u, hu, hafter, State.fenced_renews ht (State.finish_copies hu)⟩

theorem State.doFence_passes (hwait : ∀ l m, c.head.wait ≠ .fence l m) (hroom : c.hasRoom 1) (hsurv : surv = true → marker.isSome = true)
    (hready : s.fenceReady c.g (if acquires then c.g.loadFills else []) (if surv then some s.nextUid else none) = true) :
    Answers (s.doFence c opc words marker acquires surv scope) (FencePasses s c opc words (markerEntries marker) acquires scope) := by
  obtain ⟨ho, sq, hsq, hen, -⟩ := State.withMarker_spec marker (State.ctx?_group hc)
  obtain ⟨t, ht, ⟨hw, hcaches, g, hg, heq, hadv⟩, hrenews⟩ :=
    State.fenced_finish (opc := opc) (words := words) (acquires := acquires) (scope := scope) hc
      (s.withMarker_groups c.g.gid marker) ho hsq rfl
  have hgsq : g.sq = sq := by rw [heq]
  rw [← hgsq] at heq hen
  refine ⟨t, ?_, hw, hcaches, hrenews, g, hg, heq, hadv, ?_⟩
  · rw [State.doFence_first hwait hroom hsurv, if_pos hready]
    exact ht
  · exact hen

theorem State.doFence_waits (hwait : ∀ l m, c.head.wait ≠ .fence l m) (hroom : c.hasRoom 1) (hsurv : surv = true → marker.isSome = true)
    (hready : s.fenceReady c.g (if acquires then c.g.loadFills else []) (if surv then some s.nextUid else none) = false) :
    Answers (s.doFence c opc words marker acquires surv scope)
      (FenceWaits s c (if acquires then c.g.loadFills else []) (if surv then some s.nextUid else none) marker) := by
  obtain ⟨ho, sq, hsq, hen, hmark⟩ := State.withMarker_spec marker (State.ctx?_group hc)
  obtain ⟨how, g, hg, heq, hin, hout⟩ := State.setWait_spec
    (.fence (if acquires then c.g.loadFills else []) (if surv then some s.nextUid else none)) hc hsq rfl
  have hgsq : g.sq = sq := by rw [heq]
  rw [← hgsq] at heq hen hmark
  refine ⟨_, ?_, rfl, (ho.trans how).trans (OnlyGroup.waited _ _ false), g, hg, heq, hen, hmark, hin, hout⟩
  rw [State.doFence_first hwait hroom hsurv, hready, if_neg Bool.false_ne_true]
  rfl

theorem State.doFence_ends {l : List Nat} {m : Option Nat} (hwait : c.head.wait = .fence l m) (hready : s.fenceReady c.g l m = true) :
    Answers (s.doFence c opc words marker acquires surv scope)
      (fun t => AfterCaches s t c c.g opc words ∧ Renews s t c.g.core acquires scope) := by
  rw [State.doFence_again hwait hready]
  exact State.fenced_finish hc rfl (OnlyGroup.refl s _) (State.ctx?_group hc) rfl

end

end Sys2Proof.Machine
end

section
namespace Sys2Proof.Machine

/-! ### When a fence is ready (R236) -/

theorem State.fenceReady_nil (s : State) (g : Group) : s.fenceReady g [] none = true := by
  unfold State.fenceReady
  rw [List.any_eq_false.2 fun _ _ => by simp]
  rfl

theorem State.fenceReady_loads {s : State} {g : Group} (h : g.loadFills ≠ []) : s.fenceReady g g.loadFills none = false := by
  obtain ⟨x, hx⟩ := List.exists_mem_of_ne_nil _ h
  unfold State.fenceReady
  rw [List.any_eq_true.2 ⟨x, hx, List.contains_iff_mem.2 hx⟩]
  rfl

/-- A survivable fence of a group with no entry, no packet and no delta on its way is ready. -/
theorem State.fenceReady_quiet {s : State} {g : Group} (hsq : g.sq = []) (hpackets : s.unhomed g.gid = []) (hpq : s.pq = []) (m : Nat) :
    s.fenceReady g [] (some m) = true := by
  obtain ⟨hcfq, hdf⟩ := List.append_eq_nil_iff.1 hpackets
  rw [List.map_eq_nil_iff, List.filter_eq_nil_iff] at hcfq hdf
  have hpast : (s.cfq ++ s.df).all (fun p => !(p.gid == g.gid && decide (p.entry < m)) || s.deltasFor p.part p.bytes == 0) = true :=
    List.all_eq_true.2 fun p hp => by
      have hother : (p.gid == g.gid) = false := Bool.eq_false_iff.2 ((List.mem_append.1 hp).elim (hcfq p) (hdf p))
      rw [hother]
      rfl
  have hnone : g.loadFills.any [].contains = false := List.any_eq_false.2 fun _ _ => by simp
  unfold State.fenceReady State.survives
  dsimp only
  rw [hnone, hsq, hpast, hpq]
  rfl

/-! ### FENCE and XFENCE (R236 to R238) -/

theorem Need.bare_guard (legal forbidden : Bool) (gd : Guard) : (Need.bare legal forbidden gd).guard = gd := rfl

/-- The marker of a FENCE. -/
def fenceMarker (w : FM) : Option EntryOp :=
  if w.scope == .surv then some .survMarker else if orderReleases w.order then some (.relMarker w.scope) else none

theorem markerEntries_fence (w : FM) : markerEntries (fenceMarker w) =
    if w.scope == .surv then [(none, .survMarker)] else if orderReleases w.order then [(none, .relMarker w.scope)] else [] := by
  unfold fenceMarker
  split
  · rfl
  · split <;> rfl

theorem fenceMarker_surv {w : FM} (h : (w.scope == .surv) = true) : fenceMarker w = some EntryOp.survMarker := if_pos h

/-- The marker of an XFENCE. -/
def xfenceMarker (w : F3) : Option EntryOp := if w.sub = 1 then none else some .teMarker

theorem markerEntries_xfence (w : F3) : markerEntries (xfenceMarker w) = if w.sub = 1 then [] else [(none, .teMarker)] := by
  unfold xfenceMarker
  split <;> rfl

theorem Renews.xfence {w : F3} {s t : State} {core : Nat} {scope : Scope} (h : Renews s t core (w.sub != 0) scope) :
    if w.sub = 0 then t.copies = s.copies else Refreshed s t core scope := by
  unfold Renews at h
  by_cases hsub : w.sub = 0
  · rw [if_pos hsub]
    rwa [hsub, bne_self_eq_false, if_neg Bool.false_ne_true] at h
  · rw [if_neg hsub]
    rwa [if_pos (bne_iff_ne.2 hsub)] at h

section
variable {s : State} {c : Ctx} (hc : s.ctx? = some c)
include hc

theorem execFence_idle {w : FM} (hpass : c.Passes (Need.bare w.legalFence false w.guard)) (hacting : c.acting w.guard = [])
    (hloop : w.scope ≠ .surv ∨ c.g.loop = none) : Answers (exec (.fence w) s) (fun t => After s t c c.g 0x184 w.words) := by
  have hstate : (w.scope == .surv && c.g.loop.isSome) = false := by
    obtain h | h := hloop
    · rw [beq_eq_false_iff_ne.2 h]; rfl
    · rw [h]; exact Bool.and_false _
  show Answers (execFence w s) _
  unfold execFence
  rw [State.issue_ctx _ hc, State.gate_passes _ _ _ _ hpass, Need.bare_guard]
  dsimp only
  rw [hstate, if_neg Bool.false_ne_true, if_pos (List.isEmpty_iff.2 hacting)]
  exact State.finish_spec 0x184 w.words hc (State.ctx?_group hc) rfl (OnlyGroup.refl s _)

theorem execFence_acts {w : FM} (hpass : c.Passes (Need.bare w.legalFence false w.guard)) (hacting : c.acting w.guard ≠ [])
    (hloop : (w.scope == .surv) = false ∨ c.g.loop = none) : exec (.fence w) s =
      s.doFence c 0x184 w.words (fenceMarker w) (orderAcquires w.order) (w.scope == .surv) (if w.scope == .surv then .dev else w.scope) := by
  have hstate : (w.scope == .surv && c.g.loop.isSome) = false := by
    obtain h | h := hloop
    · rw [h]; rfl
    · rw [h]; exact Bool.and_false _
  show execFence w s = _
  unfold execFence
  rw [State.issue_ctx _ hc, State.gate_passes _ _ _ _ hpass, Need.bare_guard]
  dsimp only
  rw [hstate, if_neg Bool.false_ne_true, if_neg (mt List.isEmpty_iff.1 hacting)]
  rfl

theorem execXfence_idle {w : F3} (hpass : c.Passes (Need.bare w.legalXfence false w.guard)) (hacting : c.acting w.guard = []) :
    Answers (exec (.xfence w) s) (fun t => After s t c c.g 0x185 w.words) := by
  show Answers (execXfence w s) _
  unfold execXfence
  rw [State.issue_ctx _ hc, State.gate_passes _ _ _ _ hpass, Need.bare_guard, if_pos (List.isEmpty_iff.2 hacting)]
  exact State.finish_spec 0x185 w.words hc (State.ctx?_group hc) rfl (OnlyGroup.refl s _)

theorem execXfence_acts {w : F3} (hpass : c.Passes (Need.bare w.legalXfence false w.guard)) (hacting : c.acting w.guard ≠ []) :
    exec (.xfence w) s = s.doFence c 0x185 w.words (xfenceMarker w) (w.sub != 0) false .dev := by
  show execXfence w s = _
  unfold execXfence
  rw [State.issue_ctx _ hc, State.gate_passes _ _ _ _ hpass, Need.bare_guard, if_neg (mt List.isEmpty_iff.1 hacting)]
  rfl

section
variable {w : F3} (hpass : c.Passes (Need.bare w.legalXfence false w.guard)) (hacting : c.acting w.guard ≠ [])
include hpass hacting

/-- With no load to wait for, or none that it waits for, an XFENCE completes at its first issue. -/
theorem execXfence_passes (hwait : ∀ l m, c.head.wait ≠ .fence l m) (hroom : c.hasRoom 1) (hnone : w.sub = 0 ∨ c.g.loadFills = []) :
    Answers (exec (.xfence w) s) (FencePasses s c 0x185 w.words (markerEntries (xfenceMarker w)) (w.sub != 0) .dev) := by
  have hempty : (if w.sub != 0 then c.g.loadFills else []) = [] := by
    obtain h | h := hnone
    · rw [h, bne_self_eq_false, if_neg Bool.false_ne_true]
    · rw [h, ite_self]
  rw [execXfence_acts hc hpass hacting]
  refine State.doFence_passes hc hwait hroom (fun h => Bool.noConfusion h) ?_
  rw [hempty]
  exact s.fenceReady_nil c.g

theorem execXfence_waits (hwait : ∀ l m, c.head.wait ≠ .fence l m) (hroom : c.hasRoom 1) (hsub : w.sub ≠ 0) (hloads : c.g.loadFills ≠ []) :
    Answers (exec (.xfence w) s) (FenceWaits s c c.g.loadFills none (xfenceMarker w)) := by
  have hall : (if w.sub != 0 then c.g.loadFills else []) = c.g.loadFills := if_pos (bne_iff_ne.2 hsub)
  have h := State.doFence_waits (s := s) (opc := 0x185) (words := w.words) (marker := xfenceMarker w) (acquires := w.sub != 0)
    (surv := false) (scope := .dev) hc hwait hroom (fun h => Bool.noConfusion h) (by rw [hall]; exact State.fenceReady_loads hloads)
  rw [hall] at h
  rw [execXfence_acts hc hpass hacting]
  exact h

theorem execXfence_ends {l : List Nat} {m : Option Nat} (hwait : c.head.wait = .fence l m) (hready : s.fenceReady c.g l m = true) :
    Answers (exec (.xfence w) s) (fun t => AfterCaches s t c c.g 0x185 w.words ∧ Renews s t c.g.core (w.sub != 0) .dev) := by
  rw [execXfence_acts hc hpass hacting]
  exact State.doFence_ends hc hwait hready

end

end

/-- Settles O16: a fence at its first issue completes or waits as it is ready or not, and one that has waited completes once it is. -/
theorem fencesComplete : Obligations.FencesComplete := by
  unfold Obligations.FencesComplete
  intro s c hc
  refine ⟨fun w hpass => ⟨fun hacting hloop => execFence_idle hc hpass hacting hloop, ?_⟩,
    fun w hpass => ⟨fun hacting => execXfence_idle hc hpass hacting, ?_⟩⟩
  · intro acquires surv scope fresh marker hacting hloop
    have hsurv : surv = true → (fenceMarker w).isSome = true := fun h => by rw [fenceMarker_surv h]; rfl
    rw [execFence_acts hc hpass hacting hloop]
    refine ⟨fun hwait hroom => ⟨fun hready => ?_, fun hloads hsurv0 => ?_, fun hsurv1 hsq hpackets hpq hloads => ?_, fun hready => ?_⟩,
      fun l m hwait hready => State.doFence_ends hc hwait hready⟩
    · obtain ⟨t, ht, hpasses⟩ := State.doFence_passes hc hwait hroom hsurv hready
      rw [markerEntries_fence] at hpasses
      exact ⟨t, ht, hpasses⟩
    · simp only [hloads, hsurv0]
      exact s.fenceReady_nil c.g
    · simp only [hloads, hsurv1]
      exact State.fenceReady_quiet hsq hpackets hpq _
    · obtain ⟨t, ht, hw, ho, g, hg, heq, hen, hmark, hin, hout⟩ := State.doFence_waits hc hwait hroom hsurv hready
      rw [markerEntries_fence] at hen
      exact ⟨t, ht, hw, ho, g, hg, heq, hen, fun h => hmark _ (fenceMarker_surv h), hin, hout⟩
  · intro fresh marker hacting
    refine ⟨fun hwait hroom => ⟨fun hnone => ?_, fun hsub hloads => ?_⟩, fun l m hwait hready => ?_⟩
    · obtain ⟨t, ht, hw, ho, hrenews, hgroup⟩ := execXfence_passes hc hpass hacting hwait hroom hnone
      rw [markerEntries_xfence] at hgroup
      exact ⟨t, ht, hw, ho, Renews.xfence hrenews, hgroup⟩
    · obtain ⟨t, ht, hw, ho, g, hg, heq, hen, -, hin, hout⟩ := execXfence_waits hc hpass hacting hwait hroom hsub hloads
      rw [markerEntries_xfence] at hen
      exact ⟨t, ht, hw, ho, g, hg, heq, hen, hin, hout⟩
    · obtain ⟨t, ht, hafter, hrenews⟩ := execXfence_ends hc hpass hacting hwait hready
      exact ⟨t, ht, hafter, Renews.xfence hrenews⟩

end Sys2Proof.Machine
end
